-- ==== Sys2Proof/Word.lean ====
section
/-! DEFINITION. The word types of the module: bytes, register words, and the bit patterns of the number formats. -/
namespace Sys2Proof

/-- One byte of memory, of a packet or of an image (R6). -/
abbrev Byte := BitVec 8

/-- A 16-bit pattern: BF16, FP16 or L16 (R154). -/
abbrev Half := BitVec 16

/-- A 32-bit register, descriptor word or FP32 pattern (R541, R154). -/
abbrev Word := BitVec 32

/-- A 64-bit value: module time, a step number, a host address or an FP64 pattern (R8, R15). -/
abbrev DWord := BitVec 64

/-- A byte string, lowest address first (R6). -/
abbrev Bytes := List Byte

end Sys2Proof
end

