-- ==== Sys2Proof/Syntax.lean ====
section
/-! DEFINITION. The commands of the module: one constructor of Instr per row of the spec's table of
operations and events, with the operands its rules name. What the world outside the module decides (a
measured temperature, the bytes of a host buffer, a packet that arrives, whether a read met an
uncorrectable error) is an operand; what the module decides is computed from its state. -/
namespace Sys2Proof

/-- A unit that measures a temperature (R430). -/
inductive Sensor where
  | cluster (c : Fin 64)
  | stack (k : Fin 12)
  | hub
  | optical (e : Fin 8)
  deriving DecidableEq, Repr

/-- A memory tier in an error record (R282): cell store, stack, capacity, flash or staging buffer. -/
inductive Tier where
  | cell
  | stack
  | capacity
  | flash
  | staging
  deriving DecidableEq, Repr

/-- Where a memory error lies (R282): the unit is a flat cell index, a stack, a device or a buffer. -/
structure ErrLoc where
  tier : Tier
  unit : Nat
  channel : Nat
  offset : Nat
  deriving DecidableEq, Repr

/-- What an uncorrectable read feeds (R283); or its channel does not respond at all (R282). -/
inductive UeFeeds where
  | cellRecord (cell : Fin 1024) (position : BitVec 15)
  | medlar (obj : Word)
  | drain
  | migration (obj : Word)
  | fabric (src : BitVec 17) (seq : Word)
  | noResponse
  | other
  deriving DecidableEq, Repr

/-- The wipes that TIER_STATUS reports (R279, R280). -/
inductive WipeTier where
  | stk
  | cap
  | cell
  deriving DecidableEq, Repr

/-- Why a move is asked for, which orders the moves that wait for buffers (R273). -/
inductive MoveCause where
  | health
  | binding
  | lateness
  deriving DecidableEq, Repr

/-- A unit that may resolve an object's home and tags what it sends (the sender set before R240). -/
inductive SenderUnit where
  | sequencer (cluster : Fin 64)
  | ftq (cell : Fin 1024)
  | inbound
  | mover
  deriving DecidableEq, Repr

/-- An arrival at an object's old home (R240): a write of bytes at an offset, or a read. -/
inductive Arrival where
  | write (unit : SenderUnit) (offset : Nat) (data : Bytes)
  | read (unit : SenderUnit) (offset len : Nat)
  deriving DecidableEq, Repr

/-- The contents of a TIME message (R376). -/
structure TimeMsg where
  tTx : DWord
  root : BitVec 17
  hops : Word
  seqT : Half
  deriving DecidableEq, Repr

/-- What a SHED_REPLY says (R248): whether the share is granted, from which step, and the share. The spec gives its place in the payload no
layout. -/
structure ShedAns where
  grant : Bool
  firstStep : DWord
  share : Word
  deriving DecidableEq, Repr

/-- What the message of a multicast working tile carries beside its data (R342).
(DEDUCED, log entry 71) -/
structure TileMsg where
  step : DWord
  tensor : Word
  tile : Word
  owner : BitVec 17
  deriving DecidableEq, Repr

/-- A Paline packet: the fields of R369 (and, for OP 0x80, those of R373), then the payload. -/
structure Pkt where
  op : Byte
  cls : Fin 4
  hops : BitVec 4
  retry : BitVec 2
  len : BitVec 13
  rw : Bool
  dst : BitVec 17
  ts : BitVec 15
  src : BitVec 17
  seq : Word
  addr : DWord
  key : Word
  job : Word
  rstatus : BitVec 4
  cached : Bool
  detail : Byte
  reqOp : Byte
  payload : Bytes
  /-- The message of R342, for which R369 to R372 give no place. -/
  tileMsg : Option TileMsg
  deriving DecidableEq, Repr

/-- The header of a contribution (R324). -/
structure ContribHdr where
  job : Word
  tensor : Word
  step : DWord
  tile : Word
  owner : BitVec 17
  srcPos : BitVec 17
  count : BitVec 18
  bf16 : Bool
  nonfinite : Bool
  stale : Bool
  rows : Bool
  last : Bool
  run : Bool
  half : Bool
  layer : BitVec 10
  deriving DecidableEq, Repr

/-- What a port learns in bring-up or retrain (R353, R358): which wavelengths completed, the measured
one-way delay in module time units, and what the partner sent: its identifier, port, highest level and firmware version, and credits. -/
structure PortXchg where
  lanes : BitVec 8
  delay : Half
  partnerMod : BitVec 17
  partnerPort : BitVec 5
  partnerLevel : BitVec 2
  partnerFw : Word
  credits : Nat × Nat × Nat × Nat
  deriving DecidableEq, Repr

/-- Why a partner is lost (R356). -/
inductive LossCause where
  | signal
  | alignment
  | idle
  deriving DecidableEq, Repr

/-- Who asks: a ring of the host, or the board controller over MCTP (R496), or the mailbox. -/
inductive Asker where
  | ring (r : Fin 64)
  | mctp
  | mailbox
  deriving DecidableEq, Repr

/-- A unit that a start trains or calibrates (R509, R510): the oscillator and clock taps of a cluster, a stack, a capacity device, an
optical engine. -/
inductive StartUnit where
  | cluster (c : Fin 64)
  | stack (k : Fin 12)
  | device (d : Fin 24)
  | optical (e : Fin 8)
  deriving DecidableEq, Repr

/-- The number of a unit: clusters 0 to 63, stacks 64 to 75, capacity devices 76 to 99, optical engines 100 to 107. -/
def StartUnit.index : StartUnit → Nat
  | .cluster c => c.val
  | .stack k => 64 + k.val
  | .device d => 76 + d.val
  | .optical e => 100 + e.val

/-- A request for a long operation (R485, R507): who asks, and its parameter block as read; none where a PCIe error took it. -/
structure LongAsk where
  asker : Asker
  block : Option Bytes
  deriving DecidableEq, Repr

/-- A descriptor as fetched (R471), and the JOB_ID of the set-up block that a JOB_SETUP names, where it could be read (R475). -/
structure Fetched where
  bytes : Bytes
  jobId : Option Word
  deriving DecidableEq, Repr

/-- What restore reads bring (R458): the image, and beside a partner image the embedding copies of its host. -/
structure Restored where
  image : Bytes
  copy : Bytes
  deriving DecidableEq, Repr

/-- A read by the host (R478, R541): its BAR, its size in bytes and its offset. -/
structure BarRead where
  bar2 : Bool
  size : BitVec 4
  offset : BitVec 24
  deriving DecidableEq, Repr

/-- What a start's checks find (R509 to R511), supplied by the hardware's own tests. -/
structure StartObs where
  /-- Slot A and slot B verify under R517 as read from flash. -/
  slotA : Bool
  slotB : Bool
  recoveryOk : Bool
  /-- The hub die, Quince's rail and the VCORE rails pass, and no rail stays faulted. -/
  railsOk : Bool
  /-- Clusters and cells that the self-test finds failed. -/
  failedClusters : List (Fin 64)
  failedCells : List (Fin 1024)
  failedStacks : List (Fin 12)
  failedDevices : List (Fin 24)
  /-- Units whose stored values carry no valid digest, and the die temperature of each unit now (R510), in the order of StartUnit.index. -/
  coldUnits : List StartUnit
  unitTemps : List Nat
  /-- Slowdowns measured on the monitor rings, in ppm (R409). -/
  slow : List Nat
  /-- The device runtime came up and set DEVICE_READY in time. -/
  readyInTime : Bool
  deriving DecidableEq, Repr

/-- What each cluster's time-stamp unit and frequency-tracking loop find at a beacon (R44, R45, R75): the periods of the interval
that no droop stretched, the time that the droop-stretched ones took in femtoseconds, and the difference copy − beacon in module
time units. -/
structure ClusterObs where
  cycles : Nat
  droopFs : Nat
  diff : Int
  deriving DecidableEq, Repr

/-- The commands. -/
inductive Instr where
  -- clocks and module time
  | droopStretch (c : Fin 64) (overLimit : Bool)
  | droopResponseEnd (c : Fin 64)
  | beacon (obs : List ClusterObs)
  | referenceLoss
  | holdoverExit
  | time (p : Fin 32) (m : TimeMsg) (tRx : DWord)
  | timeMsgSend
  | delayReqSend
  | delayReq (p : Fin 32) (tTx : DWord) (seqD : Half) (tRx tTxResp : DWord)
  | delayResp (p : Fin 32) (tRxReq tTxResp : DWord) (seqD : Half) (tRx : DWord)
  | upstreamLost
  | unlockTimeout
  | watchdogExpiry
  | intervalCounterFault
  -- handshake queues and joins
  | queueWrite (q : Fin 7680) (w : BitVec 512)
  | queueWordVisible (q : Fin 7680)
  | queueRead (q : Fin 7680)
  | queueEntryReturn (q : Fin 7680)
  | joinChannelTakeup (ch : Fin 1792)
  | joinCreditReturn (ch : Fin 1792)
  -- region programs and frames
  | regionRunStart (r : Fin 4096)
  | progEnd (c : Fin 1024)
  | progLoad (c : Fin 1024)
  | frameLoadDone (c : Fin 1024) (ue : Bool)
  | progSwitch (c : Fin 1024)
  | switchDone (c : Fin 1024)
  | progArgs (c : Fin 1024)
  | progStart (c : Fin 1024)
  | progSignal (c : Fin 1024)
  | progAwait (c : Fin 1024)
  | awaitTokenReady (c : Fin 1024)
  | progRebind (c : Fin 1024)
  | progLoop (c : Fin 1024)
  | progMark (c : Fin 1024)
  | regionRunComplete (r : Fin 4096)
  | frameFaultReload (c : Fin 1024)
  -- nests and finished-tile queues
  | matrixTileProduct (c : Fin 1024)
  | partialLoad (c : Fin 1024)
  | tileDrainDone (c : Fin 1024)
  | nestEnd (c : Fin 1024)
  | nestResume (c : Fin 1024)
  | cellStoreUe (c : Fin 1024)
  | ftqDeliver (c : Fin 1024) (k : Fin 4)
  | ringTileArrived (c : Fin 1024) (k : Fin 4)
  | ringSlotRelease (c : Fin 1024) (base : BitVec 15)
  | creditReturnArrival (c : Fin 1024) (k : Fin 4)
  | vectorTile (c : Fin 1024)
  | indexMaskTile (c : Fin 1024)
  | compressRows (c : Fin 1024)
  | expandRows (c : Fin 1024)
  | reduceInputTile (c : Fin 1024)
  | recordBlockOutput (c : Fin 1024)
  | tableTile (c : Fin 1024)
  | transformTile (c : Fin 1024)
  | outlierMacTile (c : Fin 1024)
  | ringSlotDrained (c : Fin 1024) (full : Bool)
  -- placement and moves
  | placementRebind
  | moveAllocate (obj : Word) (cause : MoveCause)
  | moveCopyDone (obj : Word) (unreadable : List Nat) (newHomeUe : Bool)
  | flipNotice (unit : SenderUnit) (obj : Word)
  | stubArrival (obj : Word) (gen : Half) (a : Arrival)
  | forwardAck (obj : Word)
  | drainedMsg (unit : SenderUnit) (obj : Word)
  | retireConfirm (obj : Word)
  | shedReply (p : Fin 32) (k : Pkt) (r : ShedAns)
  -- tile mover and memory tiers
  | prefetchEntryBegin
  | prefetchRecordWrite (entry : Word) (ue : Bool)
  | writeBackRead (entry : Word)
  | stagingGrant
  | stagingBufferReturn (b : Fin 128)
  | stagingBufferUe (b : Fin 128)
  | patrolScrub (l : ErrLoc) (corrected : Bool)
  | correctedError (l : ErrLoc)
  | memoryUe (l : ErrLoc) (feeds : UeFeeds)
  | tierWipeDone (t : WipeTier)
  | retentionWrite
  -- stages 4 and 5
  | stage4Begin
  | sumsqDone
  | updatePassStart
  | medlarUnit (k : Fin 12)
  | rowWindowBlock (obj : Word)
  | outboxHandoff (obj : Word)
  | outboxRelease (obj : Word)
  | stage5End
  -- collectives
  | contributionSend (h : ContribHdr) (payload : Bytes)
  | tileCloseTimer (owner : BitVec 17) (tensor tile : Word)
  | integritySend
  | integrity (p : Fin 32) (k : Pkt)
  -- ports and links
  | portUp (p : Fin 32) (x : PortXchg)
  | portBringupRetry (p : Fin 32)
  | portRetrain (p : Fin 32)
  | retrainTimeout (p : Fin 32)
  | idleBlock (p : Fin 32) (w : Fin 8)
  | linkReplay (p : Fin 32)
  | linkAck (p : Fin 32)
  | partnerLost (p : Fin 32) (cause : LossCause)
  | departBlocksReceived (p : Fin 32)
  | egressSend (p : Fin 32)
  | packetForward (p : Fin 32) (k : Pkt)
  | load (p : Fin 32) (k : Pkt)
  | store (p : Fin 32) (k : Pkt)
  | atomic (p : Fin 32) (k : Pkt)
  | reduce (p : Fin 32) (k : Pkt)
  | mcastStore (p : Fin 32) (k : Pkt)
  | resp (p : Fin 32) (k : Pkt)
  | lineUpdate (line : BitVec 41)
  | requestRetry (dst : BitVec 17) (seq : Word)
  | requestTimeout (dst : BitVec 17) (seq : Word)
  | teardown (p : Fin 32) (k : Pkt)
  -- envelope and power
  | envelope (p : Fin 32) (k : Pkt)
  | envelopeEffective
  | credit (p : Fin 32) (k : Pkt)
  | creditRoundStart (pTarget pCore : Nat)
  | creditRoundVoid
  | creditResultTimeout
  | vrbFrame (reply : Option (BitVec 22))
  | currantEval (means : List Nat)
  | dieCapStep (d : Fin 4)
  | railOvercurrent (d : Fin 4)
  | monitorRingMeasure (slow : List Nat)
  | freqStepStage (c : Fin 64)
  | clusterCapRelease (c : Fin 64)
  | envStepChange (code : BitVec 3)
  | fmodEval (drawOver : Bool)
  | thermalSoft (x : Sensor) (temp draw : Nat)
  | thermalCeilingStep
  | thermalHard (x : Sensor) (temp : Nat)
  | thermalTrip (x : Sensor) (temp : Nat)
  | enterParked (a : Asker)
  | enterStandby (a : Asker)
  | returnActive (a : Asker)
  | parkDone
  | unparkDone
  | standbyEntryDone
  | standbyExitDone
  -- securing and restore
  | partnerTransferDone
  | flashTransferDone
  | embeddingBaseDone (obj : Word)
  | restoreReadDone (sourceOk : Bool) (image : Restored)
  | handoverImageDone (member : BitVec 17)
  -- host interface
  | perstDeassert (gen : Option (BitVec 4)) (width : BitVec 5)
  | functionLevelReset
  | sqTail (r : Fin 64) (v : Word)
  | cqHead (r : Fin 64) (v : Word)
  | descriptorFetch (r : Fin 64) (desc : Option Fetched)
  | msixModTimer (r : Fin 64)
  | nop (r : Fin 64)
  | fabricTables (r : Fin 64) (route sets : Option Bytes)
  | warmRestart (a : Asker)
  | coldRestart (a : Asker)
  | lifecycleChange (a : LongAsk) (target : BitVec 2)
  | sanitise (a : LongAsk)
  | firmwareCommit (a : Asker) (package : Option Bytes)
  | flashFormat (a : LongAsk)
  | longOpDone
  | fmMsg (r : Fin 64) (payload : Option Bytes)
  | jobSetup (r : Fin 64) (block : Option Bytes)
  | stepDesc (r : Fin 64) (input : Option Bytes)
  | stepSize (r : Fin 64) (rec : Option Bytes)
  | hold (r : Fin 64)
  | exportData (r : Fin 64)
  | fabricOp (r : Fin 64) (data : Option Bytes)
  | release (r : Fin 64)
  | ringEnable (r : Fin 64)
  | ringDisable (r : Fin 64)
  -- Quince
  | stageRkt (table : Bytes)
  | activateRkt
  | approve (board : Bool) (msg : Bytes)
  | cancelApproval
  | approvalTimeout
  | status
  | faultLog (index : Fin 64)
  | enrol (hostHash boardHash : BitVec 384)
  | pldmRequest
  | spdmRequest
  | vauxApplied
  | vauxBrownout
  | modRstAssert
  | modRstRelease
  | startBegin (o : StartObs)
  | startTimeout
  | startRetry
  -- registers and pins
  | setupLock (v : Word)
  | portCfg (v : Word)
  | loRegisterRead (offset : BarRead)
  | registerWrite (bar2 : Bool) (offset : BitVec 24) (size : BitVec 4) (be : BitVec 8) (data : DWord)
  | hostLinkDown
  | hostLinkUp
  | thermalHardRelease (x : Sensor) (temp : Nat)
  | classCreditReturn (p : Fin 32) (cls : Fin 4) (n : Nat)
  | msg (p : Fin 32) (k : Pkt)
  | timePulse (pin : Fin 2)
  deriving DecidableEq, Repr

end Sys2Proof
end

