-- ==== Sys2Proof/Decode.lean ====
section
/-! DEFINITION. The table's words. The table of operations and events gives no row any bits (its rows carry a
mnemonic, a rule and a summary), so no word spells a command. -/
namespace Sys2Proof

/-- The command that a word spells by the table's bits: none, since no row has bits. -/
def decodeTableWord (_nbits _w : Nat) : Option Instr := none

end Sys2Proof
end

