-- ==== Sys2Proof/Machine/Bits.lean ====
section
/-! DEFINITION. Bit fields, byte strings and saturating counts: the small helpers every block shares. -/
/-- Puts an element before the first one that does not come before it. -/
def List.putInOrder {α : Type} (le : α → α → Bool) (a : α) : List α → List α
  | [] => [a]
  | b :: bs => if le a b then a :: b :: bs else b :: List.putInOrder le a bs

/-- Puts a list into an order; elements that are equal in it keep theirs. -/
def List.inOrder {α : Type} (l : List α) (le : α → α → Bool) : List α := l.foldr (List.putInOrder le) []

namespace Sys2Proof.Machine

/-- The field [hi:lo] of a natural number, both ends included (R5). -/
def field (x hi lo : Nat) : Nat := (x >>> lo) % 2 ^ (hi + 1 - lo)

/-- Bit b of a natural number. -/
def bit (x b : Nat) : Bool := x.testBit b

/-- 1 for true, 0 for false. -/
def b2n (b : Bool) : Nat := if b then 1 else 0

/-- The byte at position i of a byte string; positions beyond its end read 0. -/
def byteAt (bs : Bytes) (i : Nat) : Nat := (bs.getD i 0).toNat

/-- n bytes from position i, least-significant byte first (R6). -/
def leNat (bs : Bytes) (i : Nat) : Nat → Nat
  | 0 => 0
  | n + 1 => byteAt bs i + 256 * leNat bs (i + 1) n

/-- The n bytes of a value, least-significant byte first (R6). -/
def toLE (v : Nat) : Nat → Bytes
  | 0 => []
  | n + 1 => BitVec.ofNat 8 v :: toLE (v / 256) n

/-- n bytes of a byte string from position i. -/
def slice (bs : Bytes) (i n : Nat) : Bytes := (bs.drop i).take n

/-- Entry i of a table of entries of n bytes. -/
def entryAt (b : Bytes) (n i : Nat) : Bytes := slice b (i * n) n

/-- The entries of a table. -/
def entriesOf (b : Bytes) (n : Nat) : List Bytes := (List.range (b.length / n)).map (entryAt b n)

/-- Pads a byte string with zeros to n bytes. -/
def padTo (bs : Bytes) (n : Nat) : Bytes := bs ++ List.replicate (n - bs.length) 0

/-- Adds to a counter that saturates at the largest value of its width (R12, R51, R548). -/
def satAdd {w : Nat} (x : BitVec w) (n : Nat) : BitVec w :=
  BitVec.ofNat w (min (x.toNat + n) (2 ^ w - 1))

/-- The larger of two 64-bit module times. -/
def later (a b : DWord) : DWord := if a.toNat < b.toNat then b else a

/-- Quotient rounded up. -/
def ceilDiv (a b : Nat) : Nat := if b = 0 then 0 else (a + b - 1) / b

/-- Replaces one entry of a vector. -/
def setV {α : Type} {n : Nat} (v : Vector α n) (i : Fin n) (x : α) : Vector α n := v.set i.val x i.isLt

/-- Applies a change to one entry of a vector. -/
def updV {α : Type} {n : Nat} (v : Vector α n) (i : Fin n) (f : α → α) : Vector α n :=
  v.set i.val (f v[i.val]) i.isLt

/-- Entry i of a vector for an index that may lie outside it. -/
def getV {α : Type} {n : Nat} (v : Vector α n) (i : Nat) (d : α) : α :=
  if h : i < n then v[i] else d

/-- Applies a change to entry i of a vector; an index outside it changes nothing. -/
def modV {α : Type} {n : Nat} (v : Vector α n) (i : Nat) (f : α → α) : Vector α n :=
  if h : i < n then v.set i (f v[i]) h else v

/-- Replaces the value under a key in an association list, or adds it at the end. -/
def putKV {κ α : Type} [DecidableEq κ] (k : κ) (x : α) : List (κ × α) → List (κ × α)
  | [] => [(k, x)]
  | (k', y) :: rest => if k' = k then (k, x) :: rest else (k', y) :: putKV k x rest

/-- The value under a key in an association list. -/
def getKV {κ α : Type} [DecidableEq κ] (k : κ) : List (κ × α) → Option α
  | [] => none
  | (k', y) :: rest => if k' = k then some y else getKV k rest

/-- Removes a key from an association list. -/
def delKV {κ α : Type} [DecidableEq κ] (k : κ) (l : List (κ × α)) : List (κ × α) :=
  l.filter (fun p => decide (p.1 ≠ k))

/-- The first element that satisfies a test, with the list without it. -/
def takeFirst {α : Type} (p : α → Bool) : List α → Option (α × List α)
  | [] => none
  | x :: xs =>
    if p x then some (x, xs)
    else (takeFirst p xs).map (fun r => (r.1, x :: r.2))

/-- The least element of a list of naturals. -/
def minList : List Nat → Option Nat
  | [] => none
  | x :: xs => match minList xs with
    | none => some x
    | some y => some (min x y)

/-- The greatest element of a list of naturals, 0 when empty. -/
def maxList (l : List Nat) : Nat := l.foldl max 0

/-- Sum of a list of naturals. -/
def sumNat (l : List Nat) : Nat := l.foldl (· + ·) 0

/-- Units of module time from t to now; t may lie before a point at which module time began anew. -/
def ago (now t : DWord) : Nat := (now - t).toNat

/-- A time no longer ago than a span. -/
def recent (now t : DWord) (span : Nat) : Bool := decide (ago now t ≤ span)

/-- The times of a list that lie within a span before now. -/
def within (now : DWord) (span : Nat) (l : List DWord) : List DWord := l.filter fun t => recent now t span

/-- Two byte ranges [a, a + n) and [b, b + m) share a byte. -/
def rangesMeet (a n b m : Nat) : Bool := decide (a < b + m) && decide (b < a + n) && decide (0 < n) && decide (0 < m)

end Sys2Proof.Machine
end

