-- ==== Sys2Proof/Machine/Hash.lean ====
section
/-! DEFINITION. The check codes the spec names: CRC-32 of frames (R95), CRC-8 of the voltage request bus
(R400), SHA-256 of images (R216, R449) and SHA-384 of approvals and packages (R500, R516). -/
namespace Sys2Proof.Machine

/-- One bit of a reflected CRC-32 (IEEE 802.3 polynomial). -/
def crc32Bit (c : Nat) : Nat := if c % 2 = 1 then (c / 2) ^^^ 0xEDB88320 else c / 2

/-- One byte into the CRC-32 register. -/
def crc32Byte (c b : Nat) : Nat :=
  crc32Bit (crc32Bit (crc32Bit (crc32Bit (crc32Bit (crc32Bit (crc32Bit (crc32Bit (c ^^^ b))))))))

/-- CRC-32 of a byte string (R95). -/
def crc32 (bs : Bytes) : Nat :=
  (bs.foldl (fun c b => crc32Byte c b.toNat) 0xFFFFFFFF) ^^^ 0xFFFFFFFF

/-- CRC-8 with polynomial 0x07 over n bits of x, most significant first (R400).
(DEDUCED, log entry 92) -/
def crc8 (x : Nat) : Nat → Nat → Nat
  | 0, c => c
  | n + 1, c =>
    let t := b2n (c.testBit 7) ^^^ b2n (x.testBit n)
    let c' := (c * 2) % 256
    crc8 x n (if t = 1 then c' ^^^ 0x07 else c')

/-! ### The secure hashes -/

/-- The prime numbers below a bound. -/
def primesBelow (n : Nat) : List Nat := (List.range n).filter fun p => decide (2 ≤ p) && ((List.range p).drop 2).all fun d => decide (p % d ≠ 0)

/-- The largest r below r + 2 ^ n whose power e does not exceed x. -/
def rootGo (e x : Nat) : Nat → Nat → Nat
  | 0, r => r
  | n + 1, r => rootGo e x n (if (r + 2 ^ n) ^ e ≤ x then r + 2 ^ n else r)

/-- The first bits of the fractional part of the root of degree e of a prime: the constants of both hashes are such numbers. -/
def rootBits (bits e p : Nat) : Nat := rootGo e (p * 2 ^ (e * bits)) (bits + 8) 0 % 2 ^ bits

/-- A member of the hash family: the word width, the rotations and shifts of its four mixing functions, its rounds, and the primes whose roots
begin the hash value. -/
structure HashKind where
  w : Nat
  spread0 : Nat × Nat × Nat
  spread1 : Nat × Nat × Nat
  sched0 : Nat × Nat × Nat
  sched1 : Nat × Nat × Nat
  rounds : Nat
  seedPrimes : List Nat
  deriving DecidableEq, Repr

/-- A word turned right by three counts, the results added without carry. -/
def turned {w : Nat} (x : BitVec w) (n : Nat × Nat × Nat) : BitVec w := x.rotateRight n.1 ^^^ x.rotateRight n.2.1 ^^^ x.rotateRight n.2.2

/-- The same with the third result shifted out instead of turned. -/
def turnedOut {w : Nat} (x : BitVec w) (n : Nat × Nat × Nat) : BitVec w := x.rotateRight n.1 ^^^ x.rotateRight n.2.1 ^^^ (x >>> n.2.2)

/-- What the rounds of a block work on: the next sixteen words of the message, first word first, and the two chains of four words that each round
pushes one word into, newest first. -/
structure HashWork (w : Nat) where
  next : List (BitVec w)
  upper : List (BitVec w)
  lower : List (BitVec w)
  deriving DecidableEq, Repr

/-- One round with its constant. -/
def HashKind.round (h : HashKind) (s : HashWork h.w) (k : Nat) : HashWork h.w :=
  let at_ := fun (l : List (BitVec h.w)) (i : Nat) => l.getD i 0
  let u := at_ s.upper
  let l := at_ s.lower
  let m := at_ s.next
  let chosen := (l 0 &&& (l 1 ^^^ l 2)) ^^^ l 2
  let common := (u 0 &&& (u 1 ||| u 2)) ||| (u 1 &&& u 2)
  let into := l 3 + turned (l 0) h.spread1 + chosen + BitVec.ofNat h.w k + m 0
  { next := s.next.drop 1 ++ [m 0 + turnedOut (m 1) h.sched0 + m 9 + turnedOut (m 14) h.sched1]
    upper := (into + turned (u 0) h.spread0 + common) :: s.upper.take 3
    lower := (u 3 + into) :: s.lower.take 3 }

/-- Big-endian number of a byte string. -/
def beNat (bs : Bytes) : Nat := leNat bs.reverse 0 bs.length

/-- The 2 w bytes of a block into the hash value. -/
def HashKind.block (h : HashKind) (ks : List Nat) (v : List (BitVec h.w)) (b : Bytes) : List (BitVec h.w) :=
  let words := (entriesOf b (h.w / 8)).map fun e => BitVec.ofNat h.w (beNat e)
  let r := ks.foldl h.round { next := words, upper := v.take 4, lower := v.drop 4 }
  List.zipWith (· + ·) v (r.upper ++ r.lower)

/-- n bytes of a number, most significant first. -/
def toBE (v : Nat) (n : Nat) : Bytes := (toLE v n).reverse

/-- A message with a bit 1 after it, zeros, and its length in bits at the end of its last block. -/
def HashKind.padded (h : HashKind) (msg : Bytes) : Bytes :=
  let size := 2 * h.w
  let tail := (0x80 : Byte) :: List.replicate ((2 * size - 1 - h.w / 4 - msg.length % size) % size) 0
  msg ++ tail ++ toBE (8 * msg.length) (h.w / 4)

/-- The hash value of a byte string, in bytes. -/
def HashKind.hash (h : HashKind) (msg : Bytes) : Bytes :=
  let ks := ((primesBelow 410).take h.rounds).map (rootBits h.w 3)
  let v := h.seedPrimes.map fun p => BitVec.ofNat h.w (rootBits h.w 2 p)
  ((entriesOf (h.padded msg) (2 * h.w)).foldl (h.block ks) v).flatMap fun x => toBE x.toNat (h.w / 8)

/-- SHA-256 (R216, R449). -/
def sha256 : Bytes → Bytes :=
  HashKind.hash { w := 32, spread0 := (2, 13, 22), spread1 := (6, 11, 25), sched0 := (7, 18, 3), sched1 := (17, 19, 10), rounds := 64
                  seedPrimes := primesBelow 20 }

/-- SHA-384 (R500, R516): the first 48 bytes of the 64-bit member with its own seeds. -/
def sha384 (msg : Bytes) : Bytes :=
  (HashKind.hash { w := 64, spread0 := (28, 34, 39), spread1 := (14, 18, 41), sched0 := (1, 8, 7), sched1 := (19, 61, 6), rounds := 80
                   seedPrimes := (primesBelow 54).drop 8 } msg).take 48

end Sys2Proof.Machine
end

