-- ==== Sys2Proof/Config.lean ====
section
/-! DEFINITION. What one module's fuses and firmware fix, and the values that the spec leaves free. Every
constant here is opaque: nothing can be proved of its value, so a claim holds whatever it is. -/
namespace Sys2Proof.Config

/-- A fresh free value of w bits; the step supplies the number of the use (State.free). -/
opaque freeValue : (w : Nat) → Nat → BitVec w

/-- Fused maximum frequency of a cluster before it is bound to the range of R408. -/
opaque fuseRaw : Nat → Nat

/-- VMIN fused for a cluster (first argument) at a point of its table (second), in units of 5 mV (R408). -/
opaque vminRaw : Nat → Nat → Nat

/-- Voltage in mV that a cluster (first argument) needs at a frequency in MHz (second) between the highest point of its VMIN table that is used
and its F_FUSE (R408): no used point lies above to interpolate to. -/
opaque vminAbove : Nat → Nat → Nat

/-- Currant's estimate of a rail's current in 0.1 A: the raw estimate of the activity counters (first argument) calibrated against the
latest I_READ (second; R404). -/
opaque railCalibrated : Nat → Nat → Nat

/-- VARIANT_E fuse: the 16 TB flash is fitted (R1, R542).
(DESIGN CHOICE, log entry 11) -/
opaque variantE : Bool

/-- The 12 characters of the serial number, as three words (R542). -/
opaque serial : Nat → Word

/-- The date code of year and week, and the fused identity of a unit of the start (R510, R539). -/
opaque dateCode : BitVec 16
opaque unitIdent : Nat → BitVec 64

/-- Levels of the SB pins at a module time, as what drives a pin from outside, or the trace port, sets them (R525). -/
opaque sbLevel : Nat → BitVec 8

/-- FP32 result of EXP for an input that has no special case (R128). -/
opaque expVal : Word → Word

/-- FP32 result of LN for an input that has no special case (R128). -/
opaque lnVal : Word → Word

/-- FP32 result of RCP, and of RSQRT, for an input that has no special case (R128). -/
opaque rcpVal : Word → Word
opaque rsqrtVal : Word → Word

/-- What a lane takes in for an element of a stream of statistics records, from the record's eight words: R125 gives it no conversion. -/
opaque recordLane : List Word → Word

/-- The statistics record that a row of 64 values is written as, under a seed, a step, a tensor and an element index: R118 gives it no
conversion. -/
opaque recordRow : List Word → DWord → DWord → Word → Nat → BitVec 256

/-- The linear tail of a table, A + B × x, is formed by one fused operation (R142 does not say). -/
opaque tailFused : Bool

/-- Device and channel of a 64 B line of the partner image area (R252), whose layout over the channels the spec does not give. -/
opaque partnerChannel : Nat → Nat × Nat

/-- Bytes of the reduction scratch (R326) beyond those of one contribution; R251 names its place without a size. -/
opaque scratchBytes : Nat

/-- Verdict of the ECDSA P-384 check of a message under a key, both as byte strings (R500, R516). The curve's
arithmetic is outside the spec.
(DESIGN CHOICE, log entry 12) -/
opaque ecdsaVerify : List Byte → List Byte → List Byte → Bool

/-- Code of a memory tier in MEMORY_UE, and of a sensor in THERMAL_LIMIT, which R488 does not give; the argument numbers the
tier, and the sensor (clusters 0 to 63, stacks 64 to 75, hub 76, optical engines 77 to 84). -/
opaque tierCode : Nat → BitVec 4
opaque sensorCode : Nat → BitVec 64

/-- Draw in watts that the power controller's model predicts at a module frequency in MHz (second argument), in its
n-th evaluation (R419). The model is recalibrated all the time and the spec gives no formula. -/
opaque predictedDraw : Nat → Nat → Nat

/-- Grant, first step and share that a SHED_REPLY delivered by the host carries (R248): the spec gives its payload no layout.
(DESIGN CHOICE, log entry 53) -/
opaque shedReply : List (BitVec 8) → Bool × BitVec 64 × BitVec 32

/-- Highest IMG_MINOR that the recovery image accepts (R218): set by its firmware. -/
opaque recoveryMinor : Nat

/-- Hash of the vendor key, which is fused (R516), and the highest IMG_MINOR that a firmware package accepts (R218). -/
opaque vendorKey : List (BitVec 8)
opaque packageMinor : List (BitVec 8) → BitVec 8

/-- Version of the DRAM training code of a firmware package and of the recovery image (R510, R516): where a package keeps it the spec does not say. -/
opaque packageTrain : List (BitVec 8) → Word
opaque recoveryTrain : Word

end Sys2Proof.Config
end

