-- ==== Sys2Proof/Machine/Clocks.lean ====
section
/-! DEFINITION. State of the clock regions, of the handshake queues and joins, and of module time (chapter 2, and the
cluster figures of chapter 12). -/
namespace Sys2Proof.Machine

/-- Health of a cell, a cluster or a memory unit (R235, R282). -/
inductive Health where
  | good
  | degraded
  | failed
  deriving DecidableEq, Repr

/-- How a cluster's copy of module time is being corrected (R75). -/
inductive Corr where
  | none
  | slew
  | half
  deriving DecidableEq, Repr

/-- One cluster: its oscillator, counters, time-stamp unit and frequency state. -/
structure Cluster where
  /-- The clock runs; a cluster with no bound region has its clock stopped (R411). -/
  running : Bool
  /-- Set frequency in MHz (R419) and the frequency of the present stage of a step (R413). -/
  setMHz : Nat
  /-- Present period in femtoseconds, changed stage by stage (R47, R413). -/
  periodFs : Nat
  /-- Trim of the tracking loop, a period offset in femtoseconds, and what it has found and not yet corrected, in 10^-9
  cluster cycles (R44). -/
  trimFs : Int
  trackErr : Int
  /-- Stretched periods (R51). -/
  stretched : Word
  /-- Periods longer than twice the set period (R51). -/
  overLong : Word
  /-- Governor-stretched periods (R405). -/
  govStretched : Word
  /-- Cluster cycles since the clock was last started (R52). -/
  cycles : DWord
  /-- In the interval since the last beacon the clock started, or a stage of a frequency step changed its period: the tracking loop has no
  count of a whole interval at one set frequency (R44, R413). -/
  mixed : Bool
  /-- Correction of the time-stamp unit (R75) and the difference last found. -/
  corr : Corr
  copyDiff : Int
  /-- Beacons seen since the clock started. -/
  beacons : Nat
  /-- Slowdown s in ppm, the largest ever measured (R409; persistent record). -/
  slow : Nat
  /-- Own cap in MHz (R415), 0 when none, and the time it ends. -/
  ownCap : Nat
  capUntil : DWord
  /-- Times of the stretch-limit events of the last 1 ms (R415) and of the last hour (R235). -/
  limitTimes : List DWord
  limitHour : List DWord
  /-- The droop response is active (R412). -/
  droop : Bool
  /-- A frequency step is in progress: its target, and whether it holds (R413, R414). -/
  stepTo : Option Nat
  stepHeld : Bool
  /-- Health of the cluster (R235). -/
  health : Health
  deriving DecidableEq, Repr

/-- A cluster after reset: its clock has not started.
(DESIGN CHOICE, log entry 7) -/
def Cluster.reset : Cluster :=
  { running := false, setMHz := 500, periodFs := 2000000, trimFs := 0, trackErr := 0, mixed := false, stretched := 0, overLong := 0,
    govStretched := 0, cycles := 0, corr := .none, copyDiff := 0, beacons := 0, slow := 0, ownCap := 0,
    capUntil := 0, limitTimes := [], limitHour := [], droop := false, stepTo := none, stepHeld := false,
    health := .good }

/-- What a word between two clock regions is: a token of a SIGNAL (R220), a word of the finished tile that stands in a queue slot, on its way
to one consumer entry of its producer (R114, R117), or a word of any other traffic. -/
inductive WordKind where
  | other
  | token
  | tile (entry : Nat) (seq : Word) (slot : Nat)
  deriving DecidableEq, Repr

/-- One 64 B word between two clock regions (R63). -/
structure QWord where
  kind : WordKind
  data : BitVec 512
  deriving DecidableEq, Repr

/-- A handshake queue (R63 to R66): the words in it, oldest first, how many of them the consumer's
count shows, and how many read entries the producer does not yet count as free. -/
structure HsQueue where
  words : List QWord
  visible : Nat
  returning : Nat
  deriving DecidableEq, Repr

/-- An empty queue. -/
def HsQueue.reset : HsQueue := { words := [], visible := 0, returning := 0 }

/-- One channel of a die-to-die or stack join (R70): the words in flight, oldest first, the flight credits of the
transmitting end, and the receive entries freed whose credits are on their way back. -/
structure JoinCh where
  flight : List QWord
  credits : Nat
  freed : Nat
  deriving DecidableEq, Repr

/-- A channel after reset: 16 credits (R70). -/
def JoinCh.reset : JoinCh := { flight := [], credits := 16, freed := 0 }

/-- Module time: Damson, the shared interval counter, the watchdog and fabric time. -/
structure TimeBase where
  /-- Module time (R71). -/
  now : DWord
  /-- The single step to fabric time has been made (R72). -/
  stepped : Bool
  /-- Number of the last multiple of 16,384 for which a beacon was due (R74). -/
  lastBeacon : DWord
  holdover : Bool
  refLost : Bool
  /-- Damson is slewing back to its reference (R79). -/
  refSlew : Bool
  /-- Correction of Damson towards its upstream (R80 under the limits of R75). -/
  corr : Corr
  /-- The 14-bit interval counter (R85). -/
  ctr : BitVec 14
  /-- Beacons since the last watchdog tick, below 1,024. -/
  wdBeacons : Nat
  wdArmed : Bool
  wdTimeout : Half
  wdLeft : Half
  /-- Quince has taken over the watchdog's timeout (R85), and a counter fault is recorded. -/
  quinceTimer : Bool
  ctrFault : Bool
  /-- TIME_CTL. -/
  upPort : BitVec 5
  backupPort : BitVec 5
  timeEn : Bool
  backupEn : Bool
  timeRoot : Bool
  /-- TIME_STATUS. -/
  locked : Bool
  upLost : Bool
  onBackup : Bool
  lastOffset : Half
  /-- Consecutive messages within 256 units (R80). -/
  goodMsgs : Nat
  linkDelay : DWord
  /-- The delay request outstanding: its T_TX and SEQ_D (R376). -/
  delayReq : Option (DWord × Half)
  seqD : Half
  seqT : Half
  /-- Root module and hop count of the message last received (R81). -/
  rootId : BitVec 17
  hops : Word
  msgsSinceDelay : Nat
  beaconsSinceMsg : Nat
  lastMsgAt : DWord
  /-- When FABRIC_LOCKED was cleared while the module was a member of a job (R83), and when it was last cleared, or the start found it clear
  (R393). -/
  unlockedAt : Option DWord
  clearAt : DWord
  /-- PAIR_CFG and PAIR_STATUS, and the value of PAIR_EN carried into the next start (R61, R547). -/
  pairEn : Word
  pairFormed : Word
  deriving DecidableEq, Repr

/-- Module time as the module leaves reset (R72). -/
def TimeBase.reset : TimeBase :=
  { now := 0, stepped := false, lastBeacon := 0, holdover := false, refLost := false, refSlew := false, corr := .none,
    ctr := 0, wdBeacons := 0, wdArmed := false, wdTimeout := 0, wdLeft := 0, quinceTimer := false, ctrFault := false,
    upPort := 0, backupPort := 0, timeEn := false, backupEn := false, timeRoot := false, locked := false,
    upLost := false, onBackup := false, lastOffset := 0, goodMsgs := 0, linkDelay := 0, delayReq := none, seqD := 0,
    seqT := 0, rootId := 0, hops := 0, msgsSinceDelay := 0, beaconsSinceMsg := 0, lastMsgAt := 0, unlockedAt := none, clearAt := 0,
    pairEn := 0, pairFormed := 0 }

end Sys2Proof.Machine
end

