-- ==== Sys2Proof/Machine/Memory.lean ====
section
/-! DEFINITION. Byte memory (R88, R250): a list of (address, byte) pairs in one canonical form. An
unlisted address reads 0, as a granule that no write has touched since the start does (R279, R280). -/
namespace Sys2Proof.Machine

/-- A byte memory: addresses strictly rising, no listed byte equal to the unlisted value. -/
abbrev Memory := List Host.Cell

namespace Memory

/-- What an unlisted address reads as (R280).
(DESIGN CHOICE, log entry 9) -/
def unlisted : Byte := 0#8

/-- The canonical form, above a lower bound. -/
def wfFrom : Option Nat → Memory → Bool
  | _, [] => true
  | lo, (a, b) :: rest =>
    (match lo with | none => true | some l => decide (l < a)) && decide (b ≠ unlisted) && wfFrom (some a) rest

/-- The memory is in its canonical form. -/
def wf (m : Memory) : Bool := wfFrom none m

/-- Reads one byte. -/
def read (m : Memory) (a : Nat) : Byte :=
  match m with
  | [] => unlisted
  | (a', b) :: rest => if a = a' then b else if a < a' then unlisted else read rest a

/-- Writes one byte, keeping the canonical form: writing the unlisted value removes the entry. -/
def write (m : Memory) (a : Nat) (b : Byte) : Memory :=
  match m with
  | [] => if b = unlisted then [] else [(a, b)]
  | (a', b') :: rest =>
    if a = a' then (if b = unlisted then rest else (a, b) :: rest)
    else if a < a' then (if b = unlisted then (a', b') :: rest else (a, b) :: (a', b') :: rest)
    else (a', b') :: write rest a b

/-- Reads n bytes from address a. -/
def readN (m : Memory) (a : Nat) : Nat → Bytes
  | 0 => []
  | n + 1 => read m a :: readN m (a + 1) n

/-- Writes a byte string from address a upwards. -/
def writeN (m : Memory) (a : Nat) : Bytes → Memory
  | [] => m
  | b :: bs => writeN (write m a b) (a + 1) bs

/-- Writes n zero bytes: removes every entry of the range. -/
def zeroN (m : Memory) (a n : Nat) : Memory := m.filter (fun c => !(decide (a ≤ c.1) && decide (c.1 < a + n)))

/-- Reads an n-byte number, least-significant byte first (R6). -/
def readLE (m : Memory) (a n : Nat) : Nat := leNat (readN m a n) 0 n

/-- Writes an n-byte number, least-significant byte first (R6). -/
def writeLE (m : Memory) (a n v : Nat) : Memory := writeN m a (toLE v n)

end Memory

end Sys2Proof.Machine
end

