-- ==== Sys2Proof/Machine/CellState.lean ====
section
/-! DEFINITION. State of one cell (chapters 3, 4 and 6): its store, its frames, the nest it runs, its lattice, its
finished-tile queue and its rings. -/
namespace Sys2Proof.Machine

/-- The active or the shadow frame (R94 to R97). -/
structure FrameReg where
  /-- A LOAD has been made into it since the region was bound (R555). -/
  loaded : Bool
  valid : Bool
  bytes : Bytes
  deriving DecidableEq, Repr

/-- A frame register with no valid frame, as after every start (R97). -/
def FrameReg.reset : FrameReg := { loaded := false, valid := false, bytes := [] }

/-- A cell command that waits under R97. -/
inductive Held where
  | load (slot : BitVec 3)
  | switch
  | start (aBase bBase : BitVec 15)
  deriving DecidableEq, Repr

/-- The operands of a START (R94, R220). -/
structure StartArgs where
  aBase : Nat
  bBase : Nat
  m0 : Nat
  n0 : Nat
  /-- Placement generation of the region at the START (R112). -/
  gen : Half
  deriving DecidableEq, Repr

/-- Flags that an output tile carries in its header (R92, R110, R111). -/
structure TileFlags where
  nonfinite : Bool
  sat : Bool
  cellFault : Bool
  deriving DecidableEq, Repr

/-- No flag. -/
def TileFlags.none : TileFlags := { nonfinite := false, sat := false, cellFault := false }

/-- The OR of two sets of flags. -/
def TileFlags.or (a b : TileFlags) : TileFlags :=
  { nonfinite := a.nonfinite || b.nonfinite, sat := a.sat || b.sat, cellFault := a.cellFault || b.cellFault }

/-- Where an output goes: the finished-tile queue, the data area, or the partial area under an ordinal. -/
inductive OutDest where
  | queue
  | area (word : Nat)
  | partialArea (word ordinal : Nat)
  deriving DecidableEq, Repr

/-- One converted row of an output record: its elements, its block scales, and the flags its conversion raised. -/
structure RowOut where
  data : Bytes
  scales : Bytes
  flags : TileFlags
  deriving DecidableEq, Repr

/-- A tile whose drain or output time runs (R104, R129, R140, R195). -/
structure OutTile where
  dest : OutDest
  /-- The 64 B header of R112 with SEQ 0; the record. -/
  hdr : Bytes
  data : Bytes
  /-- The outlier block with SEQ 0 and the full copy that a transform tile writes with it (R199, R200). -/
  oblk : Option Bytes
  full : Option Bytes
  /-- Accumulator set to free when the drain ends (R105); none for the other personalities. -/
  set : Option Bool
  /-- It has found its queue or ring full (R115, R201). -/
  refused : Bool
  deriving DecidableEq, Repr

/-- A tile in the finished-tile queue: its slot, the consumer entries of its frame, and for each consumer whether it has
been sent and whether its last word has arrived (R112 to R115). -/
structure QTile where
  seq : Word
  word : Nat
  words : Nat
  cons : List Word
  sent : List Bool
  arrived : List Bool
  /-- Words written into the handshake queue, and words that have come out of it into the ring slot, for each consumer (R117). -/
  put : List Nat
  got : List Nat
  /-- It belongs to the queue of the frame that is active now (R97). -/
  cur : Bool
  deriving DecidableEq, Repr

/-- A slot of an inbound ring that holds a tile not yet released (R114, R120). -/
structure RingSlot where
  base : Nat
  slot : Nat
  /-- The consumer's personality has read its last word. -/
  read : Bool
  prod : Nat
  entry : Word
  deriving DecidableEq, Repr

/-- The state of one accumulator set (R101, R105). -/
inductive SetState where
  | idle
  | ready
  | draining
  deriving DecidableEq, Repr

/-- The running state of one row of a reduce nest (R136 to R139): its words, whether a NaN took part, and the count of +Inf
elements. -/
structure RowState where
  w : List Word
  nan : Bool
  k : Nat
  deriving DecidableEq, Repr

/-- A running loop nest. -/
structure Nest where
  args : StartArgs
  /-- Next product, input tile or row group, counted from 0 in loop order. -/
  pos : Nat
  /-- It waits on a presence mark (R108). -/
  waiting : Bool
  /-- Its next product has found the accumulator set busy (R105, R108). -/
  stalled : Bool
  /-- It was stopped by an address outside the data area (R122, R553). -/
  stopped : Bool
  /-- Output tiles, by ordinal, that an uncorrectable or poisoned read feeds (R92, R283). -/
  spoiled : List Nat
  /-- Region, step number in force and run (R102, R212). -/
  region : Nat
  step : DWord
  replay : Bool
  /-- Transform nests: remaining pool share, largest magnitude, records and clamps (R197, R206), and the input tiles of
  an open group of block 256 (R195). -/
  pool : Nat
  amax : Word
  recs : Nat
  clamps : Nat
  ins : List (List Word)
  /-- Reduce nests: the row states of the open row block (R138), and whether a record it read carries NONFINITE. -/
  rows : List RowState
  /-- COMPRESS: the rows of the open output tile; list modes: the list and entry reached, and the packed or emitted tiles
  so far (R131 to R133). -/
  packed : List RowOut
  listNo : Nat
  entryNo : Nat
  tileNo : Nat
  /-- List modes: the tile of a ring stream that is being read, by stream (R120, R552). -/
  ringTile : List (Nat × Nat)
  deriving DecidableEq, Repr

/-- A record position whose presence mark is set (R265): first word, length in words, poison (R283). -/
structure Mark where
  word : Nat
  words : Nat
  poison : Bool
  deriving DecidableEq, Repr

/-- One cell. -/
structure CellS where
  store : Memory
  marks : List Mark
  active : FrameReg
  shadow : FrameReg
  /-- A LOAD in progress, and the slot it reads (R94). -/
  loading : Option (BitVec 3)
  /-- A SWITCH in progress (R94). -/
  switching : Bool
  /-- A command waiting under R97, and the one held START (R107). -/
  held : Option Held
  heldStart : Option StartArgs
  /-- A frame fault waits for the device runtime (R97, R236), and has had its reload; the slot last loaded. -/
  frameFault : Bool
  reloaded : Bool
  lastSlot : BitVec 3
  /-- Writes of the tile mover into the frame slot that a LOAD reads, which wait until it ends (R97). -/
  slotWrites : List (BitVec 3 × Bytes)
  /-- Index, within the region's program, of the cell's next instruction; none when no run is on. -/
  pc : Option Nat
  ended : Bool
  awaiting : Option (BitVec 6)
  /-- Output origin of ARGS (R220) and the LOOP counters of the run: instruction and jumps made (R554). -/
  origin : BitVec 16 × BitVec 16
  loops : List (Nat × Nat)
  /-- Instructions issued in this run. -/
  issued : Nat
  nest : Option Nest
  /-- Lattice (R101): chunk accumulators, the two running sets, which set the present output tile uses,
  and their states. -/
  chunk : Vector Word 4096
  acc0 : Vector Word 4096
  acc1 : Vector Word 4096
  setNow : Bool
  set0 : SetState
  set1 : SetState
  /-- Ordinals of the partials written and not yet loaded again (R105). -/
  partials : List Nat
  /-- Outputs whose drain or output time runs, oldest first. -/
  outs : List OutTile
  /-- Finished-tile queue (R112 to R116). -/
  ftq : List QTile
  seq : Word
  backPressure : Bool
  /-- Ring credits by consumer entry, and credit words on their way back, each named by its entry, oldest first (R114). Those that return over a
  handshake queue stand in the 8 entries of its reverse direction (R63). -/
  credits : List (Word × Nat)
  creditFlight : List Word
  /-- Output tiles written with OUT_DEST 1 since the frame became active (R199). -/
  outCount : Word
  /-- Ring streams, by number: tiles read since the frame became active (R552); the slots of the inbound rings that hold an unreleased
  tile. -/
  ringPos : List (Nat × Nat)
  ringHeld : List RingSlot
  /-- Credits withheld under back-pressure (R116): producing cell and consumer entry. -/
  withheld : List (Nat × Word)
  /-- Outlier-block ring and full-copy ring (R201): next slot and slots not yet read by the tile mover. -/
  oblkNext : Nat
  oblkFull : List Nat
  fullNext : Nat
  fullFull : List Nat
  /-- Telemetry (R548 groups 6 to 8). -/
  ceCount : Word
  waitCycles : Word
  bpCycles : Word
  /-- MARK records: label and cluster cycle count (R220). -/
  labels : List (Word × DWord)
  /-- FUNC_ID of the last table frame that became active (R141). -/
  funcId : Word
  /-- Trim of the cell's clock tap (R54). -/
  tap : Half
  /-- Health (R235): corrected errors of the last hour and uncorrectable reads of the last 24 h. -/
  health : Health
  ceHour : List DWord
  ueTimes : List DWord
  deriving DecidableEq, Repr

/-- A cell after a start: store cleared (R279), frames invalid (R97), nothing running. -/
def CellS.reset : CellS :=
  { store := [], marks := [], active := .reset, shadow := .reset, loading := none, switching := false, held := none,
    heldStart := none, frameFault := false, reloaded := false, lastSlot := 0, slotWrites := [], pc := none, ended := false, awaiting := none,
    origin := (0, 0), loops := [], issued := 0, nest := none, chunk := Vector.replicate 4096 0,
    acc0 := Vector.replicate 4096 0, acc1 := Vector.replicate 4096 0, setNow := false, set0 := .idle, set1 := .idle,
    partials := [], outs := [], ftq := [], seq := 0, backPressure := false, credits := [],
    creditFlight := [], outCount := 0, ringPos := [], ringHeld := [], withheld := [], oblkNext := 0,
    oblkFull := [], fullNext := 0, fullFull := [], ceCount := 0, waitCycles := 0, bpCycles := 0, labels := [], funcId := 0, tap := 0,
    health := .good, ceHour := [], ueTimes := [] }

end Sys2Proof.Machine
end

