-- ==== Sys2Proof/Machine/Image.lean ====
section
/-! DEFINITION. The parts of an accepted Freob image as data (R216 to R224, R295, R296). -/
namespace Sys2Proof.Machine

/-- Region table entry (R219). -/
structure RegionE where
  region : Nat
  pair : Bool
  cellMask : Nat
  fCap : Nat
  weight : Nat
  progOffset : Nat
  progLen : Nat
  frameFirst : Nat
  frameCount : Nat
  nominal : Nat
  deriving DecidableEq, Repr

/-- Region program instruction (R220). -/
structure PInstr where
  op : Nat
  cell : Nat
  delay : Nat
  operand : Nat
  deriving DecidableEq, Repr

/-- Object table entry (R222). -/
structure ObjE where
  id : Nat
  tensor : Nat
  kind : Nat
  fmt : Nat
  tier : Nat
  pin : Bool
  rotBlock : Nat
  group : Nat
  layer : Nat
  rotSeed : Nat
  mTiles : Nat
  nTiles : Nat
  shardFirst : Nat
  parent : Nat
  firstRegion : Nat
  lastRegion : Nat
  deriving DecidableEq, Repr

/-- Record size in bytes of an object format (R161, R222). -/
def recSize (fmt : Nat) : Nat :=
  match fmt with
  | 0 => 16384
  | 1 => 8192
  | 2 => 8192
  | 3 => 4096
  | 4 => 4224
  | 5 => 16384
  | 6 => 512
  | 7 => 2048
  | 8 => 1088
  | 9 => 1088
  | 10 => 576
  | 11 => 4224
  | 12 => 8192
  | _ => 0

/-- Tiles of an object. -/
def ObjE.tiles (e : ObjE) : Nat := e.mTiles * e.nTiles

/-- Prefetch schedule entry (R223). -/
structure PfE where
  obj : Nat
  tileFirst : Nat
  tileCount : Nat
  tileStride : Nat
  region : Nat
  cell : Nat
  dest : Nat
  product : Nat
  order : Nat
  use : Nat
  deriving DecidableEq, Repr

/-- Crossing table entry (R224). -/
structure CrossE where
  prodRegion : Nat
  consRegion : Nat
  prodCell : Nat
  consCell : Nat
  queue : Nat
  rank : Nat
  aP : Nat
  aC : Nat
  deriving DecidableEq, Repr

/-- A coefficient group (R296). -/
structure Group where
  valid : Bool
  denom : Bool
  sign : Bool
  bc1 : Bool
  bc2 : Bool
  clipExempt : Bool
  a1 : Word
  b1 : Word
  a2 : Word
  b2 : Word
  c0 : Word
  c1 : Word
  c2 : Word
  eps : Word
  gScale : Word
  lCoupled : Word
  lDecoupled : Word
  lrScale : Word
  ratioLo : Word
  ratioHi : Word
  persist : Nat
  deriving DecidableEq, Repr

/-- An accepted image: its tables, and its frames as byte strings. -/
structure Image where
  minPaline : Nat
  digest : Bytes
  regions : List RegionE
  progs : List PInstr
  frames : List Bytes
  objects : List ObjE
  prefetch : List PfE
  crossings : List CrossE
  /-- Coefficient table (R295, R296): its bytes, CLIP_NORM and the groups. -/
  coeff : Option Bytes
  clipNorm : Word
  groups : List Group
  deriving DecidableEq, Repr

/-- No image. -/
def Image.empty : Image :=
  { minPaline := 0, digest := [], regions := [], progs := [], frames := [], objects := [], prefetch := [],
    crossings := [], coeff := none, clipNorm := 0, groups := [] }

end Sys2Proof.Machine
end

