-- ==== Sys2Proof/Machine/Placement.lean ====
section
/-! DEFINITION. State of the device runtime (chapter 7), of the tile mover and its staging buffers, and of the
memory tiers (chapter 8). -/
namespace Sys2Proof.Machine

/-- A run-time region: where it is bound and the run in progress (R219 to R221, R233, R234, R237). -/
structure RegionS where
  /-- Cluster (the even one of a pair) and grid symmetry, 0 to 7 in the order of R237. -/
  cluster : Option (Fin 64)
  sym : Nat
  gen : Half
  /-- Its frames have been written into the frame slots of the bound cells. -/
  placed : Bool
  running : Bool
  step : DWord
  replay : Bool
  /-- Runs completed for the present step and run. -/
  doneRuns : Nat
  /-- Cluster cycle count at which the run started, and cycles beyond NOMINAL_CYCLES of the last run. -/
  startCycle : DWord
  beyond : Word
  /-- A REBIND point at which it is to be moved. -/
  moveTo : Option (Fin 64 × Nat)
  deriving DecidableEq, Repr

/-- A region with no binding. -/
def RegionS.reset : RegionS :=
  { cluster := none, sym := 0, gen := 0, placed := false, running := false, step := 0, replay := false, doneRuns := 0,
    startCycle := 0, beyond := 0, moveTo := none }

/-- A stack set or tier that homes an object (R238, R256). -/
inductive HomeSet where
  | stack (k : Fin 12)
  | die (d : Fin 4)
  | allStacks
  | capacity
  | cellStore (region : Nat)
  deriving DecidableEq, Repr

/-- A home: the set, and the first row of the allocation (R257). -/
structure Home where
  set : HomeSet
  row0 : Nat
  rows : Nat
  deriving DecidableEq, Repr

/-- A move in progress (R240 to R242). -/
structure MoveS where
  cause : MoveCause
  oldHome : Home
  newHome : Home
  /-- Steps 4 and 5 of R240 have been reached: the directory has flipped. -/
  flipped : Bool
  /-- Arrivals logged and not yet forwarded, oldest first; forwards not yet acknowledged; the count. -/
  log : List Arrival
  unacked : List Arrival
  count : Nat
  /-- Sender set: units told, units drained (R241). -/
  told : List SenderUnit
  drained : List SenderUnit
  /-- The stub has its retirement confirmation. -/
  confirmed : Bool
  /-- Arrivals tagged g + 1 held until the log is forwarded (R242). -/
  heldNew : List Arrival
  /-- Tiles of the old home that the copy could not read (R245). -/
  lost : List Nat
  deriving DecidableEq, Repr

/-- An object of the directory. -/
structure ObjS where
  e : ObjE
  base : Nat
  size : Nat
  home : Home
  gen : Half
  move : Option MoveS
  /-- Tiles marked unreadable: a copy or a write-back could not read them (R245, R273, R283). -/
  bad : List Nat
  deriving DecidableEq, Repr

/-- A layer history entry (R208). -/
structure HistE where
  step : Word
  amax : Word
  recs : Word
  clamped : Half
  overflow : Bool
  replay : Bool
  hEff : Byte
  deriving DecidableEq, Repr

/-- What a layer has reported in the present run (R206, R208). -/
structure LayerRun where
  amax : Word
  recs : Nat
  clamps : Nat
  hEff : Nat
  poolSum : Nat
  maxBudget : Nat
  deriving DecidableEq, Repr

/-- The device runtime. -/
structure Runtime where
  image : Option Image
  regions : List RegionS
  /-- Number of the physical queue attached to each crossing (R113, R227). -/
  attached : List Nat
  /-- Tokens of each crossing that a region move has taken out of the queues it left (R237). -/
  tokens : List Nat
  objects : List ObjS
  /-- Moves asked for that have not begun, in the order of their requests (R245, R273). -/
  moveQueue : List (Word × MoveCause)
  /-- Layer reports of the run and the layer history rings, newest first (R206, R208). -/
  layerRuns : List (Nat × LayerRun)
  history : List (Nat × List HistE)
  /-- Per layer, of its latest run: the sum of POOL_SHARE and the largest TILE_BUDGET (R206, R450). -/
  sizing : List (Nat × Nat × Nat)
  /-- Overflow sets of this run and of the first run (R206, R212). -/
  ovfSet : List Nat
  ovfFirst : List Nat
  /-- The outlier-overflow flag and the non-finite flag the runtime sets for the step (R206, R338). -/
  ovf : Bool
  nonfinite : Bool
  /-- Transform nests started and reported in the run (R207). -/
  nestsStarted : Nat
  nestsReported : Nat
  placementFaults : Nat
  /-- Lateness (R246 to R249). -/
  lateStreak : Nat
  lateFurther : Nat
  rebindAsked : Bool
  idleStreak : Nat
  share : Nat
  shareOrig : Nat
  shareNext : Option (DWord × Nat)
  shedWait : Bool
  shedAgain : DWord
  /-- Events that Currant has given the device runtime: rail and time (R406). -/
  railEvents : List (Nat × DWord)
  /-- Error counts behind the departure causes (R453). -/
  degradedClusters : Nat
  deriving DecidableEq, Repr

/-- The runtime after a start. -/
def Runtime.reset : Runtime :=
  { image := none, regions := [], attached := [], tokens := [], objects := [], moveQueue := [], layerRuns := [], history := [], sizing := [], ovfSet := [], ovfFirst := [],
    ovf := false, nonfinite := false, nestsStarted := 0, nestsReported := 0, placementFaults := 0, lateStreak := 0,
    lateFurther := 0, rebindAsked := false, idleStreak := 0, share := 0, shareOrig := 0, shareNext := none,
    shedWait := false, shedAgain := 0, railEvents := [], degradedClusters := 0 }

/-- Staging classes (R272). -/
inductive StageClass where
  | p
  | d
  | m
  deriving DecidableEq, Repr

/-- A prefetch entry in progress (R268): its index in the schedule and the records done so far; while its next record is read from an object
that moves, the spans asked for and not answered yet, and the bytes answered (R242, R270). -/
structure PfRun where
  index : Nat
  done : Nat
  obj : Nat
  reading : Bool
  asked : List (Nat × Nat)
  data : Bytes
  deriving DecidableEq, Repr

/-- A transfer through the hub die, which holds a staging buffer while its record is in flight (R263): a record of a prefetch or of a write-back
entry, a block of the row window of an object, the inputs of a step, the frames of a region, a frame written again for a cell, the securing
unit of a step, the base of an embedding, a restore read, the copy of an object. -/
inductive Work where
  | prefetch (entry record : Nat)
  | writeBack (entry record : Nat)
  | rows (obj : Word)
  | retention (step : DWord)
  | frames (region : Nat)
  | reload (cell : Fin 1024)
  | drain (step : DWord)
  | base (obj : Word)
  | restore
  | move (obj : Word)
  deriving DecidableEq, Repr

/-- A staging buffer that is held: by which transfer, whether its record is being read a second time, whether that reading failed too, and
whether the record has landed (R272, R273). -/
structure StageBuf where
  work : Work
  again : Bool
  bad : Bool
  landed : Bool
  deriving DecidableEq, Repr

/-- A claim on a staging buffer; one for a second reading is for another buffer than the one that failed (R273). -/
structure Claim where
  work : Work
  failed : Option (Fin 128)
  deriving DecidableEq, Repr

/-- The tile mover (R263 to R274). -/
structure Mover where
  /-- Entries begun and active, oldest first, and the number of entries begun in this run (R268). -/
  active : List PfRun
  begun : Nat
  /-- Staging buffers (R272), and the claims that wait, oldest first. -/
  bufs : Vector (Option StageBuf) 128
  claims : List Claim
  /-- Written floors (STAGE_FLOORS), floors in force, and FLOOR_ERR (R274). -/
  pFloor : Byte
  dFloor : Byte
  mFloor : Byte
  floorP : Nat
  floorD : Nat
  floorM : Nat
  floorErr : Bool
  deriving DecidableEq, Repr

/-- The tile mover after a start, with the reset floors in force (R274). -/
def Mover.reset : Mover :=
  { active := [], begun := 0, bufs := Vector.replicate 128 none, claims := [], pFloor := 0x40, dFloor := 0x10, mFloor := 0x08, floorP := 64,
    floorD := 16, floorM := 8, floorErr := false }

/-- A step's inputs in a retention slot (R214, R215). -/
structure RetSlot where
  step : DWord
  input : Bytes
  /-- The inputs could not be read on their way here (R273). -/
  bad : Bool
  deriving DecidableEq, Repr

/-- Health of a stack or capacity device and the error times behind it (R282). -/
structure UnitHealth where
  health : Health
  ceHour : List DWord
  rowHits : List (Nat × DWord)
  ueRows : List (Nat × DWord)
  /-- Rows that spare rows stand for. -/
  spared : List Nat
  deriving DecidableEq, Repr

/-- A unit with no error. -/
def UnitHealth.reset : UnitHealth := { health := .good, ceHour := [], rowHits := [], ueRows := [], spared := [] }

/-- An error record (R282). -/
structure ErrRec where
  loc : ErrLoc
  uncorrectable : Bool
  at_ : DWord
  deriving DecidableEq, Repr

/-- The memory tiers (chapter 8). -/
structure Tiers where
  /-- Object space of the stack tier and of the capacity tier, by (stack or device, channel, local offset) laid out
  linearly, and the retention slots. -/
  stackMem : Memory
  capMem : Memory
  /-- Partner image area, by byte (R252). -/
  partnerMem : Memory
  retention : List RetSlot
  /-- STEP inputs waiting for a slot (R215). -/
  retWait : List RetSlot
  /-- TIER_STATUS (R280). -/
  keysSet : Bool
  wipeStk : Bool
  wipeCap : Bool
  wipeCell : Bool
  /-- Tier keys of this start and the media key (R276, R277). -/
  tierKeys : List (BitVec 512)
  mediaKey : BitVec 512
  /-- ECC_CFG, and the counts (R282). -/
  ceLimit : Half
  ceTotal : Word
  ueTotal : Word
  stkUnits : Vector UnitHealth 12
  devUnits : Vector UnitHealth 24
  errors : List ErrRec
  /-- Trained values in force of the stacks (0 to 11) and capacity devices (12 to 35) (R509). -/
  trained : Vector DWord 36
  deriving DecidableEq, Repr

/-- The tiers before their wipe. -/
def Tiers.reset : Tiers :=
  { stackMem := [], capMem := [], partnerMem := [], retention := [], retWait := [], keysSet := false, wipeStk := false,
    wipeCap := false, wipeCell := false, tierKeys := [], mediaKey := 0, ceLimit := 0x03E8, ceTotal := 0, ueTotal := 0,
    stkUnits := Vector.replicate 12 .reset, devUnits := Vector.replicate 24 .reset, errors := [],
    trained := Vector.replicate 36 0 }

end Sys2Proof.Machine
end

