-- ==== Sys2Proof/Machine/JobState.lean ====
section
/-! DEFINITION. State of the job, of Medlar (chapter 9), of the collectives (chapter 10) and of securing and restore
(chapter 13). -/
namespace Sys2Proof.Machine

/-- Where the module stands with its job (R475, R396, R461, R452). -/
inductive JobPhase where
  | none
  | formed
  | held
  | tornDown
  deriving DecidableEq, Repr

/-- Job parameters (R321, R439, R476), fixed at formation. -/
structure JobParams where
  jobId : Word
  seed : DWord
  startTime : DWord
  firstStep : DWord
  restoreStep : DWord
  restoreValid : Bool
  shift : Bool
  replayEn : Bool
  defer : Bool
  recompute : Bool
  level : BitVec 2
  fanIn : Nat
  staleLog2 : Nat
  lateLimit : Nat
  hopMargin : Nat
  secFmt : Nat
  flashSlots : Nat
  deferLimit : DWord
  retSize : DWord
  partner : Nat
  pInt : Nat
  rebaseInt : Nat
  fInt : Nat
  sInt : Nat
  members : List (BitVec 17)
  /-- Shard map: tensor, first tile row, tile rows, owner. -/
  shardMap : List (Word × Nat × Nat × Nat)
  deadlines : List Nat
  deriving DecidableEq, Repr

/-- Parameters before any formation: the defaults of R321 and R439.
(DESIGN CHOICE, log entry 8) -/
def JobParams.reset : JobParams :=
  { jobId := 0, seed := 0, startTime := 0, firstStep := 0, restoreStep := 0, restoreValid := false, shift := false,
    replayEn := true, defer := false, recompute := false, level := 0, fanIn := 8, staleLog2 := 1, lateLimit := 8,
    hopMargin := 20, secFmt := 1, flashSlots := 2, deferLimit := 0x40000000, retSize := 0, partner := 0, pInt := 1,
    rebaseInt := 64, fInt := 1, sInt := 0, members := [], shardMap := [], deadlines := [] }

/-- The stage a step stands in (R24). -/
inductive Stage where
  | idle
  | running
  | stage4
  | stage5
  deriving DecidableEq, Repr

/-- The decision of a step (R28, R210). -/
inductive Decision where
  | update
  | skip
  | replay
  deriving DecidableEq, Repr

/-- The step record (R349). -/
structure StepRecord where
  step : DWord
  jobId : Word
  status : Byte
  decision : BitVec 2
  replayRun : Bool
  nonfiniteOwn : Bool
  ovfOwn : Bool
  lateOwn : Bool
  critical : Bool
  sumsq : DWord
  clip : Word
  waitFraction : Word
  nonfiniteMembers : Word
  ovfMembers : Word
  lateMembers : Word
  criticalMembers : Word
  deferredJob : Word
  droppedJob : Word
  deferredHere : Word
  droppedHere : Word
  tStart : DWord
  tLastContrib : DWord
  tSent : DWord
  tDecision : DWord
  tUpdateEnd : DWord
  jobMeanTime : DWord
  u : DWord
  marginMin : Int
  contribMin : Nat
  waitBuffer : Nat
  waitStepSize : Nat
  waitOutbox : Nat
  rowsDropped : Word
  lateStreak : Half
  ratios : List (Nat × Nat × Word)
  deriving DecidableEq, Repr

/-- A record with every field 0. -/
def StepRecord.zero : StepRecord :=
  { step := 0, jobId := 0, status := 0, decision := 0, replayRun := false, nonfiniteOwn := false, ovfOwn := false,
    lateOwn := false, critical := false, sumsq := 0, clip := 0, waitFraction := 0, nonfiniteMembers := 0,
    ovfMembers := 0, lateMembers := 0, criticalMembers := 0, deferredJob := 0, droppedJob := 0, deferredHere := 0,
    droppedHere := 0, tStart := 0, tLastContrib := 0, tSent := 0, tDecision := 0, tUpdateEnd := 0, jobMeanTime := 0,
    u := 0, marginMin := 0, contribMin := 0, waitBuffer := 0, waitStepSize := 0, waitOutbox := 0, rowsDropped := 0,
    lateStreak := 0, ratios := [] }

/-- The job and the step in progress. -/
structure Job where
  phase : JobPhase
  p : JobParams
  /-- Ids of jobs torn down on this module (R367). -/
  torn : List Word
  stage : Stage
  step : DWord
  replay : Bool
  /-- Step start S (R331) and the hold of stage 1 under HOLD (R461). -/
  tStart : DWord
  holdStep : Option DWord
  /-- The step record being gathered and the records returned. -/
  record : StepRecord
  records : List StepRecord
  /-- Waiting at collectives (R345): since when, and the closed intervals. -/
  waitSince : Option DWord
  waits : List (DWord × DWord)
  /-- Samples of the wait fraction, each with its module time. -/
  samples : List (DWord × Nat)
  lastSample : Word
  /-- The wait fraction and the critical flag of the latest completed step (R345, R346). -/
  lastFraction : Word
  lastCritical : Bool
  deriving DecidableEq, Repr

/-- No job.
(DEDUCED, log entry 75) -/
def Job.reset : Job :=
  { phase := .none, p := .reset, torn := [], stage := .idle, step := 0, replay := false, tStart := 0, holdStep := none,
    record := .zero, records := [], waitSince := none, waits := [], samples := [], lastSample := 0, lastFraction := 0,
    lastCritical := false }

/-- Progress of stage 5 on one object (R287, R299). -/
structure PassObj where
  obj : Word
  /-- Units done: rotation groups of a KIND 0 object, column by column (R287); blocks of listed rows of a KIND 5 object. -/
  done : Nat
  deriving DecidableEq, Repr

/-- Per-step scalars of a group (R291). -/
structure Scalars where
  kG : Word
  bc1 : Word
  bc2 : Word
  keep : Word
  step : Word
  deriving DecidableEq, Repr

/-- A step-size record (R304). -/
structure StepSizeRec where
  step : DWord
  eta : List Word
  deriving DecidableEq, Repr

/-- Ratio sums and persistence of one (LAYER, GROUP) pair (R316, R317). -/
structure RatioS where
  layer : Nat
  group : Nat
  /-- FP64 sums by object, then the latest ratio. -/
  sums : List (Nat × DWord × DWord)
  ratio : Word
  above : Nat
  below : Nat
  deriving DecidableEq, Repr

/-- The twelve update engines, as the module's one Medlar state (chapter 9). -/
structure Medlar where
  /-- Update count U (R318). -/
  u : DWord
  /-- Step-size records held for steps whose decision is not reached, at most four (R305). -/
  sizes : List StepSizeRec
  /-- Sum of squares of the run, when complete, and the clip factor (R307, R308). -/
  sumsq : Option DWord
  sumStarted : Bool
  clip : Word
  scalars : List Scalars
  /-- The record of the step whose update was decided, until stage 5 ends (R306). -/
  inUse : Option StepSizeRec
  /-- The pass has begun; the objects still to do, in ascending LAYER and OBJ_ID (R287). -/
  passOn : Bool
  pass : List PassObj
  /-- Objects whose outbox has been handed off and not released (R302). -/
  outboxes : List Word
  /-- Since when the Medlar of each stack has waited for the release of an outbox (R302). -/
  outboxSince : Vector (Option DWord) 12
  /-- Step of the update that produced the state in the read buffer (R319). -/
  stateStep : DWord
  /-- Step of the state in the other buffer, while no update has begun to write it (R318, R457). -/
  prevStep : Option DWord
  /-- Row lists of the packed-row gradients, each in the runtime area of its gradient's stack: object of the gradient, and the bytes of the
  list (R290). -/
  rowLists : List (Word × Bytes)
  ratios : List RatioS
  /-- Objects that have raised UPDATE_KEPT in this step (R294). -/
  keptRaised : List Word
  /-- Telemetry (R548 groups 10 to 12). -/
  l16Sat : Vector Word 12
  scaleCount : Vector Word 12
  kept : Vector Word 12
  /-- Row logs of the present update and of the previous one (R315, R319). -/
  logNow : List (Word × Nat × Bytes)
  logPrev : List (Word × Nat × Bytes)
  /-- An update has begun to write and has not ended: the rows of KIND 5 objects are of neither step (R289, R318). -/
  midUpdate : Bool
  deriving DecidableEq, Repr

/-- Medlar before any job. -/
def Medlar.reset : Medlar :=
  { u := 0, sizes := [], sumsq := none, sumStarted := false, clip := 0x3F800000, scalars := [], inUse := none, passOn := false,
    pass := [], outboxes := [], outboxSince := Vector.replicate 12 none, stateStep := 0, prevStep := none, rowLists := [], ratios := [], keptRaised := [],
    l16Sat := Vector.replicate 12 0, scaleCount := Vector.replicate 12 0, kept := Vector.replicate 12 0, logNow := [],
    logPrev := [], midUpdate := false }

/-- What has arrived in a slot: the packets of a contribution, or of a stream of packed-row blocks, each header with what
follows it (R324, R328). -/
structure SlotC where
  slot : Nat
  pkts : List (ContribHdr × Bytes)
  deriving DecidableEq, Repr

/-- A tile of a tree at this node (R326 to R330). -/
structure TreeTile where
  owner : BitVec 17
  tensor : Word
  tile : Word
  layer : BitVec 10
  rows : Bool
  closed : Bool
  /-- Slots not yet combined; those of a closed tile are late or wait for their other half (R333). -/
  slots : List SlotC
  deriving DecidableEq, Repr

/-- A deferred contribution (R334, R335): the slot it came from, and the step it was late in. -/
structure Deferred where
  owner : BitVec 17
  tensor : Word
  tile : Word
  slot : SlotC
  step : DWord
  deriving DecidableEq, Repr

/-- The integrity record of R337. -/
structure IntRec where
  jobId : Word
  run : Bool
  nonfinite : Bool
  ovf : Bool
  late : Bool
  critical : Bool
  decision : BitVec 2
  result : Bool
  step : DWord
  sumsq : DWord
  members : Word
  nonfiniteMembers : Word
  ovfMembers : Word
  lateMembers : Word
  criticalMembers : Word
  deferred : Word
  dropped : Word
  ownTime : DWord
  stamp : DWord
  deriving DecidableEq, Repr

/-- A gradient tile that a vector cell has finished for the present run, until it is handed to Bramble (R323, R339): its tensor and tile, and the
NONFINITE flag of its header (R325). -/
structure Produced where
  tensor : Word
  tile : Word
  nonfinite : Bool
  deriving DecidableEq, Repr

/-- The collectives of the job (chapter 10). -/
structure Collectives where
  tiles : List TreeTile
  /-- Finished gradient tiles that are still to be handed to Bramble (R339). -/
  toSend : List Produced
  /-- Contributions of step k + 1 held in the scratch, each with the module time of its arrival (R348, R349). -/
  early : List (ContribHdr × Bytes × DWord)
  deferred : List Deferred
  droppedN : Word
  deferredN : Word
  rowsDropped : Word
  /-- Flags behind R338, and whether a contribution of this run was late (R336). -/
  sentNonfinite : Bool
  slotNonfinite : Bool
  lateOwn : Bool
  marginMin : Option Int
  contribMin : Option Nat
  lastContrib : DWord
  /-- Integrity all-reduce (R340): the member's own contribution, the children's records, the result. -/
  ownRec : Option IntRec
  children : List (Nat × IntRec)
  early4 : List (Nat × IntRec)
  sentUp : Bool
  result : Option IntRec
  sentAt : DWord
  collFault : Bool
  /-- Working tiles are counted (from the first decision of update, or a restore), and the bytes of each tile of the KIND 1
  objects, by object and tile, written since (R343). -/
  w2Armed : Bool
  w2Got : List ((Word × Nat) × Nat)
  /-- Step of the latest update, against which a multicast tile's STEP stands (R344). -/
  lastUpdate : Option DWord
  refusedTiles : Word
  deriving DecidableEq, Repr

/-- Collectives before any job. -/
def Collectives.reset : Collectives :=
  { tiles := [], toSend := [], early := [], deferred := [], droppedN := 0, deferredN := 0, rowsDropped := 0, sentNonfinite := false,
    slotNonfinite := false, lateOwn := false, marginMin := none, contribMin := none, lastContrib := 0, ownRec := none,
    children := [], early4 := [], sentUp := false, result := none, sentAt := 0, collFault := false, w2Armed := false, w2Got := [],
    lastUpdate := none, refusedTiles := 0 }

/-- A unit handed to securing (R319, R441, R442). -/
structure SecUnit where
  step : DWord
  us : DWord
  /-- Dense transfers that R441 requires, and what has completed. -/
  needPartner : Bool
  needFlash : Bool
  needExport : Bool
  /-- Row logs of the previous update: object, row and entry (R315, R319). -/
  logs : List (Word × Nat × Bytes)
  /-- The partner transfer has been issued; the packet that writes the header with COMPLETE, until it goes (R443); a read or a
  request of the transfer in progress failed, so that its image stays incomplete (R283, R464). -/
  begun : Bool
  header : Option Pkt
  failed : Bool
  partnerDone : Bool
  deriving DecidableEq, Repr

/-- A dense image in flash (R444). -/
structure FlashImg where
  step : DWord
  image : Bytes
  complete : Bool
  /-- An export reads it, or it waits for its export. -/
  held : Bool
  deriving DecidableEq, Repr

/-- A base of a KIND 5 object in flash (R447): its bytes once it is complete. -/
structure EmbBase where
  obj : Word
  step : DWord
  bytes : Bytes
  complete : Bool
  deriving DecidableEq, Repr

/-- Securing, restore and hosting (chapter 13). -/
structure Resilience where
  units : List SecUnit
  /-- The read buffer of the previous update is free for the next one (R37). -/
  bufferFree : Bool
  /-- Since when the decided update has waited for that buffer (R37). -/
  bufferSince : Option DWord
  /-- Partner slot written next (R444). -/
  slotNext : Bool
  /-- The area directory and the embedding copy are still to be transferred (R444, R448), and the step from which on the copy transferred, with the
  logs staged since, is the state of a step (R446). -/
  firstImage : Bool
  copyStep : DWord
  partnerStep : DWord
  partnerValid : Bool
  flash : List FlashImg
  flashStep : DWord
  exportStep : DWord
  /-- Embedding bases (R447), oldest first; logs appended since: step, object, row, entry. -/
  bases : List EmbBase
  flashLogs : List (DWord × Word × Nat × Bytes)
  flashPoints : Nat
  /-- SEC_STATUS flags. -/
  exporting : Bool
  restoring : Bool
  flashSkipped : Bool
  imageFault : Bool
  /-- The hosted image (R443, R446). -/
  hostedMod : BitVec 17
  hostedValid : Bool
  hostedStep : DWord
  /-- DEPART_ADVICE, RES_AREA and FLASH_IMG, and the sizes in force since the lock (R547). -/
  departAdvice : BitVec 6
  partnerGib : BitVec 12
  flashGb : Half
  areaGib : Nat
  imgGb : Nat
  /-- Members that have to read the handover image, and those that have (R462). -/
  handoverTo : List (BitVec 17)
  /-- The handover image that they read (R449, R462). -/
  handover : Bytes
  handoverRead : List (BitVec 17)
  handoverWait : Bool
  /-- What each gaining member has read, by its identifier. -/
  handedOver : List (BitVec 17 × Bytes)
  /-- Where the next row log goes in the partner's log staging ring, and where the runtime of a hosting member reads the next one in its own
  (R446). -/
  logPos : Nat
  stagedPos : Nat
  /-- Row logs since the latest partner image (R450). -/
  logsSince : List (Word × Nat × Bytes)
  /-- A restore in progress (R455 to R459): the source of R457 that it has come to, its step, the tile rows (tensor and row within
  the tensor) still to restore, the scales that images gave for tiles (tensor, tile row, tile column), and whether the partner
  changed. -/
  restoreSource : Nat
  restoreStep : DWord
  restoreNeed : List (Word × Nat)
  restoreScales : List ((Word × Nat × Nat) × Bytes)
  newHost : Bool
  /-- The first step of a restored job waits for the transfer of the image to a new host (R459). -/
  startStep : Option DWord
  /-- The job whose images flash holds, by JOB_ID and JOB_SEED (R454, R457). -/
  jobKey : Option (Word × DWord)
  /-- The job left by the failure path, whose hosted image is still read (R452). -/
  serves : Option Word
  deriving DecidableEq, Repr

/-- Resilience after reset. -/
def Resilience.reset : Resilience :=
  { units := [], bufferFree := true, bufferSince := none, slotNext := false, firstImage := true, copyStep := 0, partnerStep := 0, partnerValid := false,
    flash := [], flashStep := 0, exportStep := 0, bases := [], flashLogs := [], flashPoints := 0, exporting := false,
    restoring := false, flashSkipped := false, imageFault := false, hostedMod := 0, hostedValid := false,
    hostedStep := 0, departAdvice := 0, partnerGib := 0, flashGb := 0x07D0, areaGib := 0,
    imgGb := 2000, handoverTo := [], handover := [], handoverRead := [], handoverWait := false, handedOver := [], logPos := 0, stagedPos := 0, logsSince := [],
    restoreSource := 0, restoreStep := 0,
    restoreNeed := [], restoreScales := [], newHost := false, startStep := none, jobKey := none, serves := none }

end Sys2Proof.Machine
end

