-- ==== Sys2Proof/Machine/FabricState.lean ====
section
/-! DEFINITION. State of the Paline fabric (chapter 11) and of power (chapter 12). -/
namespace Sys2Proof.Machine

/-- The state of a port, in the codes of PORT_STATUS. -/
inductive PortSt where
  | dark
  | training
  | up
  | retraining
  | downLost
  | downPlanned
  | disabled
  deriving DecidableEq, Repr

/-- The code of a port state in PORT_STATUS. -/
def PortSt.code : PortSt → Nat
  | .dark => 0
  | .training => 1
  | .up => 2
  | .retraining => 3
  | .downLost => 4
  | .downPlanned => 5
  | .disabled => 6

/-- What a port sends outside packets: DEPART blocks (R360), time messages stay packets. -/
structure Port where
  st : PortSt
  level : BitVec 2
  lost : Bool
  partnerMod : BitVec 17
  partnerPort : BitVec 5
  reason : BitVec 4
  delay : Half
  /-- The values last offered in a capability exchange (R358, R547). -/
  sentId : BitVec 17
  sentLevel : BitVec 2
  /-- Firmware versions that the partner sent, and that the module sent (R358). -/
  partnerFw : Word
  sentFw : Word
  /-- The port's own receive buffers, by class: what Bramble has not taken (R378, R391). The credit of these bytes is withheld from the partner. -/
  rx : Vector (List Pkt) 4
  /-- Credits held at the partner, by class, in bytes (R378, R379). -/
  credits : Vector Nat 4
  /-- Packets waiting to leave, by class, each with the bucket it took (set × 64 + bucket; 16,384 for none), and
  the round-robin deficit of C1 to C3 (R379). -/
  queues : Vector (List (Pkt × Nat)) 4
  deficit : Vector Nat 4
  /-- Level of the C0 bucket in 1/16,000 B, and when it had it (R380). -/
  c0Level : Nat
  c0At : DWord
  /-- Packets sent and not acknowledged, oldest first, with the bucket each took (R355, R384). -/
  replay : List (Pkt × Nat)
  retrains : List DWord
  trainSince : DWord
  /-- DEPART blocks sent on this port (R360). -/
  departSent : Bool
  /-- Last idle block on each wavelength (R355). -/
  idleAt : Vector DWord 8
  /-- Telemetry (R548 groups 13 and 14). -/
  discards : Word
  aged : Word
  deriving DecidableEq, Repr

/-- A port after reset: dark, with nothing negotiated. -/
def Port.reset : Port :=
  { st := .dark, level := 0, lost := false, partnerMod := 0, partnerPort := 0, reason := 0, delay := 0, sentId := 0,
    sentLevel := 0, partnerFw := 0, sentFw := 0, rx := Vector.replicate 4 [], credits := Vector.replicate 4 0, queues := Vector.replicate 4 [], deficit := Vector.replicate 4 0,
    c0Level := 0, c0At := 0, replay := [], retrains := [], trainSince := 0, departSent := false, idleAt := Vector.replicate 8 0, discards := 0, aged := 0 }

/-- A region key table entry (R366). -/
structure KeyE where
  base : Nat
  length : Nat
  key : Word
  job : Word
  load : Bool
  store : Bool
  atomic : Bool
  mcast : Bool
  collective : Bool
  deriving DecidableEq, Repr

/-- An outstanding request of this module (R387 to R394). -/
structure OutReq where
  /-- Its copy to one target: an MCAST_STORE stands here as the STORE of each target. -/
  pkt : Pkt
  /-- OP as the module issued it. -/
  op : Byte
  issued : DWord
  retries : Nat
  /-- The ring and number of the FABRIC_OP descriptor that waits for it. -/
  ring : Option (Fin 64 × DWord)
  deriving DecidableEq, Repr

/-- A reply in the cache (R389). -/
structure CachedReply where
  src : BitVec 17
  seq : Word
  value : DWord
  rstatus : BitVec 4
  detail : Byte
  reqOp : Byte
  job : Word
  at_ : DWord
  /-- When it goes, for a reply of a job that was torn down (R396). -/
  dropAt : Option DWord
  deriving DecidableEq, Repr

/-- A line update waiting at an ordering point (R390, R391). -/
structure LineUpd where
  /-- 64 B line of the local offset. -/
  line : Nat
  pkt : Pkt
  port : Fin 32
  /-- The bytes of the access that lie in the line: their local offset, their number, and what a store writes there. -/
  start : Nat
  len : Nat
  data : Bytes
  deriving DecidableEq, Repr

/-- The Paline fabric of the module. -/
structure Fabric where
  ports : Vector Port 32
  portEn : Word
  maxLevel : BitVec 2
  modId : BitVec 17
  relayMod : BitVec 17
  relayEn : Bool
  w1 : Byte
  w2 : Byte
  w3 : Byte
  c0Limit : Byte
  /-- Region key tables (R366, R368). -/
  rktActive : Option (List KeyE)
  rktStaged : Option (List KeyE)
  rktStagedBytes : Bytes
  rktAwait : Bool
  /-- Route table and path sets, and the bucket assignment in force (R382 to R384). -/
  route : List Byte
  sets : List Word
  buckets : List (List (Option (Fin 32)))
  /-- Tags of buckets whose restoration waits for their last packet in a replay buffer (R384). -/
  backWait : List Nat
  /-- Source side: next SEQ by target, outstanding requests, requests waiting (R387, R388), blocked (job, target). -/
  seqNext : List (BitVec 17 × Word)
  outstanding : List OutReq
  waiting : List OutReq
  dead : List (Word × BitVec 17)
  /-- Target side: reply cache, pending requests (R389), and the ordering points (R390). -/
  cache : List CachedReply
  pendingReq : List (BitVec 17 × Word)
  lines : List LineUpd
  /-- What loads in progress have read so far: source, SEQ, local offset, bytes. -/
  gather : List (BitVec 17 × Word × Nat × Bytes)
  /-- Packets of this module to itself, which need no route (R382). -/
  loop : List Pkt
  /-- Messages discarded outside a port (host-delivered) and MSG packets accepted of types the runtime acts on. -/
  msgDiscards : Word
  /-- Messages for the fabric manager while no relay is in force: job and payload. -/
  fmOut : List (Word × Bytes)
  /-- Calibrations in force of the optical engines (R352, R509). -/
  optics : Vector DWord 8
  deriving DecidableEq, Repr

/-- The fabric after reset. -/
def Fabric.reset : Fabric :=
  { ports := Vector.replicate 32 .reset, portEn := 0xFFFFFFFF, maxLevel := 3, modId := 0, relayMod := 0,
    relayEn := false, w1 := 8, w2 := 4, w3 := 2, c0Limit := 0x0A, rktActive := none, rktStaged := none,
    rktStagedBytes := [], rktAwait := false, route := [], sets := [], buckets := [], backWait := [], seqNext := [], outstanding := [],
    waiting := [], dead := [], cache := [], pendingReq := [], lines := [], gather := [], loop := [], msgDiscards := 0, fmOut := [],
    optics := Vector.replicate 8 0 }

/-- Power states (R433). -/
inductive PowerSt where
  | active
  | parked
  | standby
  deriving DecidableEq, Repr

/-- The code of a power state in PWR_STATE. -/
def PowerSt.code : PowerSt → Nat
  | .active => 0
  | .parked => 1
  | .standby => 2

/-- A rail of the voltage request bus (R398 to R403). -/
structure Rail where
  /-- Target acknowledged and target wanted, in units of 0.5 mV; the enable bit of each. -/
  target : Nat
  enabled : Bool
  wantTarget : Nat
  wantEnable : Bool
  /-- A change is pending (R401). -/
  pending : Bool
  /-- Consecutive failed and acknowledged frames (R402), and the repeated STATUS 2 (R403). -/
  fails : Nat
  acks : Nat
  status2 : Bool
  fault : Bool
  iRead : Nat
  /-- Limit, in 0.1 A (RAIL_LIMIT). -/
  iLim : Half
  /-- Window of its mean in µs (R398, RAIL_LIMIT). -/
  window : Byte
  /-- Estimates of its current within the window, newest first, in 0.1 A (R404). -/
  estimates : List Nat
  /-- Its mean stands above 0.95 × I_LIM (R406). -/
  high : Bool
  deriving DecidableEq, Repr

/-- A rail after reset with its current limit and window: off, with no frame sent. -/
def Rail.reset (lim : Half) (window : Byte) : Rail :=
  { target := 0, enabled := false, wantTarget := 0, wantEnable := false, pending := false, fails := 0, acks := 0,
    status2 := false, fault := false, iRead := 0, iLim := lim, window := window,
    estimates := [], high := false }

/-- A compute die's governor and cap (R405, R407). -/
structure DieP where
  level : Nat
  /-- Since when the level has been above 0, since when the mean has been below 0.80 × I_LIM, and since when
  it has been above I_LIM at minimum settings. -/
  aboveSince : Option DWord
  coolSince : Option DWord
  overSince : Option DWord
  levelAt : DWord
  /-- Time up to which the two sums count, and the sums since the last beacon, over the time spent at each level L, of L and of 8 shares of
  a period in 8 + L (R405). -/
  govAt : DWord
  govNum : Nat
  govDen : Nat
  /-- Frequency cap in MHz. -/
  cap : Nat
  /-- The rail was requested off under R407. -/
  railOff : Bool
  deriving DecidableEq, Repr

/-- A die without a cap. -/
def DieP.reset : DieP :=
  { level := 0, aboveSince := none, coolSince := none, overSince := none, levelAt := 0, govAt := 0, govNum := 0, govDen := 0, cap := 1800, railOff := false }

/-- A change of ceiling by message (R418). -/
structure EnvMsg where
  ceiling : Nat
  rampDown : Nat
  effective : DWord
  deriving DecidableEq, Repr

/-- Power: rails, Currant, envelope, balancing, thermal protection, power states (chapter 12). -/
structure Power where
  rails : Vector Rail 8
  nextRail : Nat
  /-- The module's part, bits [63:24], of the frame sent last (R400). -/
  lastFrame : BitVec 40
  /-- Rails still to be switched off, in the order of R530, and when the next of their frames may go. -/
  offSeq : List (Fin 8)
  offAt : DWord
  /-- Rails still to be switched on, in the order of R529, and when the ENABLE frame of the next of them may go. -/
  onSeq : List (Fin 8)
  onAt : DWord
  busUp : Bool
  busFault : Bool
  faultRail : BitVec 3
  nakCount : Half
  dies : Vector DieP 4
  hubThrottle : Bool
  stkThrottle : Bool
  /-- The hub die stands at its T_HARD, so that the VHUB throttle of R406 acts; so does the issue to a stack's channels, and its refresh is
  doubled (R430). -/
  hubHot : Bool
  stkHot : Vector Bool 12
  hubSince : Option DWord
  stkSince : Option DWord
  /-- ENV_PRESET, ENV_CTL, ENV_RAMP. -/
  preset : Vector Half 8
  pinEn : Bool
  msgEn : Bool
  hostCap : Half
  rampUp : Half
  shiftCap : Half
  /-- SHIFT_CAP_W in force: the value at the start of the latest credit round (R547). -/
  capNow : Half
  /-- The code recorded (R417, R438). -/
  pinCode : BitVec 3
  /-- SEQ, ceiling and pending change of the messages accepted (R418). -/
  msgSeq : Option Word
  msgCeil : Option Nat
  msgPend : Option EnvMsg
  /-- Ceiling released so far, and when it was last raised (R420). -/
  ceilNow : Nat
  ceilAt : DWord
  rampDown : Nat
  fMod : BitVec 11
  /-- Credit rounds (R424 to R429). -/
  roundOn : Bool
  round : Word
  roundAt : DWord
  offer : Nat
  ask : Nat
  /-- Up messages of children: position in the tree, round, offers, asks, borrowers. -/
  childCredits : List (Nat × Word × Nat × Nat × Nat)
  upSent : Bool
  borrower : Bool
  lend : Half
  grant : Half
  /-- Thermal (R430 to R432). -/
  softC : Byte
  temps : List (Sensor × Nat)
  thermCeil : Option Nat
  thermBase : Nat
  /-- When the thermal ceiling last changed, the sensor that exceeded its T_SOFT last, and whether the ceiling binds (R431). -/
  thermAt : DWord
  thermBy : Sensor
  thermBinds : Bool
  hard : List Sensor
  /-- Power state (R433 to R436): the present one, a transition in progress, a park request waiting. -/
  st : PowerSt
  goal : Option PowerSt
  parkWait : Bool
  /-- Who asked for the transition, and the number of the descriptor on that ring, so that its completion can be reported. -/
  asker : Option (Asker × DWord)
  deriving DecidableEq, Repr

/-- Power after reset. -/
def Power.reset : Power :=
  { rails := #v[.reset 0x0C80 5, .reset 0x0C80 5, .reset 0x0C80 5, .reset 0x0C80 5, .reset 0x0640 10, .reset 0x0FA0 10,
      .reset 0x0578 10, .reset 0x008C 100],
    nextRail := 0, lastFrame := 0, offSeq := [], offAt := 0, onSeq := [], onAt := 0, busUp := false, busFault := false, faultRail := 0, nakCount := 0,
    dies := Vector.replicate 4 .reset, hubThrottle := false, stkThrottle := false, hubHot := false, stkHot := Vector.replicate 12 false, hubSince := none, stkSince := none,
    preset := #v[0x00FA, 0x012C, 0x01C2, 0x0258, 0x0320, 0x03E8, 0x04E2, 0x05DC], pinEn := true, msgEn := true,
    hostCap := 0x05DC, rampUp := 0x0032, shiftCap := 0x05DC, capNow := 0x05DC, pinCode := 0, msgSeq := none, msgCeil := none,
    msgPend := none, ceilNow := 0, ceilAt := 0, rampDown := 0, fMod := 0x1F4, roundOn := false, round := 0,
    roundAt := 0, offer := 0, ask := 0, childCredits := [], upSent := false, borrower := false, lend := 0, grant := 0,
    softC := 0x5F, temps := [], thermCeil := none, thermBase := 0, thermAt := 0, thermBy := .hub, thermBinds := false, hard := [], st := .active, goal := none,
    parkWait := false, asker := none }

end Sys2Proof.Machine
end

