-- ==== Sys2Proof/Machine/HostState.lean ====
section
/-! DEFINITION. State of the host interface (chapter 14), of Quince (chapter 15), of the sideband pins (chapter 16) and of
the identification and telemetry registers (chapter 17). -/
namespace Sys2Proof.Machine

/-- Ring states, in the codes of RING_STATUS. -/
inductive RingSt where
  | disabled
  | running
  | stopped
  | draining
  | fault
  deriving DecidableEq, Repr

/-- The code of a ring state. -/
def RingSt.code : RingSt → Nat
  | .disabled => 0
  | .running => 1
  | .stopped => 2
  | .draining => 3
  | .fault => 4

/-- A fetched descriptor (R473). -/
structure Desc where
  /-- Number of the descriptor in the order of fetching; its index is this modulo the size of the submission ring. -/
  index : DWord
  bytes : Bytes
  begun : Bool
  /-- It has ended: status, detail and result of the completion that waits for its turn (R480). -/
  fin : Option (Byte × Word × DWord)
  deriving DecidableEq, Repr

/-- A completion entry (R482). -/
structure Completion where
  tag : Half
  sqHead : Half
  status : Byte
  opcode : Byte
  phase : Bool
  detail : Word
  sqIndex : Half
  result : DWord
  deriving DecidableEq, Repr

/-- A ring (R470 to R472, R478 to R483). -/
structure Ring where
  sqBase : DWord
  cqBase : DWord
  sqLog2 : BitVec 4
  cqLog2 : BitVec 4
  kind : BitVec 2
  vec : BitVec 7
  modCount : Byte
  modUsec : BitVec 10
  enable : Bool
  st : RingSt
  faultCause : Byte
  sqHead : Half
  sqTail : Half
  /-- Descriptors fetched since the ring was set up. -/
  fetched : DWord
  cqTail : Half
  /-- Head of the completion ring that the module has acted on, and the latest value of the doorbell (R479). -/
  cqHead : Half
  headWritten : Half
  phase : Bool
  /-- Completion entries reserved for fetched descriptors (R471). -/
  reserved : Nat
  /-- Entries written and not yet consumed by the host. -/
  used : Nat
  descs : List Desc
  jobId : Option Word
  /-- A JOB_SETUP of this ring has not completed (R475). -/
  setupOn : Bool
  /-- A LONG_OP of ring 0 waits for its approval (R502). -/
  longOn : Bool
  /-- The doorbells have been written since the ring last ran (R479). -/
  tailNew : Bool
  headNew : Bool
  /-- Entries written since the last message, and when the oldest of them was written (R483). -/
  unsignalled : Nat
  oldestAt : DWord
  /-- A completion write failed while the link was down (R491). -/
  lostWrite : Bool
  written : List Completion
  deriving DecidableEq, Repr

/-- A ring after reset. -/
def Ring.reset : Ring :=
  { sqBase := 0, cqBase := 0, sqLog2 := 4, cqLog2 := 4, kind := 0, vec := 0, modCount := 1, modUsec := 0,
    enable := false, st := .disabled, faultCause := 0, sqHead := 0, sqTail := 0, fetched := 0, cqTail := 0, cqHead := 0, headWritten := 0,
    phase := true, reserved := 0, used := 0, descs := [], jobId := none, setupOn := false, longOn := false, tailNew := false, headNew := false, unsignalled := 0, oldestAt := 0,
    lostWrite := false, written := [] }

/-- An event entry (R487). -/
structure Event where
  code : Half
  phase : Bool
  lost : Bool
  jobId : Word
  at_ : DWord
  arg0 : DWord
  arg1 : DWord
  deriving DecidableEq, Repr

/-- An MSI-X table entry (R465). -/
structure MsixE where
  addr : DWord
  data : Word
  masked : Bool
  pend : Bool
  deriving DecidableEq, Repr

/-- The host interface. -/
structure HostIf where
  cfgReady : Bool
  deviceReady : Bool
  startPath : BitVec 2
  linkUp : Bool
  gen : BitVec 4
  width : BitVec 5
  mgmtBusy : Bool
  longOp : BitVec 4
  longResult : Byte
  evLost : Word
  /-- The next event written carries LOST (R487). -/
  lostMark : Bool
  rings : Vector Ring 64
  events : List Event
  msix : Vector MsixE 65
  msixEn : Bool
  /-- Vectors sent, oldest first. -/
  sent : List Nat
  /-- Host memory writes of data: address and bytes (R481). -/
  dataOut : List (DWord × Bytes)
  /-- Completion writes that failed (R491). -/
  failedWrites : Nat
  /-- Device readiness messages sent (R466, R467). -/
  drs : Nat
  frs : Nat
  deriving DecidableEq, Repr

/-- The host interface after reset: every MSI-X vector masked, as the PCIe reset leaves the table. -/
def HostIf.reset : HostIf :=
  { cfgReady := false, deviceReady := false, startPath := 0, linkUp := false, gen := 0, width := 0, mgmtBusy := false,
    longOp := 0, longResult := 0, evLost := 0, lostMark := false, rings := Vector.replicate 64 .reset, events := [],
    msix := Vector.replicate 65 { addr := 0, data := 0, masked := true, pend := false }, msixEn := true, sent := [],
    dataOut := [], failedWrites := 0, drs := 0, frs := 0 }

/-- Lifecycle states (R503). -/
inductive Life where
  | factory
  | owned
  | service
  | retired
  deriving DecidableEq, Repr

/-- The code of a lifecycle state in LIFECYCLE. -/
def Life.code : Life → Nat
  | .factory => 0
  | .owned => 1
  | .service => 2
  | .retired => 3

/-- The lifecycle state of a code. -/
def Life.ofCode (n : Nat) : Life :=
  match n % 4 with
  | 0 => .factory
  | 1 => .owned
  | 2 => .service
  | _ => .retired

/-- An operation that asks for approval or runs long (R489, R499). -/
inductive BigOp where
  | rkt
  | lifecycle (target : Life)
  | sanitise
  | firmware (package : Bytes)
  | format
  deriving DecidableEq, Repr

/-- The operation stops the job rings and ends in a start (R489). -/
def BigOp.restarts : BigOp → Bool
  | .lifecycle _ => true
  | .sanitise => true
  | _ => false

/-- An open approval record (R500, R501). -/
structure Approval where
  op : BigOp
  asker : Asker
  nonce : BitVec 128
  digest : Bytes
  hostDone : Bool
  boardDone : Bool
  openedAt : DWord
  deriving DecidableEq, Repr

/-- A firmware slot (R515, R516): the package that it holds, none for one that was never committed to this module; what its header says; the entries
of its component table, 56 B each; and the version of its training code (R510). -/
structure Slot where
  present : Bool
  pkg : Option Bytes
  fwVersion : Word
  svn : Half
  raiseSvn : Bool
  components : List Bytes
  minorMax : Byte
  trainVer : Word
  deriving DecidableEq, Repr

/-- A fault log entry (R496): its kind and when, and for a long operation its result. -/
structure FaultE where
  kind : Nat
  at_ : DWord
  result : Byte
  deriving DecidableEq, Repr

/-- The identity of the module (R539): the variant that the ordering code names, stepping, serial number, flash capacity in TB, and date code. -/
structure Identity where
  variantE : Bool
  stepping : Byte
  serial : List Word
  flashTb : Nat
  dateCode : Half
  deriving DecidableEq, Repr

/-- What a unit's stored values go with (R510): the version of the training code, the die temperature in degrees Celsius, and the unit's identity. -/
structure StoredU where
  version : Word
  temp : Nat
  ident : DWord
  deriving DecidableEq, Repr

/-- What Quince sends to the board controller (R496). -/
inductive MctpOut where
  | status (power life startPath failCount : Nat) (activeSlot mgmtBusy : Bool)
  | done (code detail : Nat)
  | fault (entry : FaultE)
  | pldm (temps : List (Sensor × Nat)) (currents : List Nat) (draw : Half)
  | spdm (id : Identity) (slot : Bool) (fwVersion : Word)
  deriving DecidableEq, Repr

/-- A start in progress (R508, R509). -/
structure StartS where
  /-- The warm path is taken where R510 allows it; it was asked for, rather than chosen by DEFAULT_COLD (R508). -/
  warm : Bool
  asked : Bool
  recovery : Bool
  trial : Bool
  since : DWord
  deriving DecidableEq, Repr

/-- Quince (chapter 15). -/
structure Quince where
  /-- Mailbox registers. -/
  reqAddr : DWord
  rspAddr : DWord
  reqLen : Half
  rspLen : Half
  mbxBusy : Bool
  mbxDone : Bool
  mbxStatus : Byte
  mbxDetail : Half
  /-- Completions of mailbox requests, oldest first: status and detail. -/
  mbxOut : List (Byte × Half)
  /-- Lifecycle, keys, slots, counts kept in Quince's store (R495). -/
  life : Life
  keysEnrolled : Bool
  hostHash : BitVec 384
  boardHash : BitVec 384
  failCount : BitVec 2
  activeSlot : Bool
  pending : Bool
  commitRejected : Bool
  defaultCold : Bool
  svnFloor : Half
  wdTimes : List DWord
  slotA : Slot
  slotB : Slot
  retiredFuse : Bool
  platformKey : Bool
  approval : Option Approval
  /-- A LONG_OP running (R490), who asked. -/
  long : Option (BigOp × Asker)
  /-- A lifecycle change recorded and not finished (R505), an erase not finished (R519). -/
  changing : Option Life
  erasing : Bool
  start : Option StartS
  /-- A failed start's retry is due, a second after the failure at this time (R512); it waits for the board after a failed recovery start (R513). -/
  retryDue : Option DWord
  startWaits : Bool
  running : Bool
  recoveryRuns : Bool
  /-- The slot from which the device runs, B when set (R515). -/
  runSlot : Bool
  faults : List FaultE
  /-- The persistent record's trims of the cells' clock taps, trained values of the stacks (0 to 11) and capacity devices (12 to 35), and
  optical calibrations (R54, R495, R509); they carry a valid digest (R510). -/
  tapStored : Vector Half 1024
  trainStored : Vector DWord 36
  opticStored : Vector DWord 8
  storedValid : Bool
  /-- What each unit's stored values go with: clusters 0 to 63, stacks 64 to 75, capacity devices 76 to 99, optical engines 100 to 107. -/
  storedFor : Vector StoredU 108
  /-- SPDM requests that wait for step 2 of a start (R519). -/
  spdmWait : Nat
  /-- In-band interrupts raised (R497), answers sent. -/
  ibi : Nat
  out : List MctpOut
  deriving DecidableEq, Repr

/-- Quince as delivered: FACTORY, no keys, a package in slot A.
(DESIGN CHOICE, log entry 5) -/
def Quince.reset : Quince :=
  { reqAddr := 0, rspAddr := 0, reqLen := 0, rspLen := 0, mbxBusy := false, mbxDone := false, mbxStatus := 0,
    mbxDetail := 0, mbxOut := [], life := .factory, keysEnrolled := false, hostHash := 0, boardHash := 0, failCount := 0,
    activeSlot := false, pending := false, commitRejected := false, defaultCold := false, svnFloor := 0, wdTimes := [],
    slotA := { present := true, pkg := none, fwVersion := 0, svn := 0, raiseSvn := false, components := [], minorMax := 0, trainVer := 0 },
    slotB := { present := false, pkg := none, fwVersion := 0, svn := 0, raiseSvn := false, components := [], minorMax := 0, trainVer := 0 }, retiredFuse := false,
    platformKey := true, approval := none, long := none, changing := none, erasing := false, start := none,
    retryDue := none, startWaits := false, running := false, recoveryRuns := false, runSlot := false, faults := [],
    tapStored := Vector.replicate 1024 0, trainStored := Vector.replicate 36 0, opticStored := Vector.replicate 8 0,
    storedValid := false, storedFor := Vector.replicate 108 { version := 0, temp := 0, ident := 0 }, spdmWait := 0, ibi := 0, out := [] }

/-- Cause classes of the fault output (R524, R525). -/
inductive FaultCause where
  | watchdog
  | overcurrent
  | trip
  | failedRecovery
  deriving DecidableEq, Repr

/-- Pins (chapter 16). -/
structure Pins where
  /-- VAUX in its operating range, MOD_RST#, PERST#: true is the high level. -/
  vaux : Bool
  modRst : Bool
  perst : Bool
  pwrGood : Bool
  /-- PWR_GOOD stays low after a removal caused by a fault (R530). -/
  goodHeld : Bool
  /-- FAULT# asserted, with its causes (R524). -/
  faultLow : Bool
  causes : List FaultCause
  vrbClk : Bool
  envCode : BitVec 3
  /-- SB_CFG and SB_STATUS (R525). -/
  sbSel : Half
  tpLog2 : BitVec 6
  tpLockedOnly : Bool
  sbErr : Bool
  traceRefused : Bool
  traceOn : Bool
  /-- Level of the time pulse (SB0, SB1), and the last multiple pulsed. -/
  tpHigh : Bool
  tpLast : DWord
  deriving DecidableEq, Repr

/-- The pins with VAUX present and MOD_RST# high, before any start.
(DESIGN CHOICE, log entry 6) -/
def Pins.reset : Pins :=
  { vaux := true, modRst := true, perst := true, pwrGood := false, goodHeld := false, faultLow := false, causes := [],
    vrbClk := true, envCode := 7, sbSel := 0, tpLog2 := 0x22, tpLockedOnly := false, sbErr := false,
    traceRefused := false, traceOn := false, tpHigh := false, tpLast := 0 }

/-- The identification, lock and telemetry registers (chapter 17). -/
structure IdRegs where
  lock : Bool
  discards : Word
  discardLast : BitVec 25
  tlmInstance : BitVec 12
  tlmGroup : BitVec 5
  /-- Latched HI words, by the BAR0 offset of the LO register (R544). -/
  latches : List (Nat × Word)
  /-- The value last returned by a read command. -/
  readData : DWord
  deriving DecidableEq, Repr

/-- The registers after reset. -/
def IdRegs.reset : IdRegs :=
  { lock := false, discards := 0, discardLast := 0, tlmInstance := 0, tlmGroup := 0, latches := [], readData := 0 }

end Sys2Proof.Machine
end

