-- ==== Sys2Proof/Machine/State.lean ====
section
/-! DEFINITION. The state of the module, block by block, and the machine right after reset. -/
namespace Sys2Proof.Machine

/-- The module. -/
structure State where
  /-- Module time and fabric time (chapter 2). -/
  time : TimeBase
  /-- The clusters' clocks. -/
  clusters : Vector Cluster 64
  /-- The handshake queues (R63, R67): queue q of cluster c at c × 64 + q; the transmit-end and receive-end queues of join channel h at 4,096 + 2h and 4,097 + 2h (R70). -/
  queues : Vector HsQueue 7680
  /-- The channels of the joins (R70). -/
  joins : Vector JoinCh 1792
  /-- The cells, cluster by cluster (R13). -/
  cells : Vector CellS 1024
  /-- The device runtime and the placement engine (chapters 6 and 7). -/
  rt : Runtime
  /-- The tile mover (chapter 8). -/
  mover : Mover
  /-- The memory tiers (chapter 8). -/
  tiers : Tiers
  /-- The job and the step in progress (chapters 1, 10 and 14). -/
  job : Job
  /-- The update engines (chapter 9). -/
  medlar : Medlar
  /-- The collectives (chapter 10). -/
  coll : Collectives
  /-- Securing and restore (chapter 13). -/
  sec : Resilience
  /-- Paline (chapter 11). -/
  fab : Fabric
  /-- Power (chapter 12). -/
  pwr : Power
  /-- The host interface (chapter 14). -/
  host : HostIf
  /-- Quince (chapter 15). -/
  quince : Quince
  /-- The sideband pins (chapter 16). -/
  pins : Pins
  /-- Identification, lock and telemetry registers (chapter 17). -/
  regs : IdRegs
  /-- Commands that wait, oldest first (the model's own queue). -/
  pending : List Instr
  /-- Number of free values used so far (the model's own). -/
  free : Nat
  deriving DecidableEq, Repr

/-- Why a step can fault. -/
inductive Fault where
  /-- Raised by the three memory-error commands (PATROL_SCRUB, CORRECTED_ERROR, MEMORY_UE) for a location that no
  memory of R250 has. Safe: the spec gives such an address no meaning. -/
  | noSuchLocation
  deriving DecidableEq, Repr

/-- Why a step can refuse. -/
inductive Refusal where
  /-- Raised by exec's arm for a command that has no meaning yet. Safe: nothing is claimed of it. -/
  | notModelled (mnemonic : String)
  deriving DecidableEq, Repr

/-- The module right after reset: VAUX present, no start made yet, every register at its reset value.
(DESIGN CHOICE, log entry 4) -/
def State.reset : State :=
  { time := .reset,
    clusters := Vector.replicate 64 .reset,
    queues := Vector.replicate 7680 .reset,
    joins := Vector.replicate 1792 .reset,
    cells := Vector.replicate 1024 .reset,
    rt := .reset,
    mover := .reset,
    tiers := .reset,
    job := .reset,
    medlar := .reset,
    coll := .reset,
    sec := .reset,
    fab := .reset,
    pwr := .reset,
    host := .reset,
    quince := .reset,
    pins := .reset,
    regs := .reset,
    pending := [],
    free := 0 }

end Sys2Proof.Machine
end

