-- ==== Sys2Proof/Machine/Ops.lean ====
section
/-! DEFINITION. The named operations that the meanings share: changes of one block, free values, module time, events and
completions, MSI-X, and the sending of packets and messages. -/
namespace Sys2Proof.Machine

/-- What a meaning answers. -/
abbrev Res := Host.Outcome State Fault Refusal

/-- Changes the block time. -/
def State.upTime (s : State) (f : TimeBase → TimeBase) : State := { s with time := f s.time }

/-- Changes the block rt. -/
def State.upRt (s : State) (f : Runtime → Runtime) : State := { s with rt := f s.rt }

/-- Changes the block mover. -/
def State.upMover (s : State) (f : Mover → Mover) : State := { s with mover := f s.mover }

/-- Changes the block tiers. -/
def State.upTiers (s : State) (f : Tiers → Tiers) : State := { s with tiers := f s.tiers }

/-- Changes the block job. -/
def State.upJob (s : State) (f : Job → Job) : State := { s with job := f s.job }

/-- Changes the block medlar. -/
def State.upMedlar (s : State) (f : Medlar → Medlar) : State := { s with medlar := f s.medlar }

/-- Changes the block coll. -/
def State.upColl (s : State) (f : Collectives → Collectives) : State := { s with coll := f s.coll }

/-- Changes the block sec. -/
def State.upSec (s : State) (f : Resilience → Resilience) : State := { s with sec := f s.sec }

/-- Changes the block fab. -/
def State.upFab (s : State) (f : Fabric → Fabric) : State := { s with fab := f s.fab }

/-- Changes the block pwr. -/
def State.upPwr (s : State) (f : Power → Power) : State := { s with pwr := f s.pwr }

/-- Changes the block host. -/
def State.upHost (s : State) (f : HostIf → HostIf) : State := { s with host := f s.host }

/-- Changes the block quince. -/
def State.upQuince (s : State) (f : Quince → Quince) : State := { s with quince := f s.quince }

/-- Changes the block pins. -/
def State.upPins (s : State) (f : Pins → Pins) : State := { s with pins := f s.pins }

/-- Changes the block regs. -/
def State.upRegs (s : State) (f : IdRegs → IdRegs) : State := { s with regs := f s.regs }

/-- Changes one entry of clusters. -/
def State.upCluster (s : State) (i : Fin 64) (f : Cluster → Cluster) : State := { s with clusters := updV s.clusters i f }

/-- Changes one entry of queues. -/
def State.upQueue (s : State) (i : Fin 7680) (f : HsQueue → HsQueue) : State := { s with queues := updV s.queues i f }

/-- Changes one entry of joins. -/
def State.upJoin (s : State) (i : Fin 1792) (f : JoinCh → JoinCh) : State := { s with joins := updV s.joins i f }

/-- Changes one entry of cells. -/
def State.upCell (s : State) (i : Fin 1024) (f : CellS → CellS) : State := { s with cells := updV s.cells i f }

/-- Changes one ring. -/
def State.upRing (s : State) (r : Fin 64) (f : Ring → Ring) : State :=
  s.upHost fun h => { h with rings := updV h.rings r f }

/-- Changes one port. -/
def State.upPort (s : State) (p : Fin 32) (f : Port → Port) : State :=
  s.upFab fun b => { b with ports := updV b.ports p f }

/-- Runs a change when a test holds, and else leaves the state alone.
(DESIGN CHOICE, log entry 3) -/
def State.when (s : State) (b : Bool) (f : State → State) : State := if b then f s else s

/-- A fresh free value of w bits, and the state that has used it.
(DESIGN CHOICE, log entry 10) -/
def State.fresh (s : State) (w : Nat) : BitVec w × State :=
  (Config.freeValue w s.free, { s with free := s.free + 1 })

/-- Module time. -/
def State.now (s : State) : DWord := s.time.now

/-- Module time moves on to t; it never decreases (R72), and stands in OFF (R71). -/
def State.advanceTo (s : State) (t : DWord) : State :=
  s.upTime fun b => { b with now := if s.pins.vaux then later b.now t else b.now }

/-- A time a number of module time units (1/16 ns) after another (R8). -/
def after (t : DWord) (units : Nat) : DWord := t + BitVec.ofNat 64 units

/-- Module time units of a microsecond and of a millisecond (R8). -/
def usU : Nat := 16000
def msU : Nat := 16000000

/-- An hour and a day in module time units. -/
def hourU : Nat := 3600000 * msU
def dayU : Nat := 24 * hourU

/-- The module is a member of a job: formed, or held at a boundary. -/
def State.inJob (s : State) : Bool := decide (s.job.phase = .formed ∨ s.job.phase = .held)

/-- The identifier of the job of which the module is a member, or 0. -/
def State.jobId (s : State) : Word := if s.inJob then s.job.p.jobId else 0

/-! ### MSI-X, completions and events (R482 to R488) -/

/-- Sends a vector, or holds it pending under its mask (R483). -/
def HostIf.sendVector (h : HostIf) (v : Nat) : HostIf :=
  if h.msixEn && !(getV h.msix v { addr := 0, data := 0, masked := true, pend := false }).masked then
    { h with sent := h.sent ++ [v] }
  else
    { h with msix := modV h.msix v fun e => { e with pend := true } }

/-- Entries of a ring part of 2^n entries.
(DEDUCED, log entry 103) -/
def Ring.cqSize (g : Ring) : Nat := 2 ^ g.cqLog2.toNat
def Ring.sqSize (g : Ring) : Nat := 2 ^ g.sqLog2.toNat

/-- The state of a ring after it has written one entry into its completion ring (R482, R483). -/
def Ring.wrote (g : Ring) (now : DWord) (wrap : Bool) : Ring :=
  { g with
    cqTail := if wrap then 0 else g.cqTail + 1
    phase := if wrap then !g.phase else g.phase
    used := g.used + 1
    unsignalled := g.unsignalled + 1
    oldestAt := if g.unsignalled = 0 then now else g.oldestAt }

/-- The next entry is the last of the completion ring. -/
def Ring.wraps (g : Ring) : Bool := decide (g.cqTail.toNat + 1 ≥ g.cqSize)

/-- Sends a ring's vector when its count or an IRQ_NOW asks for it (R483). -/
def HostIf.moderate (h : HostIf) (r : Fin 64) (irqNow : Bool) : HostIf :=
  let g := h.rings[r]
  if irqNow || decide (g.unsignalled ≥ max 1 g.modCount.toNat) then
    ({ h with rings := updV h.rings r fun g => { g with unsignalled := 0 } } : HostIf).sendVector g.vec.toNat
  else h

/-- The 32 bytes of a completion entry (R6, R482). -/
def Completion.bytes (c : Completion) : Bytes :=
  toLE (c.tag.toNat + 2 ^ 16 * c.sqHead.toNat) 4 ++ toLE (c.status.toNat + 2 ^ 8 * c.opcode.toNat + 2 ^ 16 * b2n c.phase) 4 ++
    toLE c.detail.toNat 4 ++ toLE c.sqIndex.toNat 4 ++ toLE c.result.toNat 8 ++ toLE 0 8

/-- The 32 bytes of an event entry (R6, R487). -/
def Event.bytes (e : Event) : Bytes :=
  toLE (e.code.toNat + 2 ^ 16 * b2n e.phase + 2 ^ 17 * b2n e.lost) 4 ++ toLE e.jobId.toNat 4 ++ toLE e.at_.toNat 8 ++ toLE e.arg0.toNat 8 ++
    toLE e.arg1.toNat 8

/-- Host address of the next entry of a completion ring (R470). -/
def Ring.nextEntry (g : Ring) : DWord := g.cqBase + BitVec.ofNat 64 (32 * g.cqTail.toNat)

/-- Writes one completion entry; a write while the link is down fails and is counted (R491). -/
def HostIf.writeCompletion (h : HostIf) (r : Fin 64) (now : DWord) (c : Completion) (irqNow : Bool) : HostIf :=
  let g := h.rings[r]
  let c := { c with phase := g.phase }
  if h.linkUp then
    ({ h with
      dataOut := h.dataOut ++ [(g.nextEntry, c.bytes)]
      rings := updV h.rings r fun g => { g.wrote now g.wraps with written := g.written ++ [c] } } : HostIf).moderate r irqNow
  else
    { h with
      failedWrites := h.failedWrites + 1
      rings := updV h.rings r fun g => { g.wrote now g.wraps with lostWrite := true } }

/-- Fields of a descriptor (R473). -/
def Desc.opcode (d : Desc) : Nat := byteAt d.bytes 0
def Desc.ver (d : Desc) : Nat := byteAt d.bytes 1 % 16
def Desc.fence (d : Desc) : Bool := bit (byteAt d.bytes 1) 4
def Desc.irqNow (d : Desc) : Bool := bit (byteAt d.bytes 1) 5
def Desc.tag (d : Desc) : Half := BitVec.ofNat 16 (leNat d.bytes 2 2)

/-- STEP operand of a STEP, HOLD or EXPORT descriptor (R474). -/
def Desc.stepOf (d : Desc) : DWord := BitVec.ofNat 64 (leNat d.bytes 0x08 8)

/-- The bits of a descriptor that R473 and R474 name for an opcode, as (first bit, width) pairs. -/
def descFields (op : Nat) : List (Nat × Nat) :=
  [(0, 14), (16, 16)] ++
  match op with
  | 0x02 => [(64, 2)]
  | 0x03 => [(64, 64), (128, 64)]
  | 0x04 => [(64, 1)]
  | 0x05 => [(64, 4), (128, 64), (192, 64)]
  | 0x06 => [(64, 64), (128, 9)]
  | 0x10 => [(64, 64), (128, 64), (192, 1)]
  | 0x11 => [(64, 64), (128, 64), (192, 64), (256, 64), (320, 64)]
  | 0x12 => [(64, 64)]
  | 0x13 => [(64, 64)]
  | 0x14 => [(64, 64), (128, 64), (192, 64), (256, 64), (320, 1)]
  | 0x15 => [(64, 64), (128, 8), (144, 13), (159, 1), (160, 32), (192, 64), (256, 192)]
  | _ => []

/-- A mask of the bits of a list of fields. -/
def maskOf (fs : List (Nat × Nat)) : Nat := fs.foldl (fun m f => m ||| ((2 ^ f.2 - 1) <<< f.1)) 0

/-- The opcodes that a ring kind allows (R474). -/
def opAllowed (kind op : Nat) : Bool :=
  match kind with
  | 0 => decide (op ∈ [0x01, 0x02, 0x03, 0x04, 0x05, 0x06])
  | 1 => decide (op ∈ [0x01, 0x06, 0x10, 0x11, 0x12, 0x13, 0x14, 0x15, 0x16])
  | _ => false

/-- Status codes (R484). -/
def stOk : Nat := 0x00
def stKeyMismatch : Nat := 0x07
def stTargetDead : Nat := 0x08
def stTornDown : Nat := 0x09
def stBusy : Nat := 0x0A
def stVersion : Nat := 0x0B
def stAlias : Nat := 0x0C
def stApproval : Nat := 0x0D

/-- An operand has a code or a length that R474 does not give. -/
def Desc.badOperand (d : Desc) : Bool :=
  match d.opcode with
  | 0x02 => decide (byteAt d.bytes 8 % 4 = 3)
  | 0x05 => decide (byteAt d.bytes 8 % 16 = 0) || decide (byteAt d.bytes 8 % 16 > 4)
  | 0x06 => decide (leNat d.bytes 16 2 % 512 < 4) || decide (leNat d.bytes 16 2 % 512 > 256)
  | _ => false

/-- What R473 finds wrong with a descriptor on a ring of a kind: a detail cause. DESC_VER is read first, since it
fixes what the other bits mean. -/
def Desc.malformed (kind : Nat) (d : Desc) : Option Nat :=
  if d.ver ≠ 1 then some 0x12
  else if leNat d.bytes 0 64 &&& maskOf (descFields d.opcode) ≠ leNat d.bytes 0 64 then some 0x11
  else if !opAllowed kind d.opcode || d.badOperand then some 0x11
  else none

/-- No STEP descriptor fetched before this one, for an earlier step, is still to end: STEP descriptors complete in step order (R480). -/
def Ring.stepTurn (g : Ring) (d : Desc) : Bool :=
  decide (d.opcode ≠ 0x11) || g.descs.all fun e =>
    decide (e.opcode ≠ 0x11) || e.fin.isSome || decide (d.index ≤ e.index) || decide (d.stepOf ≤ e.stepOf)

/-- The descriptor of a ring that completes next, and the others (R480): on ring 0 the oldest alone, and STEP descriptors in step order. -/
def Ring.nextDone (g : Ring) (mgmt : Bool) : Option (Desc × List Desc) :=
  if mgmt then (match g.descs with
    | [] => none
    | d :: rest => if d.fin.isSome then some (d, rest) else none)
  else takeFirst (fun d => d.fin.isSome && g.stepTurn d) g.descs

/-- Writes the completions of a ring that may be written now (R480). -/
def HostIf.flush (r : Fin 64) (now : DWord) : Nat → HostIf → HostIf
  | 0, h => h
  | n + 1, h =>
    let g := h.rings[r]
    match g.nextDone (decide (r.val = 0)) with
    | none => h
    | some (d, rest) =>
      match d.fin with
      | none => h
      | some (st, det, res) =>
        let h := { h with rings := updV h.rings r fun g => { g with descs := rest, reserved := g.reserved - 1 } }
        HostIf.flush r now n (h.writeCompletion r now
          { tag := d.tag, sqHead := g.sqHead, status := st, opcode := BitVec.ofNat 8 d.opcode, phase := g.phase, detail := det,
            sqIndex := BitVec.ofNat 16 (d.index.toNat % g.sqSize), result := res } d.irqNow)

/-- Marks a descriptor of a ring as ended. -/
def Ring.finish (g : Ring) (index : DWord) (status detail : Nat) (result : DWord) : Ring :=
  { g with descs := g.descs.map fun d =>
      if d.index = index && d.fin.isNone then
        { d with begun := true, fin := some (BitVec.ofNat 8 status, BitVec.ofNat 32 detail, result) }
      else d }

/-- May the oldest descriptor not yet begun begin? (R473 FENCE, R475, R502.) -/
def Ring.nextDesc (g : Ring) : Option Desc :=
  match g.descs.find? (fun d => !d.begun) with
  | none => none
  | some d =>
    if g.setupOn || g.longOn then none
    else if d.fence && g.descs.any (fun e => e.begun) then none
    else some d

/-- Ends the malformed descriptors that come next (R473); on ring 0 during a long operation with BUSY (R490). -/
def HostIf.settle (r : Fin 64) (now : DWord) : Nat → HostIf → HostIf
  | 0, h => h
  | n + 1, h =>
    let g := h.rings[r]
    match g.nextDesc with
    | none => h
    | some d =>
      match d.malformed g.kind.toNat with
      | none => h
      | some cause =>
        let h := { h with rings := updV h.rings r fun g =>
          if r.val = 0 && h.mgmtBusy then g.finish d.index stBusy 0x14 0 else g.finish d.index stVersion cause 0 }
        HostIf.settle r now n (HostIf.flush r now (g.descs.length) h)

/-- A ring becomes DISABLED: it is set up again from its first entries, so its pointers and its binding end here. A doorbell
written since it last ran is kept for the next enable, and a lost write for the return of the link (R479, R491, R492).
(DEDUCED, log entry 101) -/
def Ring.off (g : Ring) : Ring :=
  { Ring.reset with
    sqBase := g.sqBase, cqBase := g.cqBase, sqLog2 := g.sqLog2, cqLog2 := g.cqLog2, kind := g.kind, vec := g.vec, modCount := g.modCount
    modUsec := g.modUsec, enable := g.enable, faultCause := g.faultCause, written := g.written, lostWrite := g.lostWrite
    sqTail := if g.tailNew then g.sqTail else 0, headWritten := if g.headNew then g.headWritten else 0, tailNew := g.tailNew, headNew := g.headNew }

/-- A ring that drains is DISABLED once nothing is in progress and the job formed, named by its identifier, does not hold it (R491). -/
def Ring.drainEnd (g : Ring) (job : Option Word) : Ring :=
  if (g.st = .draining) && g.descs.isEmpty && !(job.isSome && decide (g.jobId = job)) then g.off else g

/-- The job of which the module is a member. -/
def State.curJob (s : State) : Option Word := if s.inJob then some s.job.p.jobId else none

/-- Ends the descriptor of an index with a status, a detail and a result (R482). -/
def State.complete (s : State) (r : Fin 64) (index : DWord) (status detail : Nat) (result : DWord) : State :=
  s.upHost fun h =>
    let h := { h with rings := updV h.rings r fun g => g.finish index status detail result }
    let n := h.rings[r].descs.length
    let h := HostIf.settle r s.now n (HostIf.flush r s.now n h)
    { h with rings := updV h.rings r fun g => g.drainEnd s.curJob }

/-- Begins the ring's next descriptor if it has one of the given opcodes: runs k on it. Otherwise the command finds
nothing to begin. On ring 0 a long operation makes every descriptor end with BUSY (R490).
(DEDUCED, log entry 104) -/
def State.beginDesc (s : State) (r : Fin 64) (op : Nat) (k : Desc → State → State) : State :=
  match s.host.rings[r].nextDesc with
  | none => s
  | some d =>
    if d.opcode ≠ op then s
    else
      let s := s.upRing r fun g =>
        { g with descs := g.descs.map fun e => if e.index = d.index && e.fin.isNone then { e with begun := true } else e }
      if r.val = 0 && s.host.mgmtBusy then s.complete r d.index stBusy 0x14 0 else k d s

/-- The EVENT ring, when one runs. -/
def HostIf.eventRing (h : HostIf) : Option (Fin 64) :=
  (List.finRange 64).find? fun r => h.rings[r].kind = 2#2 && h.rings[r].st = .running

/-- Writes an event with a job identifier (R487). -/
def State.eventFor (s : State) (job : Word) (code : Nat) (arg0 arg1 : DWord) : State :=
  s.upHost fun h =>
    match h.eventRing with
    | none => { h with evLost := satAdd h.evLost 1, lostMark := true }
    | some r =>
      let g := h.rings[r]
      if g.used ≥ g.cqSize then { h with evLost := satAdd h.evLost 1, lostMark := true }
      else if h.linkUp then
        let e : Event := { code := BitVec.ofNat 16 code, phase := g.phase, lost := h.lostMark, jobId := job, at_ := s.now, arg0 := arg0, arg1 := arg1 }
        ({ h with
          events := h.events ++ [e]
          dataOut := h.dataOut ++ [(g.nextEntry, e.bytes)]
          lostMark := false
          rings := updV h.rings r fun g => g.wrote s.now g.wraps } : HostIf).moderate r false
      else
        { h with
          failedWrites := h.failedWrites + 1
          rings := updV h.rings r fun g => { g.wrote s.now g.wraps with lostWrite := true } }

/-- Writes an event that carries the job of the module, or 0. -/
def State.event (s : State) (code : Nat) (arg0 arg1 : DWord) : State := s.eventFor s.jobId code arg0 arg1

/-- Event codes (R488). -/
def evUpdateKept : Nat := 0x01
def evRatioHigh : Nat := 0x02
def evRatioLow : Nat := 0x03
def evRowsDropped : Nat := 0x04
def evExportReady : Nat := 0x05
def evDeparture : Nat := 0x06
def evThermal : Nat := 0x07
def evPortDown : Nat := 0x08
def evRailFault : Nat := 0x09
def evCellFault : Nat := 0x0A
def evMemoryUe : Nat := 0x0B
def evWatchdog : Nat := 0x0C
def evShedSent : Nat := 0x0D
def evTargetDead : Nat := 0x0E
def evTornDown : Nat := 0x0F
def evTimeUnlocked : Nat := 0x10

/-- A number as an event argument. -/
def arg (n : Nat) : DWord := BitVec.ofNat 64 n

/-- Puts a ring into FAULT and sends vector 0 (R472). -/
def State.ringFault (s : State) (r : Fin 64) (cause : Nat) : State :=
  (s.upRing r fun g => { g with st := .fault, faultCause := BitVec.ofNat 8 cause }).upHost (·.sendVector 0)

/-- Counts a write request that is discarded in whole or in part, and notes where it went (R12, R543). -/
def State.discard (s : State) (bar2 : Bool) (off : Nat) : State :=
  s.upRegs fun g => { g with discards := satAdd g.discards 1, discardLast := BitVec.ofNat 25 (off % 2 ^ 24 + 2 ^ 24 * b2n bar2) }

/-- The head doorbell of a running ring: the ring with the entries up to it free, or none for a value at or beyond the ring size or past
the last entry written (R471, R472). -/
def Ring.takeHead (g : Ring) : Option Ring :=
  let n := g.cqSize
  let step := (g.headWritten.toNat + n - g.cqHead.toNat) % n
  if g.headWritten.toNat ≥ n ∨ step > g.used then none else some { g with cqHead := g.headWritten, used := g.used - step }

/-- A running ring acts on the latest values of its doorbells (R472, R478, R479). -/
def State.actDoorbells (s : State) (r : Fin 64) : State :=
  let g := s.host.rings[r]
  if g.st ≠ .running then s
  else if decide (g.kind ≠ 2) && decide (g.sqTail.toNat ≥ g.sqSize) then s.ringFault r 2
  else match g.takeHead with
  | none => s.ringFault r 3
  | some h => s.upRing r fun _ => { h with tailNew := false, headNew := false }

/-- Raises a cause of departure advice (R453). -/
def State.advise (s : State) (cause : Nat) : State :=
  (s.upSec fun c => { c with departAdvice := c.departAdvice ||| BitVec.ofNat 6 (2 ^ cause) }).event evDeparture
    (arg (2 ^ cause)) 0

/-- FW_VERSION of the package in the running slot, 0 on the recovery image (R516). -/
def Quince.fwVersion (q : Quince) : Word := if q.recoveryRuns then 0 else if q.runSlot then q.slotB.fwVersion else q.slotA.fwVersion

/-! ### Paths, packets and messages (R369 to R386) -/

/-- Bucket of a packet (R385). -/
def pathBucket (dst : BitVec 17) (addr : DWord) : Nat :=
  let key := (dst.toNat <<< 41) ||| ((addr.toNat % 2 ^ 47) >>> 6)
  (List.range 10).foldl (fun b i => b ^^^ ((key >>> (6 * i)) % 64)) 0

/-- Tag of a packet that takes no bucket: the link-local messages. -/
def noBucket : Nat := 16384

/-- Ports of a path set that are up, in ascending order (R382). -/
def Fabric.livePorts (b : Fabric) (set : Nat) : List (Fin 32) :=
  (List.finRange 32).filter fun p => (b.sets.getD set 0).getLsbD p.val && b.ports[p].st = .up

/-- Path set of a module (R382); none while no tables are loaded. -/
def Fabric.setOf (b : Fabric) (dst : BitVec 17) : Option Nat := (b.route[dst.toNat]?).map (·.toNat)

/-- The assignment of R383: bucket i to the (i mod k)-th live port of the set. -/
def Fabric.dealt (b : Fabric) (set i : Nat) : Option (Fin 32) :=
  let live := b.livePorts set
  if live.isEmpty then none else live[i % live.length]?

/-- Every bucket of every set as R383 deals it. -/
def Fabric.dealAll (b : Fabric) : List (List (Option (Fin 32))) :=
  (List.range 256).map fun set => (List.range 64).map fun i => b.dealt set i

/-- Port of a bucket. -/
def Fabric.bucketPort (b : Fabric) (set i : Nat) : Option (Fin 32) := ((b.buckets.getD set []).getD i none)

/-- Port and tag for a packet to a module: the port of bucket i of its path set. -/
def Fabric.portFor (b : Fabric) (dst : BitVec 17) (i : Nat) : Option (Fin 32 × Nat) :=
  match b.setOf dst with
  | none => none
  | some set => (b.bucketPort set i).map fun p => (p, set * 64 + i)

/-- The identity that a packet on a port meets: the MOD_ID that the port exchanged, and the register's for a packet of the module to itself
(R547).
(DEDUCED, log entry 126) -/
def Fabric.idAt (b : Fabric) (p : Fin 32) (k : Pkt) : BitVec 17 := if b.loop.contains k then b.modId else b.ports[p].sentId

/-- A packet on a port is for this module. -/
def Fabric.mine (b : Fabric) (p : Fin 32) (k : Pkt) : Bool := decide (k.dst = b.idAt p k)

/-- A packet of the module as it leaves by a port: its SRC is the identity that the port exchanged (R369, R547). The SRC of a response is the target
that was named (R373). -/
def Fabric.named (b : Fabric) (p : Fin 32) (k : Pkt) : Pkt :=
  if k.src = b.modId && k.op ≠ 0x80#8 then { k with src := b.ports[p].sentId } else k

/-- The same packet on its way to another port. -/
def Fabric.unnamed (b : Fabric) (p : Fin 32) (k : Pkt) : Pkt :=
  if k.src = b.ports[p].sentId && k.op ≠ 0x80#8 then { k with src := b.modId } else k

/-- Adds a packet to a port's queue of its class. -/
def Fabric.enqueue (b : Fabric) (p : Fin 32) (k : Pkt) (tag : Nat) : Fabric :=
  { b with ports := updV b.ports p fun q => { q with queues := updV q.queues k.cls (· ++ [(b.named p k, tag)]) } }

/-- Bucket that a packet takes: a MSG takes bucket 0 (R385).
(DEDUCED, log entry 77) -/
def pktBucket (k : Pkt) : Nat := if k.op = 0x10#8 then 0 else pathBucket k.dst k.addr

/-- The packet is a MSG or a RESP, which no ROUTE answers (R357, R386). -/
def pktIsReply (k : Pkt) : Bool := k.op = 0x10#8 || k.op = 0x80#8

/-- A packet with every field 0. -/
def pktBlank : Pkt :=
  { op := 0, cls := 0, hops := 8, retry := 0, len := 0, rw := false, dst := 0, ts := 0, src := 0, seq := 0, addr := 0, key := 0,
    job := 0, rstatus := 0, cached := false, detail := 0, reqOp := 0, payload := [], tileMsg := none }

/-- TS of a packet issued now: module time [28:14] (R369). -/
def State.ts (s : State) : BitVec 15 := BitVec.ofNat 15 (field s.now.toNat 28 14)

/-- A packet of the module to itself. -/
def Fabric.toSelf (b : Fabric) (k : Pkt) : Bool := decide (k.dst = b.modId) && decide (k.src = b.modId)

/-- A packet takes the port of its bucket, or needs no route when it goes to the module itself (R382, R385); without a live port
it is discarded and counted (R386). -/
def Fabric.put (b : Fabric) (k : Pkt) : Fabric :=
  if b.toSelf k then { b with loop := b.loop ++ [k] }
  else match b.portFor k.dst (pktBucket k) with
  | some (p, tag) => b.enqueue p k tag
  | none => { b with msgDiscards := satAdd b.msgDiscards 1 }

/-- The response to a request for a target (R373): SRC is the target, or for ROUTE this module. A ROUTE to itself, which leaves the module by no
port, names the target in ADDR. -/
def State.respPkt (s : State) (k : Pkt) (target : BitVec 17) (seq : Word) (status : Nat) (cached : Bool) (detail : Nat) (data : Bytes) : Pkt :=
  { pktBlank with
    op := 0x80, cls := k.cls, retry := k.retry, len := BitVec.ofNat 13 data.length, dst := k.src
    src := if status = 6 then s.fab.modId else target, ts := s.ts, seq := seq
    addr := if status = 6 && k.src = s.fab.modId then BitVec.ofNat 64 (target.toNat * 2 ^ 47) else 0
    job := k.job, rstatus := BitVec.ofNat 4 status, cached := cached, detail := BitVec.ofNat 8 detail,
    reqOp := k.op, payload := data }

/-- A packet has a port, or goes to the module itself. -/
def Fabric.hasRoute (b : Fabric) (k : Pkt) : Bool := b.toSelf k || (b.portFor k.dst (pktBucket k)).isSome

/-- Sends a packet by its path set. A request that has no live port is answered to its source with ROUTE; a MSG or RESP packet
is discarded and counted (R386). -/
def State.sendPkt (s : State) (k : Pkt) : State :=
  if s.fab.hasRoute k || pktIsReply k then s.upFab (·.put k) else s.upFab (·.put (s.respPkt k k.dst k.seq 6 false 0 []))

/-- Answers a request. -/
def State.respond (s : State) (k : Pkt) (status detail : Nat) (data : Bytes) : State :=
  s.sendPkt (s.respPkt k k.dst k.seq status false detail data)

/-- A MSG packet of this module: MTYPE in the first payload word (R375). -/
def State.msgPkt (s : State) (dst : BitVec 17) (mtype : Nat) (job key : Word) (hops : Nat) (body : Bytes) : Pkt :=
  { pktBlank with
    op := 0x10, cls := 0, hops := BitVec.ofNat 4 hops, len := BitVec.ofNat 13 (4 + body.length), dst := dst, src := s.fab.modId,
    ts := s.ts, key := key, job := job, payload := toLE mtype 4 ++ body }

/-- A region key of the job that permits job messages (R366, R377), or 0.
(DEDUCED, log entry 76) -/
def State.collKey (s : State) (job : Word) : Word :=
  match (s.fab.rktActive.getD []).find? (fun e => e.collective && e.job = job && e.key ≠ 0) with
  | none => 0
  | some e => e.key

/-- Sends a job message to a member. -/
def State.jobMsg (s : State) (dst : BitVec 17) (mtype : Nat) (body : Bytes) : State :=
  s.sendPkt (s.msgPkt dst mtype s.job.p.jobId (s.collKey s.job.p.jobId) 8 body)

/-- Sends a message to the fabric manager: by the relay module when one is in force (R377).
(DEDUCED, log entry 87) -/
def State.fmMsgOut (s : State) (mtype : Nat) (job : Word) (body : Bytes) : State :=
  if s.fab.relayEn then s.sendPkt (s.msgPkt s.fab.relayMod mtype job 0 8 body)
  else s.upFab fun b => { b with fmOut := b.fmOut ++ [(job, toLE mtype 4 ++ body)] }

/-- Sends a link-local message on a port (R376). -/
def State.linkMsg (s : State) (p : Fin 32) (mtype : Nat) (body : Bytes) : State :=
  s.upFab fun b => b.enqueue p (s.msgPkt b.ports[p].partnerMod mtype 0 0 1 body) noBucket

/-- A DEAD_SUSPECT message (R394): job, target, SEQ, OP and module time. -/
def State.deadSuspect (s : State) (job : Word) (target : BitVec 17) (seq : Word) (op : Nat) : State :=
  s.fmMsgOut 0x0A job (toLE job.toNat 4 ++ toLE target.toNat 4 ++ toLE seq.toNat 4 ++ toLE op 4 ++ toLE s.now.toNat 8)

/-- Releases what waits for the fault output: asserts FAULT# with a cause (R524). -/
def State.assertFault (s : State) (c : FaultCause) : State :=
  s.upPins fun p => { p with faultLow := true, causes := if c ∈ p.causes then p.causes else p.causes ++ [c] }

/-- Adds an entry to Quince's fault log, which holds the 64 latest (R496).
(DESIGN CHOICE, log entry 116) -/
def State.logFault (s : State) (kind : Nat) (result : Byte := 0) : State :=
  s.upQuince fun q => { q with faults := (q.faults ++ [({ kind := kind, at_ := s.now, result := result } : FaultE)]).drop ((q.faults.length + 1) - 64) }

end Sys2Proof.Machine
end

