-- ==== Sys2Proof/Machine/Envelope.lean ====
section
/-! DEFINITION. The module's ceiling: what sets it, how it is released, and when the thermal ceiling binds (R416, R420, R429, R431). -/
namespace Sys2Proof.Machine

/-- Highest current limit of a rail, in 0.1 A: a greater I_LIM is taken as this one (R398). -/
def railMax (i : Fin 8) : Nat := (Power.reset.rails[i]).iLim.toNat

/-- E_base (R416): the lowest of the preset, the message's ceiling and HOST_CAP_W that are in force. -/
def clampW (w : Nat) : Nat := min 1500 (max 250 w)

/-- The preset that the pins select. -/
def Power.presetNow (p : Power) : Nat := clampW (p.preset[p.pinCode.toFin]).toNat

/-- E_base (R416). -/
def Power.eBase (p : Power) : Nat :=
  let a := clampW p.hostCap.toNat
  let b := if p.pinEn then min a p.presetNow else a
  match p.msgCeil with
  | none => b
  | some c => if p.msgEn then min b c else b

/-- Thermal ceiling, 1,500 W when none is in force. -/
def Power.thermW (p : Power) : Nat := p.thermCeil.getD 1500

/-- The ceiling E (R416, R429) under given values of power. -/
def State.ceilingWith (s : State) (p : Power) : Nat :=
  let inner := if s.inJob && s.job.p.shift then
      min (clampW p.capNow.toNat) (max 250 (p.eBase - p.lend.toNat + p.grant.toNat))
    else p.eBase
  max 250 (min 1500 (min p.thermW inner))

/-- The ceiling E. -/
def State.ceilingE (s : State) : Nat := s.ceilingWith s.pwr

/-- Whole watts that a ramp allows between two times, and the time at which the last of them was due. -/
def rampW (wPerMs : Nat) (t0 t1 : DWord) : Nat := wPerMs * (t1.toNat - t0.toNat) / msU
def rampAt (wPerMs w : Nat) (t0 : DWord) : DWord := after t0 (ceilDiv (w * msU) wPerMs)

/-- A fall of the released ceiling to E (R420): what a message ramps follows RAMP_DOWN, and every other part acts at once. -/
def Power.fall (p : Power) (now : DWord) (e other : Nat) : Power :=
  if p.rampDown = 0 then { p with ceilNow := e, ceilAt := now }
  else
    let w := rampW p.rampDown p.ceilAt now
    { p with ceilNow := min other (max e (p.ceilNow - w)), ceilAt := rampAt p.rampDown w p.ceilAt }

/-- A rise of the released ceiling to E at RAMP_UP_W_MS (R420). -/
def Power.rise (p : Power) (now : DWord) (e : Nat) : Power :=
  let rate := max 1 p.rampUp.toNat
  let w := rampW rate p.ceilAt now
  if w = 0 then p else { p with ceilNow := min e (p.ceilNow + w), ceilAt := rampAt rate w p.ceilAt }

/-- Number of a sensor. -/
def sensorNo (x : Sensor) : Nat :=
  match x with
  | .cluster c => c.val
  | .stack k => 64 + k.val
  | .hub => 76
  | .optical e => 77 + e.val

/-- A THERMAL_LIMIT event (R431, R488). -/
def State.thermEvent (s : State) (x : Sensor) (t : Nat) : State := s.event evThermal (Config.sensorCode (sensorNo x)) (arg t)

/-- E without its floor of 250 W (R416, R429). -/
def State.rawCeiling (s : State) : Nat :=
  let p := s.pwr
  min p.thermW (if s.inJob && s.job.p.shift then min (clampW p.capNow.toNat) (p.eBase - p.lend.toNat + p.grant.toNat) else p.eBase)

/-- The thermal ceiling sets E (R431). -/
def State.thermSetsE (s : State) : Bool := s.pwr.thermCeil.isSome && decide (s.pwr.thermW ≤ s.rawCeiling)

/-- While the thermal ceiling binds THERMAL_BIND stands, and where it comes to bind a THERMAL_LIMIT event is raised with the sensor that exceeded
its T_SOFT last (R431). -/
def State.noteBind (s : State) : State :=
  let binds := s.thermSetsE
  let t := s.upPwr fun p => { p with thermBinds := binds }
  t.when (binds && !s.pwr.thermBinds) fun t => t.thermEvent s.pwr.thermBy ((getKV s.pwr.thermBy s.pwr.temps).getD 0)

/-- Brings the released ceiling towards E (R420), in ACTIVE alone (R438). -/
def State.ceilingStep (s : State) : State :=
  let e := s.ceilingE
  if s.pwr.st ≠ .active then s
  else if e < s.pwr.ceilNow then s.upPwr (·.fall s.now e (s.ceilingWith { s.pwr with msgCeil := none }))
  else if e = s.pwr.ceilNow then s.upPwr fun p => { p with ceilAt := s.now, rampDown := 0 }
  else s.upPwr (·.rise s.now e)

/-- A change of any input of the ceiling: settles what the old inputs released, then takes the new ones. -/
def State.reEnv (s : State) (f : State → State) : State := (f s.ceilingStep).ceilingStep.noteBind

/-- The shares of a shift job end with the membership: round, grant, lend and the flag of a borrower (R429). -/
def State.dropShares (s : State) : State :=
  s.upPwr fun p => { p with roundOn := false, offer := 0, ask := 0, childCredits := [], upSent := false, borrower := false, lend := 0, grant := 0 }

/-- A change of power that is an input of the ceiling. -/
def State.changeEnv (s : State) (f : Power → Power) : State := s.reEnv fun s => s.upPwr f

end Sys2Proof.Machine
end

