-- ==== Sys2Proof/Machine/Num.lean ====
section
/-! DEFINITION. The number formats of R154 to R171: exact values, rounding to nearest even and
stochastic rounding, and FP32 / FP64 arithmetic built on them. Every finite value is an exact
dyadic number, so that each operation rounds once, where the spec says. -/
namespace Sys2Proof.Machine

/-- The value of a floating pattern: NaN, an infinity, or (−1)^neg × m × 2^e exactly (R154). -/
inductive FVal where
  | nan
  | inf (neg : Bool)
  | fin (neg : Bool) (m : Nat) (e : Int)
  deriving DecidableEq, Repr

/-- A floating format of R154: widths of its fields, its bias, and its largest finite pattern. -/
structure Fmt where
  expBits : Nat
  manBits : Nat
  bias : Nat
  maxField : Nat
  maxMan : Nat
  hasInf : Bool
  canonNaN : Nat
  deriving DecidableEq, Repr

/-- E4M3 (R154): exponent 15 with mantissa 7 is NaN and there is no infinity. -/
def fE4M3 : Fmt := ⟨4, 3, 7, 15, 6, false, 0x7F⟩
/-- E5M2 (R154, canonical NaN of R155). -/
def fE5M2 : Fmt := ⟨5, 2, 15, 30, 3, true, 0x7E⟩
/-- FP16 (R154). -/
def fFP16 : Fmt := ⟨5, 10, 15, 30, 1023, true, 0x7E00⟩
/-- BF16 (R154). -/
def fBF16 : Fmt := ⟨8, 7, 127, 254, 127, true, 0x7FC0⟩
/-- FP32 (R154). -/
def fFP32 : Fmt := ⟨8, 23, 127, 254, 0x7FFFFF, true, 0x7FC00000⟩
/-- FP64, in which the sums of R307 and the scalars of R291 are formed. -/
def fFP64 : Fmt := ⟨11, 52, 1023, 2046, 0xFFFFFFFFFFFFF, true, 0x7FF8000000000000⟩

/-- Width of a pattern of the format. -/
def Fmt.width (f : Fmt) : Nat := f.expBits + f.manBits + 1

/-- The exponent of the smallest normal value. -/
def Fmt.emin (f : Fmt) : Int := 1 - (f.bias : Int)

/-- The value of a pattern (R154). A NaN is NaN whatever its sign and payload (R155). -/
def decodeF (f : Fmt) (x : Nat) : FVal :=
  let neg := x.testBit (f.expBits + f.manBits)
  let ex := (x >>> f.manBits) % 2 ^ f.expBits
  let ma := x % 2 ^ f.manBits
  if ex > f.maxField ∨ (ex = f.maxField ∧ ma > f.maxMan) then
    if f.hasInf ∧ ma = 0 then .inf neg else .nan
  else if ex = 0 then .fin neg ma (f.emin - f.manBits)
  else .fin neg (2 ^ f.manBits + ma) ((ex : Int) - f.bias - f.manBits)

/-- How a conversion rounds: to nearest even (R168), stochastically with a 12-bit draw (R169), up in
magnitude (R166), or towards zero. -/
inductive Rnd where
  | rne
  | sr (draw : Nat)
  | up
  | down
  deriving DecidableEq, Repr

/-- floor(log2(n / d)) for n and d above 0. -/
def floorLog2 (n d : Nat) : Int :=
  let k : Int := (n.log2 : Int) - (d.log2 : Int)
  let ok := if 0 ≤ k then d <<< k.toNat ≤ n else d ≤ n <<< (-k).toNat
  if ok then k else k - 1

/-- Rounds the magnitude q + r/b (q whole, 0 ≤ r < b) to a whole number (R168, R169). -/
def roundUpQ (mode : Rnd) (q r b : Nat) : Bool :=
  match mode with
  | .rne => decide (2 * r > b) || (decide (2 * r = b) && decide (q % 2 = 1))
  | .sr draw => decide (r * 4096 / b + draw ≥ 4096)
  | .up => decide (r ≠ 0)
  | .down => false

/-- Rounds the magnitude n/d × 2^e to the format's spacing, subnormals included: q × 2^u. -/
def roundMag (f : Fmt) (mode : Rnd) (n d : Nat) (e : Int) : Nat × Int :=
  if n = 0 then (0, f.emin - f.manBits)
  else
    let ex := floorLog2 n d + e
    let u : Int := max ex f.emin - f.manBits
    let s := e - u
    let a := if 0 ≤ s then n <<< s.toNat else n
    let b := if 0 ≤ s then d else d <<< (-s).toNat
    let q := a / b
    let r := a % b
    (q + b2n (roundUpQ mode q r b), u)

/-- The exponent and mantissa fields of q × 2^u, for q at most 2^(manBits + 1). -/
def packMag (f : Fmt) (q : Nat) (u : Int) : Nat × Nat :=
  let q' := if q ≥ 2 ^ (f.manBits + 1) then q / 2 else q
  let u' := if q ≥ 2 ^ (f.manBits + 1) then u + 1 else u
  if q' < 2 ^ f.manBits then (0, q')
  else ((u' + f.manBits + f.bias).toNat, q' - 2 ^ f.manBits)

/-- What a conversion produced: the pattern, and the flags NONFINITE and SAT of R170. -/
structure Conv where
  bits : Nat
  nonfinite : Bool
  sat : Bool
  deriving DecidableEq, Repr

/-- The pattern with the given sign, exponent field and mantissa field. -/
def packF (f : Fmt) (neg : Bool) (ex ma : Nat) : Nat :=
  b2n neg <<< (f.expBits + f.manBits) + ex <<< f.manBits + ma

/-- The infinity of a format that has one. -/
def infF (f : Fmt) (neg : Bool) : Nat := packF f neg (f.maxField + 1) 0

/-- The largest finite value with a sign. -/
def maxF (f : Fmt) (neg : Bool) : Nat := packF f neg f.maxField f.maxMan

/-- The result of an overflow or of an infinite input (R170): with OUT_SAT the largest finite value
and SAT, otherwise infinity, or NaN in a format without one, and NONFINITE. -/
def overflowF (f : Fmt) (neg sat : Bool) : Conv :=
  if sat then ⟨maxF f neg, false, true⟩
  else if f.hasInf then ⟨infF f neg, true, false⟩
  else ⟨f.canonNaN, true, false⟩

/-- The magnitude n/d × 2^e overflows a format (R170): to nearest even from half a spacing above the largest finite value on, stochastically
above that value, and in the other directions when the rounded magnitude exceeds it. -/
def overflows (f : Fmt) (mode : Rnd) (n d : Nat) (e : Int) (ex ma : Nat) : Bool :=
  let top := 2 ^ f.manBits + f.maxMan
  let u : Int := (f.maxField : Int) - f.bias - f.manBits
  let at_ := fun (t : Nat) (v : Int) (strict : Bool) =>
    let k := min e v
    let x := n <<< (e - k).toNat
    let y := (d * t) <<< (v - k).toNat
    if strict then decide (y < x) else decide (y ≤ x)
  match mode with
  | .rne => at_ (2 * top + 1) (u - 1) false
  | .sr _ => at_ top u true
  | _ => decide (ex > f.maxField) || (decide (ex = f.maxField) && decide (ma > f.maxMan))

/-- Converts the exact magnitude n/d × 2^e with a sign into a format (R168 to R170). -/
def roundF (f : Fmt) (mode : Rnd) (sat neg : Bool) (n d : Nat) (e : Int) : Conv :=
  let r := roundMag f mode n d e
  let p := packMag f r.1 r.2
  if overflows f mode n d e p.1 p.2 then overflowF f neg sat
  else ⟨packF f neg p.1 p.2, false, false⟩

/-- Converts an exact value into a format: R168, R169 for finite values, R170 for the others, with the
canonical NaN of R155. -/
def convF (f : Fmt) (mode : Rnd) (sat : Bool) (x : FVal) : Conv :=
  match x with
  | .nan => ⟨f.canonNaN, true, false⟩
  | .inf neg => overflowF f neg sat
  | .fin neg m e => roundF f mode sat neg m 1 e

namespace FVal

/-- Sign of a value; NaN counts as positive. -/
def isNeg : FVal → Bool
  | nan => false
  | inf n => n
  | fin n _ _ => n

/-- True for NaN. -/
def isNaN : FVal → Bool
  | nan => true
  | _ => false

/-- True for an infinity. -/
def isInf : FVal → Bool
  | inf _ => true
  | _ => false

/-- True for ±0. -/
def isZero : FVal → Bool
  | fin _ m _ => decide (m = 0)
  | _ => false

/-- True for a finite value. -/
def isFin : FVal → Bool
  | fin _ _ _ => true
  | _ => false

/-- −x. -/
def neg : FVal → FVal
  | nan => nan
  | inf n => inf (!n)
  | fin n m e => fin (!n) m e

/-- |x|. -/
def abs : FVal → FVal
  | nan => nan
  | inf _ => inf false
  | fin _ m e => fin false m e

/-- Signed whole mantissa over the exponent k, for k at most e. -/
def scaled (n : Bool) (m : Nat) (e k : Int) : Int :=
  let v : Int := ((m <<< (e - k).toNat : Nat) : Int)
  if n then -v else v

/-- Exact sum. Opposite infinities give NaN (R110); an exact zero from unlike signs is +0. -/
def add : FVal → FVal → FVal
  | nan, _ => nan
  | _, nan => nan
  | inf a, inf b => if a = b then inf a else nan
  | inf a, fin _ _ _ => inf a
  | fin _ _ _, inf b => inf b
  | fin n1 m1 e1, fin n2 m2 e2 =>
    let k := min e1 e2
    let v := scaled n1 m1 e1 k + scaled n2 m2 e2 k
    if v = 0 then fin (n1 && n2) 0 k
    else fin (decide (v < 0)) v.natAbs k

/-- Exact product. An infinity times zero is NaN (R110). -/
def mul : FVal → FVal → FVal
  | nan, _ => nan
  | _, nan => nan
  | inf a, inf b => inf (a != b)
  | inf a, fin b m _ => if m = 0 then nan else inf (a != b)
  | fin a m _, inf b => if m = 0 then nan else inf (a != b)
  | fin a m e, fin b m' e' => fin (a != b) (m * m') (e + e')

/-- x × 2^k, exactly. -/
def scale2 (k : Int) : FVal → FVal
  | nan => nan
  | inf n => inf n
  | fin n m e => fin n m (e + k)

/-- a < b for values that are not NaN; false when either is NaN. -/
def lt : FVal → FVal → Bool
  | nan, _ => false
  | _, nan => false
  | inf a, inf b => a && !b
  | inf a, fin _ _ _ => a
  | fin _ _ _, inf b => !b
  | fin n1 m1 e1, fin n2 m2 e2 =>
    let k := min e1 e2
    decide (scaled n1 m1 e1 k < scaled n2 m2 e2 k)

/-- a = b as numbers: +0 equals −0, and NaN equals nothing. -/
def eq (a b : FVal) : Bool := !(a.isNaN) && !(b.isNaN) && !(lt a b) && !(lt b a)

/-- The exact value of a whole number. -/
def ofInt (i : Int) : FVal := fin (decide (i < 0)) i.natAbs 0

/-- 0. -/
def zero : FVal := fin false 0 0

/-- 1. -/
def one : FVal := fin false 1 0

end FVal

/-! ### FP32 -/

/-- The value of an FP32 pattern. -/
def dec32 (x : Word) : FVal := decodeF fFP32 x.toNat

/-- Rounds an exact value to FP32, to nearest even, never flushing subnormals (R125, R156, R168). -/
def enc32 (x : FVal) : Word := BitVec.ofNat 32 (convF fFP32 .rne false x).bits

/-- FP32 addition. -/
def add32 (a b : Word) : Word := enc32 ((dec32 a).add (dec32 b))

/-- FP32 subtraction. -/
def sub32 (a b : Word) : Word := enc32 ((dec32 a).add (dec32 b).neg)

/-- FP32 multiplication. -/
def mul32 (a b : Word) : Word := enc32 ((dec32 a).mul (dec32 b))

/-- FP32 a × b + c with one rounding. -/
def fma32 (a b c : Word) : Word := enc32 (((dec32 a).mul (dec32 b)).add (dec32 c))

/-- Correctly rounded quotient of two values in a format: n1/n2 × 2^(e1 − e2). -/
def divF (f : Fmt) (a b : FVal) : Nat :=
  match a, b with
  | .nan, _ => f.canonNaN
  | _, .nan => f.canonNaN
  | .inf _, .inf _ => f.canonNaN
  | .inf a, .fin b _ _ => infF f (a != b)
  | .fin a _ _, .inf b => packF f (a != b) 0 0
  | .fin a m e, .fin b m' e' =>
    if m' = 0 then (if m = 0 then f.canonNaN else infF f (a != b))
    else (roundF f .rne false (a != b) m m' (e - e')).bits

/-- FP32 division, correctly rounded (R292). -/
def div32 (a b : Word) : Word := BitVec.ofNat 32 (divF fFP32 (dec32 a) (dec32 b))

/-- One bit of the integer square root, from bit k down. -/
def isqrtGo (n : Nat) : Nat → Nat → Nat
  | 0, r => r
  | k + 1, r => let t := r + 2 ^ k; isqrtGo n k (if t * t ≤ n then t else r)

/-- floor(√n). -/
def isqrt (n : Nat) : Nat := isqrtGo n (n.log2 / 2 + 1) 0

/-- Correctly rounded square root of a value in a format: the root is taken with 2^64 more in the
mantissa than any format holds, and a sticky bit keeps the rounding exact. -/
def sqrtF (f : Fmt) (a : FVal) : Nat :=
  match a with
  | .nan => f.canonNaN
  | .inf n => if n then f.canonNaN else infF f false
  | .fin n m e =>
    if m = 0 then packF f n 0 0
    else if n then f.canonNaN
    else
      let odd := decide (e % 2 = 1)
      let m1 := if odd then 2 * m else m
      let e1 := if odd then e - 1 else e
      let big := m1 <<< 256
      let r := isqrt big
      let sticky := b2n (decide (r * r ≠ big))
      (roundF f .rne false false (2 * r + sticky) 1 (e1 / 2 - 129)).bits

/-- FP32 square root, correctly rounded (R292). -/
def sqrt32 (a : Word) : Word := BitVec.ofNat 32 (sqrtF fFP32 (dec32 a))

/-- True when an FP32 pattern is NaN. -/
def isNaN32 (a : Word) : Bool := (dec32 a).isNaN

/-- True when an FP32 pattern is finite. -/
def isFin32 (a : Word) : Bool := (dec32 a).isFin

/-- The canonical FP32 NaN (R155). -/
def nan32 : Word := 0x7FC00000#32

/-- FP32 1.0. -/
def one32 : Word := 0x3F800000#32

/-- FP32 −Inf. -/
def ninf32 : Word := 0xFF800000#32

/-- FP32 +Inf. -/
def pinf32 : Word := 0x7F800000#32

/-- a < b in FP32; false with NaN. -/
def lt32 (a b : Word) : Bool := (dec32 a).lt (dec32 b)

/-- a = b in FP32; false with NaN. -/
def eq32 (a b : Word) : Bool := (dec32 a).eq (dec32 b)

/-- A NaN becomes the canonical NaN; any other pattern passes unchanged (R155). -/
def canon32 (a : Word) : Word := if isNaN32 a then nan32 else a

/-- An FP32 pattern that is positive and normal. -/
def posNormal32 (a : Word) : Bool := decide (0x00800000 ≤ a.toNat) && decide (a.toNat ≤ 0x7F7FFFFF)

/-! ### FP64 -/

/-- The value of an FP64 pattern. -/
def dec64 (x : DWord) : FVal := decodeF fFP64 x.toNat

/-- Rounds an exact value to FP64, to nearest even. -/
def enc64 (x : FVal) : DWord := BitVec.ofNat 64 (convF fFP64 .rne false x).bits

/-- FP64 addition (R307, R340). -/
def add64 (a b : DWord) : DWord := enc64 ((dec64 a).add (dec64 b))

/-- FP64 multiplication. -/
def mul64 (a b : DWord) : DWord := enc64 ((dec64 a).mul (dec64 b))

/-- FP64 division, correctly rounded. -/
def div64 (a b : DWord) : DWord := BitVec.ofNat 64 (divF fFP64 (dec64 a) (dec64 b))

/-- FP64 square root, correctly rounded. -/
def sqrt64 (a : DWord) : DWord := BitVec.ofNat 64 (sqrtF fFP64 (dec64 a))

/-- An FP64 value rounded to FP32, to nearest even (R291, R308). -/
def to32of64 (a : DWord) : Word := enc32 (dec64 a)

/-- An FP32 value in FP64, exactly. -/
def to64of32 (a : Word) : DWord := enc64 (dec32 a)

/-- FP64 1.0. -/
def one64 : DWord := 0x3FF0000000000000#64

/-- a^s in FP64 by squaring over the bits of s, from bit k − 1 down, each product rounded (R311). -/
def powBits64 (a : DWord) (s : Nat) : Nat → DWord → DWord
  | 0, r => r
  | k + 1, r =>
    let r2 := mul64 r r
    powBits64 a s k (if s.testBit k then mul64 r2 a else r2)

/-- The power of R311: bits 31 down to 0 of s, in FP64, rounded to FP32. -/
def powi32 (a : Word) (s : Nat) : Word := to32of64 (powBits64 (to64of32 a) s 32 one64)

/-! ### The other formats -/

/-- The value of a BF16 pattern. -/
def decBF16 (x : Nat) : FVal := decodeF fBF16 x

/-- An FP32 value into BF16 (R170). -/
def toBF16 (mode : Rnd) (sat : Bool) (x : Word) : Conv := convF fBF16 mode sat (dec32 x)

/-- The value of an E8M0 scale code (R154, R157): 2^(e − 127), NaN for 0xFF. -/
def decE8M0 (x : Nat) : FVal := if x = 0xFF then .nan else .fin false 1 ((x : Int) - 127)

/-- U32 into FP32: exact up to 2^24, to nearest even above (R125). -/
def u32to32 (x : Word) : Word := enc32 (.fin false x.toNat 0)

/-- FP32 into U32 (R171): to nearest even; negative values, −0 and NaN give 0; too large gives the
largest value and SAT. -/
def toU32 (x : Word) : Conv :=
  match dec32 x with
  | .nan => ⟨0, false, false⟩
  | .inf n => if n then ⟨0, false, false⟩ else ⟨0xFFFFFFFF, false, true⟩
  | .fin n m e =>
    if n then ⟨0, false, false⟩
    else
      let a := if 0 ≤ e then m <<< e.toNat else m
      let b := if 0 ≤ e then 1 else 1 <<< (-e).toNat
      let q := a / b
      let v := q + b2n (roundUpQ .rne q (a % b) b)
      if v > 0xFFFFFFFF then ⟨0xFFFFFFFF, false, true⟩ else ⟨v, false, false⟩

/-- The largest whole t below 2^bits + 1 with t^1024 at most bound, one bit at a time. -/
def root1024Go (bound : Nat) : Nat → Nat → Nat
  | 0, r => r
  | k + 1, r =>
    let t := r + 2 ^ k
    root1024Go bound k (if t ^ 1024 ≤ bound then t else r)

/-- The value of an L16 code as an FP32 pattern (R158, R172: nearest even of 2^((n − 32768)/1024)).
The root is found exactly to one bit beyond the FP32 mantissa, with a sticky bit. -/
def decL16 (n : Nat) : Word :=
  if n = 0 then 0#32
  else if n = 0xFFFF then nan32
  else
    let whole : Int := ((n : Int) - 32768) / 1024
    let frac := (((n : Int) - 32768) % 1024).toNat
    let bound := 2 ^ (frac + 26 * 1024)
    let r := root1024Go bound 27 0
    let sticky := b2n (decide (r ^ 1024 ≠ bound))
    BitVec.ofNat 32 (roundF fFP32 .rne false false (2 * r + sticky) 1 (whole - 27)).bits

/-- Bits of log2 of the fixed-point number x/2^prec in [1, 2): each step squares and takes a bit. -/
def log2Bits (prec : Nat) : Nat → Nat → Nat → Nat
  | 0, _, acc => acc
  | k + 1, x, acc =>
    let y := (x * x) >>> prec
    if y ≥ 2 ^ (prec + 1) then log2Bits prec k (y / 2) (2 * acc + 1)
    else log2Bits prec k y (2 * acc)

/-- floor(2^22 × log2(x)) for x = m × 2^e, m above 0, with 192 bits of working precision. -/
def log2Fix (m : Nat) (e : Int) : Int :=
  let k := m.log2
  let x := (m <<< 192) >>> k
  ((k : Int) + e) * 2 ^ 22 + (log2Bits 192 22 x 0 : Nat)

/-- FP32 into L16 (R158, R169, R170): the unrounded code is 32768 + 1024 × log2(x), kept with 12
bits of fraction. The Bool says that the write overflowed to 0xFFFE; no FP32 value has the code 0xFFFE exactly, so that one of at least it
exceeds it.
(DEDUCED, log entry 149) -/
def toL16 (mode : Rnd) (x : Word) : Nat × Bool :=
  match dec32 x with
  | .nan => (0xFFFF, false)
  | .inf _ => (0xFFFE, true)
  | .fin n m e =>
    if m = 0 then (0, false)
    else if n then (0xFFFF, false)
    else
      let code12 : Int := 32768 * 4096 + log2Fix m e
      if code12 < 0 then (0, false)
      else
        let c := code12.toNat
        let q := c / 4096
        let f := c % 4096
        let exact := decide (m = 2 ^ m.log2)
        let up := match mode with
          | .sr draw => decide (f + draw ≥ 4096)
          | .rne => decide (f > 2048) || (decide (f = 2048) && (!exact || decide (q % 2 = 1)))
          | .up => decide (f ≠ 0)
          | .down => false
        let v := q + b2n up
        let tooBig := match mode with
          | .sr _ => decide (0xFFFE ≤ q)
          | _ => decide (v > 0xFFFE)
        if tooBig then (0xFFFE, true) else (v, false)

end Sys2Proof.Machine
end

