-- ==== Sys2Proof/Machine/Staging.lean ====
section
/-! DEFINITION. Staging buffers: the claims on them, the arbiter, and the buffer of a transfer (R263, R272, R273). -/
namespace Sys2Proof.Machine

/-- Class of a transfer (R263, R272). -/
def Work.cls (w : Work) : StageClass :=
  match w with
  | .prefetch _ _ => .p
  | .writeBack _ _ => .p
  | .rows _ => .p
  | .retention _ => .p
  | .frames _ => .p
  | .reload _ => .p
  | .drain _ => .d
  | .base _ => .d
  | .restore => .d
  | .move _ => .m

/-- The transfer of a run's prefetch schedule. -/
def Work.ofRun (w : Work) : Bool :=
  match w with
  | .prefetch _ _ => true
  | .writeBack _ _ => true
  | _ => false

/-- Buffers that a class holds. -/
def Mover.held (m : Mover) (c : StageClass) : Nat := (m.bufs.toList.filter fun b => (b.map (·.work.cls)) = some c).length

/-- Floor in force of a class. -/
def Mover.floor (m : Mover) (c : StageClass) : Nat :=
  match c with
  | .p => m.floorP
  | .d => m.floorD
  | .m => m.floorM

/-- Buffers of the shared pool that classes hold above their floors, and the size of the pool (R272). -/
def Mover.sharedUsed (m : Mover) : Nat := sumNat ([StageClass.p, .m, .d].map fun c => m.held c - m.floor c)
def Mover.sharedSize (m : Mover) : Nat := 128 - (m.floorP + m.floorD + m.floorM)

/-- A class may take a buffer: within its floor, or from the shared pool (R272).
(DEDUCED, log entry 59) -/
def Mover.mayTake (m : Mover) (c : StageClass) : Bool := decide (m.held c < m.floor c) || decide (m.sharedUsed < m.sharedSize)

/-- The buffer in which a transfer's record is in flight. -/
def Mover.bufOf (m : Mover) (w : Work) : Option (Fin 128 × StageBuf) :=
  (List.finRange 128).findSome? fun b => match m.bufs[b] with
    | none => none
    | some x => if x.work = w && !x.landed then some (b, x) else none

/-- A transfer claims a buffer, once. -/
def Mover.claim (m : Mover) (w : Work) : Mover :=
  if (m.bufOf w).isSome || m.claims.any (fun c => c.work = w) then m else { m with claims := m.claims ++ [{ work := w, failed := none }] }

/-- The record of a transfer has landed: STAGING_BUFFER_RETURN returns its buffer (R272). -/
def Mover.land (m : Mover) (w : Work) : Mover :=
  { m with bufs := m.bufs.map fun b => b.map fun x => if x.work = w then { x with landed := true } else x }

/-- A transfer of the kinds named is given up: its claims are withdrawn, and what it holds has nothing more to carry. -/
def Mover.giveUp (m : Mover) (p : Work → Bool) : Mover :=
  { m with bufs := m.bufs.map fun b => b.map fun x => if p x.work then { x with landed := true } else x
           claims := m.claims.filter fun c => !p c.work }

/-- Frees a buffer. -/
def Mover.free (m : Mover) (b : Fin 128) : Mover := { m with bufs := setV m.bufs b none }

/-- The first free buffer but one that failed. -/
def Mover.freeBuf (m : Mover) (failed : Option (Fin 128)) : Option (Fin 128) :=
  (List.finRange 128).find? fun b => m.bufs[b].isNone && decide (failed ≠ some b)

/-- Entry to PARKED or STANDBY has been requested, or the module is there: P takes no further buffers and D pauses (R273). -/
def State.moverPaused (s : State) : Bool := decide (s.pwr.st ≠ .active) || s.pwr.goal.isSome || s.pwr.parkWait

/-- D ranks first for shared buffers: Medlar waits for the buffer of the previous update, or a restore runs (R37, R273). -/
def State.drainFirst (s : State) : Bool := (decide (s.job.stage = .stage5) && !s.sec.bufferFree) || s.sec.restoring

/-- A move that a health change asked for. -/
def State.healthMove (s : State) (w : Work) : Bool :=
  match w with
  | .move obj => s.rt.moveQueue.any fun x => decide (x.1 = obj) && decide (x.2 = .health)
  | _ => false

/-- The claim of a class that is served next, among those a free buffer can serve: a second reading, then a move that a health change asked
for, then the oldest (R273). -/
def State.nextClaim (s : State) (c : StageClass) : Option Claim :=
  let l := s.mover.claims.filter fun x => decide (x.work.cls = c) && (s.mover.freeBuf x.failed).isSome
  ((l.find? fun x => x.failed.isSome).orElse fun _ => l.find? fun x => s.healthMove x.work).orElse fun _ => l.head?

/-- The class to which the next free buffer goes (R272, R273). -/
def State.grantClass (s : State) : Option StageClass :=
  let m := s.mover
  let live := fun (c : StageClass) => (s.nextClaim c).isSome && (!s.moverPaused || decide (c = .m)) && m.mayTake c
  let below := [StageClass.p, .m, .d].find? fun c => live c && decide (m.held c < m.floor c)
  match below with
  | some c => some c
  | none => (if s.drainFirst then [StageClass.d, .p, .m] else [.p, .m, .d]).find? live

/-- Gives a buffer to a claim. -/
def Mover.give (m : Mover) (b : Fin 128) (c : Claim) : Mover :=
  { m with bufs := setV m.bufs b (some { work := c.work, again := c.failed.isSome, bad := false, landed := false })
           claims := m.claims.erase c }

/-- One grant (R272); answers the transfer that has its buffer now. -/
def State.grant (s : State) : Option Work × State :=
  match s.grantClass.bind s.nextClaim with
  | none => (none, s)
  | some c => match s.mover.freeBuf c.failed with
    | none => (none, s)
    | some b => (some c.work, s.upMover fun m => m.give b c)

/-- Goes on with a transfer that has its buffer, with whether its source could not be read; else the transfer claims one. -/
def State.withBuf (s : State) (w : Work) (k : Bool → State → State) : State :=
  match s.mover.bufOf w with
  | none => s.upMover fun m => m.claim w
  | some (_, x) => k x.bad (s.upMover fun m => m.land w)

end Sys2Proof.Machine
end

