-- ==== Sys2Proof/Machine/JobOps.lean ====
section
/-! DEFINITION. Operations on the job that several families share: the step record and its delivery, waiting at
collectives, teardown and the failure path. -/
namespace Sys2Proof.Machine

/-- A signed 32-bit field. -/
def toLEi32 (i : Int) : Bytes := toLE (i % 4294967296).toNat 4

/-- The step record of R349: 256 B, then one 8 B entry per ratio.
(DEDUCED, log entry 73) -/
def StepRecord.bytes (r : StepRecord) : Bytes :=
  toLE r.step.toNat 8 ++ toLE r.jobId.toNat 4 ++
  toLE (r.status.toNat + 2 ^ 8 * r.decision.toNat + 2 ^ 10 * b2n r.replayRun + 2 ^ 11 * b2n r.nonfiniteOwn +
    2 ^ 12 * b2n r.ovfOwn + 2 ^ 13 * b2n r.lateOwn + 2 ^ 14 * b2n r.critical) 4 ++
  toLE r.sumsq.toNat 8 ++ toLE r.clip.toNat 4 ++ toLE r.waitFraction.toNat 4 ++
  toLE r.nonfiniteMembers.toNat 4 ++ toLE r.ovfMembers.toNat 4 ++ toLE r.lateMembers.toNat 4 ++
  toLE r.criticalMembers.toNat 4 ++ toLE r.deferredJob.toNat 4 ++ toLE r.droppedJob.toNat 4 ++
  toLE r.deferredHere.toNat 4 ++ toLE r.droppedHere.toNat 4 ++
  toLE r.tStart.toNat 8 ++ toLE r.tLastContrib.toNat 8 ++ toLE r.tSent.toNat 8 ++ toLE r.tDecision.toNat 8 ++
  toLE r.tUpdateEnd.toNat 8 ++ toLE r.jobMeanTime.toNat 8 ++ toLE r.u.toNat 8 ++ toLEi32 r.marginMin ++
  toLE r.contribMin 4 ++ toLE r.waitBuffer 4 ++ toLE r.waitStepSize 4 ++ toLE r.waitOutbox 4 ++ toLE r.rowsDropped.toNat 4 ++
  toLE r.lateStreak.toNat 4 ++ toLE r.ratios.length 4 ++ List.replicate 104 0 ++
  r.ratios.flatMap fun e => toLE (e.1 % 1024 + 1024 * (e.2.1 % 64)) 4 ++ toLE e.2.2.toNat 4

/-- Every descriptor of the rings, with its ring. -/
def HostIf.allDescs (h : HostIf) : List (Fin 64 × Desc) :=
  (List.finRange 64).flatMap fun r => h.rings[r].descs.map fun d => (r, d)

/-- The first descriptor in progress with an opcode that satisfies a test. -/
def State.findDesc (s : State) (op : Nat) (p : Desc → Bool) : Option (Fin 64 × Desc) :=
  s.host.allDescs.find? fun x => x.2.begun && x.2.fin.isNone && decide (x.2.opcode = op) && p x.2

/-- Writes bytes into host memory (R481); nothing reaches the host while the link is down. -/
def State.hostWrite (s : State) (addr : DWord) (bs : Bytes) : State :=
  s.when (s.host.linkUp && !bs.isEmpty) fun s => s.upHost fun h => { h with dataOut := h.dataOut ++ [(addr, bs)] }

/-- Returns a step record: writes it for the STEP descriptor of its step, and completes that descriptor (R486). -/
def State.returnRecord (s : State) (rc : StepRecord) : State :=
  let s := s.upJob fun j => { j with records := j.records ++ [rc] }
  match s.findDesc 0x11 (fun d => decide (d.stepOf = rc.step)) with
  | none => s
  | some (r, d) =>
    let bytes := rc.bytes
    let len := leNat d.bytes 0x28 8
    let s := s.hostWrite (BitVec.ofNat 64 (leNat d.bytes 0x20 8)) (bytes.take len)
    s.complete r d.index rc.status.toNat (if len < bytes.length then 0x1A + 256 * ceilDiv bytes.length 64 else 0) rc.step

/-- Every tile of a KIND 1 object has been written since the decision of update (R343). -/
def Collectives.allWritten (c : Collectives) (e : ObjE) : Bool :=
  !c.w2Armed || (List.range e.tiles).all fun t => decide ((getKV (BitVec.ofNat 32 e.id, t) c.w2Got).getD 0 ≥ recSize e.fmt)

/-- The same of every KIND 1 object. -/
def State.multicastDone (s : State) : Bool := s.rt.objects.all fun o => decide (o.e.kind ≠ 1) || s.coll.allWritten o.e

/-- Runs that each region has to complete in a run of a step (R219 WEIGHT: one by default; R221). -/
def State.allRunsDone (s : State) : Bool :=
  !s.rt.regions.isEmpty && s.rt.regions.all fun g => !g.running && decide (g.doneRuns > 0)

/-- The multicast of a layer is complete on the module: every tile of its KIND 1 objects (R343). -/
def State.layerDone (s : State) (layer : Nat) : Bool :=
  s.rt.objects.all fun o => decide (o.e.kind ≠ 1) || decide (o.e.layer ≠ layer) || s.coll.allWritten o.e

/-- Indexes of the prefetch table in the order of R268: ascending ORDER, then ascending index. -/
def pfOrder (im : Image) : List Nat :=
  (List.range im.prefetch.length).inOrder fun i j =>
    match im.prefetch[i]?, im.prefetch[j]? with
    | some a, some b => decide (a.order < b.order) || (decide (a.order = b.order) && decide (i ≤ j))
    | _, _ => true

/-- Stage 1 is held under R38: a nest waits for a record of a region whose schedule has an entry of a working tile that cannot begin, because
the multicast of its layer is not complete. -/
def State.stage1Held (s : State) : Bool :=
  match s.rt.image with
  | none => false
  | some im => ((pfOrder im).drop s.mover.begun).any fun i => match im.prefetch[i]? with
    | none => false
    | some e =>
      (match s.rt.objects.find? fun o => o.e.id = e.obj with
        | none => false
        | some o => decide (o.e.kind = 1) && !s.layerDone o.e.layer) &&
      s.cells.toList.any fun c => match c.nest with
        | none => false
        | some n => n.waiting && decide ((im.regions.findIdx? fun g => g.region = e.region) = some n.region)

/-- The module waits at collectives (R345). -/
def State.waitingNow (s : State) : Bool :=
  decide (s.job.phase = .formed) &&
    ((s.coll.ownRec.isSome && s.coll.result.isNone) ||
     (decide (s.job.stage = .running) && (s.stage1Held || s.allRunsDone)))

/-- Opens or closes the interval of waiting at collectives. -/
def State.noteWait (s : State) : State :=
  match s.job.waitSince, s.waitingNow with
  | none, true => s.upJob fun j => { j with waitSince := some s.now }
  | some t, false => s.upJob fun j => { j with waitSince := none, waits := j.waits ++ [(t, s.now)] }
  | _, _ => s

/-- The hold of a step boundary is reached (R461): stage 5 of the step named has ended, its multicast is complete, and no stage 1
has begun. -/
def State.holdReached (s : State) : Bool :=
  decide (s.job.phase = .formed) && decide (s.job.stage = .idle) && decide (s.job.holdStep = some s.job.step) && s.multicastDone

/-- Completes the HOLD of a boundary that is reached. -/
def State.holdCheck (s : State) : State :=
  if s.holdReached then
    let k := s.job.step
    let s := s.upJob fun j => { j with phase := .held, holdStep := none }
    match s.findDesc 0x13 (fun d => decide (d.stepOf = k)) with
    | none => s
    | some (r, d) => s.complete r d.index stOk 0 k
  else s

/-- What the end of a stage or a tile of the multicast may change: waiting at collectives (R345), and a HOLD (R461). -/
def State.noteStep (s : State) : State := s.noteWait.holdCheck

/-- Module time units of the last millisecond spent waiting (R345). -/
def State.waitedLastMs (s : State) : Nat :=
  let lo := s.now.toNat - msU
  let spans := s.job.waits.map (fun w => (w.1.toNat, w.2.toNat)) ++
    (match s.job.waitSince with | none => [] | some t => [(t.toNat, s.now.toNat)])
  sumNat (spans.map fun w => w.2 - max lo w.1)

/-- FP32 of a quotient, rounded to nearest even. -/
def quot32 (n d : Nat) : Word :=
  if d = 0 then 0 else div32Exact n d
where
  /-- The quotient of two naturals as FP32. -/
  div32Exact (n d : Nat) : Word := BitVec.ofNat 32 (roundF fFP32 .rne false false n d 0).bits

/-- The samples of the run, taken from its start S (R345). -/
def State.runSamples (s : State) : List Nat := (s.job.samples.filter fun x => decide (s.job.tStart.toNat ≤ x.1.toNat)).map (·.2)

/-- The step's wait fraction: the mean of its samples (R345).
(DEDUCED, log entry 72) -/
def State.waitFraction (s : State) : Word := quot32 (sumNat s.runSamples) (s.runSamples.length * msU)

/-- Clears what a run gathers, before a run begins at start S (R331, R348). -/
def State.clearRun (s : State) : State :=
  ((s.upColl fun c =>
    { c with tiles := [], toSend := [], sentNonfinite := false, slotNonfinite := false, lateOwn := false, marginMin := none,
             contribMin := none, ownRec := none, children := [], sentUp := false, result := none, droppedN := 0,
             deferredN := 0, rowsDropped := 0 }).upRt (fun t =>
    { t with regions := t.regions.map (fun g => { g with doneRuns := 0, running := false }), layerRuns := [], ovf := false,
             nonfinite := false, nestsStarted := 0, nestsReported := 0, ovfSet := [] })).upMover fun m => { m.giveUp Work.ofRun with active := [], begun := 0 }

/-- Stops every region, cell program and nest (R452). -/
def State.stopRegions (s : State) : State :=
  let s := s.upRt fun t => { t with regions := t.regions.map fun g => { g with running := false } }
  { s with cells := s.cells.map fun c =>
      { c with pc := none, ended := false, awaiting := none, nest := none, held := none, heldStart := none, outs := [] } }

/-- Ends the descriptors of a torn-down job with JOB_TORN_DOWN: STEP descriptors and what is in progress (R396, R486,
R491). A STEP in progress returns its record. -/
def State.endJobDescs (s : State) : State :=
  let doomed := s.host.allDescs.filter fun x =>
    decide (s.host.rings[x.1].jobId = some s.job.p.jobId) && x.2.fin.isNone &&
      (decide (x.2.opcode = 0x11) || (x.2.begun && decide (x.2.opcode ∈ [0x13, 0x14, 0x15, 0x10])))
  doomed.foldl (fun s x =>
    if x.2.begun && x.2.opcode = 0x11 then
      let base := if x.2.stepOf = s.job.step then s.job.record else StepRecord.zero
      s.returnRecord { base with step := x.2.stepOf, jobId := s.job.p.jobId, status := BitVec.ofNat 8 stTornDown, decision := 3,
                                 deferredHere := s.coll.deferredN, droppedHere := s.coll.droppedN, u := s.medlar.u }
    else s.complete x.1 x.2.index stTornDown 0 0) s

/-- Tears the job down on this module (R396, steps 1 to 4).
(DEDUCED, log entry 74) -/
def State.tearDown (s : State) : State :=
  if s.job.phase = .none ∨ s.job.phase = .tornDown then s
  else s.reEnv fun s =>
    let id := s.job.p.jobId
    let last := s.job.step
    let s := s.stopRegions
    let s := s.upFab fun b =>
      { b with outstanding := b.outstanding.filter (fun o => decide (o.pkt.job ≠ id)),
               waiting := b.waiting.filter (fun o => decide (o.pkt.job ≠ id)),
               cache := b.cache.map fun e => if e.job = id then { e with dropAt := some (s.now + BitVec.ofNat 64 (100 * usU)) } else e }
    let s := s.upColl fun c =>
      { c with tiles := [], toSend := [], early := [], deferred := [], ownRec := none, children := [], early4 := [], sentUp := false, result := none }
    let s := s.upMover fun m => { m.giveUp (fun w => decide (w.cls ≠ .m)) with active := [] }
    let s := s.upHost fun h => { h with rings := h.rings.map fun g => { g with setupOn := if g.jobId = some id then false else g.setupOn } }
    let s := s.endJobDescs
    let s := s.upJob fun j =>
      { j with phase := .tornDown, torn := if id ∈ j.torn then j.torn else j.torn ++ [id], stage := .idle, holdStep := none,
               waitSince := none, waits := [], samples := [] }
    let s := s.upSec fun c => { c with units := [], bufferSince := none, restoring := false, startStep := none, handoverWait := false, handoverTo := [], handover := [], handoverRead := [] }
    let s := s.upMedlar fun m => { m with passOn := false, pass := [], outboxes := [], outboxSince := Vector.replicate 12 none, sizes := [], inUse := none }
    let s := s.dropShares.upPwr fun p =>
      { p with goal := if p.parkWait then some .parked else p.goal, parkWait := false }
    let s := s.upHost fun h => { h with rings := h.rings.map fun g => g.drainEnd none }
    s.eventFor id evTornDown last 0

/-- Leaves the job by the failure path (R452). When the cause darkens the ports or removes the rails, no DEAD_SUSPECT
is sent. -/
def State.leaveJobs (s : State) (dark : Bool) : State :=
  if s.inJob then
    let s := s.when (!dark) fun s => s.deadSuspect s.job.p.jobId s.fab.modId 0 0
    (s.upSec fun c => { c with serves := if dark then none else some s.job.p.jobId }).tearDown
  else s

end Sys2Proof.Machine
end

