-- ==== Sys2Proof/Machine/PowerOps.lean ====
section
/-! DEFINITION. Operations on frequencies, voltages and the ceiling that several families share (R408 to R420). -/
namespace Sys2Proof.Machine

/-- F_FUSE of a cluster in MHz, from 500 to 1,800 in steps of 5 (R408). -/
def fFuse (c : Nat) : Nat := 500 + 5 * (Config.fuseRaw c % 261)

/-- The ageing-derated maximum for a slowdown in ppm (R410).
(DEDUCED, log entry 88) -/
def derated (fuse ppm : Nat) : Nat := fuse * (1000000 - ppm) / 1000000 / 5 * 5

/-- The pair of a cluster is formed (R62). -/
def State.paired (s : State) (c : Fin 64) : Bool := s.time.pairFormed.getLsbD (c.val / 2)

/-- The cluster whose oscillator clocks a cluster: the even one of a formed pair (R58). -/
def State.oscOf (s : State) (c : Fin 64) : Fin 64 :=
  if s.paired c then ⟨c.val / 2 * 2, by omega⟩ else c

/-- The clusters that one oscillator clocks. -/
def State.halves (s : State) (c : Fin 64) : List (Fin 64) :=
  if s.paired c then [⟨c.val / 2 * 2, by omega⟩, ⟨c.val / 2 * 2 + 1, by omega⟩] else [c]

/-- Effective maximum frequency of one cluster (R410). -/
def State.effMax1 (s : State) (c : Fin 64) : Nat := min (fFuse c.val) (derated (fFuse c.val) s.clusters[c].slow)

/-- Effective maximum of the cluster's clock: of a pair, the lower of the two (R59). -/
def State.effMax (s : State) (c : Fin 64) : Nat := ((s.halves c).map s.effMax1).foldl min 1800

/-- Compute die of a cluster (R13). -/
def dieOf (c : Fin 64) : Fin 4 := ⟨c.val / 16, by omega⟩

/-- The clusters of a die. -/
def clustersOf (d : Fin 4) : List (Fin 64) := (List.finRange 64).filter fun c => dieOf c = d

/-- VCORE rail of a die. -/
def railOf (d : Fin 4) : Fin 8 := ⟨d.val, by omega⟩

/-- F_FUSE of a cluster's clock in MHz: of a pair, the lower of the two (R46, R59). -/
def State.fuseMHz (s : State) (c : Fin 64) : Nat := ((s.halves c).map fun h => fFuse h.val).foldl min 1800

/-- Indexes of the regions bound to a cluster that shares the cluster's clock (R58, R234). -/
def State.regionsOn (s : State) (c : Fin 64) : List Nat :=
  (List.range s.rt.regions.length).filter fun i =>
    match (s.rt.regions[i]?.bind (·.cluster)) with
    | none => false
    | some b => decide (s.oscOf b = s.oscOf c)

/-- The region table entry of an index. -/
def State.regionE (s : State) (i : Nat) : Option RegionE := s.rt.image.bind fun m => m.regions[i]?

/-- The lowest F_CAP of the regions bound to a cluster. -/
def State.fCap (s : State) (c : Fin 64) : Nat :=
  ((s.regionsOn c).filterMap fun i => (s.regionE i).map (·.fCap)).foldl min 1800

/-- A sensor of the die's clusters holds the die at 500 MHz (R430). -/
def State.dieHot (s : State) (d : Fin 4) : Bool :=
  s.pwr.hard.any fun x => match x with
    | .cluster c => decide (dieOf c = d)
    | _ => false

/-- The set frequency of a cluster (R234, R419), 500 MHz where R402 or R430 hold the die there. -/
def State.wantMHz (s : State) (c : Fin 64) : Nat :=
  let d := dieOf c
  if s.pwr.rails[railOf d].fault || s.dieHot d then 500
  else
    let own := ((s.halves c).map fun h => if s.clusters[h].ownCap = 0 then 1800 else s.clusters[h].ownCap).foldl min 1800
    min s.pwr.fMod.toNat (min s.pwr.dies[d].cap (min own (min (s.effMax c) (s.fCap c))))

/-- Period of a frequency in femtoseconds. -/
def periodOf (mhz : Nat) : Nat := if mhz = 0 then 0 else 1000000000 / mhz

/-- The points of the VMIN table in MHz (R408). -/
def vminPoints : List Nat := [500, 750, 1000, 1250, 1500, 1800]

/-- VMIN of a cluster at a frequency, as a quotient in mV (R408): interpolated between the points of its table up to its F_FUSE. Above
the last of them the fused value is not given by the table. -/
def vminAt (c mhz : Nat) : Int × Int :=
  let i := ((vminPoints.drop 1).filter (· < mhz)).length
  let lo := vminPoints.getD i 500
  let hi := vminPoints.getD (i + 1) 1800
  let v := fun k => 5 * (Config.vminRaw c k : Int)
  if mhz = lo then (v i, 1)
  else if hi ≤ fFuse c then (v i * ((hi : Int) - lo) + (v (i + 1) - v i) * ((mhz : Int) - lo), (hi : Int) - lo)
  else (Config.vminAbove c mhz, 1)

/-- Voltage in mV, rounded up to 5 mV, that a cluster asks of its die at a frequency: VMIN plus the ageing guard, plus 10 mV (R408,
R410, R411).
(DESIGN CHOICE, log entry 138) -/
def State.askMv (s : State) (c : Fin 64) (mhz : Nat) : Nat :=
  let (num, den) := vminAt c.val mhz
  let guard : Int := ((s.clusters[c].slow + 999) / 1000 : Nat)
  (ceilDiv (num + (guard + 10) * den).toNat (5 * den.toNat)) * 5

/-- The clusters of a die that have a bound region. -/
def State.boundOf (s : State) (d : Fin 4) : List (Fin 64) := (clustersOf d).filter fun c => !(s.regionsOn c).isEmpty

/-- Present frequency of a cluster in MHz, rounded up to one that has a period as short. -/
def Cluster.nowMHz (c : Cluster) : Nat :=
  let f := 1000000000 / c.periodFs
  if periodOf f = c.periodFs then f else f + 1

/-- Voltage that a die needs in mV (R411), for the higher of the set frequency and the one each cluster still runs at. -/
def State.dieMv (s : State) (d : Fin 4) : Nat :=
  min 700 (max 400 (maxList ((s.boundOf d).map fun c => s.askMv c (max s.clusters[c].setMHz (min 1800 s.clusters[c].nowMHz)))))

/-- A droop response is active on a die (R414). -/
def State.dieDroops (s : State) (d : Fin 4) : Bool := (clustersOf d).any fun c => s.clusters[c].droop

/-- Brings a die's wanted VCORE target up to date (R411, R413), in ACTIVE alone (R433): a raise is asked for at once unless the rail is in
fault; a lowering is never asked for while a droop response on the die is active (R414). -/
def State.retarget (s : State) (d : Fin 4) : State :=
  let r := s.pwr.rails[railOf d]
  let v := 2 * s.dieMv d
  let droop := s.dieDroops d
  if s.pwr.st ≠ .active || !r.enabled || s.pwr.dies[d].railOff || v = r.wantTarget then s
  else if v > r.wantTarget then
    if r.fault then s
    else s.upPwr fun p => { p with rails := updV p.rails (railOf d) fun r => { r with wantTarget := v, pending := true, status2 := false } }
  else if droop then s
  else s.upPwr fun p => { p with rails := updV p.rails (railOf d) fun r => { r with wantTarget := v, pending := decide (v ≠ r.target), status2 := false } }

/-- Gives a cluster its set frequency; a frequency step begins when the period must change, and none begins while its
droop response is active (R413, R414). A raise does not start on a die whose governor level is above 0. -/
def State.refreqCluster (s : State) (c : Fin 64) : State :=
  let k := s.clusters[c]
  let w := s.wantMHz c
  if !k.running || (s.regionsOn c).isEmpty || w = k.setMHz || k.droop then s
  else if w > k.setMHz && decide (s.pwr.dies[dieOf c].level > 0) then s
  else s.upCluster c fun k =>
    { k with setMHz := w, stepTo := if periodOf w = k.periodFs then none else some w, stepHeld := false, trackErr := 0 }

/-- A period and a trim that together never set a period shorter than that of F_FUSE (R46). -/
def Cluster.paced (k : Cluster) (period : Nat) (trim : Int) (fuse : Nat) : Cluster :=
  { k with periodFs := period, trimFs := max trim ((periodOf fuse : Int) - period) }

/-- Gives every cluster its set frequency, and every die its target, while the clusters' clocks run: in ACTIVE (R433). -/
def State.refreq (s : State) : State :=
  if s.pwr.st ≠ .active then s
  else
    let s := (List.finRange 64).foldl State.refreqCluster s
    (List.finRange 4).foldl State.retarget s

/-! ### The voltage request bus and the power-up order (R400, R529) -/

/-- The module's part of a frame, bits [63:24] (R400). -/
def vrbHead (rail target slew : Nat) (enable : Bool) : BitVec 40 :=
  let h := 0xA * 2 ^ 28 + rail % 8 * 2 ^ 25 + target % 4096 * 2 ^ 13 + slew % 4 * 2 ^ 11 + b2n enable * 2 ^ 10
  BitVec.ofNat 40 (h * 256 + crc8 h 32 0)

/-- Changes one rail. -/
def State.upRail (s : State) (i : Fin 8) (f : Rail → Rail) : State := s.upPwr fun p => { p with rails := updV p.rails i f }

/-- The order in which the rails come on, their first targets in units of 0.5 mV, and the SLEW code of 10 mV/µs (R400, R529). -/
def onOrder : List (Fin 8) := [4, 5, 6, 0, 1, 2, 3]
def firstTarget (i : Nat) : Nat := if i < 4 then 1000 else if i = 4 then 1500 else if i = 5 then 2200 else 1800
def onSlew : Nat := 1

/-- Time from the acknowledgement of a rail's ENABLE frame to the next one: target divided by slew, and 10 µs (R529). -/
def rampU (i : Nat) : Nat := (firstTarget i / 20 + 10) * usU

/-- A rail's first ENABLE frame is acknowledged: it is on at its first target, and the next rail waits for its ramp (R529). -/
def State.railOn (s : State) (i : Fin 8) : State :=
  (s.upRail i fun r =>
    { r with target := firstTarget i.val, wantTarget := firstTarget i.val, enabled := true, wantEnable := true, pending := false }).upPwr fun p =>
    { p with onSeq := p.onSeq.erase i, onAt := after s.now (rampU i.val) }

/-- The sequence of R529 as a start runs it, every frame acknowledged: rail after rail, each frame after the ramp of the rail before it. At its
end PWR_GOOD rises. -/
def State.powerUp (s : State) : State :=
  let s := onOrder.foldl (fun (s : State) i =>
    let s := (s.upPwr fun p => { p with lastFrame := vrbHead i.val (firstTarget i.val) onSlew true, busUp := true }).railOn i
    s.advanceTo s.pwr.onAt) s
  s.upPins fun p => { p with pwrGood := true }

/-- The rails 0 to 6 that the module needs outside STANDBY are on, and none of them is in fault (R522). -/
def State.railsGood (s : State) : Bool := (List.finRange 7).all fun i => s.pwr.rails[i].enabled && !s.pwr.rails[i].fault

/-- Counts the time since the last settling at the present governor level: in 8 + level set periods of time 8 periods begin, of which level last
twice as long (R405). 720,720 is a multiple of every 8 + level. -/
def DieP.settle (d : DieP) (now : DWord) : DieP :=
  let w := (now.toNat - d.govAt.toNat) * (720720 / (8 + d.level))
  { d with govAt := now, govNum := d.govNum + d.level * w, govDen := d.govDen + 8 * w }

/-- The same for every die. -/
def State.settleGov (s : State) : State := s.upPwr fun p => { p with dies := p.dies.map fun d => d.settle s.now }

/-- The highest f_mod whose predicted draw is at most 0.98 × E (R419).
(DESIGN CHOICE, log entry 89) -/
def fmodFor (n e : Nat) : Nat :=
  ((List.range 53).map (fun i => 1800 - 25 * i)).find? (fun f => decide (100 * Config.predictedDraw n f ≤ 98 * e)) |>.getD 500

end Sys2Proof.Machine
end

