-- ==== Sys2Proof/Machine/StartOps.lean ====
section
/-! DEFINITION. Beginning, ending and failing a start (R508 to R518), shared by every trigger. -/
namespace Sys2Proof.Machine

/-- Kinds of fault log entry (R496). The spec gives no layout for the 32 B entry, so the model keeps a kind and a time. -/
def fkWatchdog : Nat := 1
def fkOvercurrent : Nat := 2
def fkTrip : Nat := 3
def fkStart : Nat := 4
def fkApproval : Nat := 5
def fkLongOp : Nat := 6
def fkCounter : Nat := 7

/-- Quince answers requests: it runs, and the module is not held in reset (R493, R532). -/
def State.quinceUp (s : State) : Bool := s.quince.running && s.pins.vaux && s.pins.modRst

/-- Quince answers more than STATUS, FAULT_LOG, PLDM and SPDM (R506).
(DEDUCED, log entry 113) -/
def State.quinceServes (s : State) : Bool := s.quinceUp && decide (s.quince.life ≠ .retired)

/-- Raises an in-band interrupt to the board controller (R497). -/
def State.raiseIbi (s : State) : State := s.upQuince fun q => { q with ibi := q.ibi + 1 }

/-- Sends a message to the board controller (R496). -/
def State.mctp (s : State) (m : MctpOut) : State := s.upQuince fun q => { q with out := q.out ++ [m] }

/-- Module time through a start: the registers return to reset, while Damson's time, its beacons and its reference go
on unless the module itself was in reset (R71, R72). PAIR_EN is carried only where R547 says so. -/
def TimeBase.restart (t : TimeBase) (fromReset carryPair : Bool) : TimeBase :=
  let pair := if carryPair then t.pairEn else 0
  if fromReset then { TimeBase.reset with pairEn := pair }
  else { TimeBase.reset with
    now := t.now, stepped := t.stepped, lastBeacon := t.lastBeacon, ctr := t.ctr, holdover := t.holdover, refLost := t.refLost, clearAt := t.now,
    pairEn := pair }

/-- A cluster through a start: the persistent record keeps its slowdown and health (R235, R409). -/
def Cluster.restart (c : Cluster) : Cluster :=
  { Cluster.reset with slow := c.slow, health := c.health, limitHour := c.limitHour }

/-- A cell through a start (R235, R279). -/
def CellS.restart (c : CellS) : CellS :=
  { CellS.reset with tap := c.tap, health := c.health, ceHour := c.ceHour, ueTimes := c.ueTimes }

/-- The times that the model keeps through a start, before module time goes back to 0 in reset: each by how long ago it was (R49, R86, R282, R514).
(DESIGN CHOICE, log entry 159) -/
def State.shiftTimes (s : State) : State :=
  let back := fun (l : List DWord) => l.map (· - s.now)
  let backs := fun (l : List (Nat × DWord)) => l.map fun x => (x.1, x.2 - s.now)
  let unit := fun (u : UnitHealth) => { u with ceHour := back u.ceHour, rowHits := backs u.rowHits, ueRows := backs u.ueRows }
  let s : State := { s with
    clusters := s.clusters.map fun k => { k with limitHour := back k.limitHour }
    cells := s.cells.map fun c => { c with ceHour := back c.ceHour, ueTimes := back c.ueTimes } }
  (s.upTiers fun t => { t with stkUnits := t.stkUnits.map unit, devUnits := t.devUnits.map unit }).upQuince fun q => { q with wdTimes := back q.wdTimes }

/-- A row that was corrected more than 16 times in a day (R282). -/
def UnitHealth.repeated (u : UnitHealth) (row : Nat) : Bool := decide ((u.rowHits.filter fun x => x.1 = row).length > 16)

/-- A unit through a start: the repeated rows of a DEGRADED unit are replaced by spare rows, which begin without an error (R282). -/
def UnitHealth.restart (u : UnitHealth) : UnitHealth :=
  if u.health = .good then u
  else { u with spared := u.spared ++ ((u.rowHits.map (·.1)).dedup.filter u.repeated), rowHits := u.rowHits.filter fun x => !u.repeated x.1 }

/-- The memory tiers before their wipe: unit health is kept (R282), the data of the last start cannot be read (R276). -/
def Tiers.restart (t : Tiers) : Tiers :=
  { Tiers.reset with stkUnits := t.stkUnits.map UnitHealth.restart, devUnits := t.devUnits.map UnitHealth.restart, mediaKey := t.mediaKey }

/-- The memory tiers in OFF: the tier keys are lost, and with them every volatile content (R276, the table of R433). -/
def Tiers.off (t : Tiers) : Tiers :=
  { Tiers.reset with stkUnits := t.stkUnits, devUnits := t.devUnits, mediaKey := t.mediaKey }

/-- Securing state through a start: flash content is kept (R280). -/
def Resilience.restart (r : Resilience) : Resilience :=
  { Resilience.reset with flash := r.flash, flashStep := r.flashStep, bases := r.bases, flashLogs := r.flashLogs,
                          flashPoints := r.flashPoints, jobKey := r.jobKey }

/-- The host interface through a start: link logic and MSI-X table lie in the always-on domain (R466); a long operation that goes on in Quince keeps
the management interface busy (R490). -/
def HostIf.restart (h : HostIf) (fromReset busy : Bool) : HostIf :=
  let h := if fromReset then { HostIf.reset with events := h.events, sent := h.sent, dataOut := h.dataOut }
    else { HostIf.reset with
      cfgReady := h.cfgReady, linkUp := h.linkUp, gen := h.gen, width := h.width, msix := h.msix, msixEn := h.msixEn,
      longOp := h.longOp, longResult := h.longResult, events := h.events, sent := h.sent, dataOut := h.dataOut, drs := h.drs,
      frs := h.frs }
  { h with mgmtBusy := busy }

/-- The inactive slot, half written, can no longer be selected (R519). -/
def Quince.dropWritten (q : Quince) : Quince :=
  { (if q.activeSlot then { q with slotA := { q.slotA with present := false } } else { q with slotB := { q.slotB with present := false } } : Quince) with
    pending := false }

/-- An operation of Quince is cut short by a loss of supply, by the reset input or by T_TRIP (R505, R519): what was recorded of a lifecycle
change or a sanitise stays for the next power-on; anything else is abandoned, and the slot that a commit was writing is not pending and is never
selected. -/
def State.cutLong (s : State) : State :=
  match s.quince.long with
  | none => s
  | some (op, _) =>
    let keep := match op with
      | .lifecycle _ => true
      | .sanitise => true
      | _ => false
    let s := match op with
      | .firmware _ => s.upQuince Quince.dropWritten
      | _ => s
    (s.upQuince fun q => { q with long := none }).upHost fun h => { h with mgmtBusy := h.mgmtBusy && keep }

/-- Begins a start (R508, R509): every job is left, the set-up lock is cleared, and every register returns to its
reset value but those that the rules keep. An open approval closes, of which the board is told (R497).
(DEDUCED, log entry 118) -/
def State.beginStart (s : State) (fromReset carryPair : Bool) (st : StartS) : State :=
  let s := (s.when s.inJob State.tearDown).when s.quince.approval.isSome State.raiseIbi
  let s := s.when fromReset State.shiftTimes
  { s with
    time := s.time.restart fromReset carryPair
    clusters := s.clusters.map Cluster.restart
    queues := Vector.replicate 7680 .reset
    joins := Vector.replicate 1792 .reset
    cells := s.cells.map CellS.restart
    rt := .reset
    mover := .reset
    tiers := s.tiers.restart
    job := .reset
    medlar := .reset
    coll := .reset
    sec := s.sec.restart
    fab := .reset
    pwr := .reset
    host := s.host.restart fromReset s.quince.long.isSome
    quince := { s.quince with
      reqAddr := 0, rspAddr := 0, reqLen := 0, rspLen := 0, mbxBusy := false, mbxDone := false, mbxStatus := 0, mbxDetail := 0,
      approval := none, start := some st, retryDue := none, startWaits := false, running := true, recoveryRuns := false }
    pins := { s.pins with pwrGood := false, goodHeld := false, sbSel := 0, tpLog2 := 0x22, tpLockedOnly := false, sbErr := false,
                          traceRefused := false, traceOn := false, vrbClk := true }
    regs := .reset }

/-- The start that VAUX or the reset input begins (R508): warm unless DEFAULT_COLD says cold, or a lifecycle change or sanitise ends here (R504, R519);
a pending slot is tried. -/
def State.powerStart (s : State) (cold : Bool) : State :=
  s.beginStart true false
    { warm := !s.quince.defaultCold && !cold, asked := false, recovery := false, trial := s.quince.pending, since := 0 }

/-- A start by a requested path (R508). -/
def State.askedStart (s : State) (warm carryPair : Bool) : State :=
  s.beginStart false carryPair
    { warm := warm, asked := true, recovery := false, trial := s.quince.pending, since := s.now }

/-- A start fails (R511 to R513, R518): the count rises, a trial's slot stops being pending, and Quince starts again one
second later, or gives up after a failed recovery start.
(DEDUCED, log entry 117) -/
def State.failStart (s : State) : State :=
  match s.quince.start with
  | none => s
  | some st =>
    let s := (s.logFault fkStart).raiseIbi
    let s := s.upQuince fun q =>
      { q with
        start := none
        failCount := satAdd q.failCount 1
        pending := if st.trial then false else q.pending
        commitRejected := if st.trial then true else q.commitRejected
        retryDue := if st.recovery then none else some s.now
        startWaits := st.recovery }
    let s := s.upHost fun h => { h with deviceReady := false }
    s.when st.recovery fun s => s.assertFault .failedRecovery

/-- Every port that PORT_EN allows begins bring-up (R352, R353); on the recovery image every port stays DISABLED (R513). -/
def State.bringUpPorts (s : State) : State :=
  s.upFab fun b =>
    { b with
      ports := b.ports.mapFinIdx fun i p _ =>
        if b.portEn.getLsbD i && !s.quince.recoveryRuns then { p with st := .training, trainSince := s.now } else { p with st := .disabled } }

/-- A timeout of the device runtime's choice, from 1 to 65,535 ticks (ch. 2).
(DESIGN CHOICE, log entry 14) -/
def State.armWatchdog (s : State) : State :=
  let (v, s) := s.fresh 16
  let t : Half := if v = 0 then 1 else v
  s.upTime fun b => { b with wdArmed := true, wdTimeout := t, wdLeft := t, quinceTimer := false }

/-- DEVICE_READY is set (R467): the readiness message, vector 0, the board's interrupt. A start releases FAULT# (R524); leaving
STANDBY is no start, and PWR_GOOD stays low after a removal of the rails by a fault (R436, R530). -/
def State.deviceReady (s : State) (path : Nat) : State :=
  let s := s.upHost fun h => ({ h with deviceReady := true, startPath := BitVec.ofNat 2 path, frs := h.frs + 1 } : HostIf).sendVector 0
  (s.upPins fun p =>
    if path = 3 then { p with pwrGood := !p.goodHeld } else { p with faultLow := false, causes := [], pwrGood := true }).raiseIbi

/-- A slot of Quince, B when set. -/
def Quince.slot (q : Quince) (b : Bool) : Slot := if b then q.slotB else q.slotA

/-- The entries of a package's component table (R516): three in the header, the further ones from 0x200. -/
def pkgComponents (p : Bytes) : List Bytes :=
  (List.range (min (leNat p 0x10 4) (p.length / 56))).map fun i => if i < 3 then slice p (0x18 + 56 * i) 56 else slice p (0x200 + 56 * (i - 3)) 56

/-- A firmware package verifies (R516, R517). -/
def Quince.verifies (q : Quince) (p : Bytes) : Bool :=
  let n := leNat p 0x14 4
  let sigs := 0x1B0 - 0xC0
  let digest := slice p 0xC0 48
  decide (leNat p 0 4 = 0x4D524946) && decide (leNat p 4 2 = 1) && decide (512 ≤ n) && decide (n ≤ 2 ^ 28) && decide (n ≤ p.length) &&
  decide (digest = sha384 (p.take 0xC0 ++ List.replicate sigs 0 ++ slice p 0x1B0 (n - 0x1B0))) &&
  Config.ecdsaVerify Config.vendorKey digest (slice p 0xF0 96) &&
  (decide (q.life ≠ .owned) || Config.ecdsaVerify (toLE q.hostHash.toNat 48) digest (slice p 0x150 96)) &&
  decide (q.svnFloor.toNat ≤ leNat p 6 2)

/-- What a slot holds verifies at a start (R515, R517): its package does; of one that the module was delivered with, only the SVN is known. -/
def Quince.slotVerifies (q : Quince) (x : Slot) : Bool :=
  x.present && decide (q.svnFloor.toNat ≤ x.svn.toNat) && (match x.pkg with
    | none => true
    | some p => q.verifies p)

/-- The slot that a package fills. The spec does not say where a package keeps its highest IMG_MINOR and the version of its training code, so these
are functions of it. -/
def pkgSlot (p : Bytes) : Slot :=
  { present := true, pkg := some p, fwVersion := BitVec.ofNat 32 (leNat p 8 4), svn := BitVec.ofNat 16 (leNat p 6 2), raiseSvn := bit (leNat p 0x0C 4) 0
    components := pkgComponents p, minorMax := Config.packageMinor p, trainVer := Config.packageTrain p }

/-- The firmware slot that a start selects (R515): the pending one where there is one, else the active one; the other
when that one does not verify. true is B. -/
def Quince.selectSlot (q : Quince) (okA okB : Bool) : Option Bool :=
  let first := if q.pending then !q.activeSlot else q.activeSlot
  let ok := fun b => (if b then okB else okA) && q.slotVerifies (q.slot b)
  if ok first then some first else if ok (!first) then some (!first) else none

end Sys2Proof.Machine
end

