-- ==== Sys2Proof/Machine/ClockRows.lean ====
section
/-! DEFINITION. Meanings of the rows of the cluster clocks and of module time (chapter 2, R412). -/
namespace Sys2Proof.Machine

/-- A period longer than twice the set period is counted and raises a stretch-limit event (R51); four within 1 ms
lower the cluster's cap by 10 % for 100 ms (R415), and more than 16 in an hour make it DEGRADED (R235).
(DEDUCED, log entry 18) -/
def Cluster.limitEvent (k : Cluster) (now : DWord) (cap : Nat) : Cluster :=
  let ms := now :: within now msU k.limitTimes
  let hr := now :: within now hourU k.limitHour
  let k := { k with overLong := satAdd k.overLong 1, limitTimes := ms, limitHour := hr }
  let k := if ms.length ≥ 4 then { k with ownCap := cap * 9 / 10, capUntil := after now (100 * msU), limitTimes := [] } else k
  if hr.length > 16 && k.health = .good then { k with health := .degraded } else k

/-- One stretched period of a running cluster: one cluster cycle, counted once (R48 to R52); its droop response becomes
active, and a frequency step in progress holds (R412, R414).
(DEDUCED, log entry 17) -/
def Cluster.stretch (k : Cluster) (now : DWord) (overLimit : Bool) (cap : Nat) : Cluster :=
  let k := { k with stretched := satAdd k.stretched 1, cycles := satAdd k.cycles 1, droop := true,
                    stepHeld := k.stepHeld || k.stepTo.isSome }
  if overLimit then k.limitEvent now cap else k

/-- Number of clusters that stretch-limit events have made DEGRADED. -/
def State.degradedN (s : State) : Nat := ((List.finRange 64).filter fun c => s.clusters[c].health = .degraded).length

/-- DROOP_STRETCH (R48 to R52, R58, R412 to R415): a trip stretches the period in progress of the oscillator, in both
halves of a pair; while the clock is stopped it stretches nothing. -/
def execDroopStretch (c : Fin 64) (overLimit : Bool) (s : State) : Res :=
  if s.clusters[s.oscOf c].running then
    let before := s.degradedN
    let cap := fun h => if s.clusters[h].ownCap = 0 then s.effMax1 h else s.clusters[h].ownCap
    let t := (s.halves c).foldl (fun s h => s.upCluster h fun k => k.stretch s.now overLimit (cap h)) s
    let t := t.when (decide (before < 3) && decide (t.degradedN ≥ 3)) fun t =>
      { t.advise 5 with rt := { t.rt with degradedClusters := t.degradedN } }
    .next (t.when overLimit State.refreq)
  else .next s

/-- DROOP_RESPONSE_END (R58, R412, R414): after 64 cycles of the oscillator without a stretch the response ends in each half that it clocks, a held
step resumes, and a step that could not start may. -/
def execDroopResponseEnd (c : Fin 64) (s : State) : Res :=
  if s.clusters[c].droop then
    .next ((s.halves c).foldl (fun s h => s.upCluster h fun k => { k with droop := false, stepHeld := false }) s).refreq
  else .next s

/-- Correction of a copy of module time by the difference found (R75). -/
def Cluster.correct (k : Cluster) (diff : Int) : Cluster :=
  if diff.natAbs ≤ 16 then { k with copyDiff := diff, corr := .none }
  else if diff < -256 then { k with copyDiff := 0, corr := .none }
  else if diff > 256 then { k with copyDiff := diff, corr := .half }
  else { k with copyDiff := diff, corr := .slew }

/-- What the tracking loop finds over a beacon interval, in 10^-9 cluster cycles: the unstretched periods counted, less those that the set
frequency makes in the interval less its stretched time (R44, R45). -/
def Cluster.found (k : Cluster) (unstretched stretchedFs : Nat) : Int :=
  (unstretched : Int) * 1000000000 - (k.setMHz : Int) * ((1024000000 : Int) - stretchedFs)

/-- The trim after a beacon (R44 to R46): while the cycles made since the last change stand within one of those of the set frequency the trim
stays; else the period changes by the share of the interval's cycles that is too many or too few, so that the mean frequency becomes
the set frequency. It never sets a period shorter than that of F_FUSE, and a frequency step in progress sets the period itself.
(DEDUCED, log entry 15) -/
def Cluster.track (k : Cluster) (fuse unstretched stretchedFs : Nat) : Cluster :=
  let e := k.trackErr + k.found unstretched stretchedFs
  let goal := (k.setMHz : Int) * ((1024000000 : Int) - stretchedFs)
  if k.stepTo.isSome || decide (goal ≤ 0) then { k with trackErr := 0 }
  else if e.natAbs < 1000000000 then { k with trackErr := e }
  else { k.paced k.periodFs (k.trimFs + e * periodOf k.setMHz / goal) fuse with trackErr := 0 }

/-- Of a number of periods, those that the governor of a die has stretched since the last beacon (R405). -/
def DieP.govOf (d : DieP) (periods : Nat) : Nat := if d.govDen = 0 then 0 else periods * d.govNum / d.govDen

/-- A beacon begins a new sum of the governor's shares. -/
def State.govBeacon (s : State) : State := s.upPwr fun p => { p with dies := p.dies.map fun d => { d with govNum := 0, govDen := 0 } }

/-- One cluster at a beacon: counts its cycles (R52, R405), corrects its copy of module time and, where the interval was one beacon long and all
of it at one set frequency, its trim (R44). Both halves of a pair count the periods of one oscillator (R58).
(DESIGN CHOICE, log entry 16) -/
def State.clusterBeacon (s : State) (c : Fin 64) (obs : List ClusterObs) (whole : Bool) : State :=
  if s.clusters[c].running then
    let none_ : ClusterObs := { cycles := 0, droopFs := 0, diff := 0 }
    let o := obs.getD (s.oscOf c).val none_
    let gov := s.pwr.dies[dieOf c].govOf o.cycles
    let fuse := s.fuseMHz c
    s.upCluster c fun k =>
      let k := { k with cycles := satAdd k.cycles o.cycles, govStretched := satAdd k.govStretched gov, beacons := k.beacons + 1 }
      let k := k.correct (obs.getD c.val none_).diff
      let k := if whole && !k.mixed then k.track fuse (o.cycles - gov) (o.droopFs + gov * (2 * (k.periodFs + k.trimFs)).toNat) else k
      { k with mixed := false }
  else s

/-- The watchdog advances by a number of beacons (R85): at a tick the device runtime may restart it, and then the
restart wins. Which ticks it restarts at is the runtime's own. -/
def State.watchdogAdvance (s : State) (beacons : Nat) : State :=
  let total := s.time.wdBeacons + beacons
  let ticks := total / 1024
  let s := s.upTime fun b => { b with wdBeacons := total % 1024 }
  if ticks = 0 || !s.time.wdArmed || s.time.quinceTimer then s
  else
    let (r, s) := s.fresh 1
    s.upTime fun b => { b with wdLeft := if r = 1 then b.wdTimeout else BitVec.ofNat 16 (b.wdLeft.toNat - ticks) }

/-- The time pulse is selected on SB0 or SB1 (R525, R526). -/
def Pins.pulseOn (p : Pins) (pin : Nat) : Bool := decide (field p.sbSel.toNat (2 * pin + 1) (2 * pin) = 1)

/-- Period of the time pulse as a power of two (R525). -/
def Pins.tpPeriod (p : Pins) : Nat :=
  let l := p.tpLog2.toNat
  2 ^ (if 14 ≤ l ∧ l ≤ 34 then l else 34)

/-- The pulse takes the multiple at which module time now stands as crossed, without a pulse for it (R526). -/
def State.pulseSkip (s : State) : State := s.upPins fun p => { p with tpLast := BitVec.ofNat 64 (s.now.toNat / p.tpPeriod) }

/-- The time pulse rises when module time crosses a multiple of its period (R524 to R526): not where the pins are off or high-impedance, and not for
a multiple crossed while the pulse waits for FABRIC_LOCKED. -/
def State.pulseRise (s : State) : State :=
  let crossed := decide (s.now.toNat / s.pins.tpPeriod > s.pins.tpLast.toNat)
  let t := s.when crossed State.pulseSkip
  if crossed && s.pins.modRst && (s.pins.pulseOn 0 || s.pins.pulseOn 1) && (s.time.locked || !s.pins.tpLockedOnly) then
    t.upPins fun p => { p with tpHigh := true }
  else t

/-- One instantaneous sample of the wait fraction (R345), as FP32. -/
def State.waitSample (s : State) : State :=
  let w := s.waitedLastMs
  s.upJob fun j =>
    { j with samples := j.samples ++ [(s.now, w)], lastSample := quot32 w msU,
             waits := j.waits.filter fun x => decide (s.now.toNat - x.2.toNat ≤ msU) }

/-- BEACON (R71, R74, R75, R44, R85, R345): module time comes to the next multiple of 16,384, or has stepped across several; one beacon goes
out for the last of them. In OFF module time stands. -/
def execBeacon (obs : List ClusterObs) (s : State) : Res :=
  if !s.pins.vaux then .next s
  else
    let cur := s.now.toNat / 16384
    let last := s.time.lastBeacon.toNat
    let k := if cur > last then cur else last + 1
    let s := s.advanceTo (BitVec.ofNat 64 (16384 * k))
    let s := s.upTime fun b =>
      { b with lastBeacon := BitVec.ofNat 64 k, ctr := BitVec.ofNat 14 b.now.toNat, beaconsSinceMsg := b.beaconsSinceMsg + (k - last) }
    let s := s.settleGov
    let s := ((List.finRange 64).foldl (fun s c => s.clusterBeacon c obs (decide (k - last = 1))) s).govBeacon
    let s := s.watchdogAdvance (k - last)
    .next (s.when s.inJob fun s => s.noteWait.waitSample).pulseRise

/-- REFERENCE_LOSS (R76, R77). -/
def execReferenceLoss (s : State) : Res :=
  .next (s.upTime fun b => { b with holdover := true, refLost := true, refSlew := false })

/-- HOLDOVER_EXIT (R79): Damson slews back to its reference. -/
def execHoldoverExit (s : State) : Res :=
  if s.time.holdover then .next (s.upTime fun b => { b with holdover := false, refSlew := true }) else .next s

/-- The port of the time upstream in use (R82). -/
def TimeBase.upstream (b : TimeBase) : BitVec 5 := if b.onBackup then b.backupPort else b.upPort

/-- LAST_OFFSET: signed 16 bits, saturating (TIME_STATUS). -/
def satOffset (i : Int) : Half := BitVec.ofInt 16 (max (-32767) (min 32767 i))

/-- Damson's correction after a measured offset (R80, R75): none, a slew, or half rate when far ahead; it never steps
again. -/
def corrOf (off : Int) : Corr := if off.natAbs ≤ 16 then .none else if off > 256 then .half else .slew

/-- TIME (R72, R80, R526): a time message from the upstream in use. After a step back, and from the moment of locking, the pulse counts the
multiples crossed anew.
(DEDUCED, log entry 19) -/
def execTime (p : Fin 32) (m : TimeMsg) (tRx : DWord) (s : State) : Res :=
  let b := s.time
  if b.timeEn && !b.timeRoot && decide (b.upstream.toNat = p.val) then
    let s := s.advanceTo tRx
    let off : Int := (tRx.toNat : Int) - m.tTx.toNat - b.linkDelay.toNat
    let good := if off.natAbs ≤ 256 then min 3 (b.goodMsgs + 1) else 0
    let newNow := if b.stepped then s.now else BitVec.ofInt 64 ((s.now.toNat : Int) - off)
    let t := s.upTime fun b =>
      { b with
        now := newNow
        lastBeacon := if newNow.toNat < s.now.toNat then BitVec.ofNat 64 (newNow.toNat / 16384) else b.lastBeacon
        stepped := true
        corr := if b.stepped then corrOf off else .none
        lastOffset := satOffset off
        goodMsgs := good
        locked := b.locked || decide (good = 3)
        unlockedAt := if b.locked || decide (good = 3) then none else b.unlockedAt
        rootId := m.root
        hops := m.hops
        lastMsgAt := newNow
        msgsSinceDelay := b.msgsSinceDelay + 1 }
    .next (t.when (decide (newNow.toNat < s.now.toNat) || (t.time.locked && !b.locked)) State.pulseSkip)
  else .next s

/-- TIME_MSG_SEND (R81, R376): every 128 beacons a locked module sends on each port that is up but its upstream.
(DEDUCED, log entry 20) -/
def execTimeMsgSend (s : State) : Res :=
  let b := s.time
  if b.locked && decide (b.beaconsSinceMsg ≥ 128) then
    let hops := if b.timeRoot then 0 else b.hops + 1
    let seq := b.seqT + 1
    let body := fun (p : Fin 32) =>
      toLE s.now.toNat 8 ++ toLE (if b.timeRoot then s.fab.ports[p].sentId else b.rootId).toNat 4 ++ toLE hops.toNat 4 ++ toLE seq.toNat 4
    let ports := (List.finRange 32).filter fun p => s.fab.ports[p].st = .up && (b.timeRoot || decide (b.upstream.toNat ≠ p.val))
    let s := s.upTime fun b => { b with seqT := seq, beaconsSinceMsg := 0 }
    .next (ports.foldl (fun s p => s.linkMsg p 0x01 (body p)) s)
  else .next s

/-- Port of a number below 32. -/
def portOf (b : BitVec 5) : Fin 32 := b.toFin

/-- DELAY_REQ_SEND (R376): at bring-up of the upstream and every 1,024 time messages. -/
def execDelayReqSend (s : State) : Res :=
  let b := s.time
  let p := portOf b.upstream
  if b.timeEn && !b.timeRoot && decide (b.msgsSinceDelay ≥ 1024) && s.fab.ports[p].st = .up then
    let seq := b.seqD + 1
    let s := s.upTime fun b => { b with seqD := seq, delayReq := some (s.now, seq), msgsSinceDelay := 0 }
    .next (s.linkMsg p 0x02 (toLE s.now.toNat 8 ++ toLE seq.toNat 4))
  else .next s

/-- DELAY_REQ (R376): the upstream answers with its times of receipt and of transmission. -/
def execDelayReq (p : Fin 32) (_tTx : DWord) (seqD : Half) (tRx tTxResp : DWord) (s : State) : Res :=
  .next ((s.advanceTo tRx).linkMsg p 0x03 (toLE tRx.toNat 8 ++ toLE tTxResp.toNat 8 ++ toLE seqD.toNat 4 ++ toLE 0 4))

/-- DELAY_RESP (R376): link delay = ((T_RX of the response − T_TX of the request) − (T_TX of the response − T_RX of the
request)) / 2. -/
def execDelayResp (p : Fin 32) (tRxReq tTxResp : DWord) (seqD : Half) (tRx : DWord) (s : State) : Res :=
  match s.time.delayReq with
  | none => .next s
  | some (tTx, q) =>
    if q = seqD && decide (s.time.upstream.toNat = p.val) then
      let d := ((tRx - tTx) - (tTxResp - tRxReq)).toNat / 2
      .next ((s.advanceTo tRx).upTime fun b => { b with linkDelay := BitVec.ofNat 64 d, delayReq := none })
    else .next s

/-- Clears FABRIC_LOCKED (R82, R83): a member of a job raises TIME_UNLOCKED, and has 100 ms to lock again; what is no member has nothing to leave. -/
def State.unlock (s : State) (port : BitVec 5) (backup : Bool) : State :=
  if s.time.locked then
    let s := s.upTime fun b => { b with locked := false, goodMsgs := 0, corr := .none, unlockedAt := if s.inJob then some s.now else none, clearAt := s.now }
    let s := s.upPins fun p => { p with tpHigh := p.tpHigh && !p.tpLockedOnly }
    s.when s.inJob fun s => s.event evTimeUnlocked (arg port.toNat) (arg (b2n backup))
  else s

/-- The upstream in use is lost (R82): the module switches to its backup, or unlocks and keeps module time from its reference alone. The
backup, once taken, stays in use until a start.
(DEDUCED, log entry 21) -/
def State.loseUpstream (s : State) : State :=
  let b := s.time
  let s := s.upTime fun b => { b with upLost := true, corr := .none, lastMsgAt := s.now }
  if b.backupEn && !b.onBackup then
    s.upTime fun b => { b with onBackup := true, goodMsgs := 0, delayReq := none, msgsSinceDelay := 1024, lastMsgAt := s.now }
  else s.unlock b.upstream b.onBackup

/-- UPSTREAM_LOST (R82): no time message for 1 ms on the upstream in use, or its port is lost. -/
def execUpstreamLost (s : State) : Res :=
  let b := s.time
  if !b.timeRoot && (b.locked || b.timeEn) then
    let s := s.when (decide (s.fab.ports[portOf b.upstream].st = .up)) fun s => s.advanceTo (after b.lastMsgAt msU)
    .next s.loseUpstream
  else .next s

/-- UNLOCK_TIMEOUT (R83): 100 ms unlocked; the module leaves its jobs by the failure path. -/
def execUnlockTimeout (s : State) : Res :=
  match s.time.unlockedAt with
  | none => .next s
  | some t =>
    if s.time.locked then .next s
    else .next ((s.advanceTo (after t (100 * msU))).leaveJobs false)

/-- WATCHDOG_EXPIRY (R86, R514, R453): the fault output is asserted and the device runtime restarts; the third expiry
within 24 h begins a warm start, and an expiry during a start fails it (R511). -/
def execWatchdogExpiry (s : State) : Res :=
  if s.time.wdArmed && (decide (s.time.wdLeft = 0) || s.time.quinceTimer) then
    let times := s.now :: within s.now dayU s.quince.wdTimes
    let n := times.length
    let s := (s.assertFault .watchdog).logFault fkWatchdog
    let s := (s.upQuince fun q => { q with wdTimes := times }).raiseIbi
    let s := s.event evWatchdog (arg n) 0
    let s := s.when (decide (n = 2)) fun s => s.advise 4
    if s.quince.start.isSome then .next s.failStart
    else
      let s := s.leaveJobs false
      if n ≥ 3 then .next (s.askedStart true false) else .next s.armWatchdog
  else .next s

/-- INTERVAL_COUNTER_FAULT (R85): while the module is not OFF, Quince takes over what is left of the watchdog's timeout and records a counter
fault. -/
def execIntervalCounterFault (s : State) : Res :=
  if !s.pins.vaux then .next s
  else .next ((s.upTime fun b => { b with quinceTimer := b.wdArmed, ctrFault := true }).logFault fkCounter)

/-- TIME_PULSE (R525, R526): half a period after its rising edge the pulse on a pin that carries it falls. -/
def execTimePulse (pin : Fin 2) (s : State) : Res :=
  if s.pins.tpHigh && s.pins.pulseOn pin.val then
    let t := s.pins.tpLast.toNat * s.pins.tpPeriod + s.pins.tpPeriod / 2
    .next ((s.advanceTo (BitVec.ofNat 64 t)).upPins fun p => { p with tpHigh := false })
  else .next s

end Sys2Proof.Machine
end

