-- ==== Sys2Proof/Machine/Philox.lean ====
section
/-! DEFINITION. The rounding generator (R177 to R180) and the rotation signs (R185). -/
namespace Sys2Proof.Machine

/-- One round of Philox-4×32 with the multipliers of R177. -/
def philoxRound (c : Nat × Nat × Nat × Nat) (k0 k1 : Nat) : Nat × Nat × Nat × Nat :=
  let p0 := 0xD2511F53 * c.1
  let p1 := 0xCD9E8D57 * c.2.2.1
  ((p1 / 2 ^ 32) ^^^ c.2.1 ^^^ k0, p1 % 2 ^ 32, (p0 / 2 ^ 32) ^^^ c.2.2.2 ^^^ k1, p0 % 2 ^ 32)

/-- n rounds, the key raised by the increments of R177 between rounds. -/
def philoxGo : Nat → Nat × Nat × Nat × Nat → Nat → Nat → Nat × Nat × Nat × Nat
  | 0, c, _, _ => c
  | n + 1, c, k0, k1 =>
    philoxGo n (philoxRound c k0 k1) ((k0 + 0x9E3779B9) % 2 ^ 32) ((k1 + 0xBB67AE85) % 2 ^ 32)

/-- Philox-4×32 with 10 rounds (R177): the four output words as one number, word 0 lowest. -/
def philox (c0 c1 c2 c3 k0 k1 : Nat) : Nat :=
  let r := philoxGo 10 (c0, c1, c2, c3) k0 k1
  r.1 + r.2.1 * 2 ^ 32 + r.2.2.1 * 2 ^ 64 + r.2.2.2 * 2 ^ 96

/-- A 12-bit draw with job seed s, step n, tensor t, element e and ordinal d (R178, R180). -/
def draw12 (s n : DWord) (t : Word) (e d : Nat) : Nat :=
  let d := d % 655360
  let bits := philox (e % 2 ^ 32) t.toNat (n.toNat % 2 ^ 32) ((n.toNat / 2 ^ 32) % 2 ^ 16 + (d / 10) * 2 ^ 16)
    (s.toNat % 2 ^ 32) (s.toNat / 2 ^ 32)
  (bits >>> (12 * (d % 10))) % 4096

/-- True when the sign of rotation index p is −1 (R185). -/
def rotationNeg (seed : Word) (p : Nat) : Bool :=
  (philox (p / 128) 0 0 0 seed.toNat 0x524F5441).testBit (p % 128)

end Sys2Proof.Machine
end

