-- ==== Sys2Proof/Machine/Operands.lean ====
section
/-! DEFINITION. Operand forms of the cells: the fields of a configuration frame (R95, R109, R118, R119, R126, R135,
R141, R193), the elements of a stream (R120 to R125), and the operand tiles of the lattice (R98 to R100, R159 to
R161). -/
namespace Sys2Proof.Machine

/-! ### Fields of a frame -/

/-- The field [hi:lo] of the 32-bit word at a byte offset of a frame. -/
def fld (f : Bytes) (off hi lo : Nat) : Nat := field (leNat f off 4) hi lo

/-- One bit of the word at a byte offset of a frame. -/
def flag (f : Bytes) (off b : Nat) : Bool := bit (leNat f off 4) b

/-- Common header (R95). -/
def fVer (f : Bytes) : Nat := fld f 0x00 7 0
def fPers (f : Bytes) : Nat := fld f 0x00 10 8
def fLen (f : Bytes) : Nat := fld f 0x00 24 16
def fTensor (f : Bytes) : Word := BitVec.ofNat 32 (leNat f 0x04 4)
def fRegion (f : Bytes) : Nat := fld f 0x08 15 0
def fCell (f : Bytes) : Nat := fld f 0x08 20 16
def fSlot (f : Bytes) : Nat := fld f 0x08 23 21
def fCrc (f : Bytes) : Nat := leNat f 0x0C 4

/-- True in a matrix frame, whose output fields stand elsewhere (R109, R118). -/
def isMatrix (f : Bytes) : Bool := fPers f = 0

/-- Output format code of R118; a matrix frame has 0 FP32 and 1 BF16 (R109). -/
def outFmt (f : Bytes) : Nat := if isMatrix f then fld f 0x40 20 20 else fld f 0x40 3 0
def outSr (f : Bytes) : Bool := if isMatrix f then flag f 0x40 21 else flag f 0x40 4
def outSat (f : Bytes) : Bool := if isMatrix f then flag f 0x40 22 else flag f 0x40 5
/-- OUT_DEST: the data area instead of the finished-tile queue. -/
def outArea (f : Bytes) : Bool := if isMatrix f then false else flag f 0x40 6
def outBase (f : Bytes) : Nat := fld f 0x40 30 16
def mTiles (f : Bytes) : Nat := fld f 0x44 15 0
def nTiles (f : Bytes) : Nat := fld f 0x44 31 16
def outStrideM (f : Bytes) : Nat := fld f 0x48 14 0
def outStrideN (f : Bytes) : Nat := fld f 0x48 30 16

/-- Offset of the word with FTQ_BASE, FTQ_DEPTH, FTQ_HWM and CONSUMERS. -/
def ftqOff (f : Bytes) : Nat := if isMatrix f then 0x58 else 0x4C
def ftqBase (f : Bytes) : Nat := fld f (ftqOff f) 14 0
def ftqDepth (f : Bytes) : Nat := fld f (ftqOff f) 18 15
def ftqHwm (f : Bytes) : Nat := fld f (ftqOff f) 22 19
def ftqCons (f : Bytes) : Nat := fld f (ftqOff f) 25 23
/-- Offset of consumer entry n. -/
def consOff (f : Bytes) (n : Nat) : Nat := ftqOff f + 4 + 4 * n
/-- Consumer entry n (R113). -/
def consEntry (f : Bytes) (n : Nat) : Word := BitVec.ofNat 32 (leNat f (consOff f n) 4)
/-- The consumer entries that a frame names. -/
def consEntries (f : Bytes) : List Word := (List.range (ftqCons f)).map (consEntry f)
def outCols (f : Bytes) : Nat := if isMatrix f then leNat f 0x6C 4 else leNat f 0x60 4
def elemBase (f : Bytes) : Nat := if isMatrix f then leNat f 0x70 4 else leNat f 0x64 4

/-- Fields of a consumer entry (R113). -/
def conCell (e : Word) : Nat := field e.toNat 3 0
def conQueued (e : Word) : Bool := bit e.toNat 4
def conQueue (e : Word) : Nat := field e.toNat 10 5
def conBase (e : Word) : Nat := field e.toNat 25 11
def conSlots (e : Word) : Nat := field e.toNat 28 26 + 1

/-- Words of a finished-tile slot by output format (R118). -/
def slotWords (fmt : Nat) : Nat :=
  match fmt with
  | 0 => 257
  | 1 => 129
  | 2 => 129
  | 3 => 65
  | 4 => 67
  | 5 => 67
  | 6 => 257
  | _ => 33

/-- Words of the data area and bytes of it (R88). -/
def dataWords : Nat := 0x7800
def dataBytes : Nat := 0x1E0000

/-- Matrix body (R109). -/
def aFmt (f : Bytes) : Nat := fld f 0x40 1 0
def aScale (f : Bytes) : Nat := fld f 0x40 3 2
def aModeT (f : Bytes) : Bool := flag f 0x40 4
def bFmt (f : Bytes) : Nat := fld f 0x40 10 8
def bScale (f : Bytes) : Nat := fld f 0x40 12 11
def bModeT (f : Bytes) : Bool := flag f 0x40 13
def chunkLog2 (f : Bytes) : Nat := fld f 0x40 19 16
def loopOrder (f : Bytes) : Bool := flag f 0x40 23
def kTiles (f : Bytes) : Nat := fld f 0x48 15 0
def visits (f : Bytes) : Nat := fld f 0x48 31 16
def aStrideM (f : Bytes) : Nat := fld f 0x4C 14 0
def aStrideK (f : Bytes) : Nat := fld f 0x4C 30 16
def bStrideK (f : Bytes) : Nat := fld f 0x50 14 0
def bStrideN (f : Bytes) : Nat := fld f 0x50 30 16
def partBase (f : Bytes) : Nat := fld f 0x54 14 0
def partStride (f : Bytes) : Nat := fld f 0x54 30 16

/-- Stream descriptor i (R119). -/
def sOff (i : Nat) : Nat := 0x80 + 8 * i
def sBase (f : Bytes) (i : Nat) : Nat := fld f (sOff i) 14 0
def sRing (f : Bytes) (i : Nat) : Bool := flag f (sOff i) 15
def sFmt (f : Bytes) (i : Nat) : Nat := fld f (sOff i) 19 16
def sRStride (f : Bytes) (i : Nat) : Nat := fld f (sOff i) 26 20
def sCStride (f : Bytes) (i : Nat) : Nat := fld f (sOff i + 4) 6 0
def sTStrideM (f : Bytes) (i : Nat) : Nat := fld f (sOff i + 4) 19 8
def sTStrideN (f : Bytes) (i : Nat) : Nat := fld f (sOff i + 4) 31 20
/-- A descriptor is present when any of its bits is set (R550). -/
def sPresent (f : Bytes) (i : Nat) : Bool := leNat f (sOff i) 8 ≠ 0
/-- Slots of an inbound ring (R120). -/
def sRingSlots (f : Bytes) (i : Nat) : Nat := sTStrideN f i % 8 + 1

/-- Vector section (R126). -/
def vMode (f : Bytes) : Nat := fld f 0xA0 2 0
def vNops (f : Bytes) : Nat := fld f 0xA0 6 3
def vOutReg (f : Bytes) : Nat := fld f 0xA0 9 7
def vImm (f : Bytes) (i : Nat) : Word := BitVec.ofNat 32 (leNat f (0xA4 + 4 * i) 4)
def opOff (i : Nat) : Nat := 0xB4 + 4 * i
def vOpcode (f : Bytes) (i : Nat) : Nat := fld f (opOff i) 5 0
def vDst (f : Bytes) (i : Nat) : Nat := fld f (opOff i) 8 6
def vSrcA (f : Bytes) (i : Nat) : Nat := fld f (opOff i) 12 9
def vSrcB (f : Bytes) (i : Nat) : Nat := fld f (opOff i) 16 13
def vSrcC (f : Bytes) (i : Nat) : Nat := fld f (opOff i) 20 17
def countMax (f : Bytes) : Nat := fld f 0xD4 15 0
def listStride (f : Bytes) : Nat := fld f 0xD4 31 16
def listBase (f : Bytes) : Nat := fld f 0xD8 14 0
def listFirst (f : Bytes) : Nat := fld f 0xD8 21 16
def listCount (f : Bytes) : Nat := fld f 0xD8 28 22
def rowLo (f : Bytes) : Nat := fld f 0xDC 24 0
def rowHi (f : Bytes) : Nat := fld f 0xE0 24 0

/-- Reduce section (R135). -/
def redop (f : Bytes) : Nat := fld f 0xA0 3 0
def nInputs (f : Bytes) : Nat := fld f 0xA0 6 4
def topkK (f : Bytes) : Nat := fld f 0xA0 8 7
def chainIn (f : Bytes) : Bool := flag f 0xA0 9
def chainOut (f : Bytes) : Bool := flag f 0xA0 10
def masked (f : Bytes) : Bool := flag f 0xA0 11
def normRms (f : Bytes) : Bool := flag f 0xA0 12
def rowTiles (f : Bytes) : Nat := fld f 0xA4 15 0
def rEps (f : Bytes) : Word := BitVec.ofNat 32 (leNat f 0xA8 4)
def rInvN (f : Bytes) : Word := BitVec.ofNat 32 (leNat f 0xAC 4)
def maskOutBase (f : Bytes) : Nat := fld f 0xB0 14 0

/-- Table section (R141). -/
def lowMode (f : Bytes) : Nat := fld f 0xA0 1 0
def highMode (f : Bytes) : Nat := fld f 0xA0 3 2
def postMul (f : Bytes) : Bool := flag f 0xA0 4
/-- The FP32 word at an offset. -/
def fWord (f : Bytes) (off : Nat) : Word := BitVec.ofNat 32 (leNat f off 4)
def xMin (f : Bytes) : Word := fWord f 0xA4
def segScale (f : Bytes) : Word := fWord f 0xA8
def lowA (f : Bytes) : Word := fWord f 0xB0
def lowB (f : Bytes) : Word := fWord f 0xB4
def highA (f : Bytes) : Word := fWord f 0xB8
def highB (f : Bytes) : Word := fWord f 0xBC
def errAbs (f : Bytes) : Word := fWord f 0xC0
def errRel (f : Bytes) : Word := fWord f 0xC4
/-- Coefficient i of segment j. -/
def segC (f : Bytes) (j i : Nat) : Word := fWord f (0x100 + 12 * j + 4 * i)

/-- Transform section (R193). -/
def tMac (f : Bytes) : Bool := fld f 0xA0 1 0 = 1
def tMode (f : Bytes) : Nat := fld f 0xA0 1 0
def rotCode (f : Bytes) : Nat := fld f 0xA0 3 2
def rotInverse (f : Bytes) : Bool := flag f 0xA0 4
def outlierEn (f : Bytes) : Bool := flag f 0xA0 5
def fullEn (f : Bytes) : Bool := flag f 0xA0 6
def addS1 (f : Bytes) : Bool := flag f 0xA0 7
def headroom (f : Bytes) : Nat := fld f 0xA0 10 8
def widen (f : Bytes) : Nat := fld f 0xA0 13 11
def thrLog2 (f : Bytes) : Nat := fld f 0xA0 16 14
def wModeT (f : Bytes) : Bool := flag f 0xA0 17
def wFmt (f : Bytes) : Nat := fld f 0xA0 20 18
def rotSeed (f : Bytes) : Word := fWord f 0xA4
def tLayer (f : Bytes) : Nat := fld f 0xA8 9 0
def tileBudget (f : Bytes) : Nat := fld f 0xA8 23 16
def oblkWords (f : Bytes) : Nat := fld f 0xA8 30 24
def poolShare (f : Bytes) : Nat := fld f 0xAC 15 0
def fullBase (f : Bytes) : Nat := fld f 0xB0 14 0
def fullSlots (f : Bytes) : Nat := fld f 0xB0 20 15
def oblkBase (f : Bytes) : Nat := fld f 0xB4 14 0
def oblkSlots (f : Bytes) : Nat := fld f 0xB4 20 15
def wBase (f : Bytes) : Nat := fld f 0xB8 14 0
def wStrideK (f : Bytes) : Nat := fld f 0xB8 30 16
def wStrideN (f : Bytes) : Nat := fld f 0xBC 14 0
def macK (f : Bytes) : Nat := fld f 0xBC 31 16

/-! ### The streams that a frame reads (R550) -/

/-- Sources of a vector operation, whatever its opcode takes. -/
def opSrcs (f : Bytes) (i : Nat) : List Nat := [vSrcA f i, vSrcB f i, vSrcC f i]

/-- Stream i is read by the frame. -/
def sRead (f : Bytes) (i : Nat) : Bool :=
  match fPers f with
  | 1 =>
    if vMode f = 0 then
      (List.range (vNops f)).any fun k =>
        (opSrcs f k).contains (8 + i) || (decide (i = 3) && decide (16 ≤ vOpcode f k) && decide (vOpcode f k ≤ 19))
    else if vMode f = 4 then decide (i = 0) || (decide (i = 1) && sPresent f 1)
    else decide (i = 0)
  | 2 =>
    (match redop f with
      | 10 => decide (i < nInputs f)
      | 4 => decide (i < 2)
      | 6 => true
      | 8 => decide (i < 2) || decide (i = 3)
      | _ => decide (i = 0)) ||
    (decide (i = 2) && masked f) || (decide (i = 3) && chainIn f)
  | 3 => if tMac f then false else decide (i = 0) || (decide (i = 1) && addS1 f)
  | 4 => decide (i = 0) || (decide (i = 1) && postMul f)
  | _ => false

/-- The streams that a frame reads, in order. -/
def sUsed (f : Bytes) : List Nat := [0, 1, 2, 3].filter (sRead f)

/-! ### Elements (R120, R125, R159 to R161) -/

/-- The first word of a record that a stream reads for tile (m, n), for the operands of the START and the number of
tiles that the ring has given (R120, R124, R552). -/
def streamWord (f : Bytes) (i aBase bBase m n ringPos : Nat) : Nat :=
  let base := sBase f i + (if i = 0 then aBase else if i = 1 then bBase else 0)
  if sRing f i then base + (ringPos % sRingSlots f i) * sTStrideM f i
  else base + m * sTStrideM f i + n * sTStrideN f i

/-- The first byte of the tile's data: after the finished-tile header in a ring slot (R120). -/
def streamByte (f : Bytes) (i word : Nat) : Nat := if sRing f i then 64 * word + 64 else 64 * word

/-- Position of element (r, c) in storage order (R120). -/
def elemPos (f : Bytes) (i r c : Nat) : Nat := r * sRStride f i + c * sCStride f i

/-- The bytes that element position p of a record of stream format fmt reads, as (offset, length) pairs. -/
def elemBytes (fmt p : Nat) : List (Nat × Nat) :=
  match fmt with
  | 0 => [(4 * p, 4)]
  | 1 => [(2 * p, 2)]
  | 2 => [(2 * p, 2)]
  | 3 => [(p, 1)]
  | 4 => [(p, 1), (4096 + p / 32, 1)]
  | 5 => [(4 * p, 4)]
  | 6 => [(p / 8, 1)]
  | _ => [(32 * p, 32)]

/-- Every byte that an element reads lies in the data area (R122). -/
def elemInside (fmt base p : Nat) : Bool := (elemBytes fmt p).all fun b => decide (base + b.1 + b.2 ≤ dataBytes)

/-- The element at position p of a record at a byte address, as an exact value, for the formats that have one: FP32, BF16,
FP16, E4M3, A8, U32 and MASK1 of R119. -/
def elemVal (m : Memory) (fmt base p : Nat) : FVal :=
  match fmt with
  | 0 => decodeF fFP32 (m.readLE (base + 4 * p) 4)
  | 1 => decodeF fBF16 (m.readLE (base + 2 * p) 2)
  | 2 => decodeF fFP16 (m.readLE (base + 2 * p) 2)
  | 3 => decodeF fE4M3 (m.readLE (base + p) 1)
  | 4 => (decodeF fE4M3 (m.readLE (base + p) 1)).mul (decE8M0 (m.readLE (base + 4096 + p / 32) 1))
  | 5 => .fin false (m.readLE (base + 4 * p) 4) 0
  | _ => if (m.readLE (base + p / 8) 1).testBit (p % 8) then .one else .zero

/-- The element as it enters a lane, in FP32 (R125). An FP32 element keeps its pattern. -/
def elem32 (m : Memory) (fmt base p : Nat) : Word :=
  if fmt = 0 then BitVec.ofNat 32 (m.readLE (base + 4 * p) 4) else enc32 (elemVal m fmt base p)

/-- Word w of the statistics record at position p (R136). -/
def recWord (m : Memory) (base p w : Nat) : Word := BitVec.ofNat 32 (m.readLE (base + 32 * p + 4 * w) 4)

/-! ### Weight and lattice tiles -/

/-- The level of a weight code in format 2 W2Q, 3 W2T or 4 W1 (R159). -/
def levelOf (fmt code : Nat) : FVal :=
  match fmt with
  | 2 => (match code with
    | 0 => .fin false 1 (-1)
    | 1 => .fin false 3 (-1)
    | 2 => .fin true 1 (-1)
    | _ => .fin true 3 (-1))
  | 3 => (match code with
    | 1 => .one
    | 3 => .fin true 1 0
    | _ => .zero)
  | _ => if code = 0 then .one else .fin true 1 0

/-- The weight code of element (r, c) of a tile at a byte address (R160). -/
def weightCode (m : Memory) (fmt base r c : Nat) : Nat :=
  if fmt = 4 then (m.readLE (base + r * 8 + c / 8) 1 >>> (c % 8)) % 2
  else (m.readLE (base + r * 16 + c / 4) 1 >>> (2 * (c % 4))) % 4

/-- The E4M3 scale of column c of a weight tile (R161). -/
def weightScale (m : Memory) (fmt base c : Nat) : FVal :=
  decodeF fE4M3 (m.readLE (base + (if fmt = 4 then 512 else 1024) + c) 1)

/-- Words of a tile record of a weight format. -/
def weightWords (fmt : Nat) : Nat := if fmt = 4 then 9 else 17

/-- The lattice runs one of the weight modes (R98). -/
def weightMode (f : Bytes) : Bool := decide (2 ≤ bFmt f)

/-- Words of an A tile and of a B tile (R161). -/
def aWords (f : Bytes) : Nat := if aFmt f = 1 then 128 else if aScale f = 1 then 66 else 64
def bWords (f : Bytes) : Nat :=
  if weightMode f then weightWords (bFmt f) else if bFmt f = 1 then 128 else if bScale f = 1 then 66 else 64

/-- Stored element (r, c) of a tile in E4M3 or BF16, with its E8M0 scale folded in exactly when it has one (R100). -/
def storedVal (m : Memory) (bf16 scaled : Bool) (base r c : Nat) : FVal :=
  let p := 64 * r + c
  if bf16 then elemVal m 1 base p else if scaled then elemVal m 4 base p else elemVal m 3 base p

/-- Element (i, k) of operand A without its scale in the weight modes, with it otherwise (R99, R100). -/
def operandA (f : Bytes) (m : Memory) (base i k : Nat) : FVal :=
  let r := if aModeT f then k else i
  let c := if aModeT f then i else k
  storedVal m (decide (aFmt f = 1)) (decide (aScale f = 1) && !weightMode f) base r c

/-- Element (k, j) of operand B in the unscaled and E8M0 formats (R99, R100). -/
def operandB (f : Bytes) (m : Memory) (base k j : Nat) : FVal :=
  let r := if bModeT f then j else k
  let c := if bModeT f then k else j
  storedVal m (decide (bFmt f = 1)) (decide (bScale f = 1)) base r c

/-- Level (k, j) of operand B in the weight modes (R99, R159). -/
def operandW (f : Bytes) (m : Memory) (base k j : Nat) : FVal :=
  levelOf (bFmt f) (if bModeT f then weightCode m (bFmt f) base j k else weightCode m (bFmt f) base k j)

end Sys2Proof.Machine
end

