-- ==== Sys2Proof/Machine/Flags.lean ====
section
/-! DEFINITION. Conversions at the outputs of the cells and the flags they set: NONFINITE, SAT and CELL_FAULT of a tile
header (R110, R111, R163 to R175). -/
namespace Sys2Proof.Machine

/-- What the draws of a tensor's conversions start from (R178, R179). -/
structure DrawKey where
  seed : DWord
  step : DWord
  tensor : Word
  deriving DecidableEq, Repr

/-- A draw of the key for an element and an ordinal. -/
def DrawKey.draw (k : DrawKey) (elem ordinal : Nat) : Nat := draw12 k.seed k.step k.tensor elem ordinal

/-- PRIV (R174). -/
def isPriv (tensor : Word) : Bool := tensor.getLsbD 31

/-- How an output conversion of a frame rounds an element (R172, R175). -/
def outRnd (f : Bytes) (key : DrawKey) (elem ordinal : Nat) : Rnd :=
  if outSr f || isPriv key.tensor then .sr (key.draw elem ordinal) else .rne

/-- Element index of row m × 64 + r and column n × 64 + c (R102). -/
def elemIndex (f : Bytes) (m n r c : Nat) : Nat := elemBase f + (m * 64 + r) * outCols f + n * 64 + c

/-- Flags of one conversion. -/
def Conv.flags (c : Conv) : TileFlags := { nonfinite := c.nonfinite, sat := c.sat, cellFault := false }

/-- OR of the flags of a list. -/
def orFlags (l : List TileFlags) : TileFlags := l.foldl TileFlags.or .none

/-- The bytes and flags of converted elements of w bytes each. -/
def packConvs (w : Nat) (cs : List Conv) : RowOut :=
  { data := cs.flatMap (fun c => toLE c.bits w), scales := [], flags := orFlags (cs.map Conv.flags) }

/-! ### Block scales (R163, R164, R196) -/

/-- n/d ≤ MAXF × 2^x for the magnitude m × 2^e. -/
def magLE (m : Nat) (e : Int) (maxf : Nat) (x : Int) : Bool :=
  let k := min e x
  decide (m <<< (e - k).toNat ≤ maxf <<< (x - k).toNat)

/-- The smallest x at which amax ≤ MAXF × 2^x (X₀ of R163), for a magnitude above 0. -/
def blockX0 (m : Nat) (e : Int) (maxf : Nat) : Int :=
  let guess : Int := (m.log2 : Int) + e - (maxf.log2 : Int)
  if magLE m e maxf (guess - 1) then guess - 1 else if magLE m e maxf guess then guess else guess + 1

/-- X of R163: X₀ + H, limited. -/
def blockX (m : Nat) (e : Int) (maxf h : Nat) : Int := max (-127) (min 127 (blockX0 m e maxf + h))

/-- The larger magnitude of two finite values. -/
def magMax (a b : FVal) : FVal := if a.abs.lt b.abs then b.abs else a.abs

/-- Largest magnitude among the finite elements (R163). -/
def amaxOf (xs : List FVal) : FVal := (xs.filter FVal.isFin).foldl magMax .zero

/-- The block exponent for a largest finite magnitude: R163, or 2^0 when it is 0 (R164). -/
def exponentFor (a : FVal) (maxf h : Nat) : Int :=
  match a with
  | .fin _ m e => if m = 0 then 0 else blockX m e maxf h
  | _ => 0

/-- Element format and MAXF of a block format: A8, or G8 (R163). -/
def blockFmt (g8 : Bool) : Fmt × Nat := if g8 then (fE5M2, 57344) else (fE4M3, 448)

/-- One 32-element block of A8 or G8 under R163 and R164, with the rounding of each element. -/
def convBlock (g8 sat : Bool) (h : Nat) (xs : List FVal) (rnd : Nat → Rnd) : RowOut :=
  let fm := blockFmt g8
  if xs.any FVal.isNaN || (xs.any FVal.isInf && !g8 && !sat) then
    { data := xs.map (fun _ => BitVec.ofNat 8 fm.1.canonNaN), scales := [0xFF#8],
      flags := { nonfinite := true, sat := false, cellFault := false } }
  else
    let x := exponentFor (amaxOf xs) fm.2 h
    let cs := xs.zipIdx.map fun p => convF fm.1 (rnd p.2) (sat && !g8) (p.1.scale2 (-x))
    { data := cs.map (fun c => BitVec.ofNat 8 c.bits), scales := [BitVec.ofNat 8 (x + 127).toNat],
      flags := { nonfinite := g8 && xs.any FVal.isInf, sat := !g8 && xs.any FVal.isInf, cellFault := false } }

/-- Joins two parts of a row. -/
def RowOut.join (a b : RowOut) : RowOut :=
  { data := a.data ++ b.data, scales := a.scales ++ b.scales, flags := a.flags.or b.flags }

/-- FP32 output of a value: unchanged but for the canonical NaN, NONFINITE when it is not finite (R110, R111, R155). -/
def convFP32 (x : Word) : Conv := { bits := (canon32 x).toNat, nonfinite := !isFin32 x, sat := false }

/-- One row of 64 FP32 values in an output format (R118, R161 to R172): 0 FP32; 1 BF16; 2 FP16; 3 E4M3; 4 A8; 5 G8;
6 U32. -/
def convRow (fmt : Nat) (sat : Bool) (h : Nat) (xs : List Word) (rnd : Nat → Rnd) : RowOut :=
  match fmt with
  | 0 => packConvs 4 (xs.map convFP32)
  | 1 => packConvs 2 (xs.zipIdx.map fun p => convF fBF16 (rnd p.2) sat (dec32 p.1))
  | 2 => packConvs 2 (xs.zipIdx.map fun p => convF fFP16 (rnd p.2) sat (dec32 p.1))
  | 3 => packConvs 1 (xs.zipIdx.map fun p => convF fE4M3 (rnd p.2) sat (dec32 p.1))
  | 4 => (convBlock false sat h ((xs.take 32).map dec32) rnd).join
      (convBlock false sat h ((xs.drop 32).map dec32) (fun i => rnd (32 + i)))
  | 5 => (convBlock true sat h ((xs.take 32).map dec32) rnd).join
      (convBlock true sat h ((xs.drop 32).map dec32) (fun i => rnd (32 + i)))
  | _ => packConvs 4 (xs.map toU32)

/-- A tile record from its rows: the elements, then the block scales (R161). -/
def recordOf (rows : List RowOut) : Bytes := rows.flatMap RowOut.data ++ rows.flatMap RowOut.scales

/-- Flags of a tile from its rows. -/
def flagsOf (rows : List RowOut) : TileFlags := orFlags (rows.map RowOut.flags)

/-- The rows of a tile of 4,096 values at output tile (m, n) of the tensor, converted by a frame with an ordinal. -/
def convTile (f : Bytes) (key : DrawKey) (fmt h ordinal m n : Nat) (xs : List Word) : List RowOut :=
  (List.range 64).map fun r =>
    convRow fmt (outSat f) h ((xs.drop (64 * r)).take 64) fun c => outRnd f key (elemIndex f m n r c) ordinal

/-- The 64 B header of a finished tile (R112), with SEQ as given. -/
def tileHeader (f : Bytes) (m n : Nat) (seq : Word) (gen : Half) (fl : TileFlags) : Bytes :=
  toLE (m % 65536) 2 ++ toLE (n % 65536) 2 ++ toLE (fTensor f).toNat 4 ++ toLE seq.toNat 4 ++ toLE gen.toNat 2 ++
    toLE (b2n fl.nonfinite + 2 * b2n fl.sat + 4 * b2n (decide (outFmt f = 0)) + 8 * b2n fl.cellFault) 2 ++
    toLE (fRegion f) 4 ++ List.replicate 44 0

/-- A header or an outlier block with its SEQ filled in, at the byte where it stands (R112, R199). -/
def withSeq (bs : Bytes) (seq : Word) : Bytes := bs.take 8 ++ toLE seq.toNat 4 ++ bs.drop 12

/-- What an uncorrectable read puts into the header of a tile it feeds (R92). -/
def spoiledFlags : TileFlags := { nonfinite := true, sat := false, cellFault := true }

end Sys2Proof.Machine
end

