-- ==== Sys2Proof/Machine/FrameOps.lean ====
section
/-! DEFINITION. Validity of a configuration frame (R91, R95, R96, R98, R109, R118, R119, R126, R127, R135, R139, R141,
R173, R193, R194, R550, R551), and the rewriting of its consumer entries (R113, R237). -/
namespace Sys2Proof.Machine

/-! ### Defined bits of the words of a frame (R95, R551) -/

/-- A word with the bits that are defined in it; a word of no entry has none. -/
abbrev BitMap := List (Nat × Nat)

/-- The mask of the bits [hi:lo]. -/
def bitsMask (hi lo : Nat) : Nat := (2 ^ (hi + 1 - lo) - 1) <<< lo

/-- All 32 bits. -/
def allBits : Nat := 2 ^ 32 - 1

/-- Two 15-bit fields, at [14:0] and [30:16]. -/
def twoFields : Nat := bitsMask 14 0 + bitsMask 30 16

/-- Common header (R95). -/
def headMap : BitMap := [(0x00, bitsMask 10 0 + bitsMask 24 16), (0x04, allBits), (0x08, bitsMask 23 0), (0x0C, allBits)]

/-- Matrix body (R109). -/
def matrixMap : BitMap :=
  [(0x40, bitsMask 4 0 + bitsMask 13 8 + bitsMask 23 16), (0x44, allBits), (0x48, allBits), (0x4C, twoFields), (0x50, twoFields),
   (0x54, twoFields), (0x58, bitsMask 25 0), (0x5C, bitsMask 28 0), (0x60, bitsMask 28 0), (0x64, bitsMask 28 0),
   (0x68, bitsMask 28 0), (0x6C, allBits), (0x70, allBits)]

/-- Output section and streams (R118, R119). -/
def outMap : BitMap :=
  [(0x40, bitsMask 6 0 + bitsMask 30 16), (0x44, allBits), (0x48, twoFields), (0x4C, bitsMask 25 0), (0x50, bitsMask 28 0),
   (0x54, bitsMask 28 0), (0x58, bitsMask 28 0), (0x5C, bitsMask 28 0), (0x60, allBits), (0x64, allBits)] ++
  [0, 1, 2, 3].flatMap fun i => [(sOff i, bitsMask 26 0), (sOff i + 4, bitsMask 6 0 + bitsMask 31 8)]

/-- Vector section (R126). -/
def vectorMap : BitMap :=
  [(0xA0, bitsMask 9 0), (0xA4, allBits), (0xA8, allBits), (0xAC, allBits), (0xB0, allBits)] ++
  (List.range 8).map (fun i => (opOff i, bitsMask 20 0)) ++
  [(0xD4, allBits), (0xD8, bitsMask 14 0 + bitsMask 28 16), (0xDC, bitsMask 24 0), (0xE0, bitsMask 24 0)]

/-- Reduce section (R135). -/
def reduceMap : BitMap :=
  [(0xA0, bitsMask 12 0), (0xA4, bitsMask 15 0), (0xA8, allBits), (0xAC, allBits), (0xB0, bitsMask 14 0)]

/-- Table section (R141). -/
def tableMap : BitMap :=
  [(0xA0, bitsMask 4 0), (0xA4, allBits), (0xA8, allBits), (0xB0, allBits), (0xB4, allBits), (0xB8, allBits), (0xBC, allBits),
   (0xC0, allBits), (0xC4, allBits), (0xC8, allBits)] ++ (List.range 768).map fun i => (0x100 + 4 * i, allBits)

/-- Transform section (R193). -/
def transformMap : BitMap :=
  [(0xA0, bitsMask 20 0), (0xA4, allBits), (0xA8, bitsMask 9 0 + bitsMask 30 16), (0xAC, bitsMask 15 0), (0xB0, bitsMask 20 0),
   (0xB4, bitsMask 20 0), (0xB8, twoFields), (0xBC, bitsMask 14 0 + bitsMask 31 16)]

/-- The defined bits of a frame of a personality. -/
def frameMap (pers : Nat) : BitMap :=
  match pers with
  | 0 => headMap ++ matrixMap
  | 1 => headMap ++ outMap ++ vectorMap
  | 2 => headMap ++ outMap ++ reduceMap
  | 3 => headMap ++ outMap ++ transformMap
  | _ => headMap ++ outMap ++ tableMap

/-- The length that a personality states, in 64 B units (R96). -/
def frameLen (pers : Nat) : Nat :=
  match pers with
  | 0 => 3
  | 1 => 4
  | 2 => 3
  | 3 => 4
  | _ => 52

/-- Every reserved bit of the frame is 0. -/
def reservedZero (f : Bytes) : Bool :=
  (List.range (fLen f * 16)).all fun i =>
    let mask := (getKV (4 * i) (frameMap (fPers f))).getD 0
    decide (leNat f (4 * i) 4 &&& mask = leNat f (4 * i) 4)

/-- CRC-32 of the frame with the CRC field taken as 0 (R95). -/
def frameCrc (f : Bytes) : Nat := crc32 (f.take 12 ++ List.replicate 4 0 ++ (f.drop 16).take (fLen f * 64 - 16))

/-! ### Ranges -/

/-- A base field in the data area (R91). -/
def inData (w : Nat) : Bool := decide (w < dataWords)

/-- A value lies in a range. -/
def inRange (lo x hi : Nat) : Bool := decide (lo ≤ x) && decide (x ≤ hi)

/-- The queue fields and consumer entries (R109, R113, R118). -/
def queueOk (f : Bytes) : Bool :=
  inData (ftqBase f) && inRange 2 (ftqDepth f) 8 && inRange 1 (ftqHwm f) (ftqDepth f) && inRange 1 (ftqCons f) 4 &&
    (List.range 4).all fun n => if n < ftqCons f then inData (conBase (consEntry f n)) else consEntry f n = 0

/-- Operand combinations of the lattice (R98). -/
def modeOk (f : Bytes) : Bool :=
  (decide (aFmt f = 0) && decide (aScale f ≤ 1) && decide (bFmt f = 0) && decide (bScale f ≤ 1)) ||
  (decide (aFmt f = 0) && decide (aScale f = 1) && !aModeT f && inRange 2 (bFmt f) 4 && decide (bScale f = 2)) ||
  (decide (aFmt f = 1) && decide (aScale f = 0) && decide (bFmt f = 1) && decide (bScale f = 0))

/-- Words of the queue area and of the partial area (R103, R109). -/
def queueAreaWords (f : Bytes) : Nat := ftqDepth f * slotWords (outFmt f)
def partAreaWords (f : Bytes) : Nat := (mTiles f * nTiles f - 1) * partStride f + 256

/-- Body of a matrix frame (R98, R103, R109, R173). -/
def matrixOk (f : Bytes) : Bool :=
  modeOk f && inRange 6 (chunkLog2 f) 12 && !(outSr f && decide (outFmt f = 0)) && decide (1 ≤ mTiles f) && decide (1 ≤ nTiles f) &&
  decide (1 ≤ kTiles f) && decide (1 ≤ visits f) && queueOk f && decide (ftqBase f + queueAreaWords f ≤ dataWords) &&
  (decide (visits f ≤ 1) ||
    (inData (partBase f) && decide (256 ≤ partStride f) && decide (partBase f + partAreaWords f ≤ dataWords) &&
      !rangesMeet (ftqBase f) (queueAreaWords f) (partBase f) (partAreaWords f)))

/-- Output section (R118, R173). -/
def outOk (f : Bytes) : Bool :=
  decide (outFmt f ≤ 7) && !(outSr f && (decide (outFmt f = 0) || decide (outFmt f = 6) || decide (outFmt f = 7))) &&
  decide (1 ≤ mTiles f) && decide (1 ≤ nTiles f) && (if outArea f then inData (outBase f) else queueOk f)

/-- Streams: those the frame reads are in range, the others all zero (R119, R550). -/
def streamsOk (f : Bytes) : Bool :=
  [0, 1, 2, 3].all fun i =>
    if sRead f i then decide (sFmt f i ≤ 7) && decide (sRStride f i ≤ 64) && decide (sCStride f i ≤ 64) && inData (sBase f i)
    else !sPresent f i

/-- A stream that an operation reads as masks, and one that it reads as records. -/
def isMaskStream (f : Bytes) (i : Nat) : Bool := sFmt f i = 6
def isRecStream (f : Bytes) (i : Nat) : Bool := sFmt f i = 7

/-- Vector section (R126, R127, R133, R551). -/
def vectorOk (f : Bytes) : Bool :=
  if vMode f = 0 then
    inRange 1 (vNops f) 8 &&
    (List.range 8).all fun i =>
      if i < vNops f then
        decide (vOpcode f i ≤ 19) &&
          (decide (vOpcode f i ≤ 15) || (isRecStream f 3 && decide (sRStride f 3 = 1) && decide (sCStride f 3 = 0)))
      else decide (leNat f (opOff i) 4 = 0)
  else
    decide (vMode f ≤ 4) && decide (1 ≤ countMax f) && inData (listBase f) && inRange 1 (listCount f) 64 &&
    decide (listFirst f + listCount f ≤ 64) && (decide (vMode f ≠ 1) || isMaskStream f 0) &&
    (decide (vMode f < 3) || (decide (rowHi f ≤ 2 ^ 24) && outArea f)) && (decide (vMode f ≠ 4) || decide (outFmt f = 0))

/-- The chain bits are allowed with an operation (R139). -/
def chainOk (f : Bytes) : Bool := !(chainIn f || chainOut f) || !(decide (redop f ∈ [6, 8, 9, 10]))

/-- S2 is the mask of a reduce frame (R135, R136). -/
def maskS2 (f : Bytes) : Bool := masked f && decide (redop f ≠ 6) && !(decide (redop f = 10) && decide (3 ≤ nInputs f))

/-- Reduce section (R135, R136, R139).
(DEDUCED, log entry 146) -/
def reduceOk (f : Bytes) : Bool :=
  decide (redop f ≤ 10) && decide (1 ≤ rowTiles f) && chainOk f &&
  (if redop f = 10 then inRange 2 (nInputs f) 4 && decide (outFmt f ≤ 2) else decide (outFmt f = 7)) &&
  (decide (redop f ≠ 9) || (inRange 1 (topkK f) 3 && inData (maskOutBase f))) &&
  (decide (redop f ≠ 5) || posNormal32 (rEps f)) && (!maskS2 f || isMaskStream f 2) &&
  (!(decide (redop f = 6) || decide (redop f = 8) || chainIn f) || isRecStream f 3)

/-- A stated error: not negative, not NaN. -/
def notNegative (w : Word) : Bool := !isNaN32 w && !lt32 w 0

/-- Table section (R141). -/
def tableOk (f : Bytes) : Bool := isFin32 (xMin f) && posNormal32 (segScale f) && notNegative (errAbs f) && notNegative (errRel f)

/-- Transform section (R193, R194). -/
def transformOk (f : Bytes) : Bool :=
  decide (tMode f ≤ 1) && decide (rotCode f ≤ 2) &&
  (if tMac f then
    decide (outFmt f = 0) && !outlierEn f && !fullEn f && !addS1 f && decide (rotCode f = 0) && inRange 2 (oblkWords f) 65 &&
      inData (oblkBase f) && inRange 2 (wFmt f) 4 && inData (wBase f) && decide (1 ≤ macK f)
  else
    (!outlierEn f ||
      (decide (outFmt f = 4) && inRange 1 (thrLog2 f) 4 && inRange 2 (oblkWords f) 65 && inData (oblkBase f) &&
        inRange 1 (oblkSlots f) 63 && decide (tileBudget f ≤ 16 * (oblkWords f - 1)))) &&
    (!fullEn f || (outlierEn f && inData (fullBase f) && inRange 1 (fullSlots f) 63)) &&
    (decide (rotCode f ≠ 2) || decide (nTiles f % 4 = 0)))

/-- Body of a frame of its personality. -/
def bodyOk (f : Bytes) : Bool :=
  match fPers f with
  | 0 => matrixOk f
  | 1 => outOk f && streamsOk f && vectorOk f
  | 2 => outOk f && streamsOk f && reduceOk f
  | 3 => outOk f && streamsOk f && transformOk f
  | 4 => outOk f && streamsOk f && tableOk f
  | _ => false

/-- A frame is valid (R96), but for an uncorrectable error met while it is loaded.
(DEDUCED, log entry 34) -/
def frameValid (f : Bytes) : Bool :=
  decide (fVer f = 1) && decide (fPers f ≤ 4) && decide (fLen f = frameLen (fPers f)) && decide (fLen f * 64 ≤ f.length) &&
  decide (frameCrc f = fCrc f) && reservedZero f && bodyOk f

/-! ### Consumer entries -/

/-- The frame names consumers: a matrix frame, or OUT_DEST 0. -/
def hasQueue (f : Bytes) : Bool := !outArea f

/-- An entry with its cell and queue replaced (R113). -/
def entryWith (e : Word) (cell queue : Nat) : Word :=
  BitVec.ofNat 32 (cell % 16 + 16 * b2n (conQueued e) + 32 * (queue % 64) + (field e.toNat 31 11) <<< 11)

/-- Replaces the bytes of a frame from an offset. -/
def putBytes (f : Bytes) (off : Nat) (bs : Bytes) : Bytes := f.take off ++ bs ++ f.drop (off + bs.length)

/-- A frame with its consumer entries changed and its CRC computed again (R237). -/
def rewriteFrame (f : Bytes) (g : Word → Word) : Bytes :=
  if hasQueue f then
    let f := (List.range (ftqCons f)).foldl (fun f n => putBytes f (consOff f n) (toLE (g (consEntry f n)).toNat 4)) f
    putBytes f 0x0C (toLE (frameCrc f) 4)
  else f

end Sys2Proof.Machine
end

