-- ==== Sys2Proof/Machine/QueueOps.lean ====
section
/-! DEFINITION. Operations on handshake queues and join channels (R63 to R70). -/
namespace Sys2Proof.Machine

/-- The producer's count shows a free entry (R65): entries written, read or not, less those whose return it has seen. -/
def HsQueue.canWrite (q : HsQueue) : Bool := decide (q.words.length + q.returning < 8)

/-- Writes a word (R64, R65). -/
def HsQueue.write (q : HsQueue) (w : QWord) : HsQueue := if q.canWrite then { q with words := q.words ++ [w] } else q

/-- One more written word becomes readable (R66).
(DEDUCED, log entry 23) -/
def HsQueue.show (q : HsQueue) : HsQueue := if q.visible < q.words.length then { q with visible := q.visible + 1 } else q

/-- The word that the consumer's count shows as present (R65). -/
def HsQueue.front (q : HsQueue) : Option QWord := if q.visible > 0 then q.words.head? else none

/-- Reads the oldest word that is visible; its entry is on its way back to the producer (R65, R66). -/
def HsQueue.read (q : HsQueue) : HsQueue :=
  if q.visible > 0 then { words := q.words.tail, visible := q.visible - 1, returning := q.returning + 1 } else q

/-- Reads the oldest visible word of a receive end queue, whose entry returns by the join's credits (R70). -/
def HsQueue.readRx (q : HsQueue) : HsQueue :=
  if q.visible > 0 then { q with words := q.words.tail, visible := q.visible - 1 } else q

/-- A read entry becomes free as the producer sees it (R66). -/
def HsQueue.giveBack (q : HsQueue) : HsQueue := { q with returning := q.returning - 1 }

/-- Transmit-end and receive-end queue of a join channel (R70). -/
def txQueue (c : Fin 1792) : Fin 7680 := ⟨4096 + 2 * c.val, by omega⟩
def rxQueue (c : Fin 1792) : Fin 7680 := ⟨4097 + 2 * c.val, by omega⟩

/-- The channel of which a queue is the receive end. -/
def rxChannel (q : Fin 7680) : Option (Fin 1792) :=
  if h : 4096 ≤ q.val ∧ q.val % 2 = 1 then some ⟨(q.val - 4097) / 2, by omega⟩ else none

/-- Consumes the front word of a queue on its consumer's side. -/
def State.consume (s : State) (q : Fin 7680) : State :=
  match rxChannel q with
  | none => s.upQueue q HsQueue.read
  | some c =>
    if s.queues[q].visible > 0 then (s.upQueue q HsQueue.readRx).upJoin c fun j => { j with freed := j.freed + 1 } else s

/-- A queue as words are taken out of it at a stop: empty, with every entry free. -/
def State.emptyQueue (s : State) (q : Fin 7680) : State :=
  let s := s.upQueue q fun _ => .reset
  match rxChannel q with
  | none => s
  | some c => s.upJoin c fun _ => .reset

/-- Words between the producer of a queue and its consumer's side, oldest first: those in the queue, then those that a join channel carries to
it. -/
def State.wordsAt (s : State) (q : Fin 7680) : List QWord :=
  s.queues[q].words ++ match rxChannel q with
    | none => []
    | some c => s.joins[c].flight

end Sys2Proof.Machine
end

