-- ==== Sys2Proof/Machine/PlaceOps.lean ====
section
/-! DEFINITION. Binding of regions to clusters and of crossings to queues (R219, R224, R227, R228, R233, R234, R237), and
the placing of frames. -/
namespace Sys2Proof.Machine

/-! ### The grid and its symmetries (R237) -/

/-- Cell at a row and a column. -/
def gridAt (r c : Nat) : Nat := 4 * (r % 4) + c % 4

/-- The cell of a cluster that a logical cell maps to under a symmetry, 0 to 7 in the order of R237. -/
def symCell (sym l : Nat) : Nat :=
  let r := l % 16 / 4
  let c := l % 4
  match sym with
  | 0 => gridAt r c
  | 1 => gridAt c (3 - r)
  | 2 => gridAt (3 - r) (3 - c)
  | 3 => gridAt (3 - c) r
  | 4 => gridAt r (3 - c)
  | 5 => gridAt (3 - r) c
  | 6 => gridAt c r
  | _ => gridAt (3 - c) (3 - r)

/-- Flat index of a cell of a cluster (R13). -/
def cellAt (cl : Fin 64) (l : Nat) : Fin 1024 := ⟨cl.val * 16 + l % 16, by omega⟩

/-- Cluster of a cell. -/
def clusterOf (c : Fin 1024) : Fin 64 := ⟨c.val / 16, by omega⟩

/-- A cluster next to another: the second half of a pair. -/
def secondHalf (cl : Fin 64) : Fin 64 := ⟨(cl.val + 1) % 64, by omega⟩

/-- Flat cell of logical cell l of a region bound to a cluster, or to the pair of which it is the even one.
(DEDUCED, log entry 29) -/
def physAt (cl : Fin 64) (sym l : Nat) : Fin 1024 := cellAt (if l < 16 then cl else secondHalf cl) (symCell sym l)

/-- The logical cells of a mask. -/
def maskCells (mask : Nat) : List Nat := (List.range 32).filter (bit mask)

/-- Run-time region i. -/
def State.regionS (s : State) (i : Nat) : RegionS := s.rt.regions.getD i .reset

/-- Changes run-time region i. -/
def State.upRegion (s : State) (i : Nat) (f : RegionS → RegionS) : State :=
  s.upRt fun t => { t with regions := t.regions.modify i f }

/-- Flat cell of logical cell l of region i, when it is bound. -/
def State.physCell (s : State) (i l : Nat) : Option (Fin 1024) :=
  (s.regionS i).cluster.map fun cl => physAt cl (s.regionS i).sym l

/-- Logical cells of region i. -/
def State.regionCells (s : State) (i : Nat) : List Nat :=
  match s.regionE i with
  | none => []
  | some e => maskCells e.cellMask

/-- Flat cells of region i. -/
def State.regionPhys (s : State) (i : Nat) : List (Fin 1024) := (s.regionCells i).filterMap (s.physCell i)

/-- The region that uses a cell, and its logical number there. -/
def State.ownerOf (s : State) (c : Fin 1024) : Option (Nat × Nat) :=
  (List.range s.rt.regions.length).findSome? fun i =>
    ((s.regionCells i).find? fun l => s.physCell i l = some c).map fun l => (i, l)

/-- Index of a region number in the region table. -/
def State.regionIndex (s : State) (number : Nat) : Option Nat :=
  s.rt.image.bind fun m => m.regions.findIdx? fun e => e.region = number

/-! ### Crossings (R18, R19, R224, R227, R228) -/

/-- The compute dies that a join links, one way: the four joins between compute dies, then the four to and from the hub
die (die 4). The model numbers the 64 channels of join k from 64 × k. -/
def joinsDir : List (Nat × Nat) :=
  [(0, 1), (1, 0), (2, 3), (3, 2), (0, 2), (2, 0), (1, 3), (3, 1), (0, 4), (4, 0), (1, 4), (4, 1), (2, 4), (4, 2), (3, 4), (4, 3)]

/-- The joins on the way from one die to another (R19). -/
def joinPath (a b : Nat) : List Nat :=
  if a = b then []
  else match joinsDir.findIdx? (· = (a, b)) with
    | some k => [k]
    | none => [joinsDir.findIdx (· = (a, 4)), joinsDir.findIdx (· = (4, b))]

/-- Rank of a crossing between two clusters (R228). -/
def rankOf (a b : Fin 64) : Nat :=
  match (joinPath (dieOf a).val (dieOf b).val).length with
  | 0 => 0
  | 1 => 2
  | _ => 3

/-- Crossing i of the image, with the indexes of its regions. -/
def State.crossing (s : State) (i : Nat) : Option (CrossE × Nat × Nat) :=
  match s.rt.image.bind (fun m => m.crossings[i]?) with
  | none => none
  | some x =>
    match s.regionIndex x.prodRegion, s.regionIndex x.consRegion with
    | some p, some q => some (x, p, q)
    | _, _ => none

/-- Cluster in which logical cell l of region i lies. -/
def State.cellCluster (s : State) (i l : Nat) : Option (Fin 64) := (s.physCell i l).map clusterOf

/-- What the queues of a crossing are taken from: the producer's cluster (below 64), or the joins on its way (64 + join). -/
def State.crossPool (s : State) (i : Nat) : List Nat :=
  match s.crossing i with
  | none => []
  | some (x, p, q) =>
    match s.cellCluster p x.prodCell, s.cellCluster q x.consCell with
    | some a, some b =>
      if rankOf a b = 0 then [a.val] else (joinPath (dieOf a).val (dieOf b).val).map (64 + ·)
    | _, _ => []

/-- Two crossings leave one producing cell; their queues have different numbers, by which its consumer entries name them (R113). -/
def State.sameProducer (s : State) (i j : Nat) : Bool :=
  match s.crossing i, s.crossing j with
  | some (x, p, _), some (y, q, _) => decide (p = q) && decide (x.prodCell = y.prodCell)
  | _, _ => false

/-- Attaches crossing i to the lowest physical queue number that no other crossing with a pool in common has.
(DESIGN CHOICE, log entry 27) -/
def State.attachOne (s : State) (i : Nat) : State :=
  let pool := s.crossPool i
  let taken := (List.range s.rt.attached.length).filterMap fun j =>
    if j ≠ i && (s.sameProducer i j || (s.crossPool j).any (pool.contains ·)) then s.rt.attached[j]? else none
  let q := ((List.range 64).find? fun q => !taken.contains q).getD 0
  s.upRt fun t => { t with attached := t.attached.set i q }

/-- Attaches every crossing afresh, in table order; a number of 64 marks one not attached yet. -/
def State.attachAll (s : State) : State :=
  let n := ((s.rt.image.map (·.crossings)).getD []).length
  (List.range n).foldl State.attachOne (s.upRt fun t => { t with attached := List.replicate n 64, tokens := List.replicate n 0 })

/-- Queue number of a crossing. -/
def State.queueNo (s : State) (i : Nat) : Nat := s.rt.attached.getD i 0 % 64

/-- The queues that the words of a crossing pass, from the producer's to the consumer's: the one between two clusters of a die, or the end
queues of the channels on the way (R70, R228). -/
def State.crossPath (s : State) (i : Nat) : List (Fin 7680) :=
  let n := s.queueNo i
  (s.crossPool i).flatMap fun k =>
    if k < 64 then [⟨(k * 64 + n) % 7680, by omega⟩]
    else
      let c := (k - 64) * 64 + n
      [⟨(4096 + 2 * c) % 7680, by omega⟩, ⟨(4097 + 2 * c) % 7680, by omega⟩]

/-- The queue into which a crossing's producer writes and the one its consumer reads. -/
def State.crossQueues (s : State) (i : Nat) : Option (Fin 7680 × Fin 7680) :=
  match s.crossPath i with
  | [] => none
  | q :: l => some (q, l.getLastD q)

/-- Crossings that are attached to queues. -/
def State.crossIds (s : State) : List Nat := List.range s.rt.attached.length

/-- The crossing whose producer writes into a queue, and the one whose consumer reads from it. -/
def State.crossInto (s : State) (q : Fin 7680) : Option Nat := s.crossIds.find? fun i => (s.crossQueues i).map (·.1) = some q
def State.crossFrom (s : State) (q : Fin 7680) : Option Nat := s.crossIds.find? fun i => (s.crossQueues i).map (·.2) = some q

/-- The queue of the second join after the receive end queue of the first one, where the hub die passes a crossing's words on (R19). -/
def State.relayTo (s : State) (q : Fin 7680) : Option (Fin 7680) :=
  s.crossIds.findSome? fun i => match s.crossPath i with
    | [_, b, c, _] => if b = q then some c else none
    | _ => none

/-- Index of the crossing that a SIGNAL (prod true) or an AWAIT of logical cell l of region r names by its logical queue. -/
def State.findCrossing (s : State) (prod : Bool) (r l queue : Nat) : Option Nat :=
  (List.range ((s.rt.image.map (·.crossings)).getD []).length).find? fun i =>
    match s.crossing i with
    | none => false
    | some (x, p, q) =>
      decide (x.queue = queue) && (if prod then decide (p = r ∧ x.prodCell = l) else decide (q = r ∧ x.consCell = l))

/-- A consumer entry of logical cell l of region r as the image gives it, with physical numbers (R113). -/
def State.bindEntry (s : State) (r l : Nat) (e : Word) : Word :=
  if conQueued e then
    match s.findCrossing true r l (conQueue e) with
    | none => e
    | some i =>
      match s.crossing i with
      | none => e
      | some (x, _, q) => entryWith e ((s.physCell q x.consCell).map (·.val) |>.getD 0) (s.queueNo i)
  else entryWith e (symCell (s.regionS r).sym (conCell e)) (conQueue e)

/-- The crossing that a queued consumer entry of a producing cell names (R113). -/
def State.entryCrossing (s : State) (c : Fin 1024) (e : Word) : Option Nat :=
  match s.ownerOf c with
  | none => none
  | some (r, l) => s.crossIds.find? fun i => match s.crossing i with
    | none => false
    | some (x, p, _) => decide (p = r ∧ x.prodCell = l) && decide (s.queueNo i = conQueue e)

/-- Flat cell of the consumer of a crossing, and of its producer. -/
def State.crossConsumer (s : State) (i : Nat) : Option (Fin 1024) := (s.crossing i).bind fun x => s.physCell x.2.2 x.1.consCell
def State.crossProducer (s : State) (i : Nat) : Option (Fin 1024) := (s.crossing i).bind fun x => s.physCell x.2.1 x.1.prodCell

/-- The consuming cell of a physical entry of a producing cell: on the mesh of its cluster, or across the crossing that
holds the queue. A consumer that has moved is found where it is now (R244). -/
def State.consumerOf (s : State) (c : Fin 1024) (e : Word) : Option (Fin 1024) :=
  if conQueued e then (s.entryCrossing c e).bind s.crossConsumer else some (cellAt (clusterOf c) (conCell e))

/-! ### Finished tiles on their way (R114, R117) -/

/-- Writes a record at a word of the data area. -/
def CellS.put (c : CellS) (w : Nat) (bs : Bytes) : CellS := { c with store := c.store.writeN (64 * w) bs }

/-- A record of n words at a word lies in the data area (R91, R122). -/
def wordsInside (w n : Nat) : Bool := decide (w + n ≤ dataWords)

/-- Word of the ring slot that a tile goes into at a consumer (R114). -/
def arrivalWord (e : Word) (t : QTile) : Nat := conBase e + t.seq.toNat % conSlots e * t.words

/-- Changes the first entry of a list that satisfies p. -/
def upFirst {α : Type} (p : α → Bool) (g : α → α) : List α → List α
  | [] => []
  | a :: l => if p a then g a :: l else a :: upFirst p g l

/-- Changes the tile of a queue with a SEQ in a slot. -/
def State.upTile (s : State) (c : Fin 1024) (seq : Word) (slot : Nat) (g : QTile → QTile) : State :=
  s.upCell c fun k => { k with ftq := upFirst (fun x => x.seq = seq && x.word = slot) g k.ftq }

/-- The tile has set out to consumer entry k over queue number n and has words that are not yet written. -/
def QTile.dueTo (t : QTile) (n k : Nat) : Bool :=
  let e := t.cons.getD k 0
  conQueued e && decide (conQueue e = n) && t.sent.getD k false && decide (t.put.getD k 0 < t.words)

/-- The producing cell, the consumer entry and the tile whose next word goes into a queue. -/
def State.tileDue (s : State) (q : Fin 7680) : Option (Fin 1024 × Nat × QTile) :=
  (s.crossInto q).bind fun i => (s.crossProducer i).bind fun c =>
    s.cells[c].ftq.findSome? fun t =>
      ((List.range t.cons.length).find? (t.dueTo (s.queueNo i))).map fun k => (c, k, t)

/-- The next word of a tile for consumer entry k. -/
def State.tileWord (s : State) (c : Fin 1024) (k : Nat) (t : QTile) : BitVec 512 :=
  BitVec.ofNat 512 (s.cells[c].store.readLE (64 * (t.word + t.put.getD k 0)) 64)

/-- A tile word that comes out at the end of crossing i goes into the ring slot of its tile. -/
def State.takeWord (s : State) (i : Nat) (w : QWord) : State :=
  match w.kind with
  | .tile k seq slot =>
    match s.crossProducer i with
    | none => s
    | some c =>
      match s.cells[c].ftq.find? fun t => t.seq = seq && t.word = slot with
      | none => s
      | some t =>
        let at_ := arrivalWord (t.cons.getD k 0) t + t.got.getD k 0
        let s := match s.crossConsumer i with
          | none => s
          | some d => s.when (wordsInside at_ 1) fun s => s.upCell d fun r => r.put at_ (toLE w.data.toNat 64)
        s.upTile c seq slot fun t => { t with got := t.got.modify k (· + 1) }
  | _ => s

/-- Takes every word of crossing i out of its queues before one of its regions moves: tile words reach their ring slots, and tokens are kept
for the consumer's AWAIT (R237, R244). -/
def State.flushCross (s : State) (i : Nat) : State :=
  let path := s.crossPath i
  let ws := path.reverse.flatMap s.wordsAt
  let s := ws.foldl (fun s w => s.takeWord i w) s
  let n := (ws.filter fun w => w.kind = .token).length
  path.foldl State.emptyQueue (s.upRt fun t => { t with tokens := t.tokens.modify i (· + n) })

/-! ### Binding (R234, R235) -/

/-- Clusters of a candidate: one, or both halves of a pair. -/
def candClusters (pair : Bool) (cl : Fin 64) : List (Fin 64) := if pair then [cl, secondHalf cl] else [cl]

/-- A binding: for each region, its cluster and symmetry. -/
abbrev Binding := List (Option (Fin 64 × Nat))

/-- The flat cells that a binding uses. -/
def usedCells (es : List RegionE) (b : Binding) : List (Fin 1024) :=
  (es.zip b).flatMap fun p => match p.2 with
    | none => []
    | some (cl, sym) => (maskCells p.1.cellMask).map (physAt cl sym)

/-- The first symmetry under which a region fits a cluster beside the cells in use, with no FAILED cell (R234, R237). -/
def State.fitSym (s : State) (e : RegionE) (used : List (Fin 1024)) (cl : Fin 64) : Option Nat :=
  (List.range 8).find? fun sym =>
    (maskCells e.cellMask).all fun l =>
      let c := physAt cl sym l
      !used.contains c && decide (s.cells[c].health ≠ .failed)

/-- A cluster, or a formed pair, may take the region: eligible under R234. -/
def State.eligible (s : State) (e : RegionE) (cl : Fin 64) : Bool :=
  (!e.pair || (decide (cl.val % 2 = 0) && s.paired cl)) &&
  (candClusters e.pair cl).all fun k => decide (s.clusters[k].health ≠ .failed) && decide (500 ≤ s.effMax k)

/-- The candidate is GOOD: its clusters and the cells that the region would use (R234, R235).
(DEDUCED, log entry 50) -/
def State.goodFit (s : State) (e : RegionE) (cl : Fin 64) (sym : Nat) : Bool :=
  (candClusters e.pair cl).all (fun k => s.clusters[k].health = .good) &&
  (maskCells e.cellMask).all fun l => s.cells[physAt cl sym l].health = .good

/-- The highest rank over the region's crossings with regions already bound (R234). -/
def rankWith (im : Image) (b : Binding) (number : Nat) (cl : Fin 64) : Nat :=
  maxList (im.crossings.map fun x =>
    let other := if x.prodRegion = number then some x.consRegion else if x.consRegion = number then some x.prodRegion else none
    match other with
    | none => 0
    | some o =>
      match (im.regions.findIdx? fun e => e.region = o).bind (fun i => (b.getD i none)) with
      | none => 0
      | some (k, _) => rankOf cl k)

/-- The first of two candidates under the order of R234: rank, then frequency, then number. -/
def better (a b : Nat × Nat × Fin 64 × Nat) : Bool :=
  decide (a.1 < b.1) || (decide (a.1 = b.1) && (decide (a.2.1 > b.2.1) ||
    (decide (a.2.1 = b.2.1) && decide (a.2.2.1.val < b.2.2.1.val))))

/-- The candidate that stands first. -/
def bestOf (l : List (Nat × Nat × Fin 64 × Nat)) : Option (Fin 64 × Nat) :=
  (l.foldl (fun acc x => match acc with
    | none => some x
    | some y => if better x y then some x else some y) none).map fun x => x.2.2

/-- Binds region i given the bindings so far (R234). -/
def State.bindOne (s : State) (im : Image) (b : Binding) (i : Nat) : Option (Fin 64 × Nat) :=
  match im.regions[i]? with
  | none => none
  | some e =>
    let used := usedCells im.regions b
    let cands := (List.finRange 64).filterMap fun cl =>
      if s.eligible e cl then
        (s.fitSym e used cl).map fun sym =>
          (rankWith im b e.region cl, minList ((candClusters e.pair cl).map s.effMax) |>.getD 0, cl, sym)
      else none
    let good := cands.filter fun x => s.goodFit e x.2.2.1 x.2.2.2
    bestOf (if good.isEmpty then cands else good)

/-- Order in which regions are bound: descending WEIGHT, then ascending REGION (R234). -/
def bindOrder (im : Image) : List Nat :=
  (List.range im.regions.length).inOrder fun i j =>
    match im.regions[i]?, im.regions[j]? with
    | some a, some b => decide (a.weight > b.weight) || (decide (a.weight = b.weight) && decide (a.region ≤ b.region))
    | _, _ => true

/-- Binds every region of an image (R234), or the index of the first region that cannot be bound (R230). -/
def State.bindTable (s : State) (im : Image) : Except Nat Binding :=
  (bindOrder im).foldl (fun acc i => match acc with
    | .error j => .error j
    | .ok b => match s.bindOne im b i with
      | none => .error i
      | some x => .ok (b.set i (some x))) (.ok (List.replicate im.regions.length none))

/-- The binding of an image; none when some region cannot be bound. -/
def State.bindImage (s : State) (im : Image) : Option Binding := (s.bindTable im).toOption

/-- A cluster's clock starts: its cycle count and its view of module time begin anew (R52, R75). -/
def Cluster.startClock (k : Cluster) : Cluster :=
  { k with running := true, cycles := 0, beacons := 0, corr := .none, copyDiff := 0, trackErr := 0, mixed := true }

/-- A cluster whose clock is stopped at a period boundary (R433): a frequency step and a droop response end. -/
def Cluster.stopClock (k : Cluster) : Cluster := { k with running := false, droop := false, stepTo := none, stepHeld := false }

/-- In ACTIVE, starts the clock of a cluster that has a bound region, and stops that of one that has none; a pair has one clock (R52, R58, R411,
R433). -/
def State.clockBound (s : State) : State :=
  if s.pwr.st ≠ .active then s
  else (List.finRange 64).foldl (fun s c =>
    let on := !(s.regionsOn c).isEmpty
    s.upCluster c fun k => if on && !k.running then k.startClock else if !on then k.stopClock else k) s

/-! ### Frames (R91, R219, R237) -/

/-- First byte of a frame slot (R88). -/
def slotAddr (slot : Nat) : Nat := 0x1E0000 + slot % 8 * 0x4000

/-- The tile mover writes a frame slot; while a LOAD reads the slot, the write waits (R97). -/
def CellS.writeSlot (k : CellS) (slot : Nat) (bs : Bytes) : CellS :=
  if k.loading = some (BitVec.ofNat 3 slot) then { k with slotWrites := k.slotWrites ++ [(BitVec.ofNat 3 slot, bs)] }
  else { k with store := k.store.writeN (slotAddr slot) bs }

/-- The writes that waited for a LOAD are made (R97). -/
def CellS.writeSlots (k : CellS) : CellS :=
  { k with store := k.slotWrites.foldl (fun m w => m.writeN (slotAddr w.1.toNat) w.2) k.store, slotWrites := [] }

/-- Writes one frame of region i from the image copy into its slot, with physical consumer entries. -/
def State.placeFrame (s : State) (i : Nat) (f : Bytes) : State :=
  match s.physCell i (fCell f) with
  | none => s
  | some c =>
    s.upCell c fun k => k.writeSlot (fSlot f) (rewriteFrame f (s.bindEntry i (fCell f)))

/-- Writes every frame of region i into the slots of its cells. -/
def State.placeFrames (s : State) (i : Nat) : State :=
  match s.rt.image, s.regionE i with
  | some im, some e =>
    let fs := (im.frames.drop e.frameFirst).take e.frameCount
    (fs.foldl (fun s f => s.placeFrame i f) s).upRegion i fun g => { g with placed := true }
  | _, _ => s

/-- The frames of region i wait for their buffer of class P (R91, R263). -/
def State.askFrames (s : State) (i : Nat) : State :=
  (s.upRegion i fun g => { g with placed := false }).upMover fun m => m.claim (.frames i)

/-- One grant of the arbiter; frames that wait for it are placed through the buffer (R91, R263, R272). -/
def State.grantOne (s : State) : State :=
  match s.grant with
  | (some (.frames i), s) => (s.placeFrames i).upMover fun m => m.land (.frames i)
  | (_, s) => s

/-- The cells of a region as it is first bound to them: both frames invalid, nothing running, the cell store as the wipe
left it outside what moves (R97). -/
def CellS.unbind (c : CellS) : CellS := { CellS.reset with store := c.store, ceCount := c.ceCount, waitCycles := c.waitCycles,
                                                           bpCycles := c.bpCycles, labels := c.labels, funcId := c.funcId,
                                                           tap := c.tap,
                                                           health := c.health, ceHour := c.ceHour, ueTimes := c.ueTimes }

/-- Puts a binding into force (R233): regions, queues, clocks, frequencies. -/
def State.applyBinding (s : State) (b : Binding) : State :=
  let s := s.upRt fun t =>
    { t with regions := b.map fun x => { RegionS.reset with cluster := x.map (·.1), sym := (x.map (·.2)).getD 0 } }
  let s := s.attachAll
  let cells := (List.range b.length).flatMap s.regionPhys
  let s := cells.foldl (fun s c => s.upCell c CellS.unbind) s
  s.clockBound.refreq

/-- A consumer entry of a producing cell, as it reads after a region has moved (R237): the same crossing in its new queue, or the same logical
cell of the mesh. -/
def State.carryEntry (before s : State) (c : Nat) (e : Word) : Word :=
  if h : c < 1024 then
    if conQueued e then
      match before.entryCrossing ⟨c, h⟩ e with
      | none => e
      | some i => entryWith e ((s.crossConsumer i).map (·.val) |>.getD 0) (s.queueNo i)
    else
      match before.ownerOf ⟨c, h⟩ with
      | none => e
      | some (r, _) =>
        match (List.range 16).find? fun l => symCell (before.regionS r).sym l = conCell e with
        | none => e
        | some l => entryWith e (symCell (s.regionS r).sym l) (conQueue e)
  else e

/-- Where the cell that held a logical cell of a region before a move stands after it. -/
def State.carryCell (before s : State) (c : Nat) : Nat :=
  if h : c < 1024 then
    match before.ownerOf ⟨c, h⟩ with
    | none => c
    | some (r, l) => ((s.physCell r l).map (·.val)).getD c
  else c

/-- What a region's cell carries to its new cell: all but the telemetry, the trim and the health of the place. -/
def CellS.carry (old new : CellS) : CellS :=
  { old with ceCount := new.ceCount, waitCycles := new.waitCycles, bpCycles := new.bpCycles, labels := new.labels, funcId := new.funcId,
             tap := new.tap, health := new.health, ceHour := new.ceHour, ueTimes := new.ueTimes }

/-- A frame register with its consumer entries changed; one whose entries stay is left as it is (R237). -/
def FrameReg.rename (r : FrameReg) (g : Word → Word) : FrameReg :=
  if (consEntries r.bytes).all fun e => g e = e then r else { r with bytes := rewriteFrame r.bytes g }

/-- Everything in a cell that names a consumer entry of it, or a producing cell with its entry, after a move (R237): mine is the change of the
cell's own entries, theirs that of an entry of another cell, at that of its cell. -/
def CellS.rename (k : CellS) (mine : Word → Word) (theirs : Nat → Word → Word) (at_ : Nat → Nat) : CellS :=
  { k with
    active := k.active.rename mine
    shadow := k.shadow.rename mine
    store := match k.loading with
      | none => k.store
      | some slot =>
        let bs := k.store.readN (slotAddr slot.toNat) 0x4000
        let f := bs.take (fLen bs * 64)
        if fLen bs * 64 ≤ 0x4000 then k.store.writeN (slotAddr slot.toNat) (rewriteFrame f mine) else k.store
    ftq := k.ftq.map fun t => { t with cons := t.cons.map mine }
    credits := k.credits.map fun x => (mine x.1, x.2)
    creditFlight := k.creditFlight.map mine
    ringHeld := k.ringHeld.map fun r => { r with prod := at_ r.prod, entry := theirs r.prod r.entry }
    withheld := k.withheld.map fun x => (at_ x.1, theirs x.1 x.2) }

/-- Renames in every cell of every bound region what a move has changed. -/
def State.renameAll (before s : State) : State :=
  (List.range s.rt.regions.length).foldl (fun s' r =>
    (s.regionCells r).foldl (fun s' l => match before.physCell r l, s.physCell r l with
      | some c, some d => s'.upCell d fun k =>
          k.rename (before.carryEntry s c.val) (before.carryEntry s) (before.carryCell s)
      | _, _ => s') s') s

/-- An object of TIER 3 whose region moves: it moves under R240 with its cells, so that the new home holds the copy at once, and its stub
forwards what is still tagged g (R244). -/
def ObjS.moveInCell (o : ObjS) : ObjS :=
  { o with
    gen := o.gen + 1
    move := some ({ cause := .binding, oldHome := o.home, newHome := o.home, flipped := true, log := [], unacked := [], count := 0, told := [],
                    drained := [], confirmed := false, heldNew := [], lost := [] } : MoveS) }

/-- The objects of TIER 3 of region i. -/
def State.cellObjects (s : State) (i : Nat) : List ObjS := s.rt.objects.filter fun o => o.home.set = .cellStore i

/-- Region i may move: each of its cell-store objects has PIN 0 and no stub in place (R240, R244). -/
def State.mayMoveRegion (s : State) (i : Nat) : Bool := (s.cellObjects i).all fun o => !o.e.pin && o.move.isNone

/-- The crossings of which region i is the producer or the consumer. -/
def State.crossingsOf (s : State) (i : Nat) : List Nat := s.crossIds.filter fun k => match s.crossing k with
  | none => false
  | some (_, p, q) => decide (p = i) || decide (q = i)

/-- Cluster cycle count that a region's sequencer sees. -/
def State.cyclesOf (s : State) (i : Nat) : DWord :=
  match (s.regionS i).cluster with
  | none => 0
  | some cl => s.clusters[s.oscOf cl].cycles

/-- Moves a region to a cluster under a symmetry (R237, R244): its cells' stores, frames and running state go with it, its crossings get queues
of their own again, every entry that names a moved cell or queue follows, its generation and that of its cell-store objects rise by one, and
its frames, and those of the regions that feed it, are to be placed again.
(DESIGN CHOICE, log entry 30) -/
def State.moveRegion (s : State) (i : Nat) (cl : Fin 64) (sym : Nat) : State :=
  let mine := s.crossingsOf i
  let s := mine.foldl State.flushCross s
  let before := s
  let ran := s.cyclesOf i - (s.regionS i).startCycle
  let olds := (s.regionCells i).filterMap fun l => (s.physCell i l).map fun c => (l, c, s.cells[c])
  let s := s.upRegion i fun g => { g with cluster := some cl, sym := sym, gen := g.gen + 1, placed := false, moveTo := none }
  let at_ := s.cyclesOf i
  let s := s.upRegion i fun g => { g with startCycle := at_ - ran }
  let s := s.upRt fun t =>
    { t with
      attached := mine.foldl (fun l k => l.set k 64) t.attached
      objects := t.objects.map fun o => if o.home.set = .cellStore i then o.moveInCell else o }
  let s := mine.foldl State.attachOne s
  let s := olds.foldl (fun s x => s.upCell x.2.1 CellS.unbind) s
  let s := olds.foldl (fun s x => match s.physCell i x.1 with
    | none => s
    | some c => s.upCell c fun k => x.2.2.carry k) s
  let s := before.renameAll s
  let feeders := (mine.filterMap fun k => (s.crossing k).map (·.2.1)).dedup.filter fun p => decide (p ≠ i) && (s.regionS p).placed
  (feeders.foldl State.askFrames (s.askFrames i)).clockBound.refreq

end Sys2Proof.Machine
end

