-- ==== Sys2Proof/Machine/CellOps.lean ====
section
/-! DEFINITION. Operations on a cell that its commands share: presence marks (R265, R266), faults (R92, R97, R122, R555),
the finished-tile queue and its credits (R112 to R116), and the commands that wait (R97). -/
namespace Sys2Proof.Machine

/-! ### Presence marks -/

/-- The record position at a word is marked: its own mark is set, or it is the first word of the tile in a ring slot that holds one, after the
tile's header (R114, R120). -/
def CellS.present (c : CellS) (w : Nat) : Bool := (c.marks.any fun m => m.word = w) || c.ringHeld.any fun r => r.slot + 1 = w

/-- The record at a word carries a poison bit (R283). -/
def CellS.poisoned (c : CellS) (w : Nat) : Bool := c.marks.any fun m => m.word = w && m.poison

/-- Sets the mark of a record (R265). -/
def CellS.setMark (c : CellS) (w words : Nat) (poison : Bool) : CellS :=
  { c with marks := c.marks.filter (fun m => m.word ≠ w) ++ [({ word := w, words := words, poison := poison } : Mark)] }

/-- Clears the marks of positions (R266). -/
def CellS.clearMarks (c : CellS) (ws : List Nat) : CellS := { c with marks := c.marks.filter fun m => !ws.contains m.word }

/-! ### Faults -/

/-- A nest has read records to their last words (R114, R266): the tile of a ring slot is then read and waits for the slot's release, and any
other record loses its mark. -/
def CellS.readRecords (c : CellS) (ws : List Nat) : CellS :=
  let here := fun (r : RingSlot) (w : Nat) => decide (w = r.slot ∨ w = r.slot + 1)
  { c.clearMarks (ws.filter fun w => !c.ringHeld.any fun r => here r w) with
    ringHeld := c.ringHeld.map fun r => if ws.any (here r) then { r with read := true } else r }

/-- CELL_FAULT event of a cell: cause 0 the cell, 1 a frame, 2 the region program (R488). -/
def State.cellFault (s : State) (c : Fin 1024) (cause : Nat) : State := s.event evCellFault (arg c.val) (arg cause)

/-- A fault of the region program: the module leaves the job (R555). -/
def State.programFault (s : State) (c : Fin 1024) : State := (s.cellFault c 2).leaveJobs false

/-- Stops the nest of a cell at an address outside the data area and reports a cell fault (R122). -/
def State.nestFault (s : State) (c : Fin 1024) : State :=
  (s.upCell c fun k => { k with nest := k.nest.map fun n => { n with stopped := true } }).cellFault c 0

/-- A read of a nest meets an uncorrectable or poisoned word (R92, R283, R338): a cell fault is reported, and the step's non-finite flag set. -/
def State.spoilStep (s : State) (c : Fin 1024) : State := (s.upRt fun t => { t with nonfinite := true }).cellFault c 0

/-- The same when a record that a step reads is poisoned. -/
def State.reportSpoil (s : State) (c : Fin 1024) (bad : Bool) : State := s.when bad fun s => s.spoilStep c

/-- Changes the nest of a cell. -/
def CellS.upNest (c : CellS) (f : Nest → Nest) : CellS := { c with nest := c.nest.map f }

/-- A nest finds a mark clear and waits (R108); the module may then wait at its collectives (R345). -/
def State.nestWaits (s : State) (c : Fin 1024) : State := (s.upCell c fun k => k.upNest fun n => { n with waiting := true }).noteWait

/-- Adds a number of cluster cycles that the model does not count to a cell's wait counter (R108, R548).
(DESIGN CHOICE, log entry 32) -/
def State.addWait (s : State) (c : Fin 1024) : State :=
  let (v, s) := s.fresh 32
  s.upCell c fun k => { k with waitCycles := satAdd k.waitCycles v.toNat }

/-! ### Finished-tile queue -/

/-- Occupancy of the queue of the active frame (R115). -/
def CellS.occupancy (c : CellS) : Nat := (c.ftq.filter (·.cur)).length

/-- Two consumer entries of one producer have one route: the same queue, or the mesh path to the same cell (R113). -/
def sameRoute (a b : Word) : Bool :=
  if conQueued a then conQueued b && decide (conQueue a = conQueue b) else !conQueued b && decide (conCell a = conCell b)

/-- The route of an entry takes one more credit word: a handshake queue holds at most 8 (R63). -/
def CellS.creditRoom (p : CellS) (e : Word) : Bool := !conQueued e || decide ((p.creditFlight.filter (sameRoute e)).length < 8)

/-- Sends a credit word back over its route (R114), or keeps it at the consuming cell while the route takes none. -/
def State.returnCredit (s : State) (c : Fin 1024) (x : Nat × Word) : State :=
  if h : x.1 < 1024 then
    if s.cells[x.1].creditRoom x.2 then s.upCell ⟨x.1, h⟩ fun p => { p with creditFlight := p.creditFlight ++ [x.2] }
    else s.upCell c fun k => { k with withheld := k.withheld ++ [x] }
  else s

/-- Sends back the credits withheld (R116).
(DEDUCED, log entry 36) -/
def State.freeCredits (s : State) (c : Fin 1024) : State :=
  let held := s.cells[c].withheld
  held.foldl (fun s x => s.returnCredit c x) (s.upCell c fun k => { k with withheld := [] })

/-- Asserts or withdraws back-pressure (R116); at its end the cycles it lasted are counted. -/
def State.pressure (s : State) (c : Fin 1024) : State :=
  let k := s.cells[c]
  let on := hasQueue k.active.bytes && k.active.valid && decide (k.occupancy ≥ ftqHwm k.active.bytes)
  if on = k.backPressure then s
  else if on then s.upCell c fun k => { k with backPressure := true }
  else
    let (v, s) := s.fresh 32
    (s.upCell c fun k => { k with backPressure := false, bpCycles := satAdd k.bpCycles v.toNat }).freeCredits c

/-- Releases the tiles whose last word has reached every consumer (R115). -/
def State.releaseTiles (s : State) (c : Fin 1024) : State :=
  (s.upCell c fun k => { k with ftq := k.ftq.filter fun t => t.arrived.any (!·) }).pressure c

/-- Replaces entry i of a list of Booleans. -/
def setB (l : List Bool) (i : Nat) : List Bool := l.set i true

/-- Releases a ring slot of a consuming cell (R114): its mark is cleared and its credit returns, or is withheld under
back-pressure. -/
def State.releaseSlot (s : State) (c : Fin 1024) (r : RingSlot) : State :=
  let k := s.cells[c]
  let s := s.upCell c fun k => { k.clearMarks [r.slot] with ringHeld := k.ringHeld.filter (· ≠ r) }
  if k.backPressure then s.upCell c fun k => { k with withheld := k.withheld ++ [(r.prod, r.entry)] } else s.returnCredit c (r.prod, r.entry)

/-! ### Nests -/

/-- The key of the draws of a nest on a frame (R102). -/
def State.keyOf (s : State) (n : Nest) (f : Bytes) : DrawKey := { seed := s.job.p.seed, step := n.step, tensor := fTensor f }

/-- A nest runs in the cell on a valid active frame of a personality, neither waiting nor stopped. -/
def CellS.running (c : CellS) (pers : Nat) : Option Nest :=
  match c.nest with
  | none => none
  | some n => if n.stopped || n.waiting || decide (fPers c.active.bytes ≠ pers) then none else some n

/-- The region that runs on a cell gives its nests the step and the run (R102, R212). -/
def newNest (a : StartArgs) (f : Bytes) (i : Nat) (g : RegionS) : Nest :=
  { args := a, pos := 0, waiting := false, stalled := false, stopped := false, spoiled := [], region := i, step := g.step,
    replay := g.replay, pool := if fPers f = 3 then poolShare f else 0, amax := 0, recs := 0, clamps := 0, ins := [],
    rows := [], packed := [], listNo := 0, entryNo := 0, tileNo := 0, ringTile := [] }

/-- A ROTATE frame of block 256 started with an n0 that is not a multiple of 4 (R553). -/
def badRotateStart (f : Bytes) (a : StartArgs) : Bool := fPers f = 3 && !tMac f && rotCode f = 2 && a.n0 % 4 ≠ 0

/-- Starts the loop nest of the active frame with operands (R94, R102, R553). -/
def State.beginNest (s : State) (c : Fin 1024) (a : StartArgs) : State :=
  match s.ownerOf c with
  | none => s
  | some (i, _) =>
    let k := s.cells[c]
    let s := s.upCell c fun k => { k with nest := some (newNest a k.active.bytes i (s.regionS i)) }
    let s := s.when (fPers k.active.bytes = 3) fun s => s.upRt fun t => { t with nestsStarted := t.nestsStarted + 1 }
    s.when (badRotateStart k.active.bytes a) fun s => s.nestFault c

/-! ### Commands that wait (R97) -/

/-- Words of the queue area of a frame that has a queue. -/
def queueSpan (f : FrameReg) : Nat × Nat :=
  if f.valid && hasQueue f.bytes then (ftqBase f.bytes, ftqDepth f.bytes * slotWords (outFmt f.bytes)) else (0, 0)

/-- What a SWITCH waits for: a LOAD in progress, a nest that runs or is held and its outputs, an occupied queue slot in the
new frame's queue area, an unreleased ring slot, and slots of the transform rings that the tile mover has not read
(R97, R201). -/
def CellS.switchWaits (c : CellS) : Bool :=
  let q := queueSpan c.shadow
  c.loading.isSome || c.switching || c.nest.isSome || c.heldStart.isSome || !c.outs.isEmpty ||
    c.ftq.any (fun t => rangesMeet q.1 q.2 t.word t.words) || !c.ringHeld.isEmpty || !c.oblkFull.isEmpty || !c.fullFull.isEmpty

/-- Steps the program of a cell past the instruction it has issued: to the next one of the same logical cell. -/
def nextOf (prog : List PInstr) (l i : Nat) : Option Nat := (List.range prog.length).find? fun j =>
  decide (i < j) && decide ((prog[j]?.map (·.cell)) = some l)

/-- The instructions of a region's program (R219, R220). -/
def State.progOf (s : State) (i : Nat) : List PInstr :=
  match s.rt.image, s.regionE i with
  | some im, some e => (im.progs.drop (e.progOffset / 8)).take e.progLen
  | _, _ => []

/-- The instruction of a cell has issued: its program goes on. -/
def State.issued (s : State) (c : Fin 1024) : State :=
  match s.ownerOf c, s.cells[c].pc with
  | some (i, l), some j => s.upCell c fun k => { k with pc := nextOf (s.progOf i) l j, held := none, issued := k.issued + 1 }
  | _, _ => s

/-- Begins a LOAD of a slot (R94). -/
def State.doLoad (s : State) (c : Fin 1024) (slot : BitVec 3) : State :=
  (s.upCell c fun k => { k with loading := some slot, lastSlot := slot }).issued c

/-- A SWITCH whose waits are over (R97): it begins, or finds its shadow invalid. Then it lies in the program when nothing
has been loaded since the region was bound (R555), and is a frame fault otherwise. -/
def State.doSwitch (s : State) (c : Fin 1024) : State :=
  let k := s.cells[c]
  if k.shadow.valid then (s.upCell c fun k => { k with switching := true }).issued c
  else if k.shadow.loaded then
    if k.frameFault then s else (s.upCell c fun k => { k with held := some .switch, frameFault := true }).cellFault c 1
  else s.programFault c

/-- Placement generation of the region that runs on a cell. -/
def State.genOf (s : State) (c : Fin 1024) : Half := ((s.ownerOf c).map fun x => (s.regionS x.1).gen).getD 0

/-- A START that need not wait: it runs, or is held behind the nest that runs (R97, R107). -/
def State.doStart (s : State) (c : Fin 1024) (a b : BitVec 15) : State :=
  let k := s.cells[c]
  let args : StartArgs := { aBase := a.toNat, bBase := b.toNat, m0 := k.origin.1.toNat, n0 := k.origin.2.toNat, gen := s.genOf c }
  if !k.active.valid then s.programFault c
  else if k.nest.isSome then (s.upCell c fun k => { k with heldStart := some args }).issued c
  else (s.beginNest c args).issued c

/-- Runs the command that waits in a cell, when it need wait no longer. -/
def State.retry (s : State) (c : Fin 1024) : State :=
  let k := s.cells[c]
  match k.held with
  | none => s
  | some (.load slot) => if k.loading.isSome || k.switching then s else s.doLoad c slot
  | some .switch => if k.switchWaits then s else s.doSwitch c
  | some (.start a b) => if k.switching || k.heldStart.isSome then s else s.doStart c a b

/-- The next instruction of a cell, while its region runs and no command of it waits: the region, the logical cell, the
index and the instruction. -/
def State.nextInstr (s : State) (c : Fin 1024) : Option (Nat × Nat × Nat × PInstr) :=
  let k := s.cells[c]
  if k.held.isSome || k.awaiting.isSome || k.frameFault then none
  else match s.ownerOf c, k.pc with
    | some (i, l), some j =>
      if (s.regionS i).running then ((s.progOf i)[j]?).map fun p => (i, l, j, p) else none
    | _, _ => none

end Sys2Proof.Machine
end

