-- ==== Sys2Proof/Machine/NestOps.lean ====
section
/-! DEFINITION. The geometry of the loop nests: their order, what each step of a nest reads, when a mark is cleared
(R103, R120, R124, R131 to R133, R135, R202, R266), and the landing of their outputs (R104, R112 to R116, R140, R195,
R199 to R201). -/
namespace Sys2Proof.Machine

/-! ### Order (R103, R124, R202) -/

/-- Output tile (m, n) of an ordinal: under LOOP_ORDER 0 of a matrix nest and in OUTLIER_MAC n runs outside, else m. -/
def nOuter (f : Bytes) : Bool := (isMatrix f && !loopOrder f) || (decide (fPers f = 3) && tMac f)
def tileM (f : Bytes) (o : Nat) : Nat := if nOuter f then o % mTiles f else o / nTiles f
def tileN (f : Bytes) (o : Nat) : Nat := if nOuter f then o / mTiles f else o % nTiles f

/-- Output tiles of a nest. -/
def outTiles (f : Bytes) : Nat := mTiles f * nTiles f

/-- The frame is a vector frame of a list mode: COMPRESS, EXPAND or EXPAND_ADD. -/
def listMode (f : Bytes) : Bool := decide (fPers f = 1) && decide (2 ≤ vMode f)

/-- The frame is an ADDT frame. -/
def isAddt (f : Bytes) : Bool := decide (fPers f = 2) && decide (redop f = 10)

/-- Steps of a nest: products, input tiles, mask tiles or output tiles. -/
def nestSteps (f : Bytes) : Nat :=
  match fPers f with
  | 0 => visits f * outTiles f * kTiles f
  | 1 => if vMode f = 1 then mTiles f else outTiles f
  | 2 => if isAddt f then outTiles f else outTiles f * rowTiles f
  | _ => outTiles f

/-- The nest has done all of its steps. -/
def nestDone (f : Bytes) (n : Nest) : Bool :=
  if listMode f then decide (listCount f ≤ n.listNo) else decide (nestSteps f ≤ n.pos)

/-- Ordinal of the output tile that step pos feeds. -/
def ordinalOf (f : Bytes) (pos : Nat) : Nat :=
  match fPers f with
  | 0 => pos / kTiles f % outTiles f
  | 2 => if isAddt f then pos else pos / rowTiles f
  | _ => pos

/-- Output tiles that step pos feeds: the four of its group when a transform nest rotates by blocks of 256 (R195). -/
def feeds (f : Bytes) (pos : Nat) : List Nat :=
  if decide (fPers f = 3) && !tMac f && decide (rotCode f = 2) then (List.range 4).map (pos / 4 * 4 + ·) else [ordinalOf f pos]

/-- Output tiles that the next step of a nest feeds: in COMPRESS the packed tile that is open (R92, R132). -/
def Nest.feeds (f : Bytes) (n : Nest) : List Nat := if decide (fPers f = 1) && decide (vMode f = 2) then [n.tileNo] else Sys2Proof.Machine.feeds f n.pos

/-- Visit and reduction step of a product (R103). -/
def visitOf (f : Bytes) (pos : Nat) : Nat := pos / (outTiles f * kTiles f)
def kOf (f : Bytes) (pos : Nat) : Nat := pos % kTiles f

/-- Words of the operand tiles of product pos (R103). -/
def aWord (f : Bytes) (a : StartArgs) (pos : Nat) : Nat :=
  a.aBase + tileM f (ordinalOf f pos) * aStrideM f + (visitOf f pos * kTiles f + kOf f pos) * aStrideK f
def bWord (f : Bytes) (a : StartArgs) (pos : Nat) : Nat :=
  a.bBase + (visitOf f pos * kTiles f + kOf f pos) * bStrideK f + tileN f (ordinalOf f pos) * bStrideN f

/-- Stream tile (m, n) that step pos reads: INDEX takes mask tiles along m; a reduce nest takes the ROW_TILES tiles of each
row block in turn. -/
def stepM (f : Bytes) (pos : Nat) : Nat :=
  if decide (fPers f = 1) && decide (vMode f = 1) then pos else tileM f (ordinalOf f pos)
def stepN (f : Bytes) (pos : Nat) : Nat :=
  if decide (fPers f = 1) && decide (vMode f = 1) then 0
  else if decide (fPers f = 2) && !isAddt f then tileN f (ordinalOf f pos) * rowTiles f + pos % rowTiles f
  else tileN f (ordinalOf f pos)

/-- Tile at which a stream is read at step pos: the records of S3 that a reduce row block starts from or uses come one block
for each output tile. -/
def recStream (f : Bytes) (i : Nat) : Bool := decide (fPers f = 2) && !isAddt f && decide (i = 3)
def readM (f : Bytes) (_i pos : Nat) : Nat := stepM f pos
def readN' (f : Bytes) (i pos : Nat) : Nat := if recStream f i then tileN f (ordinalOf f pos) else stepN f pos

/-- Tiles of a ring that stream i has read since the frame became active (R552). -/
def CellS.ringCount (c : CellS) (i : Nat) : Nat := (getKV i c.ringPos).getD 0

/-- Base word of stream i with the operand of the START (R124). -/
def streamBase (f : Bytes) (a : StartArgs) (i : Nat) : Nat :=
  sBase f i + (if i = 0 then a.aBase else if i = 1 then a.bBase else 0)

/-- Word of the record that stream i reads at step pos. -/
def CellS.streamAt (c : CellS) (f : Bytes) (a : StartArgs) (i pos : Nat) : Nat :=
  streamWord f i a.aBase a.bBase (readM f i pos) (readN' f i pos) (c.ringCount i)

/-- Words of the outlier blocks and of the weight tiles of output tile o of an OUTLIER_MAC nest (R202). -/
def macBlock (f : Bytes) (o k : Nat) : Nat := oblkBase f + (tileM f o * macK f + k) * oblkWords f
def macWeight (f : Bytes) (a : StartArgs) (o k : Nat) : Nat := wBase f + a.bBase + k * wStrideK f + tileN f o * wStrideN f

/-- Tile positions of stream i along m and along n (R121): INDEX reads tiles along m alone, and a reduce nest ROW_TILES of them for each output
tile, but for the records of S3. -/
def tilesAlong (f : Bytes) (i : Nat) : Nat × Nat :=
  (mTiles f, if decide (fPers f = 1) && decide (vMode f = 1) then 1
             else if decide (fPers f = 2) && !isAddt f && !recStream f i then nTiles f * rowTiles f else nTiles f)

/-- A stream keeps its marks to the end of the nest: one of its tile strides is 0 along a dimension of more than one tile
(R121, R266). -/
def sRepeats (f : Bytes) (i : Nat) : Bool :=
  !sRing f i && ((decide (sTStrideM f i = 0) && decide (1 < (tilesAlong f i).1)) ||
    (decide (sTStrideN f i = 0) && decide (1 < (tilesAlong f i).2)))

/-- Record positions, outside rings, that step pos reads. -/
def stepReads (f : Bytes) (a : StartArgs) (pos : Nat) : List Nat :=
  match fPers f with
  | 0 => [aWord f a pos, bWord f a pos]
  | _ =>
    if decide (fPers f = 3) && tMac f then
      (List.range (macK f)).flatMap fun k => [macBlock f pos k, macWeight f a pos k]
    else
      ((sUsed f).filter fun i => !sRing f i).map fun i => streamWord f i a.aBase a.bBase (readM f i pos) (readN' f i pos) 0

/-- Positions that step pos reads and whose marks are cleared at once: no later step reads them, and no stream repeats
them (R266). -/
def lastReads (f : Bytes) (a : StartArgs) (pos : Nat) : List Nat :=
  let held := ((sUsed f).filter (sRepeats f)).map fun i => streamWord f i a.aBase a.bBase (readM f i pos) (readN' f i pos) 0
  (stepReads f a pos).filter fun w =>
    !(decide (fPers f ≠ 0) && held.contains w) &&
      !(List.range (nestSteps f - pos - 1)).any fun j => (stepReads f a (pos + 1 + j)).contains w

/-- Positions that the streams of R266's second case have read in the nest. -/
def repeatedReads (f : Bytes) (a : StartArgs) : List Nat :=
  if isMatrix f then []
  else ((sUsed f).filter (sRepeats f)).flatMap fun i =>
    (List.range (nestSteps f)).map fun pos => streamWord f i a.aBase a.bBase (readM f i pos) (readN' f i pos) 0

/-- Ring streams that step pos reads, and the slot that each of them reads. -/
def CellS.ringReads (c : CellS) (f : Bytes) (a : StartArgs) (pos : Nat) : List (Nat × Nat) :=
  if isMatrix f then [] else ((sUsed f).filter (sRing f)).map fun i => (i, c.streamAt f a i pos)

/-- Those among them whose last word step pos reads: a block of records is read to the end of its row block. -/
def CellS.ringEnds (c : CellS) (f : Bytes) (a : StartArgs) (pos : Nat) : List (Nat × Nat) :=
  (c.ringReads f a pos).filter fun x => !recStream f x.1 || decide (pos % rowTiles f = rowTiles f - 1)

/-- Every record position that step pos reads. -/
def CellS.stepWords (c : CellS) (f : Bytes) (a : StartArgs) (pos : Nat) : List Nat :=
  stepReads f a pos ++ (c.ringReads f a pos).map (·.2)

/-- The stream elements of step pos lie in the data area (R122). -/
def CellS.streamsInside (c : CellS) (f : Bytes) (a : StartArgs) (pos : Nat) : Bool :=
  (sUsed f).all fun i =>
    let base := streamByte f i (c.streamAt f a i pos)
    (List.range 64).all fun r => (List.range 64).all fun k => elemInside (sFmt f i) base (elemPos f i r k)

/-- Ring streams have read tiles to their last words: their slots wait for release and the streams move on (R120, R552). -/
def CellS.leaveRings (c : CellS) (l : List (Nat × Nat)) : CellS :=
  { c.readRecords (l.map (·.2)) with ringPos := l.foldl (fun p x => putKV x.1 ((getKV x.1 p).getD 0 + 1) p) c.ringPos }

/-- The bookkeeping after step pos: marks cleared, ring slots read (R114, R120, R266). -/
def CellS.afterReads (c : CellS) (f : Bytes) (a : StartArgs) (pos : Nat) : CellS :=
  (c.readRecords (lastReads f a pos)).leaveRings (c.ringEnds f a pos)

/-- Marks the output tile of step pos as spoiled when a record it reads is poisoned (R283). -/
def CellS.spoils (c : CellS) (f : Bytes) (a : StartArgs) (pos : Nat) : Bool := (c.stepWords f a pos).any c.poisoned

/-- Flags of an output tile whose conversion raised some and whose reads may have been spoiled (R92). -/
def Nest.tileFlags (n : Nest) (o : Nat) (fl : TileFlags) : TileFlags := if n.spoiled.contains o then fl.or spoiledFlags else fl

/-! ### Outputs -/

/-- Word of output tile o in the data area (R118, R122). -/
def outWord (f : Bytes) (m n : Nat) : Nat := outBase f + m * outStrideM f + n * outStrideN f

/-- Words of a record of bytes. -/
def wordsOf (bs : Bytes) : Nat := ceilDiv bs.length 64

/-- Where output tile (m, n) of a nest goes. -/
def destOf (f : Bytes) (m n : Nat) : OutDest := if outArea f then .area (outWord f m n) else .queue

/-- The output lies in the data area, as far as the frame places it (R122). -/
def destInside (f : Bytes) (m n : Nat) (bs : Bytes) : Bool :=
  if outArea f then wordsInside (outWord f m n) (wordsOf bs) else true

/-- The earlier outputs of the cell have entered their slots, so that the lanes may take the next tile (R129, R201). -/
def CellS.entered (c : CellS) : Bool :=
  let f := c.active.bytes
  (outArea f || decide (c.occupancy + c.outs.length ≤ ftqDepth f)) &&
    (!(decide (fPers f = 3) && outlierEn f) || decide (c.oblkFull.length + c.outs.length ≤ oblkSlots f)) &&
    (!(decide (fPers f = 3) && fullEn f) || decide (c.fullFull.length + c.outs.length ≤ fullSlots f))

/-- An output tile of a nest, with its header. -/
def outTile (f : Bytes) (n : Nest) (o : Nat) (rows : List RowOut) : OutTile :=
  let m := tileM f o
  let k := tileN f o
  { dest := destOf f m k, hdr := tileHeader f (n.args.m0 + m) (n.args.n0 + k) 0 n.args.gen (n.tileFlags o (flagsOf rows)),
    data := recordOf rows, oblk := none, full := none, set := none, refused := false }

/-- Word of the queue slot of the next tile (R112, R113).
(DESIGN CHOICE, log entry 131) -/
def CellS.slotWord (c : CellS) : Nat :=
  let f := c.active.bytes
  ftqBase f + (c.seq.toNat % ftqDepth f) * slotWords (outFmt f)

/-- Slots of the outlier-block ring and of the full-copy ring that the next tile takes (R201). -/
def CellS.oblkSlot (c : CellS) : Nat := c.oblkNext % oblkSlots c.active.bytes
def CellS.fullSlot (c : CellS) : Nat := c.fullNext % fullSlots c.active.bytes
def CellS.oblkWord (c : CellS) : Nat := oblkBase c.active.bytes + c.oblkSlot * oblkWords c.active.bytes
def CellS.fullWord (c : CellS) : Nat := fullBase c.active.bytes + c.fullSlot * 67

/-- The oldest output finds no room: its queue is full, or a ring slot of it is not free (R115, R201). -/
def CellS.noRoom (c : CellS) (o : OutTile) : Bool :=
  (decide (o.dest = .queue) && decide (c.occupancy ≥ ftqDepth c.active.bytes)) ||
    (o.oblk.isSome && c.oblkFull.contains c.oblkSlot) || (o.full.isSome && c.fullFull.contains c.fullSlot)

/-- Every address that the landing of the oldest output writes lies in the data area (R122). -/
def CellS.landsInside (c : CellS) (o : OutTile) : Bool :=
  (match o.dest with
    | .queue => wordsInside c.slotWord (slotWords (outFmt c.active.bytes))
    | .area w => wordsInside w (wordsOf o.data)
    | .partialArea w _ => wordsInside w 256) &&
  (!o.oblk.isSome || wordsInside c.oblkWord (oblkWords c.active.bytes)) && (!o.full.isSome || wordsInside c.fullWord 67)

/-- Frees the accumulator set of a drained tile (R105). -/
def CellS.freeSet (c : CellS) (o : OutTile) : CellS :=
  match o.set with
  | none => c
  | some true => { c with set1 := .idle }
  | some false => { c with set0 := .idle }

/-- SEQ that a tile carries: of the queue, or the count of output tiles with OUT_DEST 1 (R112, R199). -/
def CellS.seqOf (c : CellS) (o : OutTile) : Word := if o.dest = .queue then c.seq else c.outCount

/-- Writes the outlier block and the full copy of a tile (R199 to R201). -/
def CellS.landRings (c : CellS) (o : OutTile) : CellS :=
  let seq := c.seqOf o
  let c := match o.oblk with
    | none => c
    | some b => { c.put c.oblkWord (withSeq b seq) with oblkNext := c.oblkNext + 1, oblkFull := c.oblkFull ++ [c.oblkSlot] }
  match o.full with
  | none => c
  | some b => { c.put c.fullWord (withSeq b seq) with fullNext := c.fullNext + 1, fullFull := c.fullFull ++ [c.fullSlot] }

/-- Writes a tile into its queue slot, into the data area or into the partial area. -/
def CellS.landMain (c : CellS) (o : OutTile) : CellS :=
  match o.dest with
  | .queue =>
    let f := c.active.bytes
    let es := consEntries f
    { c.put c.slotWord (withSeq o.hdr c.seq ++ o.data) with
      seq := c.seq + 1
      ftq := c.ftq ++ [({ seq := c.seq, word := c.slotWord, words := slotWords (outFmt f), cons := es,
                          sent := es.map fun _ => false, arrived := es.map fun _ => false, put := es.map fun _ => 0, got := es.map fun _ => 0,
                          cur := true } : QTile)] }
  | .area w => { (c.put w o.data).setMark w (wordsOf o.data) false with outCount := c.outCount + 1 }
  | .partialArea w n => { c.put w o.data with partials := n :: c.partials.filter (· ≠ n) }

/-- The gradient tile that an output of a vector frame finishes for Bramble (R323, R339): its frame names the tensor of a KIND 2 object and
writes BF16 or G8.
(DEDUCED, log entry 142) -/
def State.producedBy (s : State) (f : Bytes) (o : OutTile) : Option Produced :=
  if decide (fPers f = 1) && decide (outFmt f = 1 ∨ outFmt f = 5) then
    (s.rt.objects.find? fun g => decide (g.e.kind = 2) && decide (g.e.tensor = (fTensor f).toNat)).map fun g =>
      { tensor := fTensor f, tile := BitVec.ofNat 32 (leNat o.hdr 0 2 * max 1 g.e.nTiles + leNat o.hdr 2 2), nonfinite := bit (leNat o.hdr 14 2) 0 }
  else none

/-- Notes a finished gradient tile. -/
def State.noteProduced (s : State) (f : Bytes) (o : OutTile) : State :=
  match s.producedBy f o with
  | none => s
  | some p => s.upColl fun c => { c with toSend := c.toSend ++ [p] }

/-- The oldest output of a cell lands, or finds no room and waits (R104, R115, R129, R140, R195). -/
def State.land (s : State) (c : Fin 1024) : State :=
  match s.cells[c].outs with
  | [] => s
  | o :: rest =>
    if s.cells[c].noRoom o then s.upCell c fun k => { k with outs := { o with refused := true } :: rest }
    else if !s.cells[c].landsInside o then
      (s.upCell c fun k => { k with outs := rest }.freeSet o).nestFault c
    else
      let s := (s.when o.refused fun s => s.addWait c).noteProduced s.cells[c].active.bytes o
      ((s.upCell c fun k => { (k.landRings o).landMain o with outs := rest }.freeSet o).pressure c).retry c

end Sys2Proof.Machine
end

