-- ==== Sys2Proof/Machine/LaneOps.lean ====
section
/-! DEFINITION. The arithmetic of the lanes: the fixed functions and their bounds (R128), the vector opcodes (R125 to R127),
soft maximum and normalisation (R147 to R152), and the pairwise tree (R138). -/
namespace Sys2Proof.Machine

/-! ### Fixed functions (R128) -/

/-- ln 2 × 2^160, rounded down. -/
def ln2Fix : Int := 1013035739299659071135698605846798551586536899366

/-- Sum of the series of e^r − (terms so far), r and the terms scaled by 2^160. -/
def expSeries (r : Int) : Nat → Int → Int → Int → Int
  | 0, _, _, acc => acc
  | n + 1, i, term, acc =>
    let t := term * r / (i * 2 ^ 160)
    expSeries r n (i + 1) t (acc + t)

/-- e^x as a whole number × 2^(k − 160), for a finite x of magnitude below 2^9. -/
def expFix (neg : Bool) (m : Nat) (e : Int) : Nat × Int :=
  let mag : Int := if 0 ≤ 160 + e then ((m <<< (160 + e).toNat : Nat) : Int) else ((m >>> (-(160 + e)).toNat : Nat) : Int)
  let x := if neg then -mag else mag
  let k := x / ln2Fix
  ((expSeries (x - k * ln2Fix) 60 1 (2 ^ 160) (2 ^ 160)).toNat, k)

/-- A candidate lies within a relative error of 2^-21 of n × 2^q. -/
def nearRel (cand : FVal) (n : Nat) (q : Int) : Bool :=
  match cand with
  | .fin neg m e =>
    let b := min e q
    let x : Int := ((m <<< (e - b).toNat : Nat) : Int)
    let y : Int := ((n <<< (q - b).toNat : Nat) : Int)
    !neg && decide ((x - y).natAbs * 2 ^ 21 ≤ y.natAbs)
  | _ => false

/-- EXP (R128): exact at 0 and at the infinities; elsewhere an open value within the bound wherever the result is normal. Above the largest
finite value it is +Inf (R170), below half the smallest subnormal +0 (R156), and between, where R128 gives no bound, an open value from the
smallest subnormal to the smallest normal one: a subnormal result is never flushed (R156).
(DESIGN CHOICE, log entry 37) -/
def exp32 (a : Word) : Word :=
  match dec32 a with
  | .nan => nan32
  | .inf n => if n then 0 else pinf32
  | .fin n m e =>
    if m = 0 then one32
    else
      let cand := canon32 (Config.expVal a)
      if m.log2 + e ≥ 9 then (if n then 0 else pinf32)
      else
        let v := expFix n m e
        let lg := (v.1.log2 : Int) + (v.2 - 160)
        let nearest := BitVec.ofNat 32 (roundF fFP32 .rne false false v.1 1 (v.2 - 160)).bits
        if 127 < lg then pinf32
        else if -126 ≤ lg then (if nearRel (dec32 cand) v.1 (v.2 - 160) then cand else nearest)
        else if lg < -150 then 0
        else if 1 ≤ cand.toNat && cand.toNat ≤ 0x00800000 then cand else if nearest = 0 then 1 else nearest

/-- ln x × 2^160 for x = m × 2^e above 0. -/
def lnFix (m : Nat) (e : Int) : Int :=
  let k := m.log2
  let x := (m <<< 320) >>> k
  ((((k : Int) + e) * 2 ^ 160 + (log2Bits 320 160 x 0 : Nat)) * ln2Fix) / 2 ^ 160

/-- An FP32 value × 2^160, exactly, for a finite value. -/
def fix160 (x : FVal) : Int :=
  match x with
  | .fin n m e => if n then -((m <<< (160 + e).toNat : Nat) : Int) else ((m <<< (160 + e).toNat : Nat) : Int)
  | _ => 0

/-- A candidate for LN lies within the bound: 2^-21 absolute for an argument in [0.5, 2], relative elsewhere. -/
def nearLn (cand : FVal) (l : Int) (middle : Bool) : Bool :=
  cand.isFin && decide ((fix160 cand - l).natAbs ≤ (if middle then 2 ^ 139 else l.natAbs / 2 ^ 21))

/-- LN (R128). -/
def ln32 (a : Word) : Word :=
  match dec32 a with
  | .nan => nan32
  | .inf n => if n then nan32 else pinf32
  | .fin n m e =>
    if m = 0 then ninf32
    else if n then nan32
    else
      let cand := canon32 (Config.lnVal a)
      let l := lnFix m e
      let x := dec32 a
      let middle := !x.lt (.fin false 1 (-1)) && !(FVal.fin false 2 0).lt x
      if nearLn (dec32 cand) l middle then cand
      else BitVec.ofNat 32 (roundF fFP32 .rne false (decide (l < 0)) l.natAbs 1 (-160)).bits

/-- A candidate lies within one unit in the last place, 2^u, of the value n/d × 2^e of a sign. -/
def nearUlp (cand : FVal) (neg : Bool) (n d : Nat) (e u : Int) : Bool :=
  cand.isFin && decide (cand.isNeg = neg) &&
    !(FVal.fin false d u).lt ((cand.abs.mul (.fin false d 0)).add (.fin true n e)).abs

/-- RCP (R128): within one unit in the last place; exact at the zeros and the infinities. -/
def rcp32 (a : Word) : Word :=
  match dec32 a with
  | .nan => nan32
  | .inf n => if n then 0x80000000 else 0
  | .fin n m e =>
    if m = 0 then (if n then ninf32 else pinf32)
    else
      let cand := canon32 (Config.rcpVal a)
      if nearUlp (dec32 cand) n 1 m (-e) (roundMag fFP32 .down 1 m (-e)).2 then cand else div32 one32 a

/-- 1/√x for x = m × 2^e in a direction of rounding, from the square root of 1/x taken with 256 bits more. -/
def invSqrt (mode : Rnd) (m : Nat) (e : Int) : Word :=
  let odd := decide (e % 2 = 1)
  let m1 := if odd then 2 * m else m
  let e1 := if odd then e - 1 else e
  let big := (1 <<< 600) / m1
  let r := isqrt big
  let sticky := b2n (decide (r * r * m1 ≠ 1 <<< 600))
  BitVec.ofNat 32 (roundF fFP32 mode false false (2 * r + sticky) 1 (-301 - e1 / 2)).bits

/-- x² × (m × 2^e) is at most 1, for x that is not negative. -/
def squareBelow (x : FVal) (m : Nat) (e : Int) : Bool := !(FVal.one).lt ((x.mul x).mul (.fin false m e))

/-- A candidate lies within one unit in the last place, 2^u, of 1/√(m × 2^e). -/
def nearRoot (cand : FVal) (m : Nat) (e u : Int) : Bool :=
  let ulp := FVal.fin false 1 u
  let lo := cand.add ulp.neg
  let hi := cand.add ulp
  cand.isFin && !cand.isNeg && (lo.isNeg || squareBelow lo m e) && (!squareBelow hi m e || !(((hi.mul hi).mul (.fin false m e)).lt .one))

/-- Exponent of the unit in the last place of a positive normal FP32 pattern. -/
def ulpExp (x : Word) : Int := (((x.toNat >>> 23) % 256 : Nat) : Int) - 150

/-- RSQRT (R128). -/
def rsqrt32 (a : Word) : Word :=
  match dec32 a with
  | .nan => nan32
  | .inf n => if n then nan32 else 0
  | .fin n m e =>
    if m = 0 then (if n then ninf32 else pinf32)
    else if n then nan32
    else
      let cand := canon32 (Config.rsqrtVal a)
      if nearRoot (dec32 cand) m e (ulpExp (invSqrt .down m e)) then cand else invSqrt .rne m e

/-! ### Vector opcodes (R127) -/

/-- An FP32 zero of either sign. -/
def isZero32 (a : Word) : Bool := (dec32 a).isZero

/-- −a, a NaN giving the canonical NaN. -/
def neg32 (a : Word) : Word := if isNaN32 a then nan32 else a ^^^ 0x80000000

/-- |a|. -/
def abs32 (a : Word) : Word := if isNaN32 a then nan32 else a &&& 0x7FFFFFFF

/-- MAX and MIN: NaN when either is NaN; +0 and −0 give +0 and −0. -/
def max32 (a b : Word) : Word :=
  if isNaN32 a || isNaN32 b then nan32
  else if isZero32 a && isZero32 b then a &&& b
  else if lt32 a b then b else a
def min32 (a b : Word) : Word :=
  if isNaN32 a || isNaN32 b then nan32
  else if isZero32 a && isZero32 b then a ||| b
  else if lt32 b a then b else a

/-- A statistics record as the vector operations read it: its eight words (R136). -/
abbrev Rec := Nat → Word

/-- The record's NAN flag, and its NONFINITE flag (R137). -/
def recNan (r : Rec) : Bool := (r 7).getLsbD 0
def recNonfinite (r : Rec) : Bool := (r 7).getLsbD 2

/-- Value of ŷ for an element of a row with k entries at +Inf: 1/k at each +Inf and 0 elsewhere (R148). -/
def infShare (k x : Word) : Word := if x = pinf32 then div32 one32 (u32to32 k) else 0

/-- SMAXO (R127, R147, R148): soft maximum of x with a mask and the SMAX record of its row. -/
def smaxO (x mask : Word) (r : Rec) : Word :=
  if recNan r then nan32
  else if isZero32 mask then 0
  else if r 3 ≠ 0 then infShare (r 3) x
  else if r 0 = ninf32 then 0
  else mul32 (exp32 (sub32 x (r 0))) (rcp32 (r 1))

/-- SMAXB (R127, R147, R148): input gradient from the saved x, dY and the mask, with the SMAXD record. A masked element counts as −Inf, so that
its ŷ is 0 in a row with k entries at +Inf. A NaN in x makes LSE NaN and the whole row with it; one in dY alone leaves the −Inf and masked
elements at 0. -/
def smaxB (x dy mask : Word) (r : Rec) : Word :=
  if isNaN32 (r 0) then nan32
  else if r 3 ≠ 0 then mul32 (if isZero32 mask then 0 else infShare (r 3) x) (sub32 dy (r 1))
  else if r 0 = ninf32 || isZero32 mask || x = ninf32 then 0
  else mul32 (exp32 (sub32 x (r 0))) (sub32 dy (r 1))

/-- NORMO (R147, R149): (x − μ) × r × g + b.
(DEDUCED, log entry 39) -/
def normO (x g b : Word) (r : Rec) : Word :=
  if recNan r then nan32 else add32 (mul32 (mul32 (sub32 x (r 0)) (r 1)) g) b

/-- NORMB (R147, R149): r × (dY × g − B − x̂ × A). -/
def normB (x dy g : Word) (r : Rec) : Word :=
  if recNan r then nan32
  else mul32 (r 1) (sub32 (sub32 (mul32 dy g) (r 3)) (mul32 (mul32 (sub32 x (r 0)) (r 1)) (r 2)))

/-- 1.0 for true, 0.0 for false. -/
def bool32 (b : Bool) : Word := if b then one32 else 0

/-- The result of a vector opcode on its three source operands and the record of the element's row (R127). -/
def vecOp (code : Nat) (a b c : Word) (r : Rec) : Word :=
  match code with
  | 0 => a
  | 1 => add32 a b
  | 2 => sub32 a b
  | 3 => mul32 a b
  | 4 => fma32 a b c
  | 5 => max32 a b
  | 6 => min32 a b
  | 7 => abs32 a
  | 8 => neg32 a
  | 9 => rcp32 a
  | 10 => rsqrt32 a
  | 11 => exp32 a
  | 12 => ln32 a
  | 13 => bool32 (lt32 b a)
  | 14 => bool32 (eq32 a b)
  | 15 => canon32 (if isZero32 c then b else a)
  | 16 => smaxO a b r
  | 17 => smaxB a b c r
  | 18 => normO a b c r
  | _ => normB a b c r

/-- Value of a source code: a register, a stream element or an immediate (R126). -/
def vecSrc (f : Bytes) (elem : Nat → Word) (regs : List Word) (code : Nat) : Word :=
  if code < 8 then regs.getD code 0 else if code < 12 then elem (code - 8) else vImm f (code - 12)

/-- The registers after operations i, i + 1, … of the frame program (R126). -/
def vecRun (f : Bytes) (elem : Nat → Word) (r : Rec) : Nat → Nat → List Word → List Word
  | 0, _, regs => regs
  | n + 1, i, regs =>
    let v := vecOp (vOpcode f i) (vecSrc f elem regs (vSrcA f i)) (vecSrc f elem regs (vSrcB f i))
      (vecSrc f elem regs (vSrcC f i)) r
    vecRun f elem r n (i + 1) (regs.set (vDst f i) v)

/-- The output of one element: every register starts at +0.0 (R126). -/
def vecElem (f : Bytes) (elem : Nat → Word) (r : Rec) : Word :=
  (vecRun f elem r (vNops f) 0 (List.replicate 8 0)).getD (vOutReg f) 0

/-- A record operation is in the program, so that the records of S3 feed the tile (R152). -/
def usesRecords (f : Bytes) : Bool := (List.range (vNops f)).any fun i => decide (16 ≤ vOpcode f i)

/-! ### Sums (R138) -/

/-- One level of the pairwise tree: an element that takes no part leaves its partner. -/
def pairUp : List (Option Word) → List (Option Word)
  | some a :: some b :: rest => some (add32 a b) :: pairUp rest
  | some a :: none :: rest => some a :: pairUp rest
  | none :: b :: rest => b :: pairUp rest
  | l => l

/-- The pairwise tree over 2^n elements; none when no element takes part. -/
def pairTree : Nat → List (Option Word) → Option Word
  | 0, l => (l.head?).join
  | n + 1, l => pairTree n (pairUp l)

/-- A stream element as a lane takes it. Of a stream of statistics records, which R125 gives no conversion, it is an open value that the record
fixes (R183).
(DESIGN CHOICE, log entry 41) -/
def laneElem (f : Bytes) (m : Memory) (i base r c : Nat) : Word :=
  let p := elemPos f i r c
  if sFmt f i = 7 then Config.recordLane ((List.range 8).map (recWord m base p)) else elem32 m (sFmt f i) base p

/-- Element (r, c) of stream i at step pos of a nest of the cell. -/
def CellS.lane (k : CellS) (f : Bytes) (a : StartArgs) (pos i r c : Nat) : Word :=
  laneElem f k.store i (streamByte f i (k.streamAt f a i pos)) r c

/-- The record of row r that stream i presents at step pos. -/
def CellS.laneRec (k : CellS) (f : Bytes) (a : StartArgs) (pos i r : Nat) : Rec :=
  recWord k.store (streamByte f i (k.streamAt f a i pos)) (elemPos f i r 0)

/-- May a lane nest of the cell take its next step? It waits for earlier outputs and for its marks, and stops at an address
outside the data area (R108, R122, R129). Runs k on the nest otherwise. -/
def State.laneStep (s : State) (c : Fin 1024) (n : Nest) (k : State) : State :=
  let l := s.cells[c]
  let f := l.active.bytes
  if nestDone f n || !l.entered then s
  else if !l.streamsInside f n.args n.pos then s.nestFault c
  else if !(l.stepWords f n.args n.pos).all l.present then s.nestWaits c
  else k

/-- The nest of a cell after a step whose reads fed an output tile. -/
def CellS.stepped (k : CellS) (f : Bytes) (n : Nest) (g : Nest → Nest) : CellS :=
  let bad := k.spoils f n.args n.pos
  { k.afterReads f n.args n.pos with
    nest := some (g { n with pos := n.pos + 1, spoiled := if bad then feeds f n.pos ++ n.spoiled else n.spoiled }) }

end Sys2Proof.Machine
end

