-- ==== Sys2Proof/Machine/ListOps.lean ====
section
/-! DEFINITION. The list modes of the vector personality: the index lists, the rows and tiles that a group of entries reads, and which of them
no later entry reads (R120, R122, R130 to R133, R266, R552). -/
namespace Sys2Proof.Machine

/-! ### Index lists (R130) -/

/-- First byte of index list l. -/
def listAddr (f : Bytes) (l : Nat) : Nat := 64 * (listBase f + l * listStride f)

/-- COUNT and OVERFLOW of a list. -/
def CellS.listCountOf (k : CellS) (f : Bytes) (l : Nat) : Nat := k.store.readLE (listAddr f l) 4
def CellS.listOverflow (k : CellS) (f : Bytes) (l : Nat) : Nat := k.store.readLE (listAddr f l + 4) 4

/-- ROW of entry e of a list.
(DEDUCED, log entry 148) -/
def CellS.listRow (k : CellS) (f : Bytes) (l e : Nat) : Nat := k.store.readLE (listAddr f l + 64 + 4 * e) 4 % 2 ^ 24

/-- The lists of a frame. -/
def listsOf (f : Bytes) : List Nat := (List.range (listCount f)).map (listFirst f + ·)

/-- The header of a list, and entry e of it, lie in the data area (R122). -/
def headerInside (f : Bytes) (l : Nat) : Bool := decide (listAddr f l + 64 ≤ dataBytes)
def entryInside (f : Bytes) (l e : Nat) : Bool := decide (listAddr f l + 64 + 4 * (e + 1) ≤ dataBytes)

/-- The entries, as (list, entry), that stand at or after a place in list order. -/
def CellS.entriesFrom (k : CellS) (f : Bytes) (listNo entryNo : Nat) : List (Nat × Nat) :=
  (List.range (listCount f)).flatMap fun i =>
    if i < listNo then []
    else
      let n := min (k.listCountOf f (listFirst f + i)) (countMax f)
      ((List.range n).filter fun e => decide (i > listNo) || decide (entryNo ≤ e)).map fun e => (i, e)

/-- Number of entries of the list that the nest has reached. -/
def CellS.listLen (k : CellS) (f : Bytes) (n : Nest) : Nat := min (k.listCountOf f (listFirst f + n.listNo)) (countMax f)

/-- The rows of the next group of at most four entries. -/
def CellS.groupRows (k : CellS) (f : Bytes) (n : Nest) : List Nat :=
  ((List.range 4).filter fun j => decide (n.entryNo + j < k.listLen f n)).map fun j => k.listRow f (listFirst f + n.listNo) (n.entryNo + j)

/-- The list that the nest has reached: its header and the entries of its next group lie in the data area (R122). -/
def CellS.groupInside (k : CellS) (f : Bytes) (n : Nest) : Bool :=
  let l := listFirst f + n.listNo
  headerInside f l && ((k.groupRows f n).isEmpty || entryInside f l (n.entryNo + (k.groupRows f n).length - 1))

/-! ### The tiles that rows are read from -/

/-- Where a list mode stands in a stream: the tile that it reads, and the tiles of a ring that it has read to the end. -/
structure RowPos where
  cur : Option Nat
  count : Nat
  deriving DecidableEq, Repr

/-- The words of the tiles from which rows of stream i are read, in order: row ROW lies in stream tile ROW / 64, and a ring gives the next slot
for each tile that the stream comes to (R120, R132, R133, R552). With the place after them and the slots of the tiles that are left. -/
def rowsFrom (f : Bytes) (a : StartArgs) (i : Nat) : RowPos → List Nat → List Nat × RowPos × List Nat
  | p, [] => ([], p, [])
  | p, row :: rest =>
    let at_ := fun (count : Nat) => streamWord f i a.aBase a.bBase (row / 64) 0 count
    let moves := match p.cur with
      | none => false
      | some t => decide (t ≠ row / 64)
    let q : RowPos := { cur := some (row / 64), count := p.count + b2n moves }
    let r := rowsFrom f a i q rest
    (at_ q.count :: r.1, r.2.1, (if moves then [at_ p.count] else []) ++ r.2.2)

/-- The same from where the nest stands. -/
def CellS.rowWords (k : CellS) (f : Bytes) (n : Nest) (i : Nat) (rows : List Nat) : List Nat × RowPos × List Nat :=
  rowsFrom f n.args i { cur := getKV i n.ringTile, count := k.ringCount i } rows

/-- The cell and its nest after ring stream i has given rows: the slots of the tiles that are left, and at the nest's end that of the last one,
have been read to their last words. -/
def CellS.rowsRead (k : CellS) (f : Bytes) (i : Nat) (n : Nest) (rows : List Nat) (ends : Bool) : CellS × Nest :=
  if !sRing f i then (k, n)
  else
    let r := k.rowWords f n i rows
    let last := match r.2.1.cur with
      | some t => if ends then [streamWord f i n.args.aBase n.args.bBase t 0 r.2.1.count] else []
      | none => []
    (k.leaveRings ((r.2.2 ++ last).map fun w => (i, w)),
      { n with ringTile := match r.2.1.cur with
          | none => n.ringTile
          | some t => putKV i t n.ringTile })

/-- Word of a row's tile in a stream that is no ring. -/
def plainWord (f : Bytes) (a : StartArgs) (i row : Nat) : Nat := streamWord f i a.aBase a.bBase (row / 64) 0 0

/-- Rows of the entries at or after a place. -/
def CellS.rowsAfter (k : CellS) (f : Bytes) (listNo entryNo : Nat) : List Nat :=
  (k.entriesFrom f listNo entryNo).map fun x => k.listRow f (listFirst f + x.1) x.2

/-- A stream of a list mode reads one record for several tile positions: its T_STRIDE_M is 0 and its rows lie in more than one tile (R121,
R266). -/
def rowRepeats (f : Bytes) (i : Nat) (rows : List Nat) : Bool :=
  !sRing f i && decide (sTStrideM f i = 0) && decide (1 < (rows.map (· / 64)).dedup.length)

/-- Words that a group of COMPRESS reads and no later entry does (R266). -/
def CellS.compressLast (k : CellS) (f : Bytes) (n : Nest) : List Nat :=
  let rows := k.groupRows f n
  let later := (k.rowsAfter f n.listNo (n.entryNo + rows.length)).map (plainWord f n.args 0)
  if sRing f 0 || rowRepeats f 0 (k.rowsAfter f 0 0) then []
  else (rows.map (plainWord f n.args 0)).filter fun w => !later.contains w

/-! ### EXPAND and EXPAND_ADD (R133) -/

/-- Packed tiles of the lists before list i (R132). -/
def CellS.tilesBefore (k : CellS) (f : Bytes) (i : Nat) : Nat :=
  sumNat ((List.range i).map fun j => ceilDiv (min (k.listCountOf f (listFirst f + j)) (countMax f)) 64)

/-- Ring position or tile index of the packed tile that holds entry e of list i. -/
def CellS.packedWord (k : CellS) (f : Bytes) (n : Nest) (i e : Nat) : Nat :=
  let t := k.tilesBefore f i + e / 64
  if sRing f 0 then
    streamBase f n.args 0 + (k.ringCount 0 % sRingSlots f 0) * sTStrideM f 0
  else streamBase f n.args 0 + t * sTStrideM f 0

/-- The destination row lies in the window (R133). -/
def inWindow (f : Bytes) (row : Nat) : Bool := decide (rowLo f ≤ row) && decide (row < rowHi f)

/-- The entries of the next group of at most four packed rows, with their rows; those outside the window are ignored. -/
def CellS.expandGroup (k : CellS) (f : Bytes) (n : Nest) : List (Nat × Nat) :=
  ((List.range 4).filter fun j => decide (n.entryNo + j < k.listLen f n)).map fun j =>
    (n.entryNo + j, k.listRow f (listFirst f + n.listNo) (n.entryNo + j))

/-- Rows of a group that the nest writes. -/
def liveRows (f : Bytes) (g : List (Nat × Nat)) : List Nat := (g.map (·.2)).filter (inWindow f)

/-- Rows of the entries at or after a place that the nest writes. -/
def CellS.liveAfter (k : CellS) (f : Bytes) (listNo entryNo : Nat) : List Nat := (k.rowsAfter f listNo entryNo).filter (inWindow f)

/-- Words of the weight tiles of the rows that a group of EXPAND_ADD writes: element (ROW, l) of S1. -/
def CellS.weightWords (k : CellS) (f : Bytes) (n : Nest) : List Nat :=
  if sRead f 1 then (k.rowWords f n 1 (liveRows f (k.expandGroup f n))).1 else []

/-- The record positions that the next group of EXPAND reads. -/
def CellS.expandNeeds (k : CellS) (f : Bytes) (n : Nest) : List Nat :=
  (if (k.expandGroup f n).isEmpty then [] else [k.packedWord f n n.listNo n.entryNo]) ++ k.weightWords f n

/-- Weight words that a group reads and no later entry in the window does (R266). -/
def CellS.weightLast (k : CellS) (f : Bytes) (n : Nest) : List Nat :=
  let g := k.expandGroup f n
  let later := (k.liveAfter f n.listNo (n.entryNo + g.length)).map (plainWord f n.args 1)
  if !sRead f 1 || sRing f 1 || rowRepeats f 1 (k.liveAfter f 0 0) then []
  else ((liveRows f g).map (plainWord f n.args 1)).filter fun w => !later.contains w

/-- The packed stream reads one record for several tiles: its T_STRIDE_M is 0 (R121, R266). -/
def CellS.packedRepeats (k : CellS) (f : Bytes) : Bool :=
  !sRing f 0 && decide (sTStrideM f 0 = 0) && decide (1 < k.tilesBefore f (listCount f))

/-- Positions whose marks a nest clears at its end: those that its streams read at more than one tile position (R266). -/
def CellS.repeated (k : CellS) (f : Bytes) (n : Nest) : List Nat :=
  if !listMode f then repeatedReads f n.args
  else if vMode f = 2 then
    (if rowRepeats f 0 (k.rowsAfter f 0 0) then (k.rowsAfter f 0 0).map (plainWord f n.args 0) else [])
  else
    (if k.packedRepeats f then [streamBase f n.args 0] else []) ++
      (if sRead f 1 && rowRepeats f 1 (k.liveAfter f 0 0) then (k.liveAfter f 0 0).map (plainWord f n.args 1) else [])

end Sys2Proof.Machine
end

