-- ==== Sys2Proof/Machine/VectorRows.lean ====
section
/-! DEFINITION. Meanings of the rows of the vector and table personalities (R118 to R134, R141 to R146). -/
namespace Sys2Proof.Machine

/-- A row of 64 values written as a statistics record, which the spec gives no conversion: an open value that the values, the key of the
nest's draws and the place of the row fix, every NaN of it the canonical one (R118, R155, R183). -/
def openRow (key : DrawKey) (at_ : Nat) (xs : List Word) : RowOut :=
  let v := Config.recordRow xs key.seed key.step key.tensor at_
  { data := (List.range 8).flatMap fun i => toLE (canon32 (v.extractLsb' (32 * i) 32)).toNat 4, scales := [], flags := .none }

/-- A tile of 4,096 values written as statistics records. -/
def openTile (f : Bytes) (key : DrawKey) (m n : Nat) (vals : List Word) : List RowOut :=
  (List.range 64).map fun r => openRow key (elemIndex f m n r 0) ((vals.drop (64 * r)).take 64)

/-- The rows of output tile o of 4,096 values (R118, R172, R179). -/
def laneRows (f : Bytes) (key : DrawKey) (n : Nest) (o : Nat) (vals : List Word) : List RowOut :=
  let m := n.args.m0 + tileM f o
  let k := n.args.n0 + tileN f o
  if outFmt f = 7 then openTile f key m k vals else convTile f key (outFmt f) 0 0 m k vals

/-- Adds an output to those whose time runs. -/
def CellS.push (k : CellS) (t : OutTile) : CellS := { k with outs := k.outs ++ [t] }

/-- Adds flags to the rows of a tile. -/
def withFlags (rows : List RowOut) (fl : TileFlags) : List RowOut := rows ++ [{ data := [], scales := [], flags := fl }]

/-- NONFINITE from a test. -/
def nonfiniteIf (b : Bool) : TileFlags := { nonfinite := b, sat := false, cellFault := false }

/-- Finishes a step that makes output tile o with the given rows: checks where it goes, books the reads, and lets its output
time run. -/
def State.laneOut (s : State) (c : Fin 1024) (n : Nest) (o : Nat) (rows : List RowOut) (g : Nest → Nest) : State :=
  let f := s.cells[c].active.bytes
  if !destInside f (tileM f o) (tileN f o) (recordOf rows) then s.nestFault c
  else
    let bad := s.cells[c].spoils f n.args n.pos
    let s := s.upCell c fun k =>
      let k := k.stepped f n g
      match k.nest with
      | none => k
      | some n' => k.push (outTile f n' o rows)
    s.reportSpoil c bad

/-- The 4,096 values of an elementwise tile (R125, R126). -/
def CellS.vecTile (k : CellS) (f : Bytes) (n : Nest) : List Word :=
  (List.range 64).flatMap fun r =>
    let rc := k.laneRec f n.args n.pos 3 r
    (List.range 64).map fun c => vecElem f (fun i => k.lane f n.args n.pos i r c) rc

/-- A record that feeds the tile carries NONFINITE (R152). -/
def CellS.recsNonfinite (k : CellS) (f : Bytes) (n : Nest) : Bool :=
  usesRecords f && (List.range 64).any fun r => recNonfinite (k.laneRec f n.args n.pos 3 r)

/-- VECTOR_TILE (R110, R111, R118 to R129, R147 to R152): the frame program over the elements of the next tile. -/
def execVectorTile (c : Fin 1024) (s : State) : Res :=
  match s.cells[c].running 1 with
  | none => .next s
  | some n =>
    let k := s.cells[c]
    let f := k.active.bytes
    if vMode f ≠ 0 then .next s
    else .next (s.laneStep c n
      (let rows := withFlags (laneRows f (s.keyOf n f) n n.pos (k.vecTile f n)) (nonfiniteIf (k.recsNonfinite f n))
       s.laneOut c n n.pos rows id))

/-! ### Table (R141 to R146) -/

/-- The quadratic of segment j at t, by two fused operations (R142). -/
def segEval (f : Bytes) (j : Nat) (t : Word) : Word := fma32 t (fma32 t (segC f j 2) (segC f j 1)) (segC f j 0)

/-- floor of a finite FP32 value. -/
def floor32 (x : Word) : Int :=
  match dec32 x with
  | .fin n m e =>
    let v : Int := if n then -(m : Int) else m
    if 0 ≤ e then v * 2 ^ e.toNat else v / 2 ^ (-e).toNat
  | _ => 0

/-- A whole number in FP32. -/
def int32 (i : Int) : Word := enc32 (.ofInt i)

/-- A tail for a finite input: clamp, extend, constant or linear (R142).
(DESIGN CHOICE, log entry 38) -/
def tailEval (f : Bytes) (high : Bool) (x u : Word) : Word :=
  let a := if high then highA f else lowA f
  let b := if high then highB f else lowB f
  match if high then highMode f else lowMode f with
  | 0 => if high then segEval f 255 one32 else segEval f 0 0
  | 1 => if high then segEval f 255 (sub32 u (int32 255)) else segEval f 0 u
  | 2 => canon32 a
  | _ => if Config.tailFused then fma32 b x a else add32 a (mul32 b x)

/-- A tail for an input of ±Inf (R143). -/
def tailInf (f : Bytes) (high : Bool) (x : Word) : Word :=
  let a := if high then highA f else lowA f
  let b := if high then highB f else lowB f
  match if high then highMode f else lowMode f with
  | 0 => if high then segEval f 255 one32 else segEval f 0 0
  | 1 => nan32
  | 2 => canon32 a
  | _ => if isZero32 b then canon32 a else mul32 b x

/-- The table at one element (R142, R143). -/
def tableEval (f : Bytes) (x : Word) : Word :=
  match dec32 x with
  | .nan => nan32
  | .inf neg => tailInf f (!neg) x
  | .fin _ _ _ =>
    let u := enc32 (((dec32 x).add (dec32 (xMin f)).neg).mul (dec32 (segScale f)))
    match dec32 u with
    | .inf neg => tailEval f (!neg) x u
    | _ =>
      let j := floor32 u
      if j < 0 then tailEval f false x u
      else if j ≥ 256 then tailEval f true x u
      else segEval f j.toNat (sub32 u (int32 j))

/-- TABLE_TILE (R118 to R124, R129, R141 to R146). -/
def execTableTile (c : Fin 1024) (s : State) : Res :=
  match s.cells[c].running 4 with
  | none => .next s
  | some n =>
    let k := s.cells[c]
    let f := k.active.bytes
    .next (s.laneStep c n
      (let vals := (List.range 64).flatMap fun r => (List.range 64).map fun q =>
          let y := tableEval f (k.lane f n.args n.pos 0 r q)
          if postMul f then mul32 y (k.lane f n.args n.pos 1 r q) else y
       s.laneOut c n n.pos (laneRows f (s.keyOf n f) n n.pos vals) id))

/-! ### Index lists (R130 to R133) -/

/-- Clears the header of a list. -/
def CellS.clearList (k : CellS) (f : Bytes) (l : Nat) : CellS := { k with store := k.store.writeN (listAddr f l) (List.replicate 64 0) }

/-- Appends a row to a list, or counts it in OVERFLOW (R131). -/
def CellS.appendRow (k : CellS) (f : Bytes) (l row : Nat) : CellS :=
  let n := k.listCountOf f l
  if n ≥ countMax f then { k with store := k.store.writeLE (listAddr f l + 4) 4 (k.listOverflow f l + 1) }
  else { k with store := (k.store.writeLE (listAddr f l + 64 + 4 * n) 4 (row % 2 ^ 24 + 2 ^ 31)).writeLE (listAddr f l) 4 (n + 1) }

/-- INDEX on one mask tile (R131): for each list, the active bits of its column in ascending rows. -/
def CellS.indexTile (k : CellS) (f : Bytes) (n : Nest) : CellS :=
  let base := streamByte f 0 (k.streamAt f n.args 0 n.pos)
  let k' := if n.pos = 0 then (listsOf f).foldl (fun k l => k.clearList f l) k else k
  (listsOf f).foldl (fun k' l =>
    (List.range 64).foldl (fun k' r =>
      if k.store.readLE (base + elemPos f 0 r l / 8) 1 |>.testBit (elemPos f 0 r l % 8) then
        k'.appendRow f l ((n.args.m0 + n.pos) * 64 + r)
      else k') k') k'

/-- The last entry of every list lies in the data area, and so each entry before it (R122). -/
def CellS.lastEntriesInside (k : CellS) (f : Bytes) : Bool :=
  (listsOf f).all fun l => decide (k.listCountOf f l = 0) || entryInside f l (k.listCountOf f l - 1)

/-- INDEX_MASK_TILE (R122, R129 to R131). -/
def execIndexMaskTile (c : Fin 1024) (s : State) : Res :=
  match s.cells[c].running 1 with
  | none => .next s
  | some n =>
    let f := s.cells[c].active.bytes
    if vMode f ≠ 1 then .next s
    else if !(listsOf f).all (headerInside f) then .next (if nestDone f n then s else s.nestFault c)
    else .next (s.laneStep c n
      (let bad := s.cells[c].spoils f n.args n.pos
       let k' := s.cells[c].indexTile f n
       if !k'.lastEntriesInside f then s.nestFault c
       else (s.upCell c fun k => (k.indexTile f n).stepped f n id).reportSpoil c bad))

/-- A row that COMPRESS copies as it is stored: A8 into A8, with its scales; a record into a record; and U32 into U32, which no FP32 lane would carry
whole. In every other format, source and output being the same, the conversion of a value returns it unchanged (R132, R168, R169). -/
def rawRow (f : Bytes) : Bool :=
  (decide (sFmt f 0 = 4) && decide (outFmt f = 4) && decide (sRStride f 0 = 64) && decide (sCStride f 0 = 1)) ||
    (decide (sFmt f 0 = 5) && decide (outFmt f = 6)) || (decide (sFmt f 0 = 7) && decide (outFmt f = 7))

/-- A row of S0 as it is stored: in A8 its elements, a NaN as the canonical one, and its two scales; NONFINITE when an element is NaN (R111,
R132, R155). A record has its first three words, which are FP32 in every record, under the same rule. -/
def copyRow (f : Bytes) (m : Memory) (base r : Nat) : RowOut :=
  match sFmt f 0 with
  | 4 =>
    let nan := fun (c : Nat) => (elemVal m 4 base (64 * r + c)).isNaN
    { data := (List.range 64).map fun c => if nan c then BitVec.ofNat 8 fE4M3.canonNaN else m.read (base + 64 * r + c)
      scales := m.readN (base + 4096 + 2 * r) 2
      flags := { nonfinite := (List.range 64).any nan, sat := false, cellFault := false } }
  | 7 =>
    let w := recWord m base (elemPos f 0 r 0)
    { data := (List.range 8).flatMap fun i => toLE (if i < 3 then canon32 (w i) else w i).toNat 4, scales := [],
      flags := nonfiniteIf (recNonfinite w) }
  | _ => { data := (List.range 64).flatMap fun c => m.readN (base + 4 * elemPos f 0 r c) 4, scales := [], flags := .none }

/-- One row of the output of COMPRESS, from the tile at a word: copied in its own format, else converted under the rounding of the output. -/
def packRow (f : Bytes) (key : DrawKey) (m : Memory) (n : Nest) (word row : Nat) : RowOut :=
  let base := streamByte f 0 word
  let at_ := elemIndex f (n.args.m0 + n.tileNo) n.args.n0 n.packed.length
  if rawRow f then copyRow f m base (row % 64)
  else
    let xs := (List.range 64).map fun c => laneElem f m 0 base (row % 64) c
    if outFmt f = 7 then openRow key (at_ 0) xs
    else convRow (outFmt f) (outSat f) 0 xs fun c => outRnd f key (at_ c) 0

/-- Bytes of one row of an output record before its scales, by output format (R161). -/
def outRowBytes (fmt : Nat) : Nat :=
  match fmt with
  | 0 => 256
  | 1 => 128
  | 2 => 128
  | 6 => 256
  | 7 => 32
  | _ => 64

/-- A pad row: zeros, with A8 and G8 scales of 2^0 (R132). -/
def padRow (fmt : Nat) : RowOut :=
  { data := List.replicate (outRowBytes fmt) 0, scales := if fmt = 4 || fmt = 5 then [0x7F, 0x7F] else [], flags := .none }

/-- The byte range that a whole row of S0 reads lies in the data area. -/
def rowInside (f : Bytes) (word r : Nat) : Bool :=
  (List.range 64).all fun c => elemInside (sFmt f 0) (streamByte f 0 word) (elemPos f 0 r c)

/-- The nest of COMPRESS after the rows of one group are packed: a list that ends completes its last tile with pad rows and
the next list begins (R132). The tile to emit, if one is complete. -/
def packGroup (f : Bytes) (n : Nest) (rows : List RowOut) (ends : Bool) : Nest × Option (List RowOut) :=
  let packed := n.packed ++ rows
  let full := packed ++ List.replicate (64 - packed.length) (padRow (outFmt f))
  let emit := decide (packed.length ≥ 64) || (ends && !packed.isEmpty)
  let n := if ends then { n with listNo := n.listNo + 1, entryNo := 0 } else { n with entryNo := n.entryNo + rows.length }
  if emit then ({ n with packed := [], tileNo := n.tileNo + 1, pos := n.pos + 1 }, some full) else ({ n with packed := packed, pos := n.pos + 1 }, none)

/-- Output tile t of COMPRESS, which the model places along m (R118, R132). -/
def packTile (f : Bytes) (n : Nest) (t : Nat) (rows : List RowOut) : OutTile :=
  { dest := destOf f t 0, hdr := tileHeader f (n.args.m0 + t) n.args.n0 0 n.args.gen (n.tileFlags t (flagsOf rows)), data := recordOf rows,
    oblk := none, full := none, set := none, refused := false }

/-- The rows of a group of COMPRESS, each from its tile's word, in entry order. -/
def packRows (f : Bytes) (key : DrawKey) (m : Memory) (n : Nest) (rows : List (Nat × Nat)) : List RowOut :=
  rows.foldl (fun acc x => acc ++ [packRow f key m { n with packed := n.packed ++ acc } x.1 x.2]) []

/-- COMPRESS_ROWS (R120, R122, R129, R132, R552): the next group of four rows.
(DEDUCED, log entry 46) -/
def execCompressRows (c : Fin 1024) (s : State) : Res :=
  match s.cells[c].running 1 with
  | none => .next s
  | some n =>
    let k := s.cells[c]
    let f := k.active.bytes
    if decide (vMode f ≠ 2) || nestDone f n || !k.entered then .next s
    else if !k.groupInside f n then .next (s.nestFault c)
    else
      let rows := k.groupRows f n
      let words := (k.rowWords f n 0 rows).1
      let src := words.zip rows
      if !src.all (fun x => rowInside f x.1 (x.2 % 64)) then .next (s.nestFault c)
      else if !words.all k.present then .next (s.nestWaits c)
      else
        let bad := words.any k.poisoned
        let n := if bad then { n with spoiled := n.tileNo :: n.spoiled } else n
        let ends := decide (n.entryNo + rows.length ≥ k.listLen f n)
        let r := packGroup f n (packRows f (s.keyOf n f) k.store n src) ends
        let tile := r.2.map fun rows => packTile f n n.tileNo rows
        if (match r.2 with
            | none => false
            | some rows => !destInside f n.tileNo 0 (recordOf rows)) then .next (s.nestFault c)
        else
          let after := (k.readRecords (k.compressLast f n)).rowsRead f 0 n rows (nestDone f r.1)
          .next ((s.upCell c fun _ =>
            let k := { after.1 with nest := some { r.1 with ringTile := after.2.ringTile } }
            match tile with
            | none => k
            | some t => k.push t).reportSpoil c bad)

/-! ### EXPAND and EXPAND_ADD (R133) -/

/-- Word of the destination tile of a row: row ROW of the tensor, whose tile 0 is at the output origin (R124, R133). A row
above the origin has none. -/
def destWord (f : Bytes) (a : StartArgs) (row : Nat) : Option Nat :=
  if row / 64 < a.m0 then none else some (outWord f (row / 64 - a.m0) 0)

/-- Bytes of an output record before the scales, by output format (R161). -/
def recBytes (fmt : Nat) : Nat := 64 * outRowBytes fmt

/-- Writes one converted row into a record: its elements, and its two scales after them. -/
def CellS.putRow (k : CellS) (fmt word r : Nat) (o : RowOut) : CellS :=
  let base := 64 * word
  let st := k.store.writeN (base + o.data.length * r) o.data
  { k with store := if o.scales.isEmpty then st else st.writeN (base + recBytes fmt + 2 * r) o.scales }

/-- Element (r, c) of the destination of EXPAND_ADD, and the weight of an entry. -/
def destElem (m : Memory) (word r c : Nat) : Word := BitVec.ofNat 32 (m.readLE (64 * word + 4 * (64 * r + c)) 4)
def entryWeight (f : Bytes) (m : Memory) (word l row : Nat) : Word :=
  if sRead f 1 then laneElem f m 1 (streamByte f 1 word) (row % 64) l else one32

/-- What one entry of EXPAND or EXPAND_ADD is read from: its place in the packed tile, the word of that tile, its ROW, its list, and the word of
its weight. -/
structure Entry where
  e : Nat
  src : Nat
  row : Nat
  list : Nat
  weight : Nat
  deriving DecidableEq, Repr

/-- One entry of EXPAND or EXPAND_ADD into its destination row (R133). -/
def CellS.expandRow (k : CellS) (f : Bytes) (key : DrawKey) (n : Nest) (x : Entry) : CellS :=
  match destWord f n.args x.row with
  | none => k
  | some w =>
    let xs := (List.range 64).map fun c => laneElem f k.store 0 (streamByte f 0 x.src) (x.e % 64) c
    let at_ := elemIndex f (x.row / 64) n.args.n0 (x.row % 64)
    if vMode f = 4 then
      let wt := entryWeight f k.store x.weight x.list x.row
      let out := xs.zipIdx.map fun p => add32 (destElem k.store w (x.row % 64) p.2) (mul32 p.1 wt)
      k.putRow 0 w (x.row % 64) (convRow 0 false 0 out fun _ => .rne)
    else if outFmt f = 7 then k.putRow 7 w (x.row % 64) (openRow key (at_ 0) xs)
    else k.putRow (outFmt f) w (x.row % 64) (convRow (outFmt f) (outSat f) 0 xs fun c => outRnd f key (at_ c) 0)

/-- The bytes of a destination row, and of its scales, lie in the data area (R122). -/
def destRowInside (f : Bytes) (a : StartArgs) (row : Nat) : Bool :=
  match destWord f a row with
  | none => false
  | some w =>
    let n := outRowBytes (outFmt f)
    decide (64 * w + n * (row % 64 + 1) ≤ dataBytes) &&
      (decide (outFmt f ≠ 4 ∧ outFmt f ≠ 5) || decide (64 * w + recBytes (outFmt f) + 2 * (row % 64 + 1) ≤ dataBytes))

/-- The nest after a group of EXPAND. -/
def expandNext (n : Nest) (len : Nat) (ends : Bool) : Nest :=
  if ends then { n with listNo := n.listNo + 1, entryNo := 0, pos := n.pos + 1 } else { n with entryNo := n.entryNo + len, pos := n.pos + 1 }

/-- The tiles that rows have been written into, as far as they lie whole in the data area, get their marks when the list pass is over. -/
def CellS.expandMarks (k : CellS) (f : Bytes) (n : Nest) : CellS :=
  let ws := ((k.entriesFrom f 0 0).filterMap fun x =>
    let row := k.listRow f (listFirst f + x.1) x.2
    if inWindow f row then destWord f n.args row else none).dedup.filter fun w => wordsInside w (slotWords (outFmt f) - 1)
  ws.foldl (fun k w => k.setMark w (slotWords (outFmt f) - 1) false) k

/-- The entries of the next group that the nest writes, each with what it is read from. -/
def CellS.liveEntries (k : CellS) (f : Bytes) (n : Nest) : List Entry :=
  let live := (k.expandGroup f n).filter fun x => inWindow f x.2
  live.zipIdx.map fun x =>
    { e := x.1.1, src := k.packedWord f n n.listNo n.entryNo, row := x.1.2, list := listFirst f + n.listNo,
      weight := (k.weightWords f n).getD x.2 0 }

/-- Every address of an entry lies in the data area: its destination row, its packed row and its weight (R122). -/
def entryOk (f : Bytes) (a : StartArgs) (x : Entry) : Bool :=
  destRowInside f a x.row && rowInside f x.src (x.e % 64) &&
    (!sRead f 1 || elemInside (sFmt f 1) (streamByte f 1 x.weight) (elemPos f 1 (x.row % 64) x.list))

/-- EXPAND_ROWS (R120, R122, R129, R133, R552): the next group of four packed rows into their destination rows, in entry order. -/
def execExpandRows (c : Fin 1024) (s : State) : Res :=
  match s.cells[c].running 1 with
  | none => .next s
  | some n =>
    let k := s.cells[c]
    let f := k.active.bytes
    if decide (vMode f < 3) || nestDone f n then .next s
    else if !k.groupInside f n then .next (s.nestFault c)
    else
      let g := k.expandGroup f n
      let live := k.liveEntries f n
      let needs := k.expandNeeds f n
      if !live.all (entryOk f n.args) then .next (s.nestFault c)
      else if !needs.all k.present then .next (s.nestWaits c)
      else
        let bad := needs.any k.poisoned
        let ends := decide (n.entryNo + g.length ≥ k.listLen f n)
        let tileEnds := !g.isEmpty && (ends || decide ((n.entryNo + g.length) % 64 = 0))
        let src := k.packedWord f n n.listNo n.entryNo
        let n' := expandNext n g.length ends
        let k1 := live.foldl (fun k x => k.expandRow f (s.keyOf n f) n x) k
        let k2 := k1.readRecords (k.weightLast f n ++ if tileEnds && !sRing f 0 && !k.packedRepeats f then [src] else [])
        let k3 := if tileEnds && sRing f 0 then k2.leaveRings [(0, src)] else k2
        let after := k3.rowsRead f 1 n (if sRead f 1 then liveRows f g else []) (nestDone f n')
        let k4 := if nestDone f n' then after.1.expandMarks f n else after.1
        .next ((s.upCell c fun _ => { k4 with nest := some { n' with ringTile := after.2.ringTile } }).reportSpoil c bad)

end Sys2Proof.Machine
end

