-- ==== Sys2Proof/Machine/FtqRows.lean ====
section
/-! DEFINITION. Meanings of the rows of the finished-tile queues, their credits, and the resumption of nests (R108, R112 to
R117, R120, R265). -/
namespace Sys2Proof.Machine

/-- Consumer entry k of the oldest tile that has yet to be sent to it. -/
def CellS.nextSend (k : CellS) (i : Nat) : Option QTile := k.ftq.find? fun t => decide (i < t.cons.length) && !t.sent.getD i true

/-- The oldest tile on its way to consumer i. -/
def CellS.nextArrival (k : CellS) (i : Nat) : Option QTile := k.ftq.find? fun t => t.sent.getD i false && !t.arrived.getD i true

/-- FTQ_DELIVER (R114, R117): the oldest tile of the queue that consumer k has not been sent sets out, for a credit; over a handshake queue its
words follow as QUEUE_WRITE writes them, and it does not set out before the words of the tile ahead of it are written.
(DESIGN CHOICE, log entry 25) -/
def execFtqDeliver (c : Fin 1024) (k : Fin 4) (s : State) : Res :=
  match s.cells[c].nextSend k.val with
  | none => .next s
  | some t =>
    let e := t.cons.getD k.val 0
    let have' := (getKV e s.cells[c].credits).getD 0
    if have' = 0 || (s.cells[c].ftq.any fun x => x.dueTo (conQueue e) k.val) then .next s
    else .next ((s.upCell c fun p => { p with credits := putKV e (have' - 1) p.credits }).upTile c t.seq t.word fun x =>
      { x with sent := setB x.sent k.val })

/-- The tile stands in its ring slot at the consumer, whose mark is set (R114, R265): a tile of the mesh is written whole, and the words of one
that came over a handshake queue are there already.
(DEDUCED, log entry 35) -/
def State.takeTile (s : State) (c d : Fin 1024) (e : Word) (t : QTile) : State :=
  let w := arrivalWord e t
  if wordsInside w t.words then
    let bs := s.cells[c].store.readN (64 * t.word) (64 * t.words)
    s.upCell d fun q =>
      let q := (if conQueued e then q else q.put w bs).setMark w t.words false
      { q with ringHeld := q.ringHeld ++ [({ base := conBase e, slot := w, read := false, prod := c.val, entry := e } : RingSlot)] }
  else s.cellFault d 0

/-- RING_TILE_ARRIVED (R114 to R117, R265): the last word of the oldest tile on its way to consumer k arrives; over a handshake queue, once
every word of it has come out. -/
def execRingTileArrived (c : Fin 1024) (k : Fin 4) (s : State) : Res :=
  match s.cells[c].nextArrival k.val with
  | none => .next s
  | some t =>
    let e := t.cons.getD k.val 0
    match s.consumerOf c e with
    | none => .next s
    | some d =>
      if conQueued e && decide (t.got.getD k.val 0 < t.words) then .next s
      else
        let s := (s.takeTile c d e t).upTile c t.seq t.word fun x => { x with arrived := setB x.arrived k.val }
        .next ((s.releaseTiles c).retry c)

/-- RING_SLOT_RELEASE (R114, R120, R266): the oldest slot of a ring that the personality has read to its last word is
released. -/
def execRingSlotRelease (c : Fin 1024) (base : BitVec 15) (s : State) : Res :=
  match s.cells[c].ringHeld.find? fun r => decide (r.base = base.toNat) && r.read with
  | none => .next s
  | some r => .next ((s.releaseSlot c r).retry c)

/-- The credit word that reaches a producer next by the route of entry k of its active frame, when it is of that entry or of a frame that is active no
longer; where none is on that route, one of such a frame on a route of its own. -/
def CellS.creditDue (p : CellS) (k : Nat) : Option Word :=
  let mine := consEntries p.active.bytes
  let old := p.creditFlight.find? fun e => !mine.any (sameRoute e)
  match mine[k]? with
  | none => old
  | some e => match p.creditFlight.find? (sameRoute e) with
    | none => old
    | some x => if x = e || !mine.contains x then some x else none

/-- CREDIT_RETURN_ARRIVAL (R63, R97, R114): a credit word of consumer k, the oldest on its route, reaches the producer and is counted; tiles of a frame
that is active no longer are still delivered for such credits. What the consumer could not send for want of a free entry follows. -/
def execCreditReturnArrival (c : Fin 1024) (k : Fin 4) (s : State) : Res :=
  match s.cells[c].creditDue k.val with
  | none => .next s
  | some e =>
    let s := s.upCell c fun p =>
      { p with creditFlight := p.creditFlight.erase e, credits := putKV e ((getKV e p.credits).getD 0 + 1) p.credits }
    .next (match s.consumerOf c e with
      | none => s
      | some d => s.when (!s.cells[d].backPressure && !s.cells[d].withheld.isEmpty) fun s => s.freeCredits d)

/-- The record positions that the next step of a waiting nest needs. -/
def CellS.needs (k : CellS) (f : Bytes) (n : Nest) : List Nat :=
  if listMode f then
    if vMode f = 2 then (k.rowWords f n 0 (k.groupRows f n)).1 else k.expandNeeds f n
  else k.stepWords f n.args n.pos

/-- NEST_RESUME (R108, R265): a waiting nest whose marks are all set refills and goes on; the cycles it waited are counted. -/
def execNestResume (c : Fin 1024) (s : State) : Res :=
  let k := s.cells[c]
  match k.nest with
  | none => .next s
  | some n =>
    if n.waiting && !n.stopped && (k.needs k.active.bytes n).all k.present then
      .next ((s.upCell c fun k => k.upNest fun n => { n with waiting := false }).addWait c).noteWait
    else .next s

end Sys2Proof.Machine
end

