-- ==== Sys2Proof/Machine/ImageOps.lean ====
section
/-! DEFINITION. Reading the tables of a Freob image from its bytes (R216 to R224, R295, R296), and the load checks 0x01 to 0x0A of R230. -/
namespace Sys2Proof.Machine

/-- A 32-bit word of a byte string. -/
def w32At (b : Bytes) (o : Nat) : Nat := leNat b o 4

/-- Object table entry (R222). -/
def objOf (b : Bytes) : ObjE :=
  let w := w32At b 8
  { id := w32At b 0, tensor := w32At b 4, kind := field w 3 0, fmt := field w 7 4, tier := field w 9 8, pin := bit w 10,
    rotBlock := field w 12 11, group := field w 21 16, layer := field w 31 22, rotSeed := w32At b 0x0C, mTiles := w32At b 0x10,
    nTiles := w32At b 0x14, shardFirst := w32At b 0x18, parent := w32At b 0x1C, firstRegion := leNat b 0x20 2, lastRegion := leNat b 0x22 2 }

/-- The bytes of an object table entry (R222). -/
def ObjE.bytes (e : ObjE) : Bytes :=
  toLE e.id 4 ++ toLE e.tensor 4 ++
  toLE (e.kind + 2 ^ 4 * e.fmt + 2 ^ 8 * e.tier + 2 ^ 10 * b2n e.pin + 2 ^ 11 * e.rotBlock + 2 ^ 16 * e.group + 2 ^ 22 * e.layer) 4 ++
  toLE e.rotSeed 4 ++ toLE e.mTiles 4 ++ toLE e.nTiles 4 ++ toLE e.shardFirst 4 ++ toLE e.parent 4 ++ toLE e.firstRegion 2 ++
  toLE e.lastRegion 2 ++ List.replicate 28 0

/-- The sections of an image from a position: type and content. -/
def sectionsAt (b : Bytes) : Nat → Nat → List (Nat × Bytes)
  | 0, _ => []
  | n + 1, o =>
    let w := leNat b o 8
    let len := w / 256
    (w % 256, slice b (o + 8) len) :: sectionsAt b n (o + 64 * ceilDiv (8 + len) 64)

/-- Content of a section of an image, empty when absent. -/
def imgSection (b : Bytes) (type : Nat) : Bytes :=
  ((sectionsAt b (min 16 (leNat b 0x2C 4)) 128).find? fun x => x.1 = type).map (·.2) |>.getD []

/-- Region table entry (R219). -/
def regionOf (b : Bytes) : RegionE :=
  { region := leNat b 0 2, pair := bit (w32At b 0) 16, cellMask := w32At b 4, fCap := leNat b 8 2, weight := leNat b 0x0A 2,
    progOffset := w32At b 0x0C, progLen := w32At b 0x10, frameFirst := leNat b 0x14 2, frameCount := byteAt b 0x16, nominal := w32At b 0x18 }

/-- Region program instruction (R220). -/
def pinstrOf (b : Bytes) : PInstr :=
  let w := w32At b 0
  { op := field w 7 0, cell := field w 12 8, delay := field w 31 16, operand := w32At b 4 }

/-- Prefetch schedule entry (R223). -/
def pfOf (b : Bytes) : PfE :=
  { obj := w32At b 0, tileFirst := w32At b 4, tileCount := leNat b 8 2, tileStride := leNat b 0x0A 2, region := leNat b 0x0C 2,
    cell := field (w32At b 0x0C) 20 16, dest := field (w32At b 0x10) 14 0, product := w32At b 0x14, order := w32At b 0x18,
    use := field (w32At b 0x1C) 1 0 }

/-- Crossing table entry (R224). -/
def crossOf (b : Bytes) : CrossE :=
  let w := w32At b 4
  { prodRegion := leNat b 0 2, consRegion := leNat b 2 2, prodCell := field w 4 0, consCell := field w 9 5, queue := field w 15 10,
    rank := field w 17 16, aP := leNat b 8 2, aC := leNat b 0x0A 2 }

/-- A coefficient group (R296). -/
def groupOf (b : Bytes) : Group :=
  let w := w32At b 0
  let c := fun (o : Nat) => BitVec.ofNat 32 (w32At b o)
  { valid := bit w 0, denom := bit w 1, sign := bit w 2, bc1 := bit w 3, bc2 := bit w 4, clipExempt := bit w 5, a1 := c 0x04, b1 := c 0x08,
    a2 := c 0x0C, b2 := c 0x10, c0 := c 0x14, c1 := c 0x18, c2 := c 0x1C, eps := c 0x20, gScale := c 0x24, lCoupled := c 0x28,
    lDecoupled := c 0x2C, lrScale := c 0x30, ratioLo := c 0x34, ratioHi := c 0x38, persist := max 1 (byteAt b 0x3C) }

/-! ### Sections (R216, R217) -/

/-- Entry i of the section table: type, bits [31:8] of its first word, length, offset. -/
def secEntry (b : Bytes) (i : Nat) : Nat × Nat × Nat × Nat :=
  let e := slice b (0x40 + 16 * i) 16
  (byteAt e 0, w32At e 0 / 256, w32At e 4, leNat e 8 8)

/-- Entries in the section table. -/
def secCount (b : Bytes) : Nat := byteAt b 0x10

/-- Content of a section, empty when the image has none of its type. -/
def secOf (b : Bytes) (type : Nat) : Bytes :=
  match ((List.range (secCount b)).map (secEntry b)).find? fun e => e.1 = type with
  | none => []
  | some (_, _, len, off) => slice b off len
def hasSec (b : Bytes) (type : Nat) : Bool := (List.range (secCount b)).any fun i => decide ((secEntry b i).1 = type)

/-- REGIONS and OBJECTS of the header. -/
def imgRegions (b : Bytes) : Nat := leNat b 0x12 2
def imgObjects (b : Bytes) : Nat := w32At b 0x14

/-- Size of an entry of a section; 64 B for frames. -/
def entrySize (type : Nat) : Nat :=
  match type with
  | 1 => 32
  | 2 => 8
  | 3 => 64
  | 4 => 64
  | 5 => 32
  | 6 => 16
  | _ => 4160

/-- Entry i of the section table breaks R217. -/
def secBad (b : Bytes) (i : Nat) : Bool :=
  let (t, res, len, off) := secEntry b i
  let top := 0x40 + 16 * secCount b
  !(decide (1 ≤ t) && decide (t ≤ 7) && decide (res = 0) && decide (off % 64 = 0) && decide (top ≤ off) && decide (off + len ≤ b.length) &&
    decide (len % entrySize t = 0) && (decide (t ≠ 1) || decide (len = 32 * imgRegions b)) && (decide (t ≠ 4) || decide (len = 64 * imgObjects b)) &&
    (decide (t ≠ 7) || decide (len = 4160)) &&
    (List.range i).all fun j =>
      let (t', _, len', off') := secEntry b j
      decide (t' ≠ t) && !rangesMeet off len off' len')

/-- The frames of section 3, one after another (R217); what does not make a whole frame stands as one last, invalid frame. -/
def splitFrames : Nat → Bytes → List Bytes
  | 0, _ => []
  | n + 1, b =>
    if b.isEmpty then []
    else
      let len := fLen b * 64
      if len = 0 || decide (b.length < len) then [b] else b.take len :: splitFrames n (b.drop len)

/-! ### Load checks (R230) -/

/-- Position of the first element that a test names. -/
def firstBad {α : Type} (l : List α) (bad : α → Bool) : Option Nat := l.findIdx? bad

/-- Bytes from one position up to another are 0. -/
def zeros (b : Bytes) (lo hi : Nat) : Bool := (slice b lo (hi - lo)).all (· = 0)

/-- Operand bits that an operation of a region program names (R220). -/
def operandMask (op : Nat) : Nat :=
  match op with
  | 1 => 0x7
  | 3 => 0xFFFFFFFF
  | 4 => 0x7FFF7FFF
  | 5 => 0x3F
  | 6 => 0x3F
  | 8 => 0xFFFFFFFF
  | 9 => 0xFFFFFFFF
  | _ => 0

/-- Check 0x06 of a region table entry (R219). -/
def regionBad (b : Bytes) : Bool :=
  let r := regionOf b
  !(decide (w32At b 0 / 2 ^ 17 = 0) && (r.pair || decide (r.cellMask < 2 ^ 16)) && inRange 500 r.fCap 1800 && decide (r.progOffset % 8 = 0) &&
    decide (byteAt b 0x17 = 0) && decide (w32At b 0x1C = 0))

/-- Check 0x06 of a region program instruction (R220). -/
def instrBad (b : Bytes) : Bool :=
  let i := pinstrOf b
  !(decide (i.op ≤ 9) && decide (field (w32At b 0) 15 13 = 0) && decide (i.operand &&& operandMask i.op = i.operand))

/-- Check 0x06 of an object table entry (R222). -/
def objBad (b : Bytes) : Bool :=
  let o := objOf b
  !(decide (o.id ≠ 0xFFFFFFFF) && decide (o.kind ≤ 9) && decide (o.fmt ≤ 12) && decide (o.rotBlock ≤ 2) && decide (field (w32At b 8) 15 13 = 0) &&
    (decide (o.kind = 1 ∨ o.kind = 2) || decide (o.parent = 0xFFFFFFFF)) && zeros b 0x24 0x40)

/-- Check 0x06 of a prefetch schedule entry (R223). -/
def pfBad (objs : List ObjE) (b : Bytes) : Bool :=
  let p := pfOf b
  !(decide (w32At b 0x0C / 2 ^ 21 = 0) && decide (w32At b 0x10 / 2 ^ 15 = 0) && decide (w32At b 0x1C < 3) &&
    (match objs.find? fun o => o.id = p.obj with
      | none => true
      | some o => decide (p.tileFirst + p.tileCount * p.tileStride < o.tiles + p.tileStride) && !(decide (p.use = 2) && decide (o.kind = 0 ∨ o.kind = 5))))

/-- Check 0x06 of a crossing table entry (R224, R228). -/
def crossBad (b : Bytes) : Bool :=
  !(decide (w32At b 4 / 2 ^ 18 = 0) && decide (w32At b 0x0C = 0) && decide ((crossOf b).rank ≠ 1))

/-- Check 0x06 of a coefficient entry (R296, R297). -/
def groupBad (b : Bytes) : Bool :=
  let g := groupOf b
  let one := 0x3F800000#32
  let unit := fun (x : Word) => !lt32 x 0 && !lt32 one x
  if !g.valid then b.any (· ≠ 0)
  else
    !(decide (w32At b 0 < 64) && decide (w32At b 0x3C < 256) &&
      ([g.a1, g.b1, g.a2, g.b2, g.c0, g.c1, g.c2, g.eps, g.gScale, g.lCoupled, g.lDecoupled, g.lrScale, g.ratioLo, g.ratioHi].all isFin32) &&
      unit g.a1 && unit g.a2 && !lt32 g.b2 0 && !(g.bc1 && eq32 g.a1 one) && !(g.bc2 && eq32 g.a2 one) && (!g.denom || posNormal32 g.eps) &&
      !(g.sign && g.denom) && (eq32 g.ratioHi 0 || !lt32 g.ratioHi g.ratioLo))

/-- Check 0x06 of the coefficient table (R295 to R297): the index of the group at fault, 0 for the header.
(DESIGN CHOICE, log entry 157) -/
def coeffBad (b : Bytes) : Option Nat :=
  let clip := BitVec.ofNat 32 (w32At b 4)
  if !(decide (w32At b 0 = 1) && !lt32 clip 0 && zeros b 8 64) then some 0
  else firstBad (entriesOf (b.drop 64) 64) groupBad

/-- Instructions of a region's program. -/
def progOf' (progs : List PInstr) (r : RegionE) : List PInstr := (progs.drop (r.progOffset / 8)).take r.progLen

/-- A logical cell belongs to a region. -/
def RegionE.hasCell (r : RegionE) (c : Nat) : Bool := bit r.cellMask c

/-- Check 0x06 of a region against its frames and its program (R219, R220). -/
def regionFramesBad (frames : List Bytes) (progs : List PInstr) (r : RegionE) : Bool :=
  let fs := (frames.drop r.frameFirst).take r.frameCount
  let keys := fs.map fun f => (fCell f, fSlot f)
  fs.any (fun f => !r.hasCell (fCell f)) || decide (keys.dedup.length ≠ keys.length) || (!r.pair && (progOf' progs r).any fun i => decide (i.cell > 15))

/-- Check 0x08 of a region (R219, R554).
(DEDUCED, log entry 136) -/
def regionRefsBad (frames : List Bytes) (progs : List PInstr) (r : RegionE) : Bool :=
  let fs := (frames.drop r.frameFirst).take r.frameCount
  let prog := progOf' progs r
  decide (r.frameFirst + r.frameCount > frames.length) || decide (r.progOffset / 8 + r.progLen > progs.length) ||
  fs.any (fun f => fRegion f ≠ r.region) ||
  ((List.range 32).any fun c => r.hasCell c && !prog.any fun i => decide (i.op = 0) && decide (i.cell = c)) ||
  prog.zipIdx.any fun x => decide (x.1.op = 8) &&
    (decide (x.1.operand % 65536 > x.2) || !((prog[x.1.operand % 65536]?).any fun y => y.cell = x.1.cell))

/-- A REGION of the region table. -/
def Image.hasRegion (m : Image) (n : Nat) : Bool := m.regions.any fun r => r.region = n
def Image.objById (m : Image) (id : Nat) : Option ObjE := m.objects.find? fun o => o.id = id

/-- Check 0x08 of an object (R222, R297). -/
def objRefsBad (m : Image) (o : ObjE) : Bool :=
  !m.hasRegion o.firstRegion || !m.hasRegion o.lastRegion || (decide (o.kind = 1 ∨ o.kind = 2) && (m.objById o.parent).isNone) ||
  (decide (o.kind = 0 ∨ o.kind = 5) && !((m.groups[o.group]?).any (·.valid)))

/-- Check 0x09 of an object (R187, R191). -/
def rotBad (o : ObjE) : Bool :=
  decide (o.rotBlock = 2) && (if o.kind ≤ 2 then decide (o.mTiles % 4 ≠ 0) || decide (o.shardFirst % 4 ≠ 0) else decide (o.nTiles % 4 ≠ 0))

/-- The parameter state that an object stands for (R231). -/
def rootOf (m : Image) (id : Nat) : Option Nat :=
  match m.objById id with
  | none => none
  | some o => if o.kind = 0 ∨ o.kind = 5 then some o.id else if o.kind = 1 ∨ o.kind = 2 then some o.parent else none

/-- Check 0x0A: the object carries a tied parameter (R231). -/
def tied (m : Image) (x : ObjE × Nat) : Bool :=
  let o := x.1
  let state := decide (o.kind = 0 ∨ o.kind = 5)
  let es := m.prefetch.filter fun p => rootOf m p.obj = some o.id
  (state && (m.objects.take x.2).any fun p => decide (p.kind = 0 ∨ p.kind = 5) && decide (p.tensor % 2 ^ 31 = o.tensor % 2 ^ 31)) ||
  (state && es.any fun a => es.any fun b => decide (a.product ≠ b.product)) ||
  (state && es.any (fun a => a.use = 0) && es.any fun a => a.use = 1) ||
  (decide (o.kind = 1 ∨ o.kind = 2) && !((m.objById o.parent).any fun p => decide (p.kind = 0 ∨ p.kind = 5)))

/-- The tables of an image whose sections stand (R217). -/
def parseImage (b : Bytes) : Image :=
  let coeff := if hasSec b 7 then some (secOf b 7) else none
  let frames := secOf b 3
  { minPaline := field (w32At b 4) 17 16, digest := slice b 0x20 32, regions := (entriesOf (secOf b 1) 32).map regionOf,
    progs := (entriesOf (secOf b 2) 8).map pinstrOf, frames := splitFrames frames.length frames, objects := (entriesOf (secOf b 4) 64).map objOf,
    prefetch := (entriesOf (secOf b 5) 32).map pfOf, crossings := (entriesOf (secOf b 6) 16).map crossOf, coeff := coeff,
    clipNorm := match coeff with
      | none => 0
      | some c => BitVec.ofNat 32 (w32At c 4),
    groups := match coeff with
      | none => []
      | some c => (entriesOf (c.drop 64) 64).map groupOf }

/-- The first position in one of several tables. -/
def firstOf (l : List (Option Nat)) : Option Nat := l.findSome? id

/-- Check 0x06 (R216, R219 to R224, R297): the index of the entry at fault. -/
def fieldsBad (b : Bytes) (m : Image) : Option Nat :=
  let head := decide (w32At b 4 / 2 ^ 18 = 0) && decide (0 < m.minPaline) && decide (b.length % 64 = 0) && decide (byteAt b 0x11 = 0) && zeros b 0x18 0x20 &&
    inRange 1 (imgRegions b) 4096 && inRange 1 (imgObjects b) (2 ^ 20)
  let twice := fun {α : Type} [DecidableEq α] (l : List α) => firstBad l.zipIdx fun x => (l.take x.2).contains x.1
  if !head then some 0
  else firstOf [firstBad (entriesOf (secOf b 1) 32) regionBad, twice (m.regions.map (·.region)), firstBad (entriesOf (secOf b 2) 8) instrBad,
    firstBad (entriesOf (secOf b 4) 64) objBad, twice (m.objects.map (·.id)), firstBad (entriesOf (secOf b 5) 32) (pfBad m.objects),
    firstBad (entriesOf (secOf b 6) 16) crossBad, if hasSec b 7 then coeffBad (secOf b 7) else none,
    firstBad m.regions (regionFramesBad m.frames m.progs)]

/-- Check 0x08: every reference names an existing entry. -/
def refsBad (m : Image) : Option Nat :=
  firstOf [firstBad m.regions (regionRefsBad m.frames m.progs), firstBad m.objects (objRefsBad m),
    firstBad m.prefetch fun p => (m.objById p.obj).isNone || !m.hasRegion p.region,
    firstBad m.crossings fun c => !m.hasRegion c.prodRegion || !m.hasRegion c.consRegion]

/-- The digest of an image is that of its bytes (R216). -/
def imgDigestOk (b : Bytes) : Bool := decide (slice b 0x20 32 = sha256 (b.take 0x20 ++ List.replicate 32 0 ++ b.drop 0x40))

/-- The image, or the DETAIL of the first of checks 0x01 to 0x0A that fails (R230, R485).
(DEDUCED, log entry 48) -/
def checkImage (b : Bytes) (level minorMax : Nat) : Except Nat Image :=
  let fail := fun (code idx : Nat) => (.error (code + 256 * idx) : Except Nat Image)
  if !(decide (64 ≤ b.length) && decide (w32At b 0 = 0x42455246) && decide (leNat b 8 8 = b.length)) then fail 1 0
  else if decide (byteAt b 5 ≠ 2) || decide (byteAt b 4 > minorMax) then fail 2 0
  else if field (w32At b 4) 17 16 > level then fail 3 0
  else if !imgDigestOk b then fail 4 0
  else if !inRange 5 (secCount b) 16 then fail 5 0
  else match firstBad (List.range (secCount b)) (secBad b), [1, 2, 3, 4, 5].find? fun t => !hasSec b t with
    | some i, _ => fail 5 i
    | none, some t => .error (5 + 256 * t + 2 ^ 31)
    | none, none =>
      let m := parseImage b
      match fieldsBad b m, firstBad m.frames fun f => !frameValid f, refsBad m, firstBad m.objects rotBad, firstBad m.objects.zipIdx (tied m) with
      | some i, _, _, _, _ => fail 6 i
      | none, some i, _, _, _ => fail 7 i
      | none, none, some i, _, _ => fail 8 i
      | none, none, none, some i, _ => fail 9 i
      | none, none, none, none, some i => fail 0x0A i
      | none, none, none, none, none => .ok m

end Sys2Proof.Machine
end

