-- ==== Sys2Proof/Machine/ObjOps.lean ====
section
/-! DEFINITION. Objects: their sizes and layout (R253, R254, R288, R289), their homes and the stripe hash (R238, R256 to
R258), and what arrives for them while they move (R240 to R242, R260). -/
namespace Sys2Proof.Machine

/-! ### Layout -/

/-- P of R288: bytes of one plane of a KIND 0 object. -/
def ObjE.plane (e : ObjE) : Nat := e.tiles * 8192

/-- Elements of a row of a KIND 5 object (R289). -/
def ObjE.rowW (e : ObjE) : Nat := e.nTiles * 64

/-- The KIND 1 object that names an object as PARENT. -/
def childOf (kind : Nat) (es : List ObjE) (id : Nat) : Option ObjE := es.find? fun c => decide (c.kind = kind) && decide (c.parent = id)

/-- Size of an object in bytes (R254, R288, R289). -/
def objBytes (es : List ObjE) (e : ObjE) : Nat :=
  match e.kind with
  | 0 => 6 * e.plane + (match childOf 1 es e.id with
    | none => 0
    | some c => e.tiles * recSize c.fmt)
  | 5 => e.mTiles * 64 * (6 * e.rowW) + e.mTiles * 64 * 4
  | 6 => e.tiles * 4096
  | 8 => e.tiles * 4096
  | 9 => e.tiles * 4096
  | _ => e.tiles * recSize e.fmt

/-- The next 4 KiB boundary. -/
def page (n : Nat) : Nat := (n + 4095) / 4096 * 4096

/-- Bases in object space, in ascending OBJ_ID (R253): each entry with its base and size. -/
def objBases (es : List ObjE) : List (ObjE × Nat × Nat) :=
  ((es.inOrder fun a b => decide (a.id ≤ b.id)).foldl (fun (acc : Nat × List (ObjE × Nat × Nat)) e =>
    let n := objBytes es e
    (page (acc.1 + n), acc.2 ++ [(e, acc.1, n)])) (0, [])).2

/-- The bytes of a prefetch tile of an object, as (offset, length) pieces, with U for the buffer that is read (R223, R254,
R288, R289). Byte-array objects are taken in tiles of 4,096 B. -/
def tilePieces (e : ObjE) (u : Nat) (t : Nat) : List (Nat × Nat) :=
  match e.kind with
  | 0 => [(u % 2 * (3 * e.plane) + t * 8192, 8192)]
  | 5 => (List.range 64).map fun r => ((t / max 1 e.nTiles * 64 + r) * (6 * e.rowW) + t % max 1 e.nTiles * 128, 128)
  | 6 => [(t * 4096, 4096)]
  | 8 => [(t * 4096, 4096)]
  | 9 => [(t * 4096, 4096)]
  | _ => [(t * recSize e.fmt, recSize e.fmt)]

/-- Bytes of a prefetch tile. -/
def tileBytes (e : ObjE) : Nat := sumNat ((tilePieces e 0 0).map (·.2))

/-! ### The stripe hash (R256 to R258) -/

/-- Units k, channels n, and t and w of a set (R256). -/
def setParams (h : HomeSet) : Nat × Nat × Nat × Nat :=
  match h with
  | .stack _ => (1, 16, 1, 4)
  | .die _ => (3, 48, 3, 4)
  | .allStacks => (12, 192, 3, 6)
  | .capacity => (24, 48, 3, 4)
  | .cellStore _ => (1, 1, 1, 4)

/-- The exclusive OR of the w-bit groups of q. -/
def foldBits (w : Nat) : Nat → Nat → Nat
  | 0, _ => 0
  | n + 1, q => (q % 2 ^ w) ^^^ foldBits w n (q / 2 ^ w)

/-- Unit index, channel and channel-local offset of a set offset (R258).
(DESIGN CHOICE, log entry 130) -/
def stripe (o k t w : Nat) : Nat × Nat × Nat :=
  let g := o / 256
  let q := g / t
  let c := t * foldBits w 16 q + g % t
  (c % k, c / k, q / 2 ^ w * 256 + o % 256)

/-- Physical unit of a unit index of a set (R256). -/
def unitOf (h : HomeSet) (i : Nat) : Nat :=
  match h with
  | .stack k => k.val
  | .die d => 3 * d.val + i
  | _ => i

/-- Unit, channel and local offset of byte b of a home (R257, R258). -/
def Home.place (h : Home) (b : Nat) : Nat × Nat × Nat :=
  let p := setParams h.set
  let r := stripe (h.row0 * 256 * p.2.1 + b) p.1 p.2.2.1 p.2.2.2
  (unitOf h.set r.1, r.2.1, r.2.2)

/-- Address of a place in the stack tier's memory, 16 channels of 8 GiB a stack, and in the capacity tier's, 2 channels of
64 GiB a device (R250). -/
def stackAddr (p : Nat × Nat × Nat) : Nat := p.1 * 2 ^ 37 + p.2.1 * 2 ^ 33 + p.2.2
def capAddr (p : Nat × Nat × Nat) : Nat := p.1 * 2 ^ 37 + p.2.1 * 2 ^ 36 + p.2.2

/-- The home lies in the capacity tier; it lies in a cell store. -/
def Home.inCap (h : Home) : Bool := decide (h.set = .capacity)
def Home.inCell (h : Home) : Bool :=
  match h.set with
  | .cellStore _ => true
  | _ => false

/-- Reads one byte of a home. The bytes of an object of TIER 3 are those that the schedule keeps in its region's cell
stores; it has no tier to be read from. -/
def Tiers.readByte (t : Tiers) (h : Home) (b : Nat) : Byte :=
  if h.inCell then 0 else if h.inCap then t.capMem.read (capAddr (h.place b)) else t.stackMem.read (stackAddr (h.place b))

/-- Writes one byte of a home. -/
def Tiers.writeByte (t : Tiers) (h : Home) (b : Nat) (v : Byte) : Tiers :=
  if h.inCell then t
  else if h.inCap then { t with capMem := t.capMem.write (capAddr (h.place b)) v }
  else { t with stackMem := t.stackMem.write (stackAddr (h.place b)) v }

/-- Reads n bytes of a home from an offset. -/
def Tiers.readHome (t : Tiers) (h : Home) (off : Nat) : Nat → Bytes
  | 0 => []
  | n + 1 => t.readByte h off :: t.readHome h (off + 1) n

/-- Writes bytes into a home from an offset. -/
def Tiers.writeHome (t : Tiers) (h : Home) (off : Nat) : Bytes → Tiers
  | [] => t
  | b :: bs => (t.writeByte h off b).writeHome h (off + 1) bs

/-! ### The directory -/

/-- Index of an object. -/
def State.objIdx (s : State) (id : Nat) : Option Nat := s.rt.objects.findIdx? fun o => o.e.id = id

/-- Object of an identifier. -/
def State.obj (s : State) (id : Nat) : Option ObjS := s.rt.objects.find? fun o => o.e.id = id

/-- Changes the object of an identifier. -/
def State.upObj (s : State) (id : Nat) (f : ObjS → ObjS) : State :=
  s.upRt fun t => { t with objects := t.objects.map fun o => if o.e.id = id then f o else o }

/-- The object of an offset in object space, with the offset in it (R253, R255). -/
def State.objAt (s : State) (off : Nat) : Option (ObjS × Nat) :=
  (s.rt.objects.find? fun o => decide (o.base ≤ off) && decide (off < o.base + o.size)).map fun o => (o, off - o.base)

/-- The object table of the image. -/
def State.objTable (s : State) : List ObjE := (s.rt.image.map (·.objects)).getD []

/-- Reads an object at its home. -/
def State.readObj (s : State) (o : ObjS) (off n : Nat) : Bytes := s.tiers.readHome o.home off n

/-! ### Allocation (R238, R251, R257, R282, R285) -/

/-- Units of a set: stacks, or every capacity device. -/
def setStacks (h : HomeSet) : List (Fin 12) :=
  match h with
  | .stack k => [k]
  | .die d => (List.finRange 12).filter fun k => k.val / 3 = d.val
  | .allStacks => List.finRange 12
  | _ => []

/-- Two sets share a unit. -/
def setsMeet (a b : HomeSet) : Bool :=
  (decide (a = .capacity) && decide (b = .capacity)) || (setStacks a).any fun k => (setStacks b).contains k

/-- Rows of a set that hold a size. -/
def rowsFor (h : HomeSet) (size : Nat) : Nat := ceilDiv size (256 * (setParams h).2.1)

/-- Rows of a channel in the object area of a set (R251): 127 GiB of a stack over 16 channels; the capacity tier without
its runtime, retention and partner areas over 48. -/
def State.areaRows (s : State) (h : HomeSet) : Nat :=
  if h = .capacity then
    ((3072 - 64 - s.sec.areaGib) * 2 ^ 30 - 2 * s.job.p.retSize.toNat) / (256 * 48)
  else 127 * 2 ^ 30 / (256 * 16)

/-- Homes in use: those of the objects given and of their moves. -/
def homesOf (os : List ObjS) : List Home :=
  os.flatMap fun o => match o.move with
    | none => [o.home]
    | some m => [m.oldHome, m.newHome]

/-- Room for rows at a row, beside the homes in use. -/
def roomAt (used : List Home) (h : HomeSet) (row rows : Nat) : Bool :=
  used.all fun u => !setsMeet u.set h || !rangesMeet u.row0 u.rows row rows

/-- The lowest row at which a size fits into a set (R257). -/
def State.findRow (s : State) (used : List Home) (h : HomeSet) (size : Nat) : Option Home :=
  let rows := rowsFor h size
  let cands := (0 :: (used.filter fun u => setsMeet u.set h).map fun u => u.row0 + u.rows).inOrder fun a b => decide (a ≤ b)
  (cands.find? fun r => decide (r + rows ≤ s.areaRows h) && roomAt used h r rows).map fun r => { set := h, row0 := r, rows := rows }

/-- No unit of the set is DEGRADED or FAILED (R282). -/
def State.setGood (s : State) (h : HomeSet) : Bool :=
  if h = .capacity then (List.finRange 24).all fun d => s.tiers.devUnits[d].health = .good
  else (setStacks h).all fun k => s.tiers.stkUnits[k].health = .good

/-- The first of a list of sets with room, those with no DEGRADED unit before the others (R238, R282). -/
def State.firstHome (s : State) (used : List Home) (size : Nat) (sets : List HomeSet) : Option Home :=
  ((sets.filter s.setGood) ++ sets.filter fun h => !s.setGood h).findSome? fun h => s.findRow used h size

/-- Parameters of KIND 0 objects that stand on a stack. -/
def paramsOn (os : List ObjS) (k : Fin 12) : Nat :=
  sumNat (os.map fun o => if o.e.kind = 0 && decide (o.home.set = .stack k) then o.e.tiles * 4096 else 0)

/-- The stacks in ascending parameters held, ties to the lower number (R238). -/
def stacksByLoad (os : List ObjS) : List HomeSet :=
  ((List.finRange 12).inOrder fun a b =>
    decide (paramsOn os a < paramsOn os b) || (decide (paramsOn os a = paramsOn os b) && decide (a.val ≤ b.val))).map .stack

/-- Index of the bound region that names an object in the most prefetch tiles, ties to the lower REGION; else of its
FIRST_REGION (R238). -/
def mainRegion (im : Image) (e : ObjE) : Option Nat :=
  let tiles := fun (r : RegionE) =>
    sumNat (im.prefetch.map fun p => if p.obj = e.id && p.region = r.region then p.tileCount else 0)
  let best := im.regions.foldl (fun (acc : Option RegionE) r => match acc with
    | none => if tiles r = 0 then none else some r
    | some b => if tiles b < tiles r || (tiles b = tiles r && 0 < tiles r && r.region < b.region) then some r else some b) none
  im.regions.findIdx? fun r => r.region = (match best with
    | none => e.firstRegion
    | some b => b.region)

/-- Die of the bound region that an object belongs to. -/
def State.objDie (s : State) (im : Image) (e : ObjE) : Fin 4 :=
  match (mainRegion im e).bind fun i => (s.regionS i).cluster with
  | none => 0
  | some c => dieOf c

/-- The sets that may hold an object in the stack tier, the smallest first: a stack of the die, the die's three, all
twelve. -/
def dieSets (d : Fin 4) : List HomeSet :=
  ((List.finRange 12).filter fun k => k.val / 3 = d.val).map .stack ++ [.die d, .allStacks]

/-- Puts the stack of the KIND 5 object or gradient that belongs to an object first among the sets that may hold it, so that one Medlar reaches both
(R238, R284). -/
def beside (placed : List ObjS) (e : ObjE) (l : List HomeSet) : List HomeSet :=
  let mate := placed.find? fun o => (decide (e.kind = 2) && decide (o.e.kind = 5) && decide (o.e.id = e.parent)) ||
    (decide (e.kind = 5) && decide (o.e.kind = 2) && decide (o.e.parent = e.id))
  match mate.map (fun (o : ObjS) => o.home.set) with
  | some (HomeSet.stack k) => if l.contains (.stack k) then .stack k :: l.filter (· ≠ .stack k) else l
  | _ => l

/-- The home that the placement engine gives an object beside those placed already (R238, R285); none when there is no
room.
(DESIGN CHOICE, log entry 49) -/
def State.chooseHome (s : State) (im : Image) (placed : List ObjS) (avoid : List HomeSet) (e : ObjE) : Option Home :=
  let used := homesOf placed
  let size := objBytes im.objects e
  let parent := placed.find? fun o => e.kind = 2 && o.e.kind = 0 && o.e.id = e.parent
  let ok := fun (l : List HomeSet) => l.filter fun h => !avoid.contains h
  if e.kind = 0 then s.firstHome used size (ok (stacksByLoad placed))
  else match parent with
    | some p => s.findRow used p.home.set size
    | none =>
      match e.tier with
      | 0 => s.firstHome used size (ok (beside placed e (dieSets (s.objDie im e))))
      | 1 => s.findRow used .capacity size
      | 2 => s.firstHome used size (ok (beside placed e (dieSets (s.objDie im e) ++ [.capacity])))
      | _ => some { set := .cellStore ((mainRegion im e).getD 0), row0 := 0, rows := 0 }

/-- Places the objects of an image: those of KIND 0 in ascending OBJ_ID, then the others in ascending OBJ_ID (R238); or the index in the object
table of the first that has no room, or does not lie in the 64 TiB of object space (R230, R253). -/
def State.placeTable (s : State) (im : Image) : Except Nat (List ObjS) :=
  let bases := objBases im.objects
  let order := bases.filter (fun x => x.1.kind = 0) ++ bases.filter fun x => x.1.kind ≠ 0
  order.foldl (fun acc x => match acc with
    | .error j => .error j
    | .ok os => match s.chooseHome im os [] x.1, decide (x.2.1 + x.2.2 ≤ 2 ^ 46) with
      | some h, true => .ok (os ++ [({ e := x.1, base := x.2.1, size := x.2.2, home := h, gen := 0, move := none, bad := [] } : ObjS)])
      | _, _ => .error (im.objects.findIdx fun e => e.id = x.1.id)) (.ok [])

/-! ### Arrivals (R240 to R242, R245, R260) -/

/-- A write covers a tile of an object whose tiles lie whole: the tile is readable again. -/
def ObjS.covered (o : ObjS) (off len : Nat) : ObjS :=
  if o.e.kind = 0 ∨ o.e.kind = 5 then o
  else { o with bad := o.bad.filter fun t => !(tilePieces o.e 0 t).all fun p => decide (off ≤ p.1) && decide (p.1 + p.2 ≤ off + len) }

/-- A read of the tile mover is answered: the oldest record of the object that asked for the span gets its bytes (R242, R270). -/
def Mover.answer (m : Mover) (id off n : Nat) (bs : Bytes) : Mover :=
  match m.active.findIdx? fun r => decide (r.obj = id) && decide (r.asked.head? = some (off, n)) with
  | none => m
  | some i => { m with active := m.active.modify i fun r => { r with asked := r.asked.tail, data := r.data ++ bs } }

/-- Applies an arrival at a home: a write lands there; a read of the tile mover is answered from there, and changes nothing. -/
def State.applyArr (s : State) (id : Nat) (h : Home) (a : Arrival) : State :=
  match a with
  | .write _ off data => (s.upTiers fun t => t.writeHome h off data).upObj id fun o => o.covered off data.length
  | .read .mover off n => s.upMover fun m => m.answer id off n (s.tiers.readHome h off n)
  | .read _ _ _ => s

/-- Applies arrivals in order. -/
def State.applyAll (s : State) (id : Nat) (h : Home) (as : List Arrival) : State := as.foldl (fun s a => s.applyArr id h a) s

/-- The unit that sent an arrival. -/
def senderOf (a : Arrival) : SenderUnit :=
  match a with
  | .write u _ _ => u
  | .read u _ _ => u

/-- Logs an arrival at a stub. -/
def MoveS.logged (m : MoveS) (a : Arrival) : MoveS := { m with log := m.log ++ [a], count := m.count + 1 }

/-- Forwards the log of a flipped move to the new home (step 5 of R240). -/
def MoveS.forward (m : MoveS) : MoveS := { m with unacked := m.unacked ++ m.log, log := [] }

/-- An arrival tagged with the generation of a live stub: it is logged, and forwarded once the directory has flipped. -/
def State.arriveOld (s : State) (id : Nat) (m : MoveS) (a : Arrival) : State :=
  s.upObj id fun o => { o with move := some (if m.flipped then (m.logged a).forward else m.logged a) }

/-- An arrival at the object's present home: held while forwarded arrivals are not yet applied there, else applied (R242). -/
def State.arriveNew (s : State) (o : ObjS) (a : Arrival) : State :=
  match o.move with
  | some m =>
    if m.unacked.isEmpty then s.applyArr o.e.id o.home a
    else s.upObj o.e.id fun o => { o with move := some { m with heldNew := m.heldNew ++ [a] } }
  | none => s.applyArr o.e.id o.home a

/-- A unit tags what it sends with the generation g of a stub: until the flip, and from then on until its flip notice (R240, R241). -/
def MoveS.oldFor (m : MoveS) (unit : SenderUnit) : Bool := !m.flipped || !m.told.contains unit

/-- What a unit sends at this moment, with the home and the generation that it resolves: tagged g, it meets the stub; else it goes to the present
home. -/
def State.arriveNow (s : State) (o : ObjS) (a : Arrival) : State :=
  match o.move with
  | some m => if m.oldFor (senderOf a) then s.arriveOld o.e.id m a else s.arriveNew o a
  | none => s.arriveNew o a

/-- A unit of the module writes bytes into an object (R260). -/
def State.writeObj (s : State) (unit : SenderUnit) (o : ObjS) (off : Nat) (data : Bytes) : State := s.arriveNow o (.write unit off data)

/-- A read of the object must wait: a stub is not yet past its forwards (R242, R270). -/
def ObjS.readWaits (o : ObjS) : Bool :=
  match o.move with
  | none => false
  | some m => !m.flipped || !m.unacked.isEmpty

end Sys2Proof.Machine
end

