-- ==== Sys2Proof/Machine/FabOps.lean ====
section
/-! DEFINITION. Operations of Paline that several families share: path sets and buckets (R382 to R386), ports that leave
and return (R352 to R360), the egress arbiter (R378 to R380), and the requests of this module (R387 to R394). -/
namespace Sys2Proof.Machine

/-! ### Path sets and buckets -/

/-- Hands the buckets of one set that stand at a port to the live ports left, one by one in cyclic order (R384). -/
def dealLeft (p : Fin 32) (live : List (Fin 32)) : Nat → List (Option (Fin 32)) → List (Option (Fin 32))
  | _, [] => []
  | n, b :: bs =>
    if b = some p then (if live.isEmpty then none else live[n % live.length]?) :: dealLeft p live (n + 1) bs
    else b :: dealLeft p live n bs

/-- The live ports of a set in ascending cyclic order from the port above p. -/
def Fabric.cyclicFrom (b : Fabric) (set : Nat) (p : Fin 32) : List (Fin 32) :=
  let l := b.livePorts set
  (l.filter fun q => decide (p.val < q.val)) ++ l.filter fun q => decide (q.val < p.val)

/-- A port that is no longer up leaves every path set (R384).
(DEDUCED, log entry 78) -/
def Fabric.leaveSets (b : Fabric) (p : Fin 32) : Fabric :=
  { b with buckets := b.buckets.zipIdx.map fun x => dealLeft p (b.cyclicFrom x.2 p) 0 x.1 }

/-- A packet of a bucket stands in some replay buffer. -/
def Fabric.inReplay (b : Fabric) (tag : Nat) : Bool := b.ports.toList.any fun q => q.replay.any fun x => x.2 = tag

/-- Gives one bucket its port of R383. -/
def Fabric.restoreBucket (b : Fabric) (tag : Nat) : Fabric :=
  { b with buckets := b.buckets.zipIdx.map fun x => if x.2 = tag / 64 then x.1.set (tag % 64) (b.dealt x.2 (tag % 64)) else x.1 }

/-- A port has come up: the assignment of R383 is restored but for buckets that have a packet in a replay buffer; those
wait (R384). -/
def Fabric.returnPort (b : Fabric) : Fabric :=
  let wait := ((List.range (64 * b.buckets.length)).filter b.inReplay)
  { b with
    buckets := b.buckets.zipIdx.map fun x => x.1.zipIdx.map fun y =>
      if wait.contains (64 * x.2 + y.2) then y.1 else b.dealt x.2 y.2
    backWait := wait }

/-- The 32 bytes of a packet's header: that of a request (R6, R369), or that of a response (R373). -/
def pktHeader (k : Pkt) : Bytes :=
  let resp := k.op = 0x80#8
  toLE (k.op.toNat + 2 ^ 8 * k.cls.val + 2 ^ 10 * k.hops.toNat + 2 ^ 14 * k.retry.toNat + 2 ^ 16 * k.len.toNat + 2 ^ 29 * b2n k.rw) 4 ++
    toLE (k.dst.toNat + 2 ^ 17 * k.ts.toNat) 4 ++
    toLE (k.src.toNat + (if resp then 2 ^ 17 * k.rstatus.toNat + 2 ^ 21 * b2n k.cached + 2 ^ 24 * k.detail.toNat else 0)) 4 ++
    toLE k.seq.toNat 4 ++ toLE (if resp then k.reqOp.toNat else k.addr.toNat) 8 ++ toLE (if resp then 0 else k.key.toNat) 4 ++ toLE k.job.toNat 4

/-- A packet on a link: its header, then its payload (R369). -/
def pktWire (k : Pkt) : Bytes := pktHeader k ++ k.payload

/-- The packet that bytes on a link stand for. What R342 adds to a working tile has no place in them. -/
def pktOf (b : Bytes) : Pkt :=
  let w := fun (i : Nat) => leNat b (4 * i) 4
  let resp := w 0 % 256 = 0x80
  { op := BitVec.ofNat 8 (w 0), cls := Fin.ofNat 4 (w 0 / 2 ^ 8), hops := BitVec.ofNat 4 (w 0 / 2 ^ 10), retry := BitVec.ofNat 2 (w 0 / 2 ^ 14),
    len := BitVec.ofNat 13 (w 0 / 2 ^ 16), rw := bit (w 0) 29, dst := BitVec.ofNat 17 (w 1), ts := BitVec.ofNat 15 (w 1 / 2 ^ 17),
    src := BitVec.ofNat 17 (w 2), seq := BitVec.ofNat 32 (w 3), addr := if resp then 0 else BitVec.ofNat 64 (leNat b 0x10 8),
    key := if resp then 0 else BitVec.ofNat 32 (w 6), job := BitVec.ofNat 32 (w 7)
    rstatus := if resp then BitVec.ofNat 4 (w 2 / 2 ^ 17) else 0, cached := resp && bit (w 2) 21
    detail := if resp then BitVec.ofNat 8 (w 2 / 2 ^ 24) else 0, reqOp := if resp then BitVec.ofNat 8 (w 4) else 0
    payload := b.drop 32, tileMsg := none }

/-- Bytes of a packet on a link (R369). -/
def pktBytes (k : Pkt) : Nat := 32 + k.payload.length

/-- Puts packets of one class ahead of those that wait at a port. -/
def Port.front (q : Port) (k : Pkt) (tag : Nat) : Port := { q with queues := updV q.queues k.cls ((k, tag) :: ·) }

/-- Counts a discarded MSG or RESP packet at a port (R357, R377, R386). -/
def State.countDiscard (s : State) (p : Fin 32) : State := s.upPort p fun q => { q with discards := satAdd q.discards 1 }

/-- Targets of an MCAST_STORE: the used entries of its list, with their SEQ (R372). -/
def mcTargets (bs : Bytes) : List (BitVec 17 × Word) :=
  ((List.range 8).filter fun i => bit (leNat bs (8 * i) 4) 31).map fun i =>
    (BitVec.ofNat 17 (leNat bs (8 * i) 4), BitVec.ofNat 32 (leNat bs (8 * i + 4) 4))

/-- A target list of 64 B (R372). -/
def mcList (ts : List (BitVec 17 × Word)) : Bytes :=
  padTo (ts.flatMap fun t => toLE (t.1.toNat + 2 ^ 31) 4 ++ toLE t.2.toNat 4) 64

/-- Answers every SEQ of a request with a status: an MCAST_STORE has one for each target (R372, R373). -/
def State.respondAll (s : State) (k : Pkt) (status detail : Nat) : State :=
  if k.op = 0x05#8 then (mcTargets k.payload).foldl (fun s t => s.sendPkt (s.respPkt k t.1 t.2 status false detail [])) s
  else s.respond k status detail []

/-- Data of a request. -/
def pktData (k : Pkt) : Bytes := if k.op = 0x05#8 then k.payload.drop 64 else k.payload

/-- Adds a target to the group of its port. -/
def addGroup (p : Fin 32) (tag : Nat) (t : BitVec 17 × Word) :
    List (Fin 32 × Nat × List (BitVec 17 × Word)) → List (Fin 32 × Nat × List (BitVec 17 × Word))
  | [] => [(p, tag, [t])]
  | g :: gs => if g.1 = p then (g.1, g.2.1, g.2.2 ++ [t]) :: gs else g :: addGroup p tag t gs

/-- The port that R385 gives for a target of an MCAST_STORE. -/
def Fabric.mcPort (b : Fabric) (k : Pkt) (t : BitVec 17) : Option (Fin 32 × Nat) := b.portFor t (pathBucket t k.addr)

/-- Targets of an MCAST_STORE by the port that each takes now. -/
def Fabric.mcGroups (b : Fabric) (k : Pkt) (ts : List (BitVec 17 × Word)) : List (Fin 32 × Nat × List (BitVec 17 × Word)) :=
  ts.foldl (fun gs t => match b.mcPort k t.1 with
    | none => gs
    | some (p, tag) => addGroup p tag t gs) []

/-- The copy of an MCAST_STORE for a group of targets (R372). -/
def mcCopy (k : Pkt) (g : List (BitVec 17 × Word)) : Pkt :=
  let d := pktData k
  { k with dst := (g.head?.map (·.1)).getD 0, payload := mcList g ++ d, len := BitVec.ofNat 13 (64 + d.length) }

/-- Puts a packet to a port: ahead of others when it was sent before (step 3 of R357), behind them when it still waited. -/
def State.putAt (s : State) (q : Fin 32) (sent : Bool) (k : Pkt) (tag : Nat) : State :=
  if sent then s.upPort q (·.front (s.fab.named q k) tag) else s.upFab fun b => b.enqueue q k tag

/-- A packet that has lost its port takes the port its bucket has now; without one it is answered with ROUTE, or discarded and counted (R357). An
MCAST_STORE goes on by the ports of its targets, and a target that no port reaches gets no copy (R397). -/
def State.resend (s : State) (p : Fin 32) (sent : Bool) (x : Pkt × Nat) : State :=
  if x.1.op = 0x05#8 then
    (s.fab.mcGroups x.1 (mcTargets x.1.payload)).foldl (fun s g => s.putAt g.1 sent (mcCopy x.1 g.2.2) g.2.1) s
  else
    let place := if x.2 = noBucket then none else s.fab.bucketPort (x.2 / 64) (x.2 % 64)
    match place with
    | some q => s.putAt q sent x.1 x.2
    | none => if pktIsReply x.1 then s.countDiscard p else s.respond x.1 6 0 []

/-- Steps 2 and 3 of R357: the port leaves its sets, and what it had not delivered leaves by other ports. -/
def State.vacate (s : State) (p : Fin 32) : State :=
  let q := s.fab.ports[p]
  let s := s.upFab fun b =>
    ({ b with ports := updV b.ports p fun q => { q with replay := [], queues := Vector.replicate 4 [] } } : Fabric).leaveSets p
  let own := fun (s : State) (x : Pkt × Nat) => (s.fab.unnamed p x.1, x.2)
  let s := q.replay.reverse.foldl (fun s x => s.resend p true (own s x)) s
  (q.queues.toList.flatten).foldl (fun s x => s.resend p false (own s x)) s

/-! ### Ports -/

/-- A port that is down for want of something in bring-up (R353, R354, R358). -/
def Port.fail (q : Port) (reason : Nat) : Port := { q with st := .downLost, reason := BitVec.ofNat 4 reason, level := 0 }

/-- The highest level that the module offers (LEVEL_CFG). -/
def Fabric.offer (b : Fabric) : BitVec 2 := if b.maxLevel = 0 then 1 else b.maxLevel

/-- The level of a link (R358). -/
def Fabric.linkLevel (b : Fabric) (partner : BitVec 2) : BitVec 2 := if partner.toNat < b.offer.toNat then partner else b.offer

/-- Rate of a port in bytes per nanosecond: 100 or 200 GB/s (R351). -/
def Port.rate (q : Port) : Nat := if q.level = 1 then 100 else 200

/-- C0_LIMIT in force (R380). -/
def Fabric.c0Share (b : Fabric) : Nat := max 1 b.c0Limit.toNat

/-- Rate of the C0 bucket in 1/16,000 B per module time unit; its depth is 10 µs of it (R380). -/
def Fabric.c0Rate (b : Fabric) (q : Port) : Nat := b.c0Share * q.rate
def Fabric.c0Depth (b : Fabric) (q : Port) : Nat := b.c0Rate q * (10 * usU)

/-- What a port that completes bring-up or retrain is (R353, R358): up at the lower of the two levels, or down with a reason. -/
def Fabric.upPort (b : Fabric) (now : DWord) (fw : Word) (q : Port) (x : PortXchg) : Port :=
  if x.lanes ≠ 0xFF#8 then q.fail 4
  else if x.delay.toNat > 4800 then q.fail 5
  else if x.partnerLevel = 0 then q.fail 6
  else
    let q := { q with st := .up, level := b.linkLevel x.partnerLevel, delay := x.delay, partnerMod := x.partnerMod,
                      partnerPort := x.partnerPort, partnerFw := x.partnerFw, sentId := b.modId, sentLevel := b.offer, sentFw := fw,
                      credits := #v[x.credits.1, x.credits.2.1, x.credits.2.2.1, x.credits.2.2.2],
                      deficit := Vector.replicate 4 0, departSent := false, idleAt := Vector.replicate 8 now }
    { q with c0Level := b.c0Depth q, c0At := now }

/-- The transmitters may be lit (R359). -/
def State.lit (s : State) : Bool := decide (s.pwr.st ≠ .standby) && s.pins.vaux && s.pins.modRst && s.quince.running

/-- PORT_DOWN to the fabric manager and to the host (step 4 of R357). -/
def State.portDown (s : State) (p : Fin 32) (reason : Nat) : State :=
  let m := s.fab.ports[p].partnerMod
  let s := s.fmMsgOut 0x09 0 (toLE p.val 4 ++ toLE m.toNat 4 ++ toLE reason 4 ++ toLE s.now.toNat 8)
  s.event evPortDown (arg p.val) (arg (m.toNat + 2 ^ 32 * reason))

/-- The loss of a partner (R356, R357): planned when DEPART blocks came first. -/
def State.loseP (s : State) (p : Fin 32) (planned : Bool) (reason : Nat) : State :=
  let s := s.upPort p fun q => { q with st := if planned then .downPlanned else .downLost, lost := true, level := 0,
                                        reason := if planned then q.reason else BitVec.ofNat 4 reason, trainSince := s.now }
  let s := (s.vacate p).portDown p reason
  s.when (s.time.timeEn && !s.time.timeRoot && decide (s.time.upstream.toNat = p.val)) State.loseUpstream

/-- Orderly darkening of every port (R360): DEPART blocks on those that are up, and nothing follows them. -/
def State.departPorts (s : State) (st : PortSt) : State :=
  s.upFab fun b =>
    { b with ports := b.ports.map fun q =>
        { q with st := if q.st = .disabled then .disabled else st, level := 0, departSent := decide (q.st = .up), replay := [],
                 queues := Vector.replicate 4 [] } }

/-- A port enters retrain (R354). -/
def State.retrain (s : State) (p : Fin 32) : State :=
  (s.upPort p fun q =>
    { q with st := .retraining, trainSince := s.now,
             retrains := s.now :: within s.now hourU q.retrains }).vacate p

/-! ### Receive buffers (R378, R379, R391) -/

/-- Bytes of the receive buffer of a class at every port (R378). -/
def rxSize (c : Fin 4) : Nat :=
  match c.val with
  | 0 => 32 * 1024
  | 3 => 224 * 1024
  | _ => 384 * 1024

/-- Bytes that Bramble has not taken from the receive buffer of a class. The credit of these bytes is withheld from the partner. -/
def Port.rxHeld (q : Port) (c : Fin 4) : Nat := sumNat (q.rx[c].map pktBytes)

/-- The partner holds credit for one more packet. -/
def Port.rxRoom (q : Port) (k : Pkt) : Bool := decide (q.rxHeld k.cls + pktBytes k ≤ rxSize k.cls)

/-- A copy of the request waits in a receive buffer. -/
def Fabric.inRx (b : Fabric) (k : Pkt) : Bool := b.ports.toList.any fun q => q.rx.toList.any fun l => l.any fun x => x.src = k.src && x.seq = k.seq

/-! ### Egress (R378 to R380) -/

/-- Level of the C0 bucket now.
(DEDUCED, log entry 80) -/
def Fabric.c0Now (b : Fabric) (q : Port) (now : DWord) : Nat :=
  min (b.c0Depth q) (q.c0Level + b.c0Rate q * (now.toNat - q.c0At.toNat))

/-- What a packet takes from the bucket: its size, and at most a full bucket. -/
def Fabric.c0Need (b : Fabric) (q : Port) (k : Pkt) : Nat := min (b.c0Depth q) (16000 * pktBytes k)

/-- The C0 packet that may leave next: the first, unless it is the module's own and the meter holds it (R380); then the
first of another source. -/
def Fabric.c0Pick (b : Fabric) (q : Port) (now : DWord) : Option (Pkt × Nat) :=
  let l := q.queues[0]
  match l.find? (fun x => x.1.src = q.sentId) with
  | none => l.head?
  | some own =>
    if b.c0Need q own.1 ≤ b.c0Now q now then l.head? else l.find? fun x => x.1.src ≠ q.sentId

/-- A packet fits the partner's credits of its class, and the port's replay buffer of 512 KiB (R355, R379). -/
def Port.fits (q : Port) (k : Pkt) : Bool :=
  decide (pktBytes k ≤ q.credits[k.cls]) && decide (sumNat (q.replay.map fun x => pktBytes x.1) + pktBytes k ≤ 524288)

/-- Weight of a class (CLASS_WRR); 0 is taken as 1. -/
def Fabric.weight (b : Fabric) (c : Fin 4) : Nat :=
  max 1 (match c.val with
    | 1 => b.w1.toNat
    | 2 => b.w2.toNat
    | _ => b.w3.toNat)

/-- The classes C1 to C3 that have a packet to send and credit for it. -/
def Port.ready (q : Port) : List (Fin 4) :=
  ([1, 2, 3] : List (Fin 4)).filter fun c => match q.queues[c].head? with
    | none => false
    | some x => q.fits x.1

/-- The packet at the head of a class. -/
def Port.headOf (q : Port) (c : Fin 4) : Nat := ((q.queues[c].head?).map fun x => pktBytes x.1).getD 0

/-- Weighted round robin over bytes (R379), by deficit: each waiting class is given its weight times the longest packet when
no class has bytes left for its packet.
(DESIGN CHOICE, log entry 81) -/
def Fabric.wrr (b : Fabric) (q : Port) : Option (Fin 4 × Port) :=
  let q := { q with deficit := q.deficit.mapFinIdx fun i d h => if (q.queues[i]'h).isEmpty then 0 else d }
  let pick := fun (q : Port) => q.ready.find? fun c => decide (q.headOf c ≤ q.deficit[c])
  match pick q with
  | some c => some (c, q)
  | none =>
    let q := q.ready.foldl (fun q c => { q with deficit := updV q.deficit c (· + 4640 * b.weight c) }) q
    (pick q).map fun c => (c, q)

/-- Where the T_TX of a time message stands in its payload (R376). -/
def txOffset (k : Pkt) : Option Nat :=
  if k.op ≠ 0x10#8 then none
  else match byteAt k.payload 0 with
  | 0x01 => some 4
  | 0x02 => some 4
  | 0x03 => some 12
  | _ => none

/-- Writes T_TX into a time message that leaves (R376). -/
def stampTx (now : DWord) (k : Pkt) : Pkt :=
  match txOffset k with
  | none => k
  | some o => { k with payload := k.payload.take o ++ toLE now.toNat 8 ++ k.payload.drop (o + 8) }

/-- Sends one packet of a class: it leaves its queue for the replay buffer, with its T_TX when it is a time message, and takes its credit. -/
def Port.sent (q : Port) (now : DWord) (x : Pkt × Nat) : Port :=
  { q with queues := updV q.queues x.1.cls (·.erase x), replay := q.replay ++ [(stampTx now x.1, x.2)],
           credits := updV q.credits x.1.cls (· - pktBytes x.1) }

/-- A port at a packet boundary (R379). -/
def Fabric.egress (b : Fabric) (q : Port) (now : DWord) : Port :=
  match b.c0Pick q now with
  | some x =>
    if q.fits x.1 then
      let q := if x.1.src = q.sentId then { q with c0Level := b.c0Now q now - b.c0Need q x.1, c0At := now } else q
      q.sent now x
    else data q
  | none => data q
where
  /-- The next packet of C1 to C3. -/
  data (q : Port) : Port :=
    match b.wrr q with
    | none => q
    | some (c, q') =>
      match q'.queues[c].head? with
      | none => q
      | some x => ({ q' with deficit := updV q'.deficit c (· - pktBytes x.1) } : Port).sent now x

/-! ### Requests of this module (R387 to R394) -/

/-- Targets of a request. -/
def pktTargets (k : Pkt) : List (BitVec 17) := if k.op = 0x05#8 then (mcTargets k.payload).map (·.1) else [k.dst]
/-- Width of an ATOMIC in bytes (R371). -/
def atomicWidth (bs : Bytes) : Nat := if bit (byteAt bs 1) 0 then 8 else 4

/-- Bytes that a request reaches. -/
def pktSpan (k : Pkt) : Nat :=
  if k.op = 0x01#8 then k.len.toNat else if k.op = 0x03#8 then atomicWidth k.payload else (pktData k).length

/-- Local offset of an address (R365). -/
def localOff (a : DWord) : Nat := a.toNat % 2 ^ 47

/-- The 64 B lines that a request reaches, each with its module. -/
def pktLines (k : Pkt) : List (Nat × Nat) :=
  let off := localOff k.addr
  let mods := if k.op = 0x05#8 then (pktTargets k).map (·.toNat) else [k.addr.toNat / 2 ^ 47]
  let first := off / 64
  let n := (off + max 1 (pktSpan k) - 1) / 64 - first + 1
  mods.flatMap fun m => (List.range n).map fun i => (m, first + i)

/-- An unanswered request holds its lines (R388): STORE, ATOMIC and MCAST_STORE. -/
def OutReq.holds (o : OutReq) : Bool := decide (o.op = 0x02#8 ∨ o.op = 0x03#8 ∨ o.op = 0x05#8)

/-- A request changes its target. -/
def pktModifies (k : Pkt) : Bool := k.op ≠ 0x01#8

/-- A request may be issued beside those before it that wait (R387, R388). -/
def Fabric.mayIssue (b : Fabric) (before : List OutReq) (k : Pkt) : Bool :=
  (pktTargets k).all (fun t => decide ((b.outstanding.filter fun o => o.pkt.dst = t).length < 256) &&
    !before.any fun w => (pktTargets w.pkt).contains t) &&
  !b.outstanding.any fun o => o.holds && (pktLines o.pkt).any (pktLines k).contains

/-- The module may issue requests of its job: FABRIC_LOCKED has not been clear for more than 100 ms (R393), since it was cleared or, when it
was never set, since the start. -/
def State.jobOpen (s : State) : Bool :=
  s.time.locked || decide (s.now.toNat ≤ s.time.clearAt.toNat + 100 * msU)

/-- Next SEQ for a target (R387). -/
def Fabric.nextSeq (b : Fabric) (t : BitVec 17) : Word := (getKV t b.seqNext).getD 0

/-- The copy of an MCAST_STORE to one target, as the STORE that a retry of it is (R372). -/
def asStore (k : Pkt) (t : BitVec 17) (seq : Word) : Pkt :=
  let d := pktData k
  { k with op := 0x02, dst := t, seq := seq, addr := BitVec.ofNat 64 (t.toNat * 2 ^ 47 + localOff k.addr), payload := d,
           len := BitVec.ofNat 13 d.length }

/-- Sends the copies of an MCAST_STORE, one for each port, to targets with their SEQ (R372); a target without a live port
is answered with ROUTE (R386). -/
def State.sendMcast (s : State) (k : Pkt) (ts : List (BitVec 17 × Word)) (data : Bytes) : State :=
  let k := { k with payload := mcList ts ++ data }
  let own := ts.filter fun t => t.1 = s.fab.modId
  let far := ts.filter fun t => t.1 ≠ s.fab.modId
  let groups := s.fab.mcGroups k far
  let s := s.when (!own.isEmpty) fun s => s.upFab fun b => { b with loop := b.loop ++ [mcCopy k own] }
  let s := groups.foldl (fun s g => s.upFab fun b => b.enqueue g.1 (mcCopy k g.2.2) g.2.1) s
  (far.filter fun t => (s.fab.mcPort k t.1).isNone).foldl (fun s t => s.sendPkt (s.respPkt k t.1 t.2 6 false 0 [])) s

/-- Records a request as unanswered. -/
def Fabric.track (b : Fabric) (o : OutReq) (k : Pkt) (now : DWord) : Fabric :=
  { b with outstanding := b.outstanding ++ [{ o with pkt := k, issued := now, retries := 0 }],
           seqNext := putKV k.dst (k.seq + 1) b.seqNext }

/-- Issues a request (R369, R387). -/
def State.issue (s : State) (o : OutReq) : State :=
  let k := { o.pkt with src := s.fab.modId, ts := s.ts, hops := 8, retry := 0 }
  if k.op = 0x05#8 then
    let ts := (mcTargets k.payload).map fun t => (t.1, s.fab.nextSeq t.1)
    let s := ts.foldl (fun s t => s.upFab fun b => b.track o (asStore k t.1 t.2) s.now) s
    s.sendMcast k ts (pktData k)
  else
    let k := { k with seq := s.fab.nextSeq k.dst }
    (s.upFab fun b => b.track o k s.now).sendPkt k

/-- Completes the FABRIC_OP descriptor that waits for a request. -/
def State.endRing (s : State) (ring : Option (Fin 64 × DWord)) (status : Nat) (result : DWord) : State :=
  match ring with
  | none => s
  | some (r, i) => s.complete r i status 0 result

/-- A modifying request to a target that is dead for its job is not sent (R394). -/
def Fabric.deadFor (b : Fabric) (k : Pkt) : Bool := pktModifies k && (pktTargets k).any fun t => b.dead.contains (k.job, t)

/-- A store of this module into the image area of its partner (R443). -/
def State.imageStore (s : State) (k : Pkt) : Bool :=
  decide (k.op = 0x02#8) && decide (k.cls = 3) && decide (localOff k.addr / 2 ^ 44 = 4) && decide (k.job = s.job.p.jobId)

/-- The drain's image in progress is incomplete, and the previous complete one stands (R283, R443, R464): the image is that of the unit whose
transfer has begun. -/
def State.drainLost (s : State) : State :=
  s.upSec fun r => { r with units := r.units.zipIdx.map fun u => if u.2 = 0 && u.1.begun then { u.1 with failed := true } else u.1 }

/-- Issues the waiting requests that may be issued, in their order. -/
def State.pumpGo (s : State) (before : List OutReq) : List OutReq → State
  | [] => s.upFab fun b => { b with waiting := before }
  | o :: rest =>
    if s.fab.deadFor o.pkt then ((s.endRing o.ring stTargetDead 0).when (s.imageStore o.pkt) State.drainLost).pumpGo before rest
    else if s.fab.mayIssue before o.pkt then (s.issue o).pumpGo before rest
    else s.pumpGo (before ++ [o]) rest

/-- Issues what may be issued now (R387, R388, R393). -/
def State.pump (s : State) : State := if s.jobOpen then s.pumpGo [] s.fab.waiting else s

/-- A request of this module: it waits its turn and is issued as soon as it may be. -/
def State.request (s : State) (k : Pkt) (ring : Option (Fin 64 × DWord)) : State :=
  (s.upFab fun b => { b with waiting := b.waiting ++ [({ pkt := k, op := k.op, issued := 0, retries := 0, ring := ring } : OutReq)] }).pump

/-- An unanswered request, by target and SEQ. -/
def Fabric.findOut (b : Fabric) (t : BitVec 17) (seq : Word) : Option OutReq := b.outstanding.find? fun o => o.pkt.dst = t && o.pkt.seq = seq

/-- Takes a request off the unanswered ones. -/
def State.dropOut (s : State) (o : OutReq) : State := s.upFab fun b => { b with outstanding := b.outstanding.erase o }

/-- TARGET_DEAD (R394): no further modifying request of the job goes to the target; the runtime and the fabric manager
are told. -/
def State.targetDead (s : State) (o : OutReq) : State :=
  let s := s.dropOut o
  let s := s.upFab fun b => { b with dead := if b.dead.contains (o.pkt.job, o.pkt.dst) then b.dead else b.dead ++ [(o.pkt.job, o.pkt.dst)] }
  let s := s.eventFor o.pkt.job evTargetDead (arg o.pkt.dst.toNat) (arg (o.pkt.seq.toNat + 2 ^ 32 * o.op.toNat))
  let s := s.deadSuspect o.pkt.job o.pkt.dst o.pkt.seq o.op.toNat
  (s.endRing o.ring stTargetDead 0).pump

end Sys2Proof.Machine
end

