-- ==== Sys2Proof/Machine/PortRows.lean ====
section
/-! DEFINITION. Meanings of the rows of ports and links, of forwarding, and of the source side of requests (R351 to R360,
R363, R373 to R394). -/
namespace Sys2Proof.Machine

/-! ### Ports and links -/

/-- PORT_UP (R352, R353, R354, R358, R384): a bring-up or a retrain ends. The port is up, or down with a reason. -/
def execPortUp (p : Fin 32) (x : PortXchg) (s : State) : Res :=
  let st := s.fab.ports[p].st
  if decide (st = .training ∨ st = .retraining) && s.lit then
    let s := s.upPort p fun q => s.fab.upPort s.now s.quince.fwVersion q x
    if s.fab.ports[p].st = .up then
      let s := s.upFab Fabric.returnPort
      .next (s.when (decide (s.time.upstream.toNat = p.val)) fun s => s.upTime fun b => { b with msgsSinceDelay := 1024 })
    else .next (s.upPort p fun q => { q with trainSince := s.now })
  else .next s

/-- PORT_BRINGUP_RETRY (R353): every 100 ms a port that is down and enabled tries again.
(DEDUCED, log entry 79) -/
def execPortBringupRetry (p : Fin 32) (s : State) : Res :=
  let q := s.fab.ports[p]
  if decide (q.st = .downLost ∨ q.st = .downPlanned) && s.fab.portEn.getLsbD p.val && s.lit then
    let s := s.advanceTo (after q.trainSince (100 * msU))
    .next (s.upPort p fun q => { q with st := .training, trainSince := s.now })
  else .next s

/-- PORT_RETRAIN (R354, R384, R397, R453): more than eight retrains of a port within an hour are a cause of departure advice. -/
def execPortRetrain (p : Fin 32) (s : State) : Res :=
  if s.fab.ports[p].st = .up then
    let s := s.retrain p
    .next (s.when (decide (s.fab.ports[p].retrains.length > 8) && !s.sec.departAdvice.getLsbD 3) fun s => s.advise 3)
  else .next s

/-- RETRAIN_TIMEOUT (R354): a retrain that has lasted 100 ms leaves the port DOWN_LOST. -/
def execRetrainTimeout (p : Fin 32) (s : State) : Res :=
  let q := s.fab.ports[p]
  if q.st = .retraining then
    let s := s.advanceTo (after q.trainSince (100 * msU))
    .next (s.upPort p fun q => { q.fail 4 with trainSince := s.now })
  else .next s

/-- IDLE_BLOCK (R355): a wavelength sends its idle block, at the latest 250 ns after the last one. -/
def execIdleBlock (p : Fin 32) (w : Fin 8) (s : State) : Res :=
  if s.fab.ports[p].st = .up then
    .next (s.upPort p fun q =>
      { q with idleAt := setV q.idleAt w (if s.now.toNat ≤ q.idleAt[w].toNat + 4000 then s.now else after q.idleAt[w] 4000) })
  else .next s

/-- LINK_REPLAY (R355): a packet fails its CRC and is sent again from the replay buffer in its original order; the buffer
and what waits behind it stay as they are. -/
def execLinkReplay (_p : Fin 32) (s : State) : Res := .next s

/-- LINK_ACK (R355, R384): the partner acknowledges the oldest packet; a bucket whose last packet this was takes back its
port. -/
def execLinkAck (p : Fin 32) (s : State) : Res :=
  match s.fab.ports[p].replay with
  | [] => .next s
  | x :: rest =>
    let s := s.upPort p fun q => { q with replay := rest }
    .next (s.when (s.fab.backWait.contains x.2 && !s.fab.inReplay x.2) fun s => s.upFab fun b =>
      { b.restoreBucket x.2 with backWait := b.backWait.erase x.2 })

/-- The port has a partner that it can lose: it is up, or retrains (R356). -/
def Port.partnered (q : Port) : Bool := decide (q.st = .up ∨ q.st = .retraining)

/-- PARTNER_LOST (R356, R357). -/
def execPartnerLost (p : Fin 32) (cause : LossCause) (s : State) : Res :=
  if s.fab.ports[p].partnered then
    .next (s.loseP p false (match cause with
      | .signal => 1
      | .alignment => 2
      | .idle => 3))
  else .next s

/-- DEPART_BLOCKS_RECEIVED (R356, R360): the planned loss. -/
def execDepartBlocksReceived (p : Fin 32) (s : State) : Res :=
  if s.fab.ports[p].partnered then .next (s.loseP p true 0) else .next s

/-- SEQ_D of a DELAY_REQ of the module that has just left on a port. -/
def Port.leftDelayReq (q : Port) : Option Half :=
  (q.replay.getLast?).bind fun x =>
    if x.1.op = 0x10#8 && x.1.src = q.sentId && decide (byteAt x.1.payload 0 = 0x02) then some (BitVec.ofNat 16 (leNat x.1.payload 12 2)) else none

/-- EGRESS_SEND (R376, R378 to R380): the next packet of a port at a packet boundary. The T_TX of a delay request is that of its leaving. -/
def execEgressSend (p : Fin 32) (s : State) : Res :=
  if s.fab.ports[p].st = .up then
    let n := s.fab.ports[p].replay.length
    let s := s.upPort p fun q => s.fab.egress q s.now
    .next (if s.fab.ports[p].replay.length = n then s
      else match s.fab.ports[p].leftDelayReq with
      | none => s
      | some seq => s.upTime fun b => { b with delayReq := b.delayReq.map fun x => if x.2 = seq then (s.now, seq) else x })
  else .next s

/-- CLASS_CREDIT_RETURN (R379): the partner returns credits of a class, in bytes. -/
def execClassCreditReturn (p : Fin 32) (cls : Fin 4) (n : Nat) (s : State) : Res :=
  if s.fab.ports[p].st = .up then .next (s.upPort p fun q => { q with credits := updV q.credits cls (· + n) }) else .next s

/-! ### Arrivals -/

/-- A contribution in G8: it has a payload, and its header's FMT bit is clear (R324, R325, R370). -/
def pktG8 (k : Pkt) : Bool :=
  (decide (k.op = 0x04#8) || (decide (k.op = 0x02#8) && k.rw)) && !bit (byteAt k.payload 0x20) 0 && decide (leNat k.payload 0x1C 4 ≠ 0)

/-- The level that a packet needs (R361, R370); no level has an unknown operation. -/
def needLevel (k : Pkt) : Nat :=
  if pktG8 k then 3
  else match k.op.toNat with
  | 0x01 => 1
  | 0x02 => 1
  | 0x03 => 1
  | 0x04 => 2
  | 0x05 => 2
  | 0x10 => 1
  | 0x80 => 1
  | _ => 4

/-- A request is older than 39 units of 1.024 µs (R393).
(DEDUCED, log entry 82) -/
def State.aged (s : State) (k : Pkt) : Bool := !pktIsReply k && decide ((s.ts - k.ts).toNat > 39)

/-- A packet arrives on a port: one of the module's own to itself, or one from a port that is up and whose partner has credit for it. It goes on
when it is not too old (R393) and not above the level of its link (R363). -/
def State.arrivePkt (s : State) (p : Fin 32) (k : Pkt) (f : State → State) : State :=
  if s.fab.loop.contains k then
    let s := s.upFab fun b => { b with loop := b.loop.erase k }
    if s.aged k then s.upPort p fun q => { q with aged := satAdd q.aged 1 } else f s
  else if s.fab.ports[p].st ≠ .up || !s.fab.ports[p].rxRoom k then s
  else if s.aged k then s.upPort p fun q => { q with aged := satAdd q.aged 1 }
  else if needLevel k > s.fab.ports[p].level.toNat then
    if pktIsReply k then s.countDiscard p else s.respondAll k 3 0
  else f s

/-- PACKET_FORWARD (R363, R367, R370, R386, R393): a packet for another module; one of an unknown OP is refused with LEVEL, also when it is for
this module. -/
def execPacketForward (p : Fin 32) (k : Pkt) (s : State) : Res :=
  let unknown := decide (needLevel k = 4)
  if (s.fab.mine p k && !unknown) || k.op = 0x05#8 then .next s
  else .next (s.arrivePkt p k fun s =>
    if unknown then s.respond k 3 0 []
    else if decide (k.hops.toNat > 1) && s.fab.hasRoute k then s.sendPkt { k with hops := k.hops - 1 }
    else if pktIsReply k then s.countDiscard p
    else s.respondAll k 6 0)

/-- MSG types that have a step of their own. -/
def ownStep (mtype : Nat) : Bool := decide (mtype ∈ [0x01, 0x02, 0x03, 0x04, 0x05, 0x06, 0x08, 0x0B])

/-- Fields of the MSG word (R375). The spec names no version above 0, so 0 is the highest the module knows. -/
def msgType (k : Pkt) : Nat := byteAt k.payload 0
def msgKnown (k : Pkt) : Bool := byteAt k.payload 1 = 0

/-- MSG (R375, R377): a message of a type without a step, of an unknown type or of an unknown version is discarded and counted. -/
def execMsg (p : Fin 32) (k : Pkt) (s : State) : Res :=
  if k.op = 0x10#8 && s.fab.mine p k && (!ownStep (msgType k) || !msgKnown k) then
    .next (s.arrivePkt p k fun s => s.countDiscard p)
  else .next s

/-! ### Responses, retries and the end of a request -/

/-- Host memory address of a FABRIC_OP descriptor's buffer (R474). -/
def State.fabBuffer (s : State) (ring : Option (Fin 64 × DWord)) : Option DWord :=
  ring.bind fun x => (s.host.rings[x.1].descs.find? fun d => d.index = x.2).map fun d => BitVec.ofNat 64 (leNat d.bytes 0x18 8)

/-- The request that a response answers: of its SEQ to its sender. A ROUTE comes from a node on the way and never from the target, so that it
answers the request of its SEQ and OP; that of this module itself names the target.
(DEDUCED, log entry 84) -/
def State.answered (s : State) (k : Pkt) : Option OutReq :=
  if k.rstatus.toNat = 6 then
    if k.src = s.fab.modId then s.fab.findOut (BitVec.ofNat 17 (k.addr.toNat / 2 ^ 47)) k.seq
    else s.fab.outstanding.find? fun o =>
      o.pkt.seq = k.seq && o.pkt.job = k.job && decide (o.pkt.dst ≠ k.src) && (o.pkt.op = k.reqOp || o.op = k.reqOp)
  else s.fab.findOut k.src k.seq

/-- A response that ends a request with a result: load data goes to the host's buffer, an atomic's old value to RESULT. -/
def State.endOk (s : State) (o : OutReq) (k : Pkt) : State :=
  let s := s.when (decide (o.op = 0x01#8)) fun s => match s.fabBuffer o.ring with
    | none => s
    | some a => s.hostWrite a k.payload
  (s.endRing o.ring stOk (if o.op = 0x03#8 then BitVec.ofNat 64 (leNat k.payload 0 8) else 0)).pump

/-- Ends a request by its RSTATUS (R374). The spec names no completion status for POISONED, so there it is a free one of the codes of R484.
(DESIGN CHOICE, log entry 83) -/
def State.endBy (s : State) (o : OutReq) (k : Pkt) : State :=
  match k.rstatus.toNat with
  | 0 => (s.dropOut o).endOk o k
  | 1 => ((s.dropOut o).endRing o.ring stKeyMismatch 0).pump
  | 2 =>
    let (v, s) := s.fresh 8
    ((s.dropOut o).endRing o.ring (v.toNat % 14) 0).pump
  | 3 => ((s.dropOut o).endRing o.ring stVersion 0).pump
  | 4 => ((s.dropOut o).endRing o.ring stBusy 0).pump
  | 5 => ((s.dropOut o).endRing o.ring stTornDown 0).pump
  | 6 => s.targetDead o
  | 7 => ((s.dropOut o).endRing o.ring stVersion 0).pump
  | _ => s

/-- A store of an image is still unanswered. -/
def State.imageOpen (s : State) : Bool := s.fab.outstanding.any (fun o => s.imageStore o.pkt) || s.fab.waiting.any fun o => s.imageStore o.pkt

/-- A store of an image has been answered (R443): once every one was answered OK, the header goes. -/
def State.imageAnswered (s : State) (k : Pkt) (ok : Bool) : State :=
  if !s.imageStore k then s
  else
    let s := s.when (!ok) State.drainLost
    match s.sec.units with
    | [] => s
    | u :: _ => match u.header with
      | none => s
      | some h =>
        if s.imageOpen || u.failed then s
        else (s.upSec fun r => { r with units := r.units.map fun u => { u with header := none } }).request h none

/-- RESP (R373, R374, R394): a response ends its request; one that answers none is a late copy. -/
def execResp (p : Fin 32) (k : Pkt) (s : State) : Res :=
  if decide (k.op = 0x80#8) && s.fab.mine p k then
    .next (s.arrivePkt p k fun s => match s.answered k with
      | none => s
      | some o => (s.endBy o k).imageAnswered o.pkt (decide (k.rstatus.toNat = 0)))
  else .next s

/-- REQUEST_RETRY (R372, R392 to R394): 20 µs after its last copy a request is sent again, three times at most; one that modifies is not sent to
a target that is dead for its job. -/
def execRequestRetry (dst : BitVec 17) (seq : Word) (s : State) : Res :=
  match s.fab.findOut dst seq with
  | none => .next s
  | some o =>
    if decide (o.retries < 3) && s.jobOpen && !s.fab.deadFor o.pkt then
      let s := s.advanceTo (after o.issued (20 * usU * (o.retries + 1)))
      let s := s.upFab fun b =>
        { b with outstanding := b.outstanding.map fun x => if x = o then { x with retries := x.retries + 1 } else x }
      .next (s.sendPkt { o.pkt with retry := BitVec.ofNat 2 (o.retries + 1), ts := s.ts })
    else .next s

/-- REQUEST_TIMEOUT (R394): 100 µs after the original a request without a response ends with TARGET_DEAD. -/
def execRequestTimeout (dst : BitVec 17) (seq : Word) (s : State) : Res :=
  match s.fab.findOut dst seq with
  | none => .next s
  | some o => .next ((s.advanceTo (after o.issued (100 * usU))).targetDead o |>.imageAnswered o.pkt false)

end Sys2Proof.Machine
end

