-- ==== Sys2Proof/Machine/CollOps.lean ====
section
/-! DEFINITION. The trees of the collectives, contributions and their combining (R322 to R336), and the integrity record
(R337). -/
namespace Sys2Proof.Machine

/-! ### Trees (R322) -/

/-- Number of members, and the module's index in the member list. -/
def JobParams.n (p : JobParams) : Nat := max 1 p.members.length
def State.me (s : State) : Nat := (s.job.p.members.findIdx? fun m => m = s.fab.modId).getD 0

/-- FAN_IN in force. -/
def JobParams.f (p : JobParams) : Nat := max 2 p.fanIn

/-- Position of the module in the tree of owner o; the member index at a position of it. -/
def State.treePos (s : State) (o : Nat) : Nat := (s.me + (s.job.p.n - o % s.job.p.n)) % s.job.p.n
def JobParams.memberAt (p : JobParams) (o pos : Nat) : Nat := (o + pos) % p.n

/-- Parent and children of a position. -/
def JobParams.parentPos (p : JobParams) (pos : Nat) : Nat := (pos - 1) / p.f
def JobParams.childPos (p : JobParams) (pos : Nat) : List Nat :=
  ((List.range p.f).map fun i => p.f * pos + 1 + i).filter fun c => decide (c < p.n)

/-- Depth of a position: the number of parent steps to 0, at most 17 for 131,072 members. -/
def JobParams.depthGo (p : JobParams) : Nat → Nat → Nat
  | 0, _ => 0
  | k + 1, pos => if pos = 0 then 0 else 1 + p.depthGo k (p.parentPos pos)
def JobParams.depth (p : JobParams) (pos : Nat) : Nat := p.depthGo 32 pos

/-- Module of a member index. -/
def JobParams.moduleOf (p : JobParams) (i : Nat) : BitVec 17 := p.members.getD i 0

/-- Close time of a tile of layer l at a position, which may lie before 0 (R332). -/
def State.closeAt (s : State) (layer pos : Nat) : Int :=
  (s.job.tStart.toNat : Int) + (s.job.p.deadlines.getD layer 0 * usU : Nat) - (s.job.p.depth pos * s.job.p.hopMargin * usU : Nat)

/-! ### Headers (R324) -/

/-- The header of a contribution from its 64 bytes. -/
def contribOf (b : Bytes) : ContribHdr :=
  let f := leNat b 0x20 4
  { job := BitVec.ofNat 32 (leNat b 0 4), tensor := BitVec.ofNat 32 (leNat b 4 4), step := BitVec.ofNat 64 (leNat b 8 8),
    tile := BitVec.ofNat 32 (leNat b 0x10 4), owner := BitVec.ofNat 17 (leNat b 0x14 4), srcPos := BitVec.ofNat 17 (leNat b 0x18 4),
    count := BitVec.ofNat 18 (leNat b 0x1C 4), bf16 := bit f 0, nonfinite := bit f 1, stale := bit f 2, rows := bit f 3, last := bit f 4,
    run := bit f 5, half := bit f 6, layer := BitVec.ofNat 10 (field f 25 16) }

/-- The 64 bytes of a header. -/
def contribBytes (h : ContribHdr) : Bytes :=
  padTo (toLE h.job.toNat 4 ++ toLE h.tensor.toNat 4 ++ toLE h.step.toNat 8 ++ toLE h.tile.toNat 4 ++ toLE h.owner.toNat 4 ++
    toLE h.srcPos.toNat 4 ++ toLE h.count.toNat 4 ++
    toLE (b2n h.bf16 + 2 * b2n h.nonfinite + 4 * b2n h.stale + 8 * b2n h.rows + 16 * b2n h.last + 32 * b2n h.run + 64 * b2n h.half +
      2 ^ 16 * h.layer.toNat) 4) 64

/-- A contribution without a payload (R325). -/
def isEmptyC (h : ContribHdr) : Bool := decide (h.count = 0)

/-- Bytes that follow a header in one packet (R324). -/
def contribLen (h : ContribHdr) : Nat := if isEmptyC h then 0 else (if h.rows then 256 else 0) + (if h.bf16 then 4096 else 4224)

/-! ### Objects behind a tile -/

/-- The gradient objects of a tensor: those whose rows hold a tile row come first. -/
def State.gradOf (s : State) (tensor : Word) (row : Nat) : Option ObjS :=
  let mine := s.rt.objects.filter fun o => decide (o.e.kind = 2) && decide (o.e.tensor = tensor.toNat)
  (mine.find? fun o => decide (o.e.shardFirst ≤ row) && decide (row < o.e.shardFirst + o.e.mTiles)).orElse fun _ => mine.head?

/-- Width of a tensor in tiles. -/
def State.tensorCols (s : State) (tensor : Word) : Nat := ((s.gradOf tensor 0).map fun o => max 1 o.e.nTiles).getD 1

/-- The gradient of a tensor holds packed rows: its PARENT is of KIND 5 (R290). -/
def State.rowTensor (s : State) (tensor : Word) : Bool :=
  match (s.gradOf tensor 0).bind fun o => s.obj o.e.parent with
  | none => false
  | some p => decide (p.e.kind = 5)

/-- Tensor identifier of the parameter behind a gradient, by which SHARD_MAP names its rows. -/
def State.paramTensor (s : State) (tensor : Word) : Word :=
  match (s.gradOf tensor 0).bind fun o => s.obj o.e.parent with
  | none => tensor
  | some p => BitVec.ofNat 32 p.e.tensor

/-- Owner of a tile row of a parameter tensor (SHARD_MAP). -/
def JobParams.ownerOf (p : JobParams) (tensor : Word) (row : Nat) : Option Nat :=
  (p.shardMap.find? fun x => decide (x.1 = tensor) && decide (x.2.1 ≤ row) && decide (row < x.2.1 + x.2.2.1)).map (·.2.2.2)

/-- First tile row of an owner's shard of a tensor. -/
def JobParams.firstRow (p : JobParams) (tensor : Word) (owner : Nat) : Nat :=
  (minList ((p.shardMap.filter fun x => decide (x.1 = tensor) && decide (x.2.2.2 = owner)).map (·.2.1))).getD 0

/-- The tile's place in a gradient object, in tiles from its first. -/
def State.tilePlace (s : State) (o : ObjS) (tensor : Word) (owner tile : Nat) : Nat :=
  let cols := s.tensorCols tensor
  let row := tile / cols
  let first := if o.e.shardFirst ≤ row && row < o.e.shardFirst + o.e.mTiles then o.e.shardFirst else s.job.p.firstRow (s.paramTensor tensor) owner
  (row - first) * max 1 o.e.nTiles + tile % cols

/-- Global address of the root's tile of a contribution (R365, R370). -/
def State.contribAddr (s : State) (h : ContribHdr) : DWord :=
  let m := (s.job.p.moduleOf h.owner.toNat).toNat * 2 ^ 47
  match s.gradOf h.tensor (h.tile.toNat / s.tensorCols h.tensor) with
  | none => BitVec.ofNat 64 m
  | some o => BitVec.ofNat 64 (m + (o.base + (if h.rows then 0 else s.tilePlace o h.tensor h.owner.toNat h.tile.toNat) * 8192) % 2 ^ 47)

/-! ### Sending (R323, R324, R361) -/

/-- Sends the packets of a contribution of this node to the parent position (R324): a BF16 record in two halves. -/
def State.sendContrib (s : State) (h : ContribHdr) (index record : Bytes) : State :=
  let pos := s.treePos h.owner.toNat
  let dst := s.job.p.moduleOf (s.job.p.memberAt h.owner.toNat (s.job.p.parentPos pos))
  let h := { h with srcPos := BitVec.ofNat 17 pos }
  let pkt := fun (half : Bool) (d : Bytes) =>
    let pl := contribBytes { h with half := half } ++ d
    { pktBlank with op := if s.job.p.level.toNat ≥ 2 then 0x04 else 0x02, cls := 1, rw := decide (s.job.p.level.toNat < 2), dst := dst,
                    addr := s.contribAddr h, key := s.collKey s.job.p.jobId, job := s.job.p.jobId, len := BitVec.ofNat 13 pl.length, payload := pl }
  if isEmptyC h then s.request (pkt false []) none
  else if h.bf16 then (s.request (pkt false (index ++ slice record 0 4096)) none).request (pkt true (index ++ slice record 4096 4096)) none
  else s.request (pkt false (index ++ record)) none

/-! ### Slots (R326, R328) -/

/-- A contribution or block of a slot is whole: both halves of a BF16 one (R328). -/
def wholeBlock (ps : List (ContribHdr × Bytes)) (tile : Word) : Bool :=
  let mine := ps.filter fun x => x.1.tile = tile
  mine.any fun x => isEmptyC x.1 || !x.1.bf16 || (!x.1.half && mine.any fun y => y.1.half)

/-- A slot is present (R328). -/
def SlotC.present (c : SlotC) : Bool :=
  c.pkts.any fun x => (!x.1.rows || x.1.last) && wholeBlock c.pkts x.1.tile

/-- Adds a packet to the slot of a list. -/
def addSlot (slot : Nat) (x : ContribHdr × Bytes) : List SlotC → List SlotC
  | [] => [{ slot := slot, pkts := [x] }]
  | c :: cs => if c.slot = slot then { c with pkts := c.pkts ++ [x] } :: cs else c :: addSlot slot x cs

/-- The record of a block: its halves joined (R324). -/
def blockRecord (ps : List (ContribHdr × Bytes)) (tile : Word) : Bool × Bytes :=
  let mine := ps.filter fun x => x.1.tile = tile && !isEmptyC x.1
  let data := fun (x : ContribHdr × Bytes) => if x.1.rows then x.2.drop 256 else x.2
  match mine.find? (fun x => !x.1.bf16) with
  | some x => (false, data x)
  | none => (true, ((mine.find? fun x => !x.1.half).map data).getD [] ++ ((mine.find? fun x => x.1.half).map data).getD [])

/-- Exact value of element e of a G8 or BF16 record (R161, R327). -/
def recordVal (bf16 : Bool) (d : Bytes) (e : Nat) : FVal :=
  if bf16 then decBF16 (leNat d (2 * e) 2) else (decodeF fE5M2 (byteAt d e)).mul (decE8M0 (byteAt d (4096 + e / 32)))

/-- An element as a deferred slot enters: scaled by 2^−STALE_LOG2 in FP32 (R327). -/
def staleVal (log2 : Nat) (x : FVal) : FVal := dec32 (enc32 (x.scale2 (-(log2 : Int))))

/-- One element over the slots present, in slot order (R327): each addition exact, then rounded to BF16 with the draw of the
position and the slot. -/
def combineElem (k : Nat → Nat) (p : Nat) : Option Nat → List (Nat × FVal) → Nat
  | acc, [] => acc.getD 0
  | acc, (slot, x) :: rest =>
    let v := match acc with
      | none => x
      | some a => (decBF16 a).add x
    combineElem k p (some (convF fBF16 (.sr (k ((p * 32 + slot) % 655360))) false v).bits) rest

/-- Flags and COUNT that a slot brings (R329). -/
def SlotC.nonfinite (c : SlotC) : Bool := c.pkts.any fun x => x.1.nonfinite
def SlotC.stale (c : SlotC) : Bool := c.pkts.any fun x => x.1.stale
def SlotC.count (c : SlotC) : Nat := maxList (c.pkts.map fun x => x.1.count.toNat)

/-- The slot carries values. -/
def SlotC.filled (c : SlotC) : Bool := c.pkts.any fun x => !isEmptyC x.1

/-- A BF16 pattern is infinite or NaN. -/
def badBF16 (x : Nat) : Bool := !(decBF16 x).isFin

/-! ### Tiles -/

/-- The tile of a tree at this node. -/
def Collectives.tile (c : Collectives) (owner : BitVec 17) (tensor tile : Word) : Option TreeTile :=
  c.tiles.find? fun t => t.owner = owner && t.tensor = tensor && t.tile = tile

/-- Replaces a tile, or adds it. -/
def Collectives.putTile (c : Collectives) (t : TreeTile) : Collectives :=
  if (c.tile t.owner t.tensor t.tile).isSome then
    { c with tiles := c.tiles.map fun u => if u.owner = t.owner && u.tensor = t.tensor && u.tile = t.tile then t else u }
  else { c with tiles := c.tiles ++ [t] }

/-- The tile that a header belongs to: all blocks of a stream belong to one. -/
def tileKey (h : ContribHdr) : Word := if h.rows then 0 else h.tile

/-- Deferred slots held for a tile in this step: those that were late in the step before (R334, R335). -/
def State.deferredFor (s : State) (t : TreeTile) : List SlotC :=
  (s.coll.deferred.filter fun d => d.owner = t.owner && d.tensor = t.tensor && d.tile = t.tile && decide (d.step ≠ s.job.step)).map (·.slot)

/-- Every slot expected for a tile is present (R328). -/
def State.allPresent (s : State) (t : TreeTile) : Bool :=
  let kids := (s.job.p.childPos (s.treePos t.owner.toNat)).length
  (List.range (kids + 1)).all fun i => t.slots.any fun c => decide (c.slot = i) && c.present

/-- The slots that a closing tile combines, in slot order. -/
def State.closing (s : State) (t : TreeTile) : List SlotC :=
  ((t.slots.filter SlotC.present) ++ s.deferredFor t).inOrder fun a b => decide (a.slot ≤ b.slot)

/-- Element of a slot as it enters the sum. -/
def State.slotVal (s : State) (c : SlotC) (x : FVal) : FVal := if c.slot > s.job.p.f then staleVal s.job.p.staleLog2 x else x

/-- The sum of a tile as 4,096 BF16 patterns; none when no slot carries values. -/
def State.sumTile (s : State) (t : TreeTile) (cs : List SlotC) : Option (List Nat) :=
  let full := cs.filter SlotC.filled
  if full.isEmpty then none
  else
    let p := s.treePos t.owner.toNat
    let cols := s.tensorCols t.tensor
    let recs := full.map fun c => (c, blockRecord c.pkts t.tile)
    some ((List.range 4096).map fun e =>
      let idx := (t.tile.toNat / cols * 64 + e / 64) * cols * 64 + t.tile.toNat % cols * 64 + e % 64
      combineElem (draw12 s.job.p.seed s.job.step t.tensor idx) p none (recs.map fun r => (r.1.slot, s.slotVal r.1 (recordVal r.2.1 r.2.2 e))))

/-- The rows of a slot's stream: each shard row with its elements (R324, R330). Block b of a stream of W = 64 × cols elements
holds columns b mod cols of the rows of group b div cols. -/
def rowsOf (cols : Nat) (c : SlotC) : List (Nat × List FVal) :=
  let groups := ((c.pkts.filter fun x => !isEmptyC x.1).map fun x => x.1.tile.toNat / cols).dedup
  groups.flatMap fun g =>
    let index := ((c.pkts.find? fun x => decide (x.1.tile.toNat / cols = g) && !isEmptyC x.1).map (·.2)).getD []
    let recs := (List.range cols).map fun n => blockRecord c.pkts (BitVec.ofNat 32 (g * cols + n))
    (List.range 64).filterMap fun r =>
      let row := leNat index (4 * r) 4
      if row = 0xFFFFFFFF then none
      else some (row, recs.flatMap fun q => (List.range 64).map fun e => recordVal q.1 q.2 (64 * r + e))

/-- The rows merged over the slots, in ascending order: shard row and BF16 patterns (R312, R330). -/
def State.sumRows (s : State) (t : TreeTile) (cs : List SlotC) : List (Nat × List Nat) :=
  let cols := s.tensorCols t.tensor
  let p := s.treePos t.owner.toNat
  let all := cs.map fun c => (c, rowsOf cols c)
  let rows := ((all.flatMap fun x => x.2.map (·.1)).dedup).inOrder fun a b => decide (a ≤ b)
  let base := s.job.p.firstRow (s.paramTensor t.tensor) t.owner.toNat * 64
  rows.map fun row =>
    let here := all.filterMap fun x => (x.2.find? fun y => y.1 = row).map fun y => (x.1, y.2)
    (row, (List.range (64 * cols)).map fun e =>
      combineElem (draw12 s.job.p.seed s.job.step t.tensor ((base + row) * (64 * cols) + e)) p none
        (here.map fun y => (y.1.slot, s.slotVal y.1 (y.2.getD e .zero))))

/-- Bytes of BF16 patterns. -/
def bf16Bytes (l : List Nat) : Bytes := l.flatMap fun x => toLE x 2

/-- The header of a sum that a node forwards (R329). -/
def State.sumHdr (s : State) (t : TreeTile) (cs : List SlotC) (bad : Bool) : ContribHdr :=
  { job := s.job.p.jobId, tensor := t.tensor, step := s.job.step, tile := t.tile, owner := t.owner, srcPos := 0,
    count := BitVec.ofNat 18 (sumNat (cs.map SlotC.count)), bf16 := true, nonfinite := bad || cs.any SlotC.nonfinite,
    stale := cs.any SlotC.stale || cs.any fun c => decide (c.slot > s.job.p.f), rows := t.rows, last := t.rows, run := s.job.replay,
    half := false, layer := t.layer }

/-- The packed-row blocks of merged rows, each with its sequence number, index block and record. -/
def rowBlocks (cols : Nat) (rows : List (Nat × List Nat)) : List (Nat × Bytes × Bytes) :=
  (List.range (ceilDiv rows.length 64)).flatMap fun g =>
    let part := (rows.drop (64 * g)).take 64
    let index := (part.flatMap fun r => toLE r.1 4) ++ List.replicate (4 * (64 - part.length)) 0xFF
    (List.range cols).map fun n => (g * cols + n, index, padTo (bf16Bytes (part.flatMap fun r => (r.2.drop (64 * n)).take 64)) 8192)

/-- Forwards merged rows as a stream (R325, R330). -/
def State.sendRows (s : State) (h : ContribHdr) (rows : List (Nat × List Nat)) : State :=
  let bs := rowBlocks (s.tensorCols h.tensor) rows
  if bs.isEmpty then s.sendContrib { h with count := 0, tile := 0 } [] []
  else bs.foldl (fun s b => s.sendContrib { h with tile := BitVec.ofNat 32 b.1, last := decide (b.1 + 1 = bs.length) } b.2.1 b.2.2) s

/-- The bytes of a row list: a header of 64 B with COUNT, then an entry of 4 B for each row (R290). -/
def rowListBytes (rows : List Nat) : Bytes := padTo (toLE rows.length 4) 64 ++ rows.flatMap fun r => toLE r 4

/-- The rows that a row list names. -/
def rowListOf (b : Bytes) : List Nat := (List.range (leNat b 0 4)).map fun j => leNat b (64 + 4 * j) 4

/-- The rows listed for a packed-row gradient. -/
def State.listedRows (s : State) (grad : Nat) : List Nat := ((getKV (BitVec.ofNat 32 grad) s.medlar.rowLists).map rowListOf).getD []

/-- The root writes merged rows into its gradient and their list (R290, R330). -/
def State.writeRows (s : State) (o : ObjS) (rows : List (Nat × List Nat)) : State :=
  let cap := o.e.mTiles * 64
  let keep := rows.take cap
  let lost := rows.length - keep.length
  let cols := max 1 o.e.nTiles
  let s := keep.zipIdx.foldl (fun s x => (List.range cols).foldl (fun s n =>
    s.writeObj .inbound o ((x.2 / 64 * cols + n) * 8192 + x.2 % 64 * 128) (bf16Bytes ((x.1.2.drop (64 * n)).take 64))) s) s
  let s := s.upMedlar fun m => { m with rowLists := putKV (BitVec.ofNat 32 o.e.id) (rowListBytes (keep.map (·.1))) m.rowLists }
  s.when (decide (0 < lost)) fun s =>
    (s.upColl fun c => { c with rowsDropped := satAdd c.rowsDropped lost }).event evRowsDropped s.job.step (arg lost)

/-- A forwarded sum, or an own leaf, is late at the parent (R333, R336). -/
def State.noteLate (s : State) (owner layer : Nat) : State :=
  let up := s.job.p.parentPos (s.treePos owner)
  s.when (decide (s.closeAt layer up < (s.now.toNat : Int))) fun s => s.upColl fun c => { c with lateOwn := true }

/-- Closes a tile (R327 to R330). -/
def State.closeTile (s : State) (t : TreeTile) : State :=
  let cs := s.closing t
  let root := decide (s.treePos t.owner.toNat = 0)
  let sum := if t.rows then none else s.sumTile t cs
  let rows := if t.rows then s.sumRows t cs else []
  let bad := (sum.getD []).any badBF16 || rows.any fun r => r.2.any badBF16
  let h := s.sumHdr t cs bad
  let s := s.upColl fun c =>
    { c.putTile { t with closed := true, slots := t.slots.filter fun x => !x.present } with
      slotNonfinite := c.slotNonfinite || cs.any SlotC.nonfinite
      sentNonfinite := c.sentNonfinite || (!root && h.nonfinite)
      contribMin := if root then some (min (c.contribMin.getD (2 ^ 18)) h.count.toNat) else c.contribMin }
  if root then
    match s.gradOf t.tensor (t.tile.toNat / s.tensorCols t.tensor) with
    | none => s
    | some o =>
      if t.rows then s.writeRows o rows
      else s.writeObj .inbound o (s.tilePlace o t.tensor t.owner.toNat t.tile.toNat * 8192) (bf16Bytes (sum.getD (List.replicate 4096 0)))
  else
    let s := s.noteLate t.owner.toNat t.layer.toNat
    if t.rows then s.sendRows h rows
    else match sum with
    | none => s.sendContrib { h with count := 0 } [] []
    | some l => s.sendContrib h [] (bf16Bytes l)

/-! ### Arrivals at a node (R328, R333, R334, R348) -/

/-- Drops a contribution and counts it. -/
def Collectives.drop (c : Collectives) : Collectives := { c with droppedN := satAdd c.droppedN 1 }

/-- Bytes that the deferred store holds. -/
def Collectives.held (c : Collectives) : Nat := sumNat (c.deferred.map fun d => sumNat (d.slot.pkts.map fun x => x.2.length))

/-- What happens to a late slot once it is whole (R334). -/
def State.lateSlot (s : State) (t : TreeTile) (x : SlotC) : State :=
  let size := sumNat (x.pkts.map fun y => y.2.length)
  s.upColl fun c =>
    if !x.filled then c
    else if x.nonfinite || x.stale || !s.job.p.defer || decide (s.job.p.level.toNat < 3) || decide (c.held + size > s.job.p.deferLimit.toNat) then c.drop
    else { c with
      deferredN := satAdd c.deferredN 1
      deferred := c.deferred ++ [({ owner := t.owner, tensor := t.tensor, tile := t.tile, step := s.job.step,
                                    slot := { x with slot := s.job.p.f + 1 + x.slot } } : Deferred)] }

/-- Keeps the smallest close time minus arrival, in whole microseconds, for a slot that arrived at a module time (R349).
(DEDUCED, log entry 153) -/
def State.noteMargin (s : State) (t : TreeTile) (at_ : DWord) : State :=
  let m := (s.closeAt t.layer.toNat (s.treePos t.owner.toNat) - (at_.toNat : Int)) / (usU : Int)
  s.upColl fun c => { c with marginMin := some (min m (c.marginMin.getD m)) }

/-- A packet of the present run joins its slot; the tile closes when it was the last one wanted, and a slot that completes
after the close is late. -/
def State.place (s : State) (slot : Nat) (h : ContribHdr) (d : Bytes) (at_ : DWord) : State :=
  let t := (s.coll.tile h.owner h.tensor (tileKey h)).getD
    { owner := h.owner, tensor := h.tensor, tile := tileKey h, layer := h.layer, rows := h.rows, closed := false, slots := [] }
  let t := { t with slots := addSlot slot (h, d) t.slots }
  let here := t.slots.filter fun c => decide (c.slot = slot) && c.present
  let s := s.when (!here.isEmpty) fun s => s.noteMargin t at_
  if t.closed then
    match here with
    | [] => s.upColl (·.putTile t)
    | c :: _ => (s.upColl (·.putTile { t with slots := t.slots.filter fun x => x.slot ≠ slot })).lateSlot t c
  else if s.allPresent t then s.closeTile t
  else s.upColl (·.putTile t)

/-- The decision of the present step has been reached: its result is there, and no new run has begun. -/
def State.decided (s : State) : Bool := s.coll.result.isSome

/-- Where the run of a contribution stands: 0 decided, 1 the present one, 2 one to come, 3 beyond (R334, R348). -/
def State.runPlace (s : State) (h : ContribHdr) : Nat :=
  if h.step.toNat < s.job.step.toNat then 0
  else if h.step = s.job.step then
    if s.decided || (s.job.replay && !h.run) then 0
    else if (h.run && !s.job.replay) || decide (s.job.stage = .idle) then 2 else 1
  else if h.step = s.job.step + 1 then 2 else 3

/-! ### The scratch (R251, R326, R348) -/

/-- Bytes that an arrived packet of a contribution takes in the reduction scratch: its header and what follows it.
(DESIGN CHOICE, log entry 69) -/
def scratchSize (d : Bytes) : Nat := 64 + d.length

/-- Bytes in the scratch: the slots of the tiles of this run, and what is held for a run to come. -/
def Collectives.scratchUsed (c : Collectives) : Nat :=
  sumNat (c.tiles.map fun t => sumNat (t.slots.map fun x => sumNat (x.pkts.map fun y => scratchSize y.2))) +
    sumNat (c.early.map fun x => scratchSize x.2.1)

/-- The scratch takes one more packet. Its size is the device runtime's; the spec gives none, but one contribution fits it when it is empty. -/
def Collectives.scratchRoom (c : Collectives) (d : Bytes) : Bool :=
  decide (c.scratchUsed + scratchSize d ≤ 8512 + Config.scratchBytes)

/-- An arriving contribution waits for the scratch: it would be placed or held, and there is no room (R326, R348). -/
def State.scratchFull (s : State) (h : ContribHdr) (d : Bytes) : Bool :=
  (s.runPlace h = 1 || s.runPlace h = 2) && !s.coll.scratchRoom d

/-- Slot of a sender's position in the tree of a header's owner (R326). -/
def State.slotOf (s : State) (h : ContribHdr) : Option Nat :=
  let p := s.treePos h.owner.toNat
  if (s.job.p.childPos p).contains h.srcPos.toNat then some (h.srcPos.toNat - s.job.p.f * p) else none

/-- The second half of a contribution that is dropped is not counted, so that its two halves count once. -/
def countsOnce (h : ContribHdr) : Bool := !(h.bf16 && h.half)

/-- A contribution arrives from a child at a module time; none when it is refused.
(DEDUCED, log entry 68) -/
def State.contribIn (s : State) (h : ContribHdr) (d : Bytes) (at_ : DWord) : Option State :=
  match s.slotOf h with
  | none => none
  | some slot =>
    match s.runPlace h with
    | 0 => some (s.when (!isEmptyC h && countsOnce h) fun s => s.upColl Collectives.drop)
    | 1 => some (s.place slot h d at_)
    | 2 => some (s.upColl fun c => { c with early := c.early ++ [(h, d, at_)] })
    | _ => none

/-- Opens the contributions held for the run that has begun (R348). -/
def State.openEarly (s : State) : State :=
  let early := s.coll.early
  let s := s.upColl fun c => { c with early := [] }
  early.foldl (fun s x => (s.contribIn x.1 x.2.1 x.2.2).getD s) s

/-! ### The integrity record (R337) -/

/-- The 128 bytes of a record. -/
def intBytes (r : IntRec) : Bytes :=
  padTo (toLE r.jobId.toNat 4 ++
    toLE (b2n r.run + 2 * b2n r.nonfinite + 4 * b2n r.ovf + 8 * b2n r.late + 16 * b2n r.critical + 32 * r.decision.toNat + 128 * b2n r.result) 4 ++
    toLE r.step.toNat 8 ++ toLE r.sumsq.toNat 8 ++ toLE r.members.toNat 4 ++ toLE r.nonfiniteMembers.toNat 4 ++ toLE r.ovfMembers.toNat 4 ++
    toLE r.lateMembers.toNat 4 ++ toLE r.criticalMembers.toNat 4 ++ toLE r.deferred.toNat 4 ++ toLE r.dropped.toNat 4 ++ toLE 0 4 ++
    toLE r.ownTime.toNat 8 ++ toLE r.stamp.toNat 8) 128

/-- A record from its bytes. -/
def intOf (b : Bytes) : IntRec :=
  let f := leNat b 4 4
  let w := fun (i : Nat) => BitVec.ofNat 32 (leNat b i 4)
  let d := fun (i : Nat) => BitVec.ofNat 64 (leNat b i 8)
  { jobId := w 0, run := bit f 0, nonfinite := bit f 1, ovf := bit f 2, late := bit f 3, critical := bit f 4,
    decision := BitVec.ofNat 2 (field f 6 5), result := bit f 7, step := d 8, sumsq := d 0x10, members := w 0x18, nonfiniteMembers := w 0x1C,
    ovfMembers := w 0x20, lateMembers := w 0x24, criticalMembers := w 0x28, deferred := w 0x2C, dropped := w 0x30, ownTime := d 0x38,
    stamp := d 0x40 }

/-- Two records of a run, the second of a higher slot, combined (R340). -/
def IntRec.combine (a b : IntRec) : IntRec :=
  { a with
    nonfinite := a.nonfinite || b.nonfinite, ovf := a.ovf || b.ovf, late := a.late || b.late, critical := a.critical || b.critical
    sumsq := add64 a.sumsq b.sumsq, members := satAdd a.members b.members.toNat
    nonfiniteMembers := satAdd a.nonfiniteMembers b.nonfiniteMembers.toNat, ovfMembers := satAdd a.ovfMembers b.ovfMembers.toNat
    lateMembers := satAdd a.lateMembers b.lateMembers.toNat, criticalMembers := satAdd a.criticalMembers b.criticalMembers.toNat
    deferred := satAdd a.deferred b.deferred.toNat, dropped := satAdd a.dropped b.dropped.toNat, ownTime := a.ownTime + b.ownTime }

/-- The decision of R210: 0 update, 1 skip, 2 replay. -/
def decideR (nonfinite ovf replayRun replayEn : Bool) : BitVec 2 :=
  if nonfinite then 1 else if ovf && !replayRun then (if replayEn then 2 else 1) else 0

/-- The overflow-related status of a step record (R210), before R350. -/
def statusR (nonfinite ovf replayRun : Bool) : Nat :=
  if nonfinite then 0x01 else if ovf && !replayRun then 0x04 else if ovf then 0x03 else if replayRun then 0x02 else 0x00

/-- STATUS of a step record (R350). -/
def finalStatus (r : IntRec) : Nat :=
  let st := statusR r.nonfinite r.ovf r.run
  if st ≠ 0 then st else if r.dropped ≠ 0 then 0x06 else if r.deferred ≠ 0 then 0x05 else 0

end Sys2Proof.Machine
end

