-- ==== Sys2Proof/Machine/MatrixRows.lean ====
section
/-! DEFINITION. Meanings of the rows of the matrix personality and of the nests' common rows (R92, R98 to R111, R206). -/
namespace Sys2Proof.Machine

/-! ### The lattice -/

/-- One FP32 accumulation step: an exact value added with one rounding to nearest even (R101, R110). -/
def acc32 (acc : Word) (x : FVal) : Word := enc32 ((dec32 acc).add x)

/-- Site (i, j) over the 64 reduction indices of a product in the E4M3 and BF16 modes (R101). -/
def siteFloat (f : Bytes) (m : Memory) (a b i j : Nat) (acc : Word) : Word :=
  (List.range 64).foldl (fun acc k => acc32 acc ((operandA f m a i k).mul (operandB f m b k j))) acc

/-- Site (i, j) over one 32-index block in the weight modes: the exact block partial, then one fused step (R100, R101). In
B_MODE T the weight scale multiplies the A element at its index; in mode N it multiplies the block partial. -/
def siteBlock (f : Bytes) (m : Memory) (a b i j h : Nat) (acc : Word) : Word :=
  let p := (List.range 32).foldl (fun (p : FVal) k' =>
    let k := 32 * h + k'
    let x := operandA f m a i k
    let x := if bModeT f then x.mul (weightScale m (bFmt f) b k) else x
    p.add (x.mul (operandW f m b k j))) FVal.zero
  let p := p.mul (decE8M0 (m.readLE (a + 4096 + 2 * i + h) 1))
  acc32 acc (if bModeT f then p else p.mul (weightScale m (bFmt f) b j))

/-- The chunk accumulators after one tile product of the tiles at two words (R87, R98 to R101). -/
def tileProduct (f : Bytes) (m : Memory) (aw bw : Nat) (chunk : Vector Word 4096) : Vector Word 4096 :=
  Vector.ofFn fun e : Fin 4096 =>
    let i := e.val / 64
    let j := e.val % 64
    if weightMode f then siteBlock f m (64 * aw) (64 * bw) i j 1 (siteBlock f m (64 * aw) (64 * bw) i j 0 chunk[e.val])
    else siteFloat f m (64 * aw) (64 * bw) i j chunk[e.val]

/-- A chunk ends with reduction step k of a visit (R101). -/
def chunkEnds (f : Bytes) (k : Nat) : Bool := decide ((k + 1) * 64 % 2 ^ chunkLog2 f = 0) || decide (k + 1 = kTiles f)

/-- Chunks of a visit, and the ordinal of the chunk that ends with step k of visit v (R179). -/
def chunksPerVisit (f : Bytes) : Nat := ceilDiv (kTiles f * 64) (2 ^ chunkLog2 f)
def chunkOrdinal (f : Bytes) (v k : Nat) : Nat := v * chunksPerVisit f + ceilDiv ((k + 1) * 64) (2 ^ chunkLog2 f) - 1

/-- The running accumulators after the chunk of output tile (m, n) of the tensor is added by stochastic rounding (R101,
R102). -/
def addChunk (f : Bytes) (key : DrawKey) (m n ordinal : Nat) (run chunk : Vector Word 4096) : Vector Word 4096 :=
  Vector.ofFn fun e : Fin 4096 =>
    let d := key.draw (elemIndex f m n (e.val / 64) (e.val % 64)) ordinal
    BitVec.ofNat 32 (convF fFP32 (.sr d) false ((dec32 run[e.val]).add (dec32 chunk[e.val]))).bits

/-- Accumulators all 0. -/
def zeroAcc : Vector Word 4096 := Vector.replicate 4096 0

/-- The running accumulators and the state of the set that the present output tile uses (R103). -/
def CellS.acc (c : CellS) : Vector Word 4096 := if c.setNow then c.acc1 else c.acc0
def CellS.setSt (c : CellS) : SetState := if c.setNow then c.set1 else c.set0
def CellS.withAcc (c : CellS) (a : Vector Word 4096) (st : SetState) : CellS :=
  if c.setNow then { c with acc1 := a, set1 := st } else { c with acc0 := a, set0 := st }

/-- The set is free for the first product of a visit: idle in the first visit, loaded with its partial in a later one
(R103, R105). -/
def CellS.setFree (c : CellS) (v : Nat) : Bool := if v = 0 then c.setSt = .idle else c.setSt = .ready

/-- Partial of an ordinal (R103). -/
def partWord (f : Bytes) (o : Nat) : Nat := partBase f + o * partStride f

/-- The output of a visit: the FP32 partial, or the finished tile (R101, R103, R110, R179). -/
def drainTile (f : Bytes) (key : DrawKey) (n : Nest) (v o : Nat) (set : Bool) (run : Vector Word 4096) : OutTile :=
  if v + 1 < visits f then
    { dest := .partialArea (partWord f o) o, hdr := [], data := run.toList.flatMap fun w => toLE w.toNat 4, oblk := none,
      full := none, set := some set, refused := false }
  else
    { outTile f n o (convTile f key (outFmt f) 0 (visits f * chunksPerVisit f) (n.args.m0 + tileM f o) (n.args.n0 + tileN f o)
        run.toList) with set := some set }

/-- The cell after product pos of its nest. -/
def CellS.product (c : CellS) (key : DrawKey) (n : Nest) (pos : Nat) : CellS :=
  let f := c.active.bytes
  let v := visitOf f pos
  let k := kOf f pos
  let o := ordinalOf f pos
  let run := if k = 0 && v = 0 then zeroAcc else c.acc
  let chunk := tileProduct f c.store (aWord f n.args pos) (bWord f n.args pos) c.chunk
  let ends := chunkEnds f k
  let run := if ends then
      addChunk f key (n.args.m0 + tileM f o) (n.args.n0 + tileN f o) (chunkOrdinal f v k) run chunk
    else run
  let n := { n with pos := pos + 1, stalled := false, spoiled := if c.spoils f n.args pos then o :: n.spoiled else n.spoiled }
  let c := ((c.afterReads f n.args pos).withAcc run .ready)
  let c := { c with chunk := if ends then zeroAcc else chunk, nest := some n }
  if k + 1 = kTiles f then
    { c.withAcc run .draining with outs := c.outs ++ [drainTile f key n v o c.setNow run], setNow := !c.setNow }
  else c

/-- The operand tiles of a product lie in the data area (R91, R122). -/
def operandsInside (f : Bytes) (a : StartArgs) (pos : Nat) : Bool :=
  wordsInside (aWord f a pos) (aWords f) && wordsInside (bWord f a pos) (bWords f)

/-- MATRIX_TILE_PRODUCT (R87, R98 to R103, R105, R108, R122): the next product of the cell's nest. It waits on a presence
mark and on its accumulator set, and a wait is counted when it ends; an operand outside the data area stops the nest. -/
def execMatrixTileProduct (c : Fin 1024) (s : State) : Res :=
  match s.cells[c].running 0 with
  | none => .next s
  | some n =>
    let k := s.cells[c]
    let f := k.active.bytes
    if nestDone f n then .next s
    else if !operandsInside f n.args n.pos then .next (s.nestFault c)
    else if !(stepReads f n.args n.pos).all k.present then .next (s.nestWaits c)
    else if decide (kOf f n.pos = 0) && !k.setFree (visitOf f n.pos) then
      .next (s.upCell c fun k => k.upNest fun n => { n with stalled := true })
    else .next (((s.when n.stalled fun s => s.addWait c).upCell c fun k => k.product (s.keyOf n f) n n.pos).reportSpoil c (k.spoils f n.args n.pos))

/-- PARTIAL_LOAD (R101, R103, R105): the idle set loads the partial of the output tile whose later visit comes next, once that
partial has been written. -/
def execPartialLoad (c : Fin 1024) (s : State) : Res :=
  match s.cells[c].running 0 with
  | none => .next s
  | some n =>
    let k := s.cells[c]
    let f := k.active.bytes
    let o := ordinalOf f n.pos
    if nestDone f n || decide (kOf f n.pos ≠ 0) || decide (visitOf f n.pos = 0) || decide (k.setSt ≠ .idle) ||
        !k.partials.contains o then .next s
    else
      let acc : Vector Word 4096 := Vector.ofFn fun e => BitVec.ofNat 32 (k.store.readLE (64 * partWord f o + 4 * e.val) 4)
      .next (s.upCell c fun k => { k.withAcc acc .ready with partials := k.partials.filter (· ≠ o) })

/-- TILE_DRAIN_DONE (R104, R110 to R116, R129, R195, R265): the oldest output of a cell lands. The outputs of a reduce cell have
a row of their own. -/
def execTileDrainDone (c : Fin 1024) (s : State) : Res :=
  .next (if fPers s.cells[c].active.bytes = 2 then s else s.land c)

/-- RECORD_BLOCK_OUTPUT (R140): the oldest record block or ADDT tile of a reduce cell lands. -/
def execRecordBlockOutput (c : Fin 1024) (s : State) : Res :=
  .next (if fPers s.cells[c].active.bytes = 2 then s.land c else s)

/-- H of a transform frame in a nest (R212). -/
def State.hEff (s : State) (n : Nest) (f : Bytes) : Nat :=
  if n.replay && s.rt.ovfFirst.contains (tLayer f) then min 7 (headroom f + widen f) else headroom f

/-- Adds a nest's report to that of its layer (R206, R208). -/
def LayerRun.add (l : LayerRun) (amax : Word) (recs clamps h pool budget : Nat) : LayerRun :=
  { amax := if lt32 l.amax amax then amax else l.amax, recs := l.recs + recs, clamps := l.clamps + clamps, hEff := max l.hEff h,
    poolSum := l.poolSum + pool, maxBudget := max l.maxBudget budget }

/-- A layer that no nest has reported. -/
def LayerRun.zero : LayerRun := { amax := 0, recs := 0, clamps := 0, hEff := 0, poolSum := 0, maxBudget := 0 }

/-- The report of a transform nest at its end (R206, R207): a clamp puts the layer into the overflow set of the run. -/
def State.reportNest (s : State) (n : Nest) (f : Bytes) : State :=
  let h := s.hEff n f
  let l := tLayer f
  s.upRt fun t =>
    { t with
      nestsReported := t.nestsReported + 1
      layerRuns := putKV l (((getKV l t.layerRuns).getD .zero).add n.amax n.recs n.clamps h
        (if outlierEn f then poolShare f else 0) (if outlierEn f then tileBudget f else 0)) t.layerRuns
      ovfSet := if n.clamps = 0 || t.ovfSet.contains l then t.ovfSet else t.ovfSet ++ [l]
      ovf := t.ovf || decide (n.clamps ≠ 0) }

/-- NEST_END (R106, R107, R206, R266): the nest's last step is done; repeated records lose their marks, a transform nest
reports, and a held START begins.
(DEDUCED, log entry 31) -/
def execNestEnd (c : Fin 1024) (s : State) : Res :=
  match s.cells[c].nest with
  | none => .next s
  | some n =>
    let f := s.cells[c].active.bytes
    if n.stopped || n.waiting || !nestDone f n then .next s
    else
      let next := s.cells[c].heldStart
      let s := s.when (fPers f = 3) fun s => s.reportNest n f
      let s := s.upCell c fun k => { k.readRecords (k.repeated f n) with nest := none, heldStart := none }
      let s := match next with
        | none => s
        | some a => s.beginNest c a
      .next (s.retry c)

/-- CELL_STORE_UE (R92, R235, R282, R338): a read of the nest meets an uncorrectable error; the tiles it feeds are flagged, a cell
fault is reported, the step's non-finite flag is set, and a second such read within 24 h makes the cell FAILED.
(DESIGN CHOICE, log entry 33) -/
def execCellStoreUe (c : Fin 1024) (s : State) : Res :=
  match s.cells[c].nest with
  | none => .next s
  | some n =>
    let f := s.cells[c].active.bytes
    let (off, s) := s.fresh 21
    let s := s.upCell c fun k =>
      let ts := s.now :: within s.now dayU k.ueTimes
      { k.upNest (fun _ => { n with spoiled := n.feeds f ++ n.spoiled }) with
        ueTimes := ts, health := if ts.length ≥ 2 then .failed else k.health }
    let s := s.upTiers fun t =>
      { t with
        ueTotal := satAdd t.ueTotal 1
        errors := t.errors ++ [({ loc := { tier := .cell, unit := c.val, channel := 0, offset := off.toNat }, uncorrectable := true,
                                  at_ := s.now } : ErrRec)] }
    .next (s.spoilStep c)

end Sys2Proof.Machine
end

