-- ==== Sys2Proof/Machine/QueueRows.lean ====
section
/-! DEFINITION. Meanings of the rows of the handshake queues and of the joins (R63 to R70), and the words of finished tiles that pass them
(R114, R117). -/
namespace Sys2Proof.Machine

/-- QUEUE_WRITE (R64, R65, R68, R69, R114, R117): the producer writes only while its count shows a free entry. While a finished tile is on its
way over the queue, its next word is the one written. The producer of a receive end queue is the join channel, which writes its words in the
order it took them up.
(DESIGN CHOICE, log entry 24) -/
def execQueueWrite (q : Fin 7680) (w : BitVec 512) (s : State) : Res :=
  match rxChannel q with
  | none =>
    match s.tileDue q with
    | none => .next (s.upQueue q (·.write { kind := .other, data := w }))
    | some (c, k, t) =>
      if w = s.tileWord c k t && s.queues[q].canWrite then
        .next ((s.upQueue q (·.write { kind := .tile k t.seq t.word, data := w })).upTile c t.seq t.word fun t =>
          { t with put := t.put.modify k (· + 1) })
      else .next s
  | some c =>
    match s.joins[c].flight with
    | [] => .next s
    | x :: rest =>
      if x.data = w && s.queues[q].canWrite then .next ((s.upQueue q (·.write x)).upJoin c fun j => { j with flight := rest })
      else .next s

/-- QUEUE_WORD_VISIBLE (R66, R67). -/
def execQueueWordVisible (q : Fin 7680) (s : State) : Res := .next (s.upQueue q HsQueue.show)

/-- QUEUE_READ (R19, R64, R65, R114, R117): the consumer reads only a word that its count shows as present. At the hub die a word between two
joins goes on into the next one; at its end a tile word goes into its ring slot, and a token is left to AWAIT. -/
def execQueueRead (q : Fin 7680) (s : State) : Res :=
  match s.queues[q].front with
  | none => .next s
  | some w =>
    match s.relayTo q with
    | some q' => if s.queues[q'].canWrite then .next ((s.consume q).upQueue q' (·.write w)) else .next s
    | none =>
      match s.crossFrom q with
      | none => .next (s.consume q)
      | some i => if w.kind = .token then .next s else .next ((s.takeWord i w).consume q)

/-- QUEUE_ENTRY_RETURN (R66). -/
def execQueueEntryReturn (q : Fin 7680) (s : State) : Res := .next (s.upQueue q HsQueue.giveBack)

/-- JOIN_CHANNEL_TAKEUP (R70): the channel, as consumer of the transmit end queue, takes its front word when it holds a
flight credit. -/
def execJoinChannelTakeup (ch : Fin 1792) (s : State) : Res :=
  match s.queues[txQueue ch].front with
  | none => .next s
  | some w =>
    if s.joins[ch].credits > 0 then
      .next ((s.upQueue (txQueue ch) HsQueue.read).upJoin ch fun j =>
        { j with flight := j.flight ++ [w], credits := j.credits - 1 })
    else .next s

/-- JOIN_CREDIT_RETURN (R70): the credit of an entry that the far cluster has freed comes back. -/
def execJoinCreditReturn (ch : Fin 1792) (s : State) : Res :=
  .next (s.upJoin ch fun j => if j.freed > 0 then { j with freed := j.freed - 1, credits := j.credits + 1 } else j)

end Sys2Proof.Machine
end

