-- ==== Sys2Proof/Machine/ProgRows.lean ====
section
/-! DEFINITION. Meanings of the rows of region programs and frames (R94 to R97, R107, R219 to R221, R236, R237, R554,
R555). -/
namespace Sys2Proof.Machine

/-- The binding in force. -/
def State.binding (s : State) : Binding := s.rt.regions.map fun g => g.cluster.map fun c => (c, g.sym)

/-- Where the placement engine would bind region i now, the others staying where they are (R234). -/
def State.rebound (s : State) (i : Nat) : Option (Fin 64 × Nat) :=
  match s.rt.image with
  | none => none
  | some im => s.bindOne im (s.binding.set i none) i

/-- The cells that a region would use are used by no other region. -/
def State.cellsFree (s : State) (i : Nat) (cl : Fin 64) (sym : Nat) : Bool :=
  (s.regionCells i).all fun l => match s.ownerOf (physAt cl sym l) with
    | none => true
    | some (j, _) => decide (j = i)

/-- Moves a region that is asked to move, once its new cells are free and its cell-store objects may move (R237, R240, R244). -/
def State.moveIfAsked (s : State) (i : Nat) : State :=
  match (s.regionS i).moveTo with
  | none => s
  | some (cl, sym) => if s.cellsFree i cl sym && s.mayMoveRegion i then s.moveRegion i cl sym else s

/-- Region r may start a run: it is bound, the step runs, and it has not run in this run of the step (R219, R221). -/
def State.canRun (s : State) (r : Nat) : Bool :=
  decide (r < s.rt.regions.length) && (s.regionS r).cluster.isSome && !(s.regionS r).running && decide ((s.regionS r).doneRuns = 0) &&
    s.inJob && decide (s.job.stage = .running ∨ s.job.stage = .stage4) && decide (s.pwr.st = .active) && s.pwr.goal.isNone &&
    (decide (s.job.step ≠ s.job.p.firstStep) || decide (s.job.p.startTime.toNat ≤ s.now.toNat))

/-- Cell of a region at the start of a run: its program begins at its first instruction, with origin (0, 0) (R220,
R221). -/
def CellS.startRun (c : CellS) (prog : List PInstr) (l : Nat) : CellS :=
  { c with pc := prog.findIdx? fun p => p.cell = l, ended := false, awaiting := none, origin := (0, 0), loops := [], issued := 0 }

/-- Starts a run of region r. -/
def State.startRegion (s : State) (r : Nat) : State :=
  let prog := s.progOf r
  let s := (s.regionCells r).foldl (fun s l => match s.physCell r l with
    | none => s
    | some c => s.upCell c fun k => k.startRun prog l) s
  let at_ := s.cyclesOf r
  s.upRegion r fun g => { g with running := true, step := s.job.step, replay := s.job.replay, startCycle := at_ }

/-- REGION_RUN_START (R219, R221, R263): the device runtime starts a run of a bound region for the step that runs; before its
first run on a cluster, and after a move, its frames are placed, for which the tile mover claims a buffer. -/
def execRegionRunStart (r : Fin 4096) (s : State) : Res :=
  .next (if !s.canRun r.val then s else if (s.regionS r.val).placed then s.startRegion r.val else s.askFrames r.val)

/-- Runs k when the next instruction of a cell has an operation (R220). -/
def State.onInstr (s : State) (c : Fin 1024) (op : Nat) (k : Nat → Nat → Nat → PInstr → State) : State :=
  match s.nextInstr c with
  | none => s
  | some (i, l, j, p) => if p.op = op then k i l j p else s

/-- PROG_END (R220, R554): the instructions of the cell end for this run. -/
def execProgEnd (c : Fin 1024) (s : State) : Res :=
  .next (s.onInstr c 0 fun _ _ _ _ => s.upCell c fun k => { k with pc := none, ended := true, issued := k.issued + 1 })

/-- PROG_LOAD (R94, R97, R219): LOAD begins, or waits for a LOAD or a SWITCH in progress. While the frames of a region that has moved are not
placed yet, it does not issue. -/
def execProgLoad (c : Fin 1024) (s : State) : Res :=
  .next (s.onInstr c 1 fun i _ _ p =>
    let slot := BitVec.ofNat 3 p.operand
    if !(s.regionS i).placed then s
    else if s.cells[c].loading.isSome || s.cells[c].switching then s.upCell c fun k => { k with held := some (.load slot) }
    else s.doLoad c slot)

/-- The frame that a slot holds: as many bytes of it as its FRAME_LEN names. -/
def CellS.slotFrame (c : CellS) (slot : BitVec 3) : Bytes :=
  let bs := c.store.readN (slotAddr slot.toNat) 0x4000
  bs.take (fLen bs * 64)

/-- A frame fault that a reload has cured makes a GOOD cell DEGRADED (R235, R236). -/
def CellS.cured (c : CellS) : CellS :=
  if c.frameFault && c.reloaded && c.shadow.valid then
    { c with frameFault := false, reloaded := false, health := if c.health = .good then .degraded else c.health }
  else c

/-- FRAME_LOAD_DONE (R94, R96, R97): the shadow frame is the slot's, valid or not; writes of the slot that waited for the load are made. -/
def execFrameLoadDone (c : Fin 1024) (ue : Bool) (s : State) : Res :=
  match s.cells[c].loading with
  | none => .next s
  | some slot =>
    let f := s.cells[c].slotFrame slot
    .next ((s.upCell c fun k =>
      ({ k with loading := none, shadow := { loaded := true, valid := !ue && frameValid f, bytes := f } } : CellS).writeSlots.cured).retry c)

/-- PROG_SWITCH (R94, R97): SWITCH begins, waits, or finds its shadow invalid. -/
def execProgSwitch (c : Fin 1024) (s : State) : Res :=
  .next (s.onInstr c 2 fun _ _ _ _ =>
    if s.cells[c].switchWaits then s.upCell c fun k => { k with held := some .switch } else s.doSwitch c)

/-- The exchange of the frames; the counts that start with an active frame start afresh (R94, R112, R114, R199, R201, R552). A consumer
entry that the cell has served before keeps the credits it has, so that its ring never has more tiles on the way than slots; a table frame's
FUNC_ID goes to telemetry (R141). -/
def CellS.exchange (c : CellS) : CellS :=
  let f := c.shadow.bytes
  { c with
    active := c.shadow
    shadow := c.active
    switching := false
    seq := 0
    outCount := 0
    ringPos := []
    oblkNext := 0
    fullNext := 0
    ftq := c.ftq.map fun t => { t with cur := false }
    funcId := if c.shadow.valid && decide (fPers f = 4) then fWord f 0xC8 else c.funcId
    credits := (if hasQueue f then consEntries f else []).foldl (fun l e => if (getKV e l).isSome then l else putKV e (conSlots e) l) c.credits }

/-- SWITCH_DONE (R94, R97): the frames are exchanged and a held LOAD or START proceeds. -/
def execSwitchDone (c : Fin 1024) (s : State) : Res :=
  .next (if s.cells[c].switching then ((s.upCell c CellS.exchange).pressure c).retry c else s)

/-- PROG_ARGS (R220). -/
def execProgArgs (c : Fin 1024) (s : State) : Res :=
  .next (s.onInstr c 3 fun _ _ _ p =>
    (s.upCell c fun k => { k with origin := (BitVec.ofNat 16 (field p.operand 15 0), BitVec.ofNat 16 (field p.operand 31 16)) }).issued c)

/-- PROG_START (R94, R97, R103, R107, R555): START runs, is held behind a running nest, or waits for a SWITCH or for the
START already held. -/
def execProgStart (c : Fin 1024) (s : State) : Res :=
  .next (s.onInstr c 4 fun _ _ _ p =>
    let a := BitVec.ofNat 15 (field p.operand 14 0)
    let b := BitVec.ofNat 15 (field p.operand 30 16)
    if s.cells[c].switching || s.cells[c].heldStart.isSome then s.upCell c fun k => { k with held := some (.start a b) }
    else s.doStart c a b)

/-- PROG_SIGNAL (R65, R220): one token word is written into the queue; with no free entry the producer waits. What the word
holds is open.
(DESIGN CHOICE, log entry 26) -/
def execProgSignal (c : Fin 1024) (s : State) : Res :=
  .next (s.onInstr c 5 fun i l _ p =>
    match (s.findCrossing true i l (p.operand % 64)).bind s.crossQueues with
    | none => s
    | some (q, _) =>
      if s.queues[q].canWrite then
        let (w, s) := s.fresh 512
        (s.upQueue q (·.write { kind := .token, data := w })).issued c
      else s)

/-- The crossing whose tokens an AWAIT of a cell consumes. -/
def State.awaitCross (s : State) (c : Fin 1024) (queue : Nat) : Option Nat :=
  match s.ownerOf c with
  | none => none
  | some (i, l) => s.findCrossing false i l queue

/-- Takes the oldest token of a crossing: one kept over a move of a region, or else the readable word of its queue when that is a token. None
when no token is readable. -/
def State.popToken (s : State) (i : Nat) : Option State :=
  if 0 < s.rt.tokens.getD i 0 then some (s.upRt fun t => { t with tokens := t.tokens.modify i (· - 1) })
  else match s.crossQueues i with
    | none => none
    | some (_, q) => if (s.queues[q].front).map (·.kind) = some .token then some (s.consume q) else none

/-- Consumes a token for a cell and lets its program go on; with none readable the cell waits. -/
def State.takeToken (s : State) (c : Fin 1024) (queue : BitVec 6) : State :=
  match (s.awaitCross c queue.toNat).bind s.popToken with
  | none => s.upCell c fun k => { k with awaiting := some queue }
  | some s => (s.upCell c fun k => { k with awaiting := none }).issued c

/-- PROG_AWAIT (R67, R220, R221).
(DEDUCED, log entry 28) -/
def execProgAwait (c : Fin 1024) (s : State) : Res :=
  .next (s.onInstr c 6 fun _ _ _ p => s.takeToken c (BitVec.ofNat 6 p.operand))

/-- AWAIT_TOKEN_READY (R221): a waiting AWAIT finds its token. -/
def execAwaitTokenReady (c : Fin 1024) (s : State) : Res :=
  match s.cells[c].awaiting with
  | none => .next s
  | some q => .next (s.takeToken c q)

/-- PROG_REBIND (R220, R237): a region that is to move moves here. -/
def execProgRebind (c : Fin 1024) (s : State) : Res :=
  .next (s.onInstr c 7 fun i _ _ _ => (s.issued c).moveIfAsked i)

/-- PROG_LOOP (R554): the first count times it jumps to its target, and then it falls through with its counter restored. -/
def execProgLoop (c : Fin 1024) (s : State) : Res :=
  .next (s.onInstr c 8 fun _ _ j p =>
    let made := (getKV j s.cells[c].loops).getD 0
    if made < field p.operand 31 16 then
      s.upCell c fun k =>
        { k with pc := some (field p.operand 15 0), loops := putKV j (made + 1) k.loops, issued := k.issued + 1 }
    else (s.upCell c fun k => { k with loops := delKV j k.loops }).issued c)

/-- PROG_MARK (R220): label and cluster cycle count go to telemetry. -/
def execProgMark (c : Fin 1024) (s : State) : Res :=
  .next (s.onInstr c 9 fun i _ _ p =>
    (s.upCell c fun k => { k with labels := k.labels ++ [(BitVec.ofNat 32 p.operand, s.cyclesOf i)] }).issued c)

/-- A cell has ended its part of the run: END issued, every nest ended and every output written or delivered (R554). -/
def CellS.runOver (c : CellS) : Bool :=
  c.ended && c.nest.isNone && c.heldStart.isNone && c.outs.isEmpty && c.ftq.isEmpty

/-- The run of region r is complete (R554). -/
def State.runOver (s : State) (r : Nat) : Bool :=
  (s.regionS r).running && (s.regionPhys r).all fun c => s.cells[c].runOver

/-- REGION_RUN_COMPLETE (R225, R237, R554): the run is over; cycles beyond NOMINAL_CYCLES are reported, and a region that is
to move moves at the end of its run. -/
def execRegionRunComplete (r : Fin 4096) (s : State) : Res :=
  if s.runOver r.val then
    let took := (s.cyclesOf r.val - (s.regionS r.val).startCycle).toNat
    let nominal := ((s.regionE r.val).map (·.nominal)).getD 0
    .next (((s.upRegion r.val fun g =>
      { g with running := false, doneRuns := g.doneRuns + 1, beyond := BitVec.ofNat 32 (min (took - nominal) (2 ^ 32 - 1)) }).moveIfAsked
      r.val).noteStep)
  else .next s

/-- The image copy of the frame of logical cell l of region i that lies in a slot. -/
def State.imageFrame (s : State) (i l : Nat) (slot : BitVec 3) : Option Bytes :=
  match s.rt.image, s.regionE i with
  | some im, some e => ((im.frames.drop e.frameFirst).take e.frameCount).find? fun f => fCell f = l && fSlot f = slot.toNat
  | _, _ => none

/-- FRAME_FAULT_RELOAD (R236, R263): the slot is written again from the image copy, through a buffer of class P, and LOAD is issued again; when that frame was
invalid too, the cell becomes FAILED and its region moves, with the waiting command as its REBIND point; while the region cannot move, the
command goes on waiting.
(DEDUCED, log entry 55) -/
def execFrameFaultReload (c : Fin 1024) (s : State) : Res :=
  let k := s.cells[c]
  if !k.frameFault || k.loading.isSome then .next s
  else match s.ownerOf c with
    | none => .next s
    | some (i, l) =>
      if !k.reloaded then
        .next (s.withBuf (.reload c) fun _ s =>
          let s := match s.imageFrame i l k.lastSlot with
            | none => s
            | some f => s.placeFrame i f
          s.upCell c fun k => { k with loading := some k.lastSlot, reloaded := true })
      else
        let s := s.upCell c fun k => { k with health := .failed }
        match s.rebound i with
        | none => .next s
        | some (cl, sym) =>
          if !s.mayMoveRegion i then .next s
          else
            let s := (s.upCell c fun k => { k with frameFault := false, reloaded := false }).moveRegion i cl sym
            match s.physCell i l with
            | none => .next s
            | some c' => .next (s.retry c')

end Sys2Proof.Machine
end

