-- ==== Sys2Proof/Machine/StageOps.lean ====
section
/-! DEFINITION. Operations on moves in progress (R240 to R245, R273, R285). -/
namespace Sys2Proof.Machine

/-! ### Moves -/

/-- Objects that move together with one: a KIND 0 object and the gradients whose PARENT it is (R285). -/
def State.moveGroup (s : State) (o : ObjS) : List ObjS :=
  let root := if o.e.kind = 2 then (match s.obj o.e.parent with
    | some p => if p.e.kind = 0 then p else o
    | none => o) else o
  if root.e.kind = 0 then root :: s.rt.objects.filter fun c => c.e.kind = 2 && c.e.parent = root.e.id else [root]

/-- A KIND 0 object and a gradient of it stand on different stacks, as when one move of the pair was aborted (R245, R285). -/
def State.apart (s : State) (o : ObjS) : Bool := (s.moveGroup o).any fun x => x.home.set ≠ o.home.set

/-- The decision of update stands and stage 5 has not ended for an object that Medlar acts on (R320). -/
def State.medlarBusy (s : State) (o : ObjS) : Bool :=
  decide (s.job.stage = .stage5) && decide (o.e.kind = 0 ∨ o.e.kind = 2 ∨ o.e.kind = 5)

/-- An object may begin to move: not pinned, no live stub, not in a cell store, not held by Medlar, which holds no object whose gradient is not
beside it (R240, R245, R285, R320). -/
def State.mayMove (s : State) (o : ObjS) : Bool := !o.e.pin && o.move.isNone && !o.home.inCell && (!s.medlarBusy o || s.apart o)

/-- Rank of a cause among the moves that wait for buffers (R273).
(DEDUCED, log entry 52) -/
def causeRank (c : MoveCause) : Nat := if c = .health then 0 else 1

/-- The first request, by cause and then by order, whose object may begin to move (R273). -/
def State.firstRequest (s : State) : Option (Word × MoveCause) :=
  let live := s.rt.moveQueue.filter fun x => match s.obj x.1.toNat with
    | none => false
    | some o => (s.moveGroup o).all s.mayMove
  (live.find? fun x => causeRank x.2 = 0).orElse fun _ => live.head?

/-- Puts a stub in place (steps 1 and 2 of R240). -/
def ObjS.stub (o : ObjS) (cause : MoveCause) (h : Home) : ObjS :=
  { o with
    move := some ({ cause := cause, oldHome := o.home, newHome := h, flipped := false, log := [], unacked := [], count := 0, told := [],
                    drained := [], confirmed := false, heldNew := [], lost := [] } : MoveS) }

/-- New homes for a group, each beside all homes in use and those before it; a gradient goes to its parent's new stack. -/
def State.newHomes (s : State) (im : Image) (g : List ObjS) : Option (List (Word × Home)) :=
  (g.foldl (fun (acc : Option (List ObjS × List (Word × Home))) o => match acc with
    | none => none
    | some (os, l) =>
      let e := if o.e.kind = 2 then { o.e with parent := (g.head?.map (·.e.id)).getD o.e.parent } else o.e
      let rest := os.filter fun x => x.e.id ≠ o.e.id
      let me := os.filter fun x => x.e.id = o.e.id
      let pick := match g.head?, l.head? with
        | some p, some h => if o.e.kind = 2 && p.e.kind = 0 then s.findRow (homesOf os) h.2.set o.size else s.chooseHome im os [o.home.set] e
        | _, _ => s.chooseHome im os [o.home.set] e
      pick.map fun h =>
        (rest ++ me.map (fun x => { x with home := x.home, move := (x.stub .health h).move }), l ++ [(BitVec.ofNat 32 o.e.id, h)]))
    (some (s.rt.objects, []))).map (·.2)

/-- The copy of a move holds its buffer: that of one object of the group that moves together (R263, R273). -/
def State.copyHeld (s : State) (o : ObjS) : Bool := (s.moveGroup o).any fun x => (s.mover.bufOf (.move (BitVec.ofNat 32 x.e.id))).isSome

/-- A copy has ended, or is given up: the buffer of its group returns when no object of the group copies any more. -/
def State.copyOver (s : State) (o : ObjS) : State :=
  let g := s.moveGroup o
  if g.any fun x => (x.move.map fun m => !m.flipped).getD false then s
  else g.foldl (fun s x => s.upMover fun m => m.land (.move (BitVec.ofNat 32 x.e.id))) s

/-- Queues a request for a move, once. -/
def State.askMove (s : State) (obj : Word) (cause : MoveCause) : State :=
  if s.rt.moveQueue.any fun x => x.1 = obj then s else s.upRt fun t => { t with moveQueue := t.moveQueue ++ [(obj, cause)] }

/-- Takes the stub of an object away before step 4: its log is applied to the old home in order (R245). -/
def State.abortOne (s : State) (o : ObjS) : State :=
  match o.move with
  | none => s
  | some m => if m.flipped then s else (s.applyAll o.e.id m.oldHome m.log).upObj o.e.id fun o => { o with move := none }

/-- Aborts a move before step 4, together with those of the objects that move with it (R245, R285). Where one of these has its new home already, the
object is asked to move again, so that it follows.
(DEDUCED, log entry 155) -/
def State.abortMove (s : State) (id : Nat) : State :=
  match s.obj id with
  | none => s
  | some o =>
    match o.move with
    | none => s
    | some m =>
      if m.flipped then s
      else
        let g := s.moveGroup o
        ((g.foldl State.abortOne s).when (g.any fun x => x.home.set ≠ o.home.set) fun s => s.askMove (BitVec.ofNat 32 id) m.cause).copyOver o

/-- Aborts every move that has not reached step 4 (R245). -/
def State.abortMoves (s : State) : State := s.rt.objects.foldl (fun s o => s.abortMove o.e.id) s

/-- The stub retires when its count is zero and it has its confirmation (R241). -/
def ObjS.retire (o : ObjS) : ObjS :=
  match o.move with
  | none => o
  | some m => if m.confirmed && decide (m.count = 0) then { o with move := none } else o

/-- The units that may resolve an object's home (before R240): the tile mover, Bramble's inbound path, and the sequencers
and finished-tile queues of the clusters of the regions that name it; failed ones are left out (R245). -/
def State.senderSet (s : State) (o : ObjS) : List SenderUnit :=
  let names := fun (e : RegionE) => decide (e.region = o.e.firstRegion) || decide (e.region = o.e.lastRegion) ||
    ((s.rt.image.map (·.prefetch)).getD []).any fun p => decide (p.obj = o.e.id) && decide (p.region = e.region)
  let rs := (List.range s.rt.regions.length).filter fun i => ((s.regionE i).map names).getD false
  let cells := (rs.flatMap s.regionPhys).filter fun c => decide (s.cells[c].health ≠ .failed)
  let cls := ((cells.map clusterOf).filter fun k => decide (s.clusters[k].health ≠ .failed)).dedup
  [SenderUnit.mover, .inbound] ++ cls.map .sequencer ++ (if o.home.inCell then cells.map .ftq else [])

/-- Asks for moves of the KIND 0 and KIND 5 objects homed on a DEGRADED stack (R282). -/
def State.askHealthMoves (s : State) : State :=
  let due := s.rt.objects.filter fun o =>
    decide (o.e.kind = 0 ∨ o.e.kind = 5) && !o.e.pin && !o.home.inCap && !s.setGood o.home.set && o.move.isNone &&
      !s.rt.moveQueue.any fun x => x.1 = BitVec.ofNat 32 o.e.id
  s.upRt fun t => { t with moveQueue := t.moveQueue ++ due.map fun o => (BitVec.ofNat 32 o.e.id, MoveCause.health) }

end Sys2Proof.Machine
end

