-- ==== Sys2Proof/Machine/PlaceRows.lean ====
section
/-! DEFINITION. Meanings of the rows of placement, of moves of objects and of the reply to a shed request (R233 to R249,
R285). -/
namespace Sys2Proof.Machine

/-- Objects of KIND 0 or 5 on a DEGRADED unit that no set without it can take (bit 0 of R453). -/
def State.stuckHomes (s : State) : Bool :=
  match s.rt.image with
  | none => false
  | some im => s.rt.objects.any fun o =>
      decide (o.e.kind = 0 ∨ o.e.kind = 5) && !s.setGood o.home.set &&
        (match s.chooseHome im s.rt.objects [o.home.set] o.e with
          | none => true
          | some h => !s.setGood h.set)

/-- Raises a cause of departure advice that is not set yet (R453). -/
def State.adviseNew (s : State) (cause : Nat) : State := if s.sec.departAdvice.getLsbD cause then s else s.advise cause

/-- Asks every region whose binding would change to move at its next REBIND point (R237). -/
def State.askBinding (s : State) (b : Binding) : State :=
  s.upRt fun t =>
    { t with regions := t.regions.zipIdx.map fun x =>
        let want := (b.getD x.2 none)
        let held := x.1.cluster.map fun c => (c, x.1.sym)
        { x.1 with moveTo := if want = held then none else want } }

/-- PLACEMENT_REBIND (R233 to R238, R282, R453): the placement engine binds again. A region whose binding changes moves at
its next REBIND point; objects on DEGRADED stacks ask to move; what cannot be bound raises departure advice. -/
def execPlacementRebind (s : State) : Res :=
  match s.rt.image with
  | none => .next s
  | some im =>
    let s := s.askHealthMoves
    let s := s.when s.stuckHomes fun s => s.adviseNew 0
    match s.bindImage im with
    | none => .next (s.adviseNew 1)
    | some b =>
      .next (s.askBinding b)

/-- MOVE_ALLOCATE (R240, R245, R257, R263, R272, R273, R285, R320): a move is asked for; when it stands first it claims a buffer of class M, and
once it has one and may begin, its new home is allocated and its stub installed, together with those of the objects that move with it.
(DESIGN CHOICE, log entry 51) -/
def execMoveAllocate (obj : Word) (cause : MoveCause) (s : State) : Res :=
  match s.obj obj.toNat, s.rt.image with
  | some o, some im =>
    if o.e.pin || o.home.inCell then .next s
    else
      let s := s.askMove obj cause
      let g := s.moveGroup o
      if s.moverPaused || !g.all s.mayMove then .next s
      else if (s.mover.bufOf (.move obj)).isNone then
        .next (if (s.firstRequest.map (·.1)) = some obj then s.upMover fun m => m.claim (.move obj) else s)
      else match s.newHomes im g with
        | none => .next s
        | some hs =>
          let s := hs.foldl (fun s x => s.upObj x.1.toNat fun o => o.stub cause x.2) s
          .next (s.upRt fun t =>
            { t with moveQueue := t.moveQueue.filter fun x => !(g.any fun o => decide (o.e.id = x.1.toNat)) })
  | _, _ => .next s

/-- Ends the copy of a move: step 4 of R240. The directory holds the new home at g + 1, with the tiles that could not be read marked, and the stub
forwards its log. -/
def State.flip (s : State) (o : ObjS) (m : MoveS) (unreadable : List Nat) : State :=
  let bs := s.tiers.readHome m.oldHome 0 o.size
  ((s.upTiers fun t => t.writeHome m.newHome 0 bs).upObj o.e.id fun o =>
    { o with home := m.newHome, gen := o.gen + 1, move := some { m.forward with flipped := true }
             bad := o.bad ++ (m.lost ++ unreadable).filter fun t => decide (t < o.e.tiles) }).copyOver o

/-- MOVE_COPY_DONE (R240, R243, R245, R263): the copy, which holds its buffer, ends and the directory flips; an error reported by the new home aborts
the move; tiles that could not be read are marked, and set the step's non-finite flag. -/
def execMoveCopyDone (obj : Word) (unreadable : List Nat) (newHomeUe : Bool) (s : State) : Res :=
  match s.obj obj.toNat with
  | none => .next s
  | some o =>
    match o.move with
    | none => .next s
    | some m =>
      if m.flipped then .next s
      else if newHomeUe then .next (s.abortMove obj.toNat)
      else if !s.copyHeld o then .next s
      else
        let s := s.when (!unreadable.isEmpty) fun s => s.upRt fun t => { t with nonfinite := true }
        .next (s.flip o m unreadable)

/-- A unit has its flip notice. -/
def MoveS.tell (m : MoveS) (unit : SenderUnit) : MoveS :=
  if m.flipped && !m.told.contains unit then { m with told := m.told ++ [unit] } else m

/-- A unit is drained (R241): it has its flip notice, from which on it tags nothing g, and every arrival it tagged g is acknowledged. -/
def MoveS.mayDrain (m : MoveS) (unit : SenderUnit) : Bool :=
  m.flipped && m.told.contains unit && !(m.log ++ m.unacked).any fun a => senderOf a = unit
def MoveS.drain (m : MoveS) (unit : SenderUnit) : MoveS :=
  if m.mayDrain unit && !m.drained.contains unit then { m with drained := m.drained ++ [unit] } else m

/-- Every unit of the sender set is drained, so that the confirmation goes out (R241); a unit declared failed is in it no more (R245). -/
def State.allDrained (s : State) (o : ObjS) (m : MoveS) : Bool := m.flipped && (s.senderSet o).all m.drained.contains

/-- FLIP_NOTICE (R240, R241): a unit of the sender set learns the new home. -/
def execFlipNotice (unit : SenderUnit) (obj : Word) (s : State) : Res :=
  match s.obj obj.toNat with
  | none => .next s
  | some o =>
    if (s.senderSet o).contains unit then
      .next (s.upObj obj.toNat fun o => { o with move := o.move.map fun m => m.tell unit })
    else .next s

/-- An arrival tagged with a generation reaches an object's homes (R240, R242, R245). A unit that is drained has nothing tagged g on its way. -/
def State.arrive (s : State) (o : ObjS) (gen : Half) (a : Arrival) : State :=
  let refuse := fun (s : State) => s.upRt fun t => { t with placementFaults := t.placementFaults + 1, nonfinite := true }
  match o.move with
  | some m =>
    if gen = (if m.flipped then o.gen - 1 else o.gen) then (if m.drained.contains (senderOf a) then s else s.arriveOld o.e.id m a)
    else if gen = o.gen then s.arriveNew o a
    else refuse s
  | none => if gen = o.gen then s.arriveNew o a else refuse s

/-- STUB_ARRIVAL (R240, R242, R245). -/
def execStubArrival (obj : Word) (gen : Half) (a : Arrival) (s : State) : Res :=
  match s.obj obj.toNat with
  | none => .next s
  | some o => .next (s.arrive o gen a)

/-- FORWARD_ACK (R241, R242): the new home applies the oldest forward and acknowledges it; when the last one is applied,
what it held of generation g + 1 follows in order. -/
def execForwardAck (obj : Word) (s : State) : Res :=
  match s.obj obj.toNat with
  | none => .next s
  | some o =>
    match o.move with
    | none => .next s
    | some m =>
      match m.unacked with
      | [] => .next s
      | a :: rest =>
        let s := s.applyArr obj.toNat m.newHome a
        let s := if rest.isEmpty then s.applyAll obj.toNat m.newHome m.heldNew else s
        .next (s.upObj obj.toNat fun o =>
          ({ o with move := some { m with unacked := rest, count := m.count - 1, heldNew := if rest.isEmpty then [] else m.heldNew } } : ObjS).retire)

/-- DRAINED_MSG (R241): a unit of the sender set that is drained answers. -/
def execDrainedMsg (unit : SenderUnit) (obj : Word) (s : State) : Res :=
  match s.obj obj.toNat with
  | none => .next s
  | some o =>
    if (s.senderSet o).contains unit then .next (s.upObj obj.toNat fun x => { x with move := x.move.map fun m => m.drain unit })
    else .next s

/-- RETIRE_CONFIRM (R241): once every unit has answered, the confirmation reaches the stub, which retires when its count is zero. -/
def execRetireConfirm (obj : Word) (s : State) : Res :=
  match s.obj obj.toNat with
  | none => .next s
  | some o =>
    .next (s.upObj obj.toNat fun x =>
      ({ x with move := x.move.map fun m => if s.allDrained o m then { m with confirmed := true } else m } : ObjS).retire)

/-- The answer to a shed or restore request: a granted share applies from the step named, and no further request goes out until
LATE_LIMIT steps after it (R248, R249). -/
def State.shedAnswer (s : State) (grant : Bool) (firstStep : DWord) (share : Word) : State :=
  if !s.rt.shedWait then s
  else if grant then
    s.upRt fun t => { t with shedWait := false, shareNext := some (firstStep, share.toNat), shedAgain := firstStep + BitVec.ofNat 64 s.job.p.lateLimit }
  else s.upRt fun t => { t with shedWait := false }

end Sys2Proof.Machine
end

