-- ==== Sys2Proof/Machine/MoverRows.lean ====
section
/-! DEFINITION. Meanings of the rows of the tile mover, of the staging buffers and of the memory tiers (R250 to R283). -/
namespace Sys2Proof.Machine

/-! ### Prefetch (R263 to R270) -/

/-- Entry i of the prefetch table. -/
def State.pfE (s : State) (i : Nat) : Option PfE := s.rt.image.bind fun im => im.prefetch[i]?

/-- The step's inputs lie in the retention area (R269). -/
def State.inputsHere (s : State) : Bool := s.tiers.retention.any fun r => r.step = s.job.step

/-- Medlar updates the rows of the object: its loads, atomics and prefetches wait (R314). -/
def State.rowsBusy (s : State) (o : ObjS) : Bool := decide (s.job.stage = .stage5) && decide (o.e.kind = 5)

/-- The next entry may begin (R268, R269, R314). -/
def State.mayBegin (s : State) (e : PfE) : Bool :=
  s.inJob && decide (s.job.stage = .running ∨ s.job.stage = .stage4) && decide (s.mover.active.length < 64) &&
    (match s.regionIndex e.region with
      | none => false
      | some i => (s.regionS i).cluster.isSome) &&
    match s.obj e.obj with
    | none => false
    | some o => (decide (o.e.kind ≠ 1) || s.layerDone o.e.layer) && (decide (o.e.kind ≠ 6) || s.inputsHere) && !s.rowsBusy o

/-- PREFETCH_ENTRY_BEGIN (R268, R269): the next entry of the schedule begins. -/
def execPrefetchEntryBegin (s : State) : Res :=
  match s.rt.image with
  | none => .next s
  | some im =>
    match (pfOrder im)[s.mover.begun]? with
    | none => .next s
    | some i =>
      match im.prefetch[i]? with
      | none => .next s
      | some e =>
        if s.mayBegin e then
          .next (s.upMover fun m =>
            { m with
              begun := m.begun + 1
              active := if e.tileCount = 0 then m.active else m.active ++ [({ index := i, done := 0, obj := e.obj, reading := false, asked := [], data := [] } : PfRun)] })
        else .next s

/-- The cell that an entry names, through its region's binding (R269). -/
def State.pfCell (s : State) (e : PfE) : Option (Fin 1024) := (s.regionIndex e.region).bind fun i => s.physCell i e.cell

/-- Tile of record j of an entry, and where it lies in the cell store: the records follow one another from DEST. -/
def pfTile (e : PfE) (j : Nat) : Nat := e.tileFirst + j * e.tileStride
def pfWord (e : PfE) (o : ObjE) (j : Nat) : Nat := e.dest + j * ceilDiv (tileBytes o) 64

/-- Dies on which the bytes of a record lie; the capacity tier is reached through the hub die (die 4). -/
def recordDies (h : Home) (ps : List (Nat × Nat)) : List Nat :=
  if h.inCap then [4]
  else (ps.flatMap fun p => (List.range (p.2 / 256 + 2)).map fun i => (h.place (p.1 + min (256 * i) (p.2 - 1))).1 / 3).dedup

/-- The transfer passes through the hub die and holds a buffer of class P (R19, R263). -/
def viaHub (h : Home) (ps : List (Nat × Nat)) (c : Fin 1024) : Bool :=
  (recordDies h ps).any fun d => decide (d = 4) || decide (2 ≤ (joinPath d (dieOf (clusterOf c)).val).length)

/-- Bytes of the objects of KIND 6 that come before one in ascending OBJ_ID: where its part of a step's input begins.
(DEDUCED, log entry 56) -/
def State.inputBase (s : State) (o : ObjS) : Nat :=
  sumNat (s.rt.objects.map fun x => if x.e.kind = 6 && decide (x.e.id < o.e.id) then x.size else 0)

/-- The bytes of a tile of an object as a prefetch reads them: a step input from its retention slot, all else from its
home. -/
def State.readTile (s : State) (o : ObjS) (t : Nat) : Bytes :=
  let ps := tilePieces o.e s.medlar.u.toNat t
  if o.e.kind = 6 then
    let input := ((s.tiers.retention.find? fun r => r.step = s.job.step).map (·.input)).getD []
    ps.flatMap fun p => padTo (slice input (s.inputBase o + p.1) p.2) p.2
  else ps.flatMap fun p => s.readObj o p.1 p.2

/-- A position takes a record: its mark is clear and no marked record overlaps it (R267). -/
def CellS.takes (k : CellS) (w words : Nat) : Bool := k.marks.all fun m => decide (m.word ≠ w) && !rangesMeet m.word m.words w words

/-- Records of an earlier entry to the same cell are still to be delivered (R268). -/
def State.earlierFirst (s : State) (index : Nat) (c : Fin 1024) : Bool :=
  (s.mover.active.takeWhile fun r => r.index ≠ index).any fun r =>
    match s.pfE r.index with
    | none => false
    | some e => decide (e.use ≠ 2) && decide (s.pfCell e = some c)

/-- One record of an active entry is done; an entry ends with its last. -/
def Mover.advance (m : Mover) (index count : Nat) : Mover :=
  { m with
    active := (m.active.map fun r =>
      if r.index = index then { r with done := r.done + 1, reading := false, asked := [], data := [] } else r).filter fun r =>
        decide (r.index ≠ index) || decide (r.done < count) }

/-- The read of a record of an entry from an object that moves: each of its spans goes, tagged with the generation that the tile mover resolves,
to the stub or to the new home, and is answered in its place among the arrivals there (R242, R270). -/
def State.askRecord (s : State) (r : PfRun) (ps : List (Nat × Nat)) : State :=
  let s := s.upMover fun m =>
    { m with active := m.active.map fun x => if x.index = r.index then { x with reading := true, asked := ps, data := [] } else x }
  ps.foldl (fun s p => match s.obj r.obj with
    | none => s
    | some o => s.arriveNow o (.read .mover p.1 p.2)) s

/-- The inputs of a step in the retention area could not be read on their way there (R215, R273). -/
def State.inputBad (s : State) : Bool := s.tiers.retention.any fun r => decide (r.step = s.job.step) && r.bad

/-- Delivers a record of an entry into a cell (R265, R283). Retained inputs that cannot be read at a replay take the module out of its job (the
paragraph after R215).
(DEDUCED, log entry 58) -/
def State.deliver (s : State) (e : PfE) (r : PfRun) (o : ObjS) (c : Fin 1024) (ue : Bool) : State :=
  let w := pfWord e o.e r.done
  let n := ceilDiv (tileBytes o.e) 64
  let t := pfTile e r.done
  let work := Work.prefetch r.index r.done
  let bad := ue || ((s.mover.bufOf work).map (·.2.bad)).getD false || o.bad.contains t || (decide (o.e.kind = 6) && s.inputBad)
  let bs := if r.reading then r.data else s.readTile o t
  let s := s.upMover fun m => (m.land work).advance r.index e.tileCount
  if bad && decide (o.e.kind = 6) && s.job.replay then s.leaveJobs false
  else if wordsInside w n then s.upCell c fun k => (k.put w bs).setMark w n bad
  else s.cellFault c 0

/-- PREFETCH_RECORD_WRITE (R263, R265 to R270, R272, R273, R283): the next record of an active entry is written into its cell's
store. It waits on its destination, on earlier records to the cell, and on a buffer of its own where it goes through the hub die; from an object
that moves it is read in the order of R242.
(DEDUCED, log entry 158) -/
def execPrefetchRecordWrite (entry : Word) (ue : Bool) (s : State) : Res :=
  match s.mover.active.find? (fun r => r.index = entry.toNat), s.pfE entry.toNat with
  | some r, some e =>
    match s.obj e.obj, s.pfCell e with
    | some o, some c =>
      let ps := tilePieces o.e s.medlar.u.toNat (pfTile e r.done)
      let hub := decide (o.e.kind = 6) || viaHub o.home ps c
      if decide (e.use = 2) || s.earlierFirst entry.toNat c || s.rowsBusy o ||
          !s.cells[c].takes (pfWord e o.e r.done) (ceilDiv (tileBytes o.e) 64) then .next s
      else if hub && (s.mover.bufOf (.prefetch entry.toNat r.done)).isNone then
        .next (s.upMover fun m => m.claim (.prefetch entry.toNat r.done))
      else
        let s := if o.move.isSome && !r.reading && decide (o.e.kind ≠ 6) then s.askRecord r ps else s
        match s.mover.active.find? fun r => r.index = entry.toNat with
        | none => .next s
        | some r => .next (if r.reading && !r.asked.isEmpty then s else s.deliver e r o c ue)
    | _, _ => .next s
  | _, _ => .next s

/-- Writes the bytes of a tile of an object, piece by piece. -/
def State.writeTile (s : State) (unit : SenderUnit) (id : Nat) (ps : List (Nat × Nat)) (bs : Bytes) : State :=
  (ps.foldl (fun (acc : State × Bytes) p =>
    match acc.1.obj id with
    | none => acc
    | some o => (acc.1.writeObj unit o p.1 (acc.2.take p.2), acc.2.drop p.2)) (s, bs)).1

/-- Writes the next record of a write-back entry to the object's home; one that a failed buffer lost leaves its tile marked unreadable (R273,
R283). -/
def State.writeBack (s : State) (e : PfE) (r : PfRun) (o : ObjS) (c : Fin 1024) (bad : Bool) : State :=
  let w := pfWord e o.e r.done
  let t := pfTile e r.done
  let bs := s.cells[c].store.readN (64 * w) (tileBytes o.e)
  let s := (s.upCell c fun k => k.clearMarks [w]).upMover fun m => m.advance r.index e.tileCount
  if bad then (s.upObj e.obj fun o => { o with bad := t :: o.bad }).upRt fun x => { x with nonfinite := true }
  else s.writeTile .mover e.obj (tilePieces o.e s.medlar.u.toNat t) bs

/-- WRITE_BACK_READ (R261, R263, R266): the next record of a write-back entry is read from the cell store and written to the
object's home; its mark is cleared.
(DEDUCED, log entry 57) -/
def execWriteBackRead (entry : Word) (s : State) : Res :=
  match s.mover.active.find? (fun r => r.index = entry.toNat), s.pfE entry.toNat with
  | some r, some e =>
    match s.obj e.obj, s.pfCell e with
    | some o, some c =>
      let ps := tilePieces o.e s.medlar.u.toNat (pfTile e r.done)
      let w := pfWord e o.e r.done
      let hub := viaHub o.home ps c
      if decide (e.use ≠ 2) || !s.cells[c].present w then .next s
      else if hub then .next (s.withBuf (.writeBack entry.toNat r.done) fun bad s => s.writeBack e r o c bad)
      else .next (s.writeBack e r o c false)
    | _, _ => .next s
  | _, _ => .next s

/-- STAGING_BUFFER_RETURN (R272): a buffer whose last record has landed returns to the free pool. -/
def execStagingBufferReturn (b : Fin 128) (s : State) : Res :=
  .next (if (s.mover.bufs[b].map (·.landed)).getD false then s.upMover fun m => m.free b else s)

/-- Tiles of an object could not be read by its copy: they will be marked, and the step's non-finite flag is set (R245). -/
def State.loseTiles (s : State) (id : Nat) (f : ObjS → List Nat) : State :=
  (s.upObj id fun o => { o with move := o.move.map fun m => { m with lost := m.lost ++ f o } }).upRt fun t => { t with nonfinite := true }

/-- The record of a copy whose buffer failed twice: which object of the group it belongs to, and which tile it is, the spec leaves open.
(DESIGN CHOICE, log entry 156) -/
def State.loseRecord (s : State) (obj : Word) : State :=
  let os : List ObjS := match s.obj obj.toNat with
    | none => []
    | some o => (s.moveGroup o).filter fun x => (x.move.map fun m => !m.flipped).getD false
  let (x, s) := s.fresh 64
  match os[x.toNat % max 1 os.length]? with
  | none => s
  | some o => s.loseTiles o.e.id fun o => [x.toNat / max 1 os.length % max 1 o.e.tiles]

/-- What it means that a record could not be read twice, where it means more than a record delivered bad (R215, R245, R273, R283). -/
def State.sourceUe (s : State) (w : Work) : State :=
  match w with
  | .rows _ => s.leaveJobs false
  | .drain _ => s.drainLost
  | .base _ => s.drainLost
  | .move obj => s.loseRecord obj
  | _ => s

/-- The record of a prefetch is read again: what its source has answered goes with the buffer (R273). -/
def Mover.readAgain (m : Mover) (w : Work) : Mover :=
  match w with
  | .prefetch i _ => { m with active := m.active.map fun r => if r.index = i then { r with reading := false, asked := [], data := [] } else r }
  | _ => m

/-- STAGING_BUFFER_UE (R273, R282, R283): the record in flight is read again from its source into another buffer, once; a second failure counts
as an uncorrectable read of its source. The error record names the buffer as its unit.
(DESIGN CHOICE, log entry 137) -/
def execStagingBufferUe (b : Fin 128) (s : State) : Res :=
  match s.mover.bufs[b] with
  | none => .next s
  | some x =>
    let s := s.upTiers fun t =>
      { t with
        ueTotal := satAdd t.ueTotal 1
        errors := t.errors ++ [({ loc := { tier := .staging, unit := b.val, channel := 0, offset := 0 }, uncorrectable := true,
                                  at_ := s.now } : ErrRec)] }
    if x.landed then .next s
    else if x.again then
      .next ((s.upMover fun m => { m with bufs := setV m.bufs b (some { x with bad := true }) }).sourceUe x.work)
    else .next (s.upMover fun m => { (m.readAgain x.work).free b with claims := m.claims ++ [{ work := x.work, failed := some b }] })

/-! ### Errors (R92, R235, R281 to R283) -/

/-- The location is one that the tiers of R250 have.
(DEDUCED, log entry 13) -/
def locValid (l : ErrLoc) : Bool :=
  match l.tier with
  | .cell => decide (l.unit < 1024) && decide (l.channel = 0) && decide (l.offset < 2 ^ 21)
  | .stack => decide (l.unit < 12) && decide (l.channel < 16) && decide (l.offset < 2 ^ 33)
  | .capacity => decide (l.unit < 24) && decide (l.channel < 2) && decide (l.offset < 2 ^ 36)
  | .flash => decide (l.unit = 0) && decide (l.channel = 0) && decide (l.offset < (if Config.variantE then 16 else 8) * 10 ^ 12)
  | .staging => decide (l.unit < 128) && decide (l.channel = 0) && decide (l.offset < 32768)

/-- Code of a tier in an event (R488).
(DESIGN CHOICE, log entry 60) -/
def tierCode (t : Tier) : Nat :=
  (Config.tierCode (match t with
    | .cell => 0
    | .stack => 1
    | .capacity => 2
    | .flash => 3
    | .staging => 4)).toNat

/-- The 256 B row of a location, as channel and row in one number. -/
def locRow (l : ErrLoc) : Nat := l.channel * 2 ^ 32 + l.offset / 256

/-- A corrected error counts towards the health of a stack or device (R282). -/
def UnitHealth.corrected (u : UnitHealth) (now : DWord) (limit row : Nat) : UnitHealth :=
  let hour := now :: u.ceHour.filter fun t => recent now t hourU
  let rows := (row, now) :: u.rowHits.filter fun x => recent now x.2 dayU
  let bad := decide (hour.length > limit) || decide ((rows.filter fun x => x.1 = row).length > 16)
  { u with ceHour := hour, rowHits := rows, health := if bad && decide (u.health = .good) then .degraded else u.health }

/-- An uncorrectable error counts towards the health of a stack or device (R282). -/
def UnitHealth.uncorrected (u : UnitHealth) (now : DWord) (row : Nat) : UnitHealth :=
  let rows := (row, now) :: u.ueRows.filter fun x => recent now x.2 dayU
  { u with ueRows := rows, health := if rows.any (fun x => x.1 ≠ row) then .failed else u.health }

/-- A corrected cell-store error counts towards the health of the cell (R92, R235). -/
def CellS.corrected (k : CellS) (now : DWord) : CellS :=
  let hour := now :: k.ceHour.filter fun t => recent now t hourU
  { k with ceCount := satAdd k.ceCount 1, ceHour := hour,
           health := if decide (hour.length > 64) && decide (k.health = .good) then .degraded else k.health }

/-- An uncorrectable cell-store read counts towards the health of the cell (R235). -/
def CellS.uncorrected (k : CellS) (now : DWord) : CellS :=
  let ts := now :: k.ueTimes.filter fun t => recent now t dayU
  { k with ueTimes := ts, health := if ts.length ≥ 2 then .failed else k.health }

/-- An error record (R282).
(DEDUCED, log entry 62) -/
def State.errRecord (s : State) (l : ErrLoc) (unc : Bool) : State :=
  s.upTiers fun t =>
    { t with
      ceTotal := if unc then t.ceTotal else satAdd t.ceTotal 1
      ueTotal := if unc then satAdd t.ueTotal 1 else t.ueTotal
      errors := t.errors ++ [({ loc := l, uncorrectable := unc, at_ := s.now } : ErrRec)] }

/-- Changes the health of a stack or of a capacity device. -/
def Tiers.upStack (t : Tiers) (i : Nat) (f : UnitHealth → UnitHealth) : Tiers := { t with stkUnits := modV t.stkUnits i f }
def Tiers.upDev (t : Tiers) (i : Nat) (f : UnitHealth → UnitHealth) : Tiers := { t with devUnits := modV t.devUnits i f }

/-- What follows from a unit's health: objects leave a DEGRADED stack, or departure is advised (R282, R453); a FAILED unit
takes the module out of its job. -/
def State.unitFollows (s : State) (h : Health) : State :=
  match h with
  | .good => s
  | .degraded => s.askHealthMoves.when s.stuckHomes fun s => s.adviseNew 0
  | .failed => s.leaveJobs false

/-- A corrected error (R92, R282). -/
def State.correctedErr (s : State) (l : ErrLoc) : State :=
  let s := s.errRecord l false
  match l.tier with
  | .cell => { s with cells := modV s.cells l.unit fun k => k.corrected s.now }
  | .stack =>
    let s := s.upTiers fun t => t.upStack l.unit fun u => u.corrected s.now t.ceLimit.toNat (locRow l)
    s.unitFollows (if (getV s.tiers.stkUnits l.unit .reset).health = .degraded then .degraded else .good)
  | .capacity =>
    let s := s.upTiers fun t => t.upDev l.unit fun u => u.corrected s.now t.ceLimit.toNat (locRow l)
    s.unitFollows (if (getV s.tiers.devUnits l.unit .reset).health = .degraded then .degraded else .good)
  | _ => s

/-- PATROL_SCRUB (R281, R282): a line of a scrubbed tier is read, and an error found in it is corrected. -/
def execPatrolScrub (l : ErrLoc) (corrected : Bool) (s : State) : Res :=
  if !locValid l then .fault .noSuchLocation
  else if corrected && decide (l.tier = .stack ∨ l.tier = .capacity ∨ l.tier = .flash) then .next (s.correctedErr l)
  else .next s

/-- CORRECTED_ERROR (R92, R235, R282, R453). -/
def execCorrectedError (l : ErrLoc) (s : State) : Res := if locValid l then .next (s.correctedErr l) else .fault .noSuchLocation

/-- A location lies in a home: in the rows of a unit of its set (R256, R257). -/
def Home.holds (h : Home) (l : ErrLoc) : Bool :=
  ((decide (l.tier = .capacity) && h.inCap) || (decide (l.tier = .stack) && (setStacks h.set).any fun k => k.val = l.unit)) &&
    decide (h.row0 ≤ l.offset / 256) && decide (l.offset / 256 < h.row0 + h.rows)

/-- The bytes of a tile of an object that a move copies, as (offset, length): of a KIND 0 object those of its six planes, of a KIND 5 object the three
components of its rows (R254, R288, R289). -/
def movePieces (e : ObjE) (t : Nat) : List (Nat × Nat) :=
  match e.kind with
  | 0 => (List.range 6).map fun i => (i * e.plane + t * 8192, 8192)
  | 5 => (tilePieces e 0 t).flatMap fun p => (List.range 3).map fun i => (p.1 + i * (2 * e.rowW), p.2)
  | _ => tilePieces e 0 t

/-- The tiles of an object that have bytes in the 64 B line of a location (R254, R258, R259). -/
def Home.tilesAt (h : Home) (e : ObjE) (l : ErrLoc) : List Nat :=
  (List.range e.tiles).filter fun t => (movePieces e t).any fun p => (List.range (p.2 / 64 + 2)).any fun i =>
    let at_ := h.place (p.1 + min (64 * i) (p.2 - 1))
    decide (at_.1 = l.unit) && decide (at_.2.1 = l.channel) && decide (at_.2.2 / 64 = l.offset / 64)

/-- Reads local offsets. -/
def State.readLocal (s : State) (off n : Nat) : Bytes :=
  if off < 2 ^ 46 then (match s.objAt off with
    | none => []
    | some (o, a) => s.readObj o a n)
  else s.tiers.partnerMem.readN (off % 2 ^ 44) n

/-- A fabric request meets an uncorrectable read: its response is POISONED, and a load's data goes with it under that mark; what the load has gathered
is dropped (R283, R367, R374). -/
def State.poisonReq (s : State) (src : BitVec 17) (seq : Word) : State :=
  match s.fab.lines.find? fun l => l.pkt.src = src && l.pkt.seq = seq with
  | none => s
  | some l =>
    let s := s.upFab fun b =>
      { b with lines := b.lines.filter (fun x => !(x.pkt.src = src && x.pkt.seq = seq)),
               pendingReq := b.pendingReq.filter (· ≠ (src, seq)), gather := b.gather.filter fun x => !(x.1 = src && x.2.1 = seq) }
    s.respond l.pkt 2 0 (if l.pkt.op = 0x01#8 then s.readLocal (localOff l.pkt.addr) (pktSpan l.pkt) else [])

/-- The record at a position of a cell is one of the step's inputs. -/
def State.inputRecord (s : State) (c : Fin 1024) (pos : Nat) : Bool :=
  ((s.rt.image.map (·.prefetch)).getD []).any fun e => decide (s.pfCell e = some c) && (match s.obj e.obj with
    | none => false
    | some o => decide (o.e.kind = 6) && (List.range e.tileCount).any fun j => decide (pfWord e o.e j = pos))

/-- The outcome of an uncorrectable read, by what it feeds (R283, R245).
(DEDUCED, log entry 150) -/
def State.ueFeeds (s : State) (l : ErrLoc) (feeds : UeFeeds) : State :=
  match feeds with
  | .cellRecord c pos =>
    if s.job.replay && s.inputRecord c pos.toNat then s.leaveJobs false
    else s.upCell c fun k => { k with marks := k.marks.map fun m => if m.word = pos.toNat then { m with poison := true } else m }
  | .medlar _ => s.leaveJobs false
  | .drain => s.drainLost
  | .migration obj =>
    match (s.obj obj.toNat).bind (·.move) with
    | none => s
    | some m =>
      if m.flipped then s.leaveJobs false
      else if m.newHome.holds l then s.abortMove obj.toNat
      else s.loseTiles obj.toNat fun o => m.oldHome.tilesAt o.e l
  | .fabric src seq => s.poisonReq src seq
  | .noResponse => s
  | .other => s

/-- Health of the unit after an uncorrectable error, or when a channel of it does not respond (R235, R282). -/
def State.ueHealth (s : State) (l : ErrLoc) (dead : Bool) : State :=
  let f := fun (u : UnitHealth) => if dead then { u with health := .failed } else u.uncorrected s.now (locRow l)
  match l.tier with
  | .stack =>
    let s := s.upTiers fun t => t.upStack l.unit f
    s.unitFollows (if (getV s.tiers.stkUnits l.unit .reset).health = .failed then .failed else .good)
  | .capacity =>
    let s := s.upTiers fun t => t.upDev l.unit f
    s.unitFollows (if (getV s.tiers.devUnits l.unit .reset).health = .failed then .failed else .good)
  | .cell => { s with cells := modV s.cells l.unit fun k => k.uncorrected s.now }
  | _ => s

/-- MEMORY_UE (R283, R245, R282, R452): an error record and an event, the unit's health, and what the read feeds. -/
def execMemoryUe (l : ErrLoc) (feeds : UeFeeds) (s : State) : Res :=
  if !locValid l then .fault .noSuchLocation
  else
    let s := (s.errRecord l true).event evMemoryUe (arg (tierCode l.tier + l.unit % 256 * 16 + l.channel % 256 * 4096)) (arg l.offset)
    .next ((s.ueFeeds l feeds).ueHealth l (feeds = .noResponse))

/-- TIER_WIPE_DONE (R279, R280): the wipe of a tier completes, once its keys are loaded. -/
def execTierWipeDone (w : WipeTier) (s : State) : Res :=
  if !s.tiers.keysSet then .next s
  else match w with
    | .stk => .next (if s.tiers.wipeStk then s else s.upTiers fun t => { t with stackMem := [], wipeStk := true })
    | .cap => .next (if s.tiers.wipeCap then s else s.upTiers fun t => { t with capMem := [], partnerMem := [], wipeCap := true })
    | .cell =>
      if s.tiers.wipeCell then .next s
      else
        let s : State := { s with cells := s.cells.map fun k => { k with store := [], marks := [] } }
        .next ((s.upMover fun m => { m with bufs := Vector.replicate 128 none }).upTiers fun t =>
          { t with wipeCell := true })

/-- RETENTION_WRITE (R214, R215, R263, R486): the inputs of the next step are copied into a retention slot once one is free, through a
buffer of class P. -/
def execRetentionWrite (s : State) : Res :=
  match s.tiers.retWait with
  | [] => .next s
  | r :: rest =>
    if decide (s.tiers.retention.length ≥ 2) then .next s
    else .next (s.withBuf (.retention r.step) fun bad s =>
      s.upTiers fun t => { t with retention := t.retention ++ [{ r with bad := bad }], retWait := rest })

end Sys2Proof.Machine
end

