-- ==== Sys2Proof/Machine/TargetOps.lean ====
section
/-! DEFINITION. Requests at their target: the checks of R367, the reply cache (R389), the ordering points (R390, R391), what
a request does to an object or to the partner image area, and the forwarding of multicast tiles (R342 to R344). -/
namespace Sys2Proof.Machine

/-! ### Checks (R367) -/

/-- The local offset lies in the partner image window (R252). -/
def inPartner (off : Nat) : Bool := decide (off / 2 ^ 44 = 4)

/-- Reduction operations: REDUCE, and STORE with RW 1 (R370). -/
def pktReduces (k : Pkt) : Bool := decide (k.op = 0x04#8) || (decide (k.op = 0x02#8) && k.rw)

/-- A span of bytes stays within one 4 KiB page (R370). -/
def inPage (off n : Nat) : Bool := decide (off / 4096 = (off + n - 1) / 4096)

/-- Check 2 of R367: LEN, alignment, page and ADDR rules of R369 to R371. -/
def pktMalformed (k : Pkt) : Bool :=
  let off := localOff k.addr
  let top := k.addr.toNat / 2 ^ 47
  let n := k.payload.length
  let own := decide (top = k.dst.toNat)
  !(decide (k.len.toNat % 4 = 0) && decide (k.len.toNat ≤ 4608) &&
    (if pktReduces k then decide (k.len.toNat = n) && decide (64 ≤ n) && decide (n = 64 + contribLen (contribOf k.payload))
     else match k.op.toNat with
     | 0x01 => decide (n = 0) && decide (4 ≤ k.len.toNat) && decide (k.len.toNat ≤ 4096) && decide (off % 4 = 0) && inPage off k.len.toNat && own
     | 0x02 => decide (k.len.toNat = n) && decide (4 ≤ n) && decide (n ≤ 4096) && decide (off % 4 = 0) && inPage off n && own
     | 0x03 =>
       let w := atomicWidth k.payload
       decide (k.len.toNat = 24) && decide (n = 24) && decide (byteAt k.payload 0 ≤ 8) && decide (leNat k.payload 0 4 / 512 = 0) &&
         decide (off % w = 0) && own && !(decide (byteAt k.payload 0 = 8) && decide (w = 8))
     | 0x05 => decide (k.len.toNat = n) && decide (68 ≤ n) && decide (n ≤ 64 + 4096) && decide (off % 4 = 0) && inPage off (n - 64) && decide (top = 0)
     | _ => false))

/-- An entry of the region key table permits an operation (R366). -/
def KeyE.permits (e : KeyE) (k : Pkt) : Bool :=
  if pktReduces k then e.collective
  else match k.op.toNat with
  | 0x01 => e.load
  | 0x02 => e.store
  | 0x03 => e.atomic
  | 0x05 => e.mcast
  | _ => false

/-- Check 5 of R367: an entry matches KEY and JOB_ID, permits the operation and covers every byte. -/
def Fabric.keyOk (b : Fabric) (k : Pkt) : Bool :=
  k.key ≠ 0 && (b.rktActive.getD []).any fun e =>
    e.key = k.key && e.job = k.job && e.permits k &&
      (pktReduces k || (decide (e.base ≤ localOff k.addr) && decide (localOff k.addr + pktSpan k ≤ e.base + e.length)))

/-- A job message carries the key of a COLLECTIVE entry of its job (R377). -/
def Fabric.collOk (b : Fabric) (k : Pkt) : Bool :=
  k.key ≠ 0 && (b.rktActive.getD []).any fun e => e.key = k.key && e.job = k.job && e.collective

/-- Check 6: the access is not refused under R255. -/
def State.servable (s : State) (k : Pkt) : Bool :=
  let off := localOff k.addr
  if pktReduces k then true
  else if decide (off < 2 ^ 46) then
    match s.objAt off with
    | none => false
    | some (o, at_) => !o.home.inCell && decide (at_ + pktSpan k ≤ o.size)
  else inPartner off && decide (off % 2 ^ 44 + pktSpan k ≤ s.sec.areaGib * 2 ^ 30)

/-- Check 7: the tier is ready under R280. -/
def State.tierReady (s : State) (k : Pkt) : Bool :=
  let off := localOff k.addr
  if pktReduces k then s.tiers.wipeStk
  else if decide (off < 2 ^ 46) then
    match s.objAt off with
    | none => false
    | some (o, _) => if o.home.inCap then s.tiers.wipeCap else s.tiers.wipeStk
  else s.tiers.wipeCap

/-- Answers a request refused with a status that the spec does not name: it is free. -/
def State.refuseFree (s : State) (k : Pkt) : State :=
  let (v, s) := s.fresh 4
  s.respond k v.toNat 0 []

/-- A cached reply has not been dropped (R396). -/
def CachedReply.live (e : CachedReply) (now : DWord) : Bool := e.dropAt.all fun t => decide (now.toNat < t.toNat)

/-- A restore read of the partner image area that this module hosts, for the job that it has left by the failure path (R452, step 4). -/
def State.servesRead (s : State) (k : Pkt) : Bool :=
  !s.inJob && decide (s.sec.serves = some k.job) && decide (k.op = 0x01#8) && inPartner (localOff k.addr)

/-- Checks 1 to 7 in their order (R367): the first that fails answers the request, and nothing of it is applied; a request
that passes goes on with f. -/
def State.checked (s : State) (k : Pkt) (f : State → State) : State :=
  let member := (s.inJob && decide (k.job = s.job.p.jobId)) || s.servesRead k
  if member && decide (needLevel k > s.job.p.level.toNat) then s.respond k 3 0 []
  else if pktMalformed k then s.respond k 7 0 []
  else if !member then s.respond k (if s.job.torn.contains k.job then 5 else 4) 0 []
  else if s.pwr.st = .parked then s.respond k 4 0 []
  else match if pktModifies k then s.fab.cache.find? (fun e => e.src = k.src && e.seq = k.seq && e.live s.now) else none with
  | some e =>
    s.sendPkt { s.respPkt k k.dst k.seq e.rstatus.toNat true e.detail.toNat (if e.reqOp = 0x03#8 then toLE e.value.toNat 8 else []) with reqOp := e.reqOp }
  | none =>
    if s.fab.pendingReq.contains (k.src, k.seq) then s
    else if !s.fab.keyOk k then s.respond k 1 1 []
    else if !s.servable k then s.respond k 1 2 []
    else if !s.tierReady k then s.respond k 4 0 []
    else f s

/-! ### Reply cache (R389) -/

/-- Drops the oldest replies of a source beyond 256, but none younger than 100 µs. -/
def trimCache (src : BitVec 17) (now : DWord) : Nat → List CachedReply → List CachedReply
  | _, [] => []
  | n, e :: es =>
    if decide (e.src = src) && decide (0 < n) && decide (now.toNat - e.at_.toNat ≥ 100 * usU) then trimCache src now (n - 1) es
    else e :: trimCache src now n es

/-- Keeps the reply to a request that changed something. One of a job that the module has left meanwhile is dropped 100 µs later (R389, R396). -/
def State.cacheReply (s : State) (k : Pkt) (value : DWord) : State :=
  let gone := if s.inJob && decide (k.job = s.job.p.jobId) then none else some (s.now + BitVec.ofNat 64 (100 * usU))
  s.upFab fun b =>
    let l := b.cache ++ [({ src := k.src, seq := k.seq, value := value, rstatus := 0, detail := 0, reqOp := k.op, job := k.job, at_ := s.now, dropAt := gone } : CachedReply)]
    let l := l.filter fun e => e.live s.now
    { b with cache := trimCache k.src s.now ((l.filter fun e => e.src = k.src).length - 256) l }

/-- Answers an applied request OK, and keeps the reply when it changed something (R389, R393). -/
def State.applied (s : State) (k : Pkt) (value : DWord) (data : Bytes) : State :=
  (s.when (pktModifies k) fun s => s.cacheReply k value).respond k 0 0 data

/-! ### Ordering points (R390, R391) -/

/-- Channel of a home that holds a local offset: tier, unit and channel; for the partner image area the one that the module gives its line, which
the spec leaves open. -/
def State.channelOf (s : State) (off : Nat) : Option (Bool × Nat × Nat) :=
  if off < 2 ^ 46 then
    (s.objAt off).map fun x => let p := x.1.home.place x.2; (x.1.home.inCap, p.1, p.2.1)
  else if inPartner off then (let p := Config.partnerChannel (off % 2 ^ 44 / 64); some (true, p.1, p.2))
  else none

/-- The 64 B pieces of a span: local offset and length (R390). -/
def linePieces (off n : Nat) : List (Nat × Nat) :=
  (List.range (n / 64 + 2)).filterMap fun i =>
    let a := max off (64 * (off / 64 + i))
    let b := min (off + n) (64 * (off / 64 + i + 1))
    if a < b then some (a, b - a) else none

/-- The ordering point of a channel takes no request with n more updates: it would hold more than 512, or one of its lines has 64 (R391).
(DEDUCED, log entry 85) -/
def State.channelFull (s : State) (ch : Bool × Nat × Nat) (n : Nat) : Bool :=
  let mine := s.fab.lines.filter fun l => s.channelOf l.start = some ch
  decide (mine.length + n > 512) || mine.any fun l => decide ((mine.filter fun x => x.line = l.line).length ≥ 64)

/-- The ordering point of some channel that a request reaches is full. -/
def State.pointFull (s : State) (k : Pkt) : Bool :=
  let chs := (linePieces (localOff k.addr) (pktSpan k)).filterMap fun x => s.channelOf x.1
  chs.any fun ch => s.channelFull ch (chs.filter (· = ch)).length

/-- Bramble leaves a request in its receive buffer: its ordering point is full (R391), or the scratch has no room for a contribution (R326). C0 is
never held. -/
def State.mustHold (s : State) (k : Pkt) : Bool :=
  decide (k.cls ≠ 0) &&
    if pktReduces k then s.inJob && decide (k.job = s.job.p.jobId) && s.scratchFull (contribOf k.payload) (k.payload.drop 64) else s.pointFull k

/-- Puts a request's lines to their ordering points; it is pending until they are applied (R389, R390). -/
def State.orderLines (s : State) (p : Fin 32) (k : Pkt) : State :=
  let off := localOff k.addr
  let data := if k.op = 0x02#8 || k.op = 0x05#8 then pktData k else []
  s.upFab fun b =>
    { b with
      pendingReq := b.pendingReq ++ [(k.src, k.seq)]
      lines := b.lines ++ (linePieces off (pktSpan k)).map fun x =>
        ({ line := x.1 / 64, pkt := k, port := p, start := x.1, len := x.2, data := slice data (x.1 - off) x.2 } : LineUpd) }

/-! ### Multicast of working tiles (R342 to R344) -/

/-- The object of KIND 1 that a multicast tile is for, the offset in it, and the message that the tile carries (R342). -/
def State.tileFor (s : State) (k : Pkt) : Option (ObjS × Nat × TileMsg) :=
  k.tileMsg.bind fun m => ((s.objAt (localOff k.addr)).filter fun x => decide (x.1.e.kind = 1)).map fun x => (x.1, x.2, m)

/-- A multicast tile whose STEP is not that of the latest update (R344). -/
def State.tileStale (s : State) (k : Pkt) : Bool :=
  match s.tileFor k with
  | none => false
  | some x => decide (s.coll.lastUpdate ≠ some x.2.2.step)

/-- Refuses such a tile and counts it (R344). -/
def State.refuseTile (s : State) (k : Pkt) : State :=
  (s.upColl fun c => { c with refusedTiles := satAdd c.refusedTiles 1 }).refuseFree k

/-- Tile of an object at an offset, and the object's record size. -/
def ObjE.tileAt (e : ObjE) (off : Nat) : Nat := off / max 1 (recSize e.fmt)

/-- Counts the bytes of a tile that have been written (R343). -/
def Collectives.gotTile (c : Collectives) (id : Word) (t n : Nat) : Collectives :=
  { c with w2Got := putKV (id, t) ((getKV (id, t) c.w2Got).getD 0 + n) c.w2Got }

/-- Counts bytes from an offset of an object, tile by tile. -/
def Collectives.gotBytes (c : Collectives) (e : ObjE) (off n : Nat) : Collectives :=
  let r := max 1 (recSize e.fmt)
  (List.range (n / r + 2)).foldl (fun c i =>
    let t := off / r + i
    let a := max off (t * r)
    let b := min (off + n) ((t + 1) * r)
    if a < b then c.gotTile (BitVec.ofNat 32 e.id) t (b - a) else c) c

/-- A key of the job that permits the store at an offset (R366); every member's table covers the same objects (R253). -/
def State.tileKeyOf (s : State) (off : Nat) (mcast : Bool) : Word :=
  match (s.fab.rktActive.getD []).find? (fun e => e.key ≠ 0 && e.job = s.job.p.jobId && (if mcast then e.mcast else e.store) &&
      decide (e.base ≤ off) && decide (off < e.base + e.length)) with
  | none => 0
  | some e => e.key

/-- Sends bytes of a working tile, with its message, to this node's children in the owner's tree: one multicast store at level 2 or 3, one store
for each child at level 1 (R342). -/
def State.sendDown (s : State) (m : TileMsg) (off : Nat) (data : Bytes) : State :=
  let kids := (s.job.p.childPos (s.treePos m.owner.toNat)).map fun p => s.job.p.moduleOf (s.job.p.memberAt m.owner.toNat p)
  let base := { pktBlank with cls := 1, job := s.job.p.jobId, tileMsg := some m }
  if kids.isEmpty || data.isEmpty then s
  else if s.job.p.level.toNat ≥ 2 then
    let pl := mcList (kids.map fun m => (m, 0)) ++ data
    s.request { base with op := 0x05, dst := kids.headD 0, addr := BitVec.ofNat 64 (off % 2 ^ 47), len := BitVec.ofNat 13 pl.length, payload := pl,
                          key := s.tileKeyOf off true } none
  else kids.foldl (fun s m =>
    s.request { base with op := 0x02, dst := m, addr := BitVec.ofNat 64 (m.toNat * 2 ^ 47 + off % 2 ^ 47), len := BitVec.ofNat 13 data.length,
                          payload := data, key := s.tileKeyOf off false } none) s

/-! ### The partner image area (R443, R444, R446) -/

/-- Size of an embedding's base section. -/
def ObjE.embBytes (e : ObjE) : Nat := e.mTiles * 64 * (6 * e.rowW) + e.mTiles * 64 * 4

/-- Bytes of a row log in the staging ring: a header of 64 B, then the log. -/
def stagedSize (n : Nat) : Nat := 64 + 64 * ceilDiv n 64

/-- A part of the area by its number in the directory: offset and size, 8 B each. -/
def State.partnerPart (s : State) (i : Nat) : Nat × Nat := (s.tiers.partnerMem.readLE (16 * i) 8, s.tiers.partnerMem.readLE (16 * i + 8) 8)

/-- Reads bytes of the log staging ring from a position, round its end. -/
def State.stagedBytes (s : State) (pos n : Nat) : Bytes :=
  let r := s.partnerPart 3
  let k := min n (r.2 - pos)
  s.tiers.partnerMem.readN (r.1 + pos) k ++ s.tiers.partnerMem.readN r.1 (n - k)

/-- Clears n bytes of the ring from a position, round its end: what stands there is discarded (R446). -/
def State.discardStaged (s : State) (pos n : Nat) : State :=
  let r := s.partnerPart 3
  let k := min n (r.2 - pos)
  s.upTiers fun t => { t with partnerMem := (t.partnerMem.zeroN (r.1 + pos) k).zeroN r.1 (min (n - k) r.2) }

/-- Offset of an object's embedding copy within the part of the copies: each begins at a page. -/
def copyOffset (es : List ObjE) (id : Nat) : Nat :=
  sumNat (((es.filter fun e => decide (e.kind = 5) && decide (e.id < id))).map fun e => page e.embBytes)

/-- The KIND 5 entries of the object directory of the image in a slot: what the copies hold, and where (R450). -/
def State.sourceRows (s : State) (i : Nat) : List ObjE :=
  let r := s.partnerPart i
  ((entriesOf (imgSection (s.tiers.partnerMem.readN r.1 r.2) 1) 64).map objOf).filter fun e => e.kind = 5

/-- Applies the entries of one log to the embedding copies of a source's objects, in their order (R446). -/
def State.copyLog (s : State) (es : List ObjE) : Nat → Bytes → State
  | 0, _ => s
  | n + 1, b =>
    if b.length < 8 then s
    else
      let len := leNat b 4 4
      let x := slice b 8 len
      let s := match es.find? fun e => e.id = leNat b 0 4 with
        | none => s
        | some e =>
          let w := 6 * e.rowW
          let o := (s.partnerPart 2).1 + copyOffset es e.id
          let put := fun (m : Memory) => (m.writeN (o + leNat x 0 4 * w) (slice x 8 w)).writeN (o + e.mTiles * 64 * w + 4 * leNat x 0 4) (slice x 4 4)
          s.upTiers fun t => { t with partnerMem := put t.partnerMem }
      s.copyLog es n (b.drop (8 + len))

/-- Applies and discards the staged logs of a step or earlier, at most n of them, in their order (R446). -/
def State.applyStaged (s : State) (es : List ObjE) (step : Nat) : Nat → State
  | 0 => s
  | n + 1 =>
    let h := s.stagedBytes s.sec.stagedPos 16
    let len := leNat h 8 8
    if len = 0 ∨ step < leNat h 0 8 then s
    else
      let size := stagedSize len
      let pos := s.sec.stagedPos
      let s := s.copyLog es len (s.stagedBytes ((pos + 64) % max 1 (s.partnerPart 3).2) len)
      let s := (s.discardStaged pos size).upSec fun c => { c with stagedPos := (pos + size) % max 1 (s.partnerPart 3).2 }
      s.applyStaged es step n

/-- The runtime sees the header of a slot written with COMPLETE: the staged logs up to its step go to the embedding copy, and that image and the
copy are now at its step (R446). -/
def State.seeSlot (s : State) (i : Nat) : State :=
  let o := (s.partnerPart i).1
  let m := s.tiers.partnerMem
  if decide ((s.partnerPart i).2 ≥ 128) && decide (m.readLE o 4 = 0x53454355) && bit (m.readLE (o + 4) 4) 10 then
    let step := m.readLE (o + 0x10) 8
    (s.applyStaged (s.sourceRows i) step ((s.partnerPart 3).2 / 128)).upSec fun c =>
      { c with hostedMod := BitVec.ofNat 17 (m.readLE (o + 0x0C) 4), hostedValid := true, hostedStep := BitVec.ofNat 64 step }
  else s

/-- A store into the partner image area is complete: a new directory begins a new, empty ring, and a slot whose header word it wrote is looked at. -/
def State.partnerStored (s : State) (off n : Nat) : State :=
  let s := s.when (rangesMeet off n 0 64) fun s => (s.discardStaged 0 (s.partnerPart 3).2).upSec fun c => { c with stagedPos := 0 }
  [0, 1].foldl (fun s i => if rangesMeet off n ((s.partnerPart i).1 + 4) 4 then s.seeSlot i else s) s

/-! ### Applying (R371, R390) -/

/-- The new value of an atomic (R371). -/
def atomicNew (aop w : Nat) (old operand compare : Nat) : Nat :=
  let m := 2 ^ (8 * w)
  let a := operand % m
  match aop with
  | 0 => (old + a) % m
  | 1 => a
  | 2 => if old = compare % m then a else old
  | 3 => old &&& a
  | 4 => old ||| a
  | 5 => old ^^^ a
  | 6 => max old a
  | 7 => min old a
  | _ => (add32 (BitVec.ofNat 32 old) (BitVec.ofNat 32 operand)).toNat

/-- Writes local offsets. -/
def State.writeLocal (s : State) (off : Nat) (data : Bytes) : State :=
  if off < 2 ^ 46 then (match s.objAt off with
    | none => s
    | some (o, a) => s.writeObj .inbound o a data)
  else s.upTiers fun t => { t with partnerMem := t.partnerMem.writeN (off % 2 ^ 44) data }

/-- A load or atomic of a line waits: Medlar updates the object's rows (R314), or a move's forwards are not applied (R242). -/
def State.lineWaits (s : State) (l : LineUpd) : Bool :=
  (decide (l.pkt.op = 0x01#8) || decide (l.pkt.op = 0x03#8)) && decide (l.start < 2 ^ 46) &&
    (match s.objAt l.start with
      | none => false
      | some (o, _) => s.rowsBusy o || o.readWaits)

/-- The data that a load has gathered, in the order of its offsets. -/
def Fabric.gathered (b : Fabric) (k : Pkt) : Bytes :=
  let mine := (b.gather.filter fun x => x.1 = k.src && x.2.1 = k.seq).inOrder fun x y => decide (x.2.2.1 ≤ y.2.2.1)
  mine.flatMap fun x => x.2.2.2

/-- The last line of a request is applied: it is answered, and what follows from a store follows. -/
def State.requestDone (s : State) (k : Pkt) (value : DWord) : State :=
  let off := localOff k.addr
  let data := if k.op = 0x01#8 then s.fab.gathered k else if k.op = 0x03#8 then toLE value.toNat 8 else []
  let s := s.upFab fun b =>
    { b with pendingReq := b.pendingReq.filter (· ≠ (k.src, k.seq)), gather := b.gather.filter fun x => !(x.1 = k.src && x.2.1 = k.seq) }
  let s := s.when (decide (k.op = 0x02#8) && !decide (off < 2 ^ 46)) fun s => s.partnerStored (off % 2 ^ 44) (pktSpan k)
  let s := match s.tileFor k with
    | none => s
    | some (o, a, m) =>
      let s := (s.upColl fun c => c.gotBytes o.e a (pktSpan k)).noteStep
      s.when s.inJob fun s => s.sendDown m off (pktData k)
  s.applied k value data

/-- Applies one line update (R390). -/
def State.applyLine (s : State) (l : LineUpd) : State :=
  let k := l.pkt
  let s := s.upFab fun b => { b with lines := b.lines.erase l }
  let old := leNat (s.readLocal l.start l.len) 0 l.len
  let (s, v) :=
    if k.op = 0x01#8 then (s.upFab fun b => { b with gather := b.gather ++ [(k.src, k.seq, l.start, s.readLocal l.start l.len)] }, 0)
    else if k.op = 0x03#8 then
      let w := atomicWidth k.payload
      (s.writeLocal l.start (toLE (atomicNew (byteAt k.payload 0) w old (leNat k.payload 8 8) (leNat k.payload 16 8)) w), old)
    else (s.writeLocal l.start l.data, 0)
  if s.fab.lines.any fun x => x.pkt.src = k.src && x.pkt.seq = k.seq then s else s.requestDone k (BitVec.ofNat 64 v)

end Sys2Proof.Machine
end

