-- ==== Sys2Proof/Machine/TransformRows.lean ====
section
/-! DEFINITION. Meanings of the rows of the transform personality (R184 to R206, R553). -/
namespace Sys2Proof.Machine

/-! ### The rotation (R184 to R186) -/

/-- One stage of the transform: n pairs of runs of h elements, each replaced by its sums and its differences (R186). -/
def butterflies (h : Nat) : Nat → List Word → List Word
  | 0, l => l
  | n + 1, l =>
    let a := l.take h
    let b := (l.drop h).take h
    List.zipWith add32 a b ++ List.zipWith sub32 a b ++ butterflies h n (l.drop (2 * h))

/-- The transform of 2^b elements in the fixed order of R186. -/
def fwht (b : Nat) (l : List Word) : List Word :=
  (List.range b).foldl (fun l i => butterflies (2 ^ i) (2 ^ (b - 1 - i)) l) l

/-- A value with the sign of rotation index p (R185). -/
def signed (seed : Word) (p : Nat) (x : Word) : Word := if rotationNeg seed p then neg32 x else canon32 x

/-- A value × 2^-k. -/
def down (k : Nat) (x : Word) : Word := enc32 ((dec32 x).scale2 (-(k : Int)))

/-- One rotation group whose first element has index p, of 2^b elements, in the forward or the inverse direction (R186). -/
def rotateGroup (b : Nat) (inverse : Bool) (seed : Word) (p : Nat) (l : List Word) : List Word :=
  let sign (l : List Word) := l.zipIdx.map fun x => signed seed (p + x.2) x.1
  if inverse then sign ((fwht b l).map (down (b / 2))) else (fwht b (sign l)).map (down (b / 2))

/-- Row r of a tile of 4,096 values. -/
def rowOf (t : List Word) (r : Nat) : List Word := (t.drop (64 * r)).take 64

/-- The rotated tiles of a group of input tiles, the first at tile column n of the tensor (R184, R195, R553). -/
def rotateTiles (f : Bytes) (n : Nat) (ts : List (List Word)) : List (List Word) :=
  if rotCode f = 0 then ts
  else
    let b := if rotCode f = 1 then 6 else 8
    let rows := (List.range 64).map fun r => rotateGroup b (rotInverse f) (rotSeed f) (64 * n) (ts.flatMap fun t => rowOf t r)
    (List.range ts.length).map fun i => rows.flatMap fun row => rowOf row i

/-! ### Outliers (R196 to R199) -/

/-- What the extraction of a tile has gathered: its records, the pool share left, the clamps. -/
structure Extract where
  recs : List Word
  pool : Nat
  clamps : Nat
  deriving DecidableEq, Repr

/-- The record of an outlier (R199).
(DEDUCED, log entry 135) -/
def outlierRec (x : Word) (r c : Nat) (pooled : Bool) : Word :=
  BitVec.ofNat 32 ((toBF16 .rne false x).bits + r * 2 ^ 16 + c * 2 ^ 22 + b2n pooled * 2 ^ 28)

/-- Places one outlier: within the budget, from the pool share while the block has room, or clamped (R197). True when it is
recorded. -/
def Extract.place (f : Bytes) (e : Extract) (x : Word) (r c : Nat) : Bool × Extract :=
  if e.recs.length < tileBudget f then (true, { e with recs := e.recs ++ [outlierRec x r c false] })
  else if 0 < e.pool ∧ e.recs.length < 16 * (oblkWords f - 1) then
    (true, { e with recs := e.recs ++ [outlierRec x r c true], pool := e.pool - 1 })
  else (false, { e with clamps := e.clamps + 1 })

/-- Exponent X of a block of finite elements, and whether it may yield outliers (R196). -/
def outlierScale (f : Bytes) (h : Nat) (xs : List Word) : Int × Bool :=
  let l := (((pairTree 5 (xs.map fun x => some (abs32 x))).map dec32).getD .zero).scale2 (-5)
  let l := (dec32 (enc32 l)).scale2 (thrLog2 f)
  let vs := xs.map dec32
  let amaxIn := amaxOf (vs.filter fun v => !(dec32 (enc32 l)).lt v.abs)
  if amaxIn.isZero then (exponentFor (amaxOf vs) 448 h, false) else (exponentFor amaxIn 448 h, true)

/-- One element of a block: an outlier recorded as 0, an outlier clamped to ±448, or a converted element (R196 to R198). -/
def outlierElem (f : Bytes) (x : Int) (may : Bool) (r c : Nat) (rnd : Rnd) (w : Word) (e : Extract) : Byte × TileFlags × Extract :=
  let v := dec32 w
  if may && (FVal.fin false 448 x).lt v.abs then
    let p := e.place f w r c
    if p.1 then (0, .none, p.2) else (if v.isNeg then 0xFE else 0x7E, { TileFlags.none with sat := true }, p.2)
  else
    let k := convF fE4M3 rnd (outSat f) (v.scale2 (-x))
    (BitVec.ofNat 8 k.bits, k.flags, e)

/-- Block h of row r under extraction (R196 to R198). A block with a NaN or an infinity is converted under R164. -/
def outlierBlock (f : Bytes) (hEff r h : Nat) (xs : List Word) (rnd : Nat → Rnd) (e : Extract) : RowOut × Extract :=
  if xs.any fun x => !isFin32 x then (convBlock false (outSat f) hEff (xs.map dec32) fun i => rnd (32 * h + i), e)
  else
    let sc := outlierScale f hEff xs
    let out := xs.zipIdx.foldl (fun (acc : Bytes × TileFlags × Extract) p =>
      let q := outlierElem f sc.1 sc.2 r (32 * h + p.2) (rnd (32 * h + p.2)) p.1 acc.2.2
      (acc.1 ++ [q.1], acc.2.1.or q.2.1, q.2.2)) ([], .none, e)
    ({ data := out.1, scales := [BitVec.ofNat 8 (sc.1 + 127).toNat], flags := out.2.1 }, out.2.2)

/-- The rows of a tile under extraction, in storage order (R197). -/
def outlierTile (f : Bytes) (key : DrawKey) (hEff m n : Nat) (xs : List Word) (pool : Nat) : List RowOut × Extract :=
  (List.range 64).foldl (fun acc r =>
    let rnd := fun c => outRnd f key (elemIndex f m n r c) 0
    let a := outlierBlock f hEff r 0 ((rowOf xs r).take 32) rnd acc.2
    let b := outlierBlock f hEff r 1 ((rowOf xs r).drop 32) rnd a.2
    (acc.1 ++ [a.1.join b.1], b.2)) ([], { recs := [], pool := pool, clamps := 0 })

/-- The outlier block of a tile, with SEQ 0, as long as its slot (R199). -/
def outlierBytes (f : Bytes) (m n : Nat) (e : Extract) : Bytes :=
  let bs := toLE (m % 65536) 2 ++ toLE (n % 65536) 2 ++ toLE (fTensor f).toNat 4 ++ toLE 0 4 ++ toLE e.recs.length 2 ++ toLE e.clamps 2 ++
    toLE (b2n (e.recs.any (·.getLsbD 28)) + 2 * b2n (decide (e.clamps ≠ 0))) 1 ++ toLE (tLayer f) 2 ++ List.replicate 45 0 ++
    e.recs.flatMap fun w => toLE w.toNat 4
  bs ++ List.replicate (64 * oblkWords f - bs.length) 0

/-! ### TRANSFORM_TILE -/

/-- Largest finite magnitude of a tile (R206). -/
def tileAmax (xs : List Word) : Word := enc32 (amaxOf (xs.map dec32))

/-- One output tile of a ROTATE nest from its rotated values: the tile with its outlier block and its full copy, and the
nest's running report (R196 to R200, R206). -/
def rotateOut (f : Bytes) (key : DrawKey) (h : Nat) (n : Nest) (o : Nat) (xs : List Word) : OutTile × Nest :=
  let m := n.args.m0 + tileM f o
  let k := n.args.n0 + tileN f o
  let n := { n with amax := max32 n.amax (tileAmax xs) }
  if outlierEn f then
    let r := outlierTile f key h m k xs n.pool
    let t := outTile f n o r.1
    let full := t.hdr ++ recordOf (convTile f key 4 0 1 m k xs)
    ({ t with oblk := some (outlierBytes f m k r.2), full := if fullEn f then some full else none },
      { n with pool := r.2.pool, recs := n.recs + r.2.recs.length, clamps := n.clamps + r.2.clamps })
  else (outTile f n o (if outFmt f = 7 then openTile f key m k xs else convTile f key (outFmt f) h 0 m k xs), n)

/-- The output tiles of a group, in n order, whose first has ordinal o. -/
def rotateOuts (f : Bytes) (key : DrawKey) (h : Nat) (n : Nest) (o : Nat) (ts : List (List Word)) : List OutTile × Nest :=
  ts.zipIdx.foldl (fun acc p =>
    let q := rotateOut f key h acc.2 (o + p.2) p.1
    (acc.1 ++ [q.1], q.2)) ([], n)

/-- The values that an input tile presents: S0, plus S1 under ADD_S1 (R193, R204). -/
def CellS.rotateIn (k : CellS) (f : Bytes) (n : Nest) : List Word :=
  (List.range 64).flatMap fun r => (List.range 64).map fun c =>
    let x := k.lane f n.args n.pos 0 r c
    if addS1 f then add32 x (k.lane f n.args n.pos 1 r c) else x

/-- Every output of a group lies in the data area, as far as the frame places it. -/
def groupInside (f : Bytes) (os : List OutTile) (o : Nat) : Bool :=
  os.zipIdx.all fun p => destInside f (tileM f (o + p.2)) (tileN f (o + p.2)) p.1.data

/-- TRANSFORM_TILE (R122, R184 to R201, R206, R212, R553): the next input tile of a ROTATE nest; a group of block 256 gives
its outputs with its fourth tile. -/
def execTransformTile (c : Fin 1024) (s : State) : Res :=
  match s.cells[c].running 3 with
  | none => .next s
  | some n =>
    let k := s.cells[c]
    let f := k.active.bytes
    if tMac f then .next s
    else .next (s.laneStep c n
      (let ts := n.ins ++ [k.rotateIn f n]
       let bad := k.spoils f n.args n.pos
       if decide (rotCode f = 2) && decide (ts.length < 4) then
         (s.upCell c fun k => k.stepped f n fun n => { n with ins := ts }).reportSpoil c bad
       else
         let o := n.pos + 1 - ts.length
         let marked := { n with spoiled := if bad then feeds f n.pos ++ n.spoiled else n.spoiled }
         let out := rotateOuts f (s.keyOf n f) (s.hEff n f) marked o
           (rotateTiles f (n.args.n0 + tileN f o) ts)
         if !groupInside f out.1 o then s.nestFault c
         else
           (s.upCell c fun k =>
             let k := k.stepped f n fun n => { out.2 with pos := n.pos, spoiled := n.spoiled, ins := [] }
             { k with outs := k.outs ++ out.1 }).reportSpoil c bad))

/-! ### OUTLIER_MAC_TILE (R202, R203) -/

/-- Word w of the outlier block at a word (R199), and its count of records, which its slot bounds. -/
def blockWord (m : Memory) (word w : Nat) : Nat := m.readLE (64 * word + 4 * w) 4
def blockCount (f : Bytes) (m : Memory) (word : Nat) : Nat := min (m.readLE (64 * word + 12) 2) (16 * (oblkWords f - 1))

/-- Level × scale of element (r, c) of a weight tile at a word (R159). -/
def macLevel (f : Bytes) (m : Memory) (word r c : Nat) : FVal :=
  (levelOf (wFmt f) (weightCode m (wFmt f) (64 * word) r c)).mul (weightScale m (wFmt f) (64 * word) c)

/-- One record added into the correction tile: its row takes v × w for every column (R202).
(DEDUCED, log entry 47) -/
def macAdd (f : Bytes) (m : Memory) (wt rec : Nat) (t : List Word) : List Word :=
  let v := decBF16 (field rec 15 0)
  let r := field rec 21 16
  let q := field rec 27 22
  t.zipIdx.map fun x =>
    if x.2 / 64 = r then
      let j := x.2 % 64
      acc32 x.1 (v.mul (if wModeT f then macLevel f m wt j q else macLevel f m wt q j))
    else x.1

/-- The correction tile of output tile o (R202, R203). -/
def macTile (f : Bytes) (m : Memory) (a : StartArgs) (o : Nat) : List Word :=
  (List.range (macK f)).foldl (fun t k =>
    let b := macBlock f o k
    (List.range (blockCount f m b)).foldl (fun t i => macAdd f m (macWeight f a o k) (blockWord m b (16 + i)) t) t)
    (List.replicate 4096 0)

/-- The blocks and weight tiles of output tile o lie in the data area. -/
def macInside (f : Bytes) (a : StartArgs) (o : Nat) : Bool :=
  (List.range (macK f)).all fun k =>
    wordsInside (macBlock f o k) (oblkWords f) && wordsInside (macWeight f a o k) (weightWords (wFmt f))

/-- OUTLIER_MAC_TILE (R122, R202, R203): the correction tile of the next output tile. -/
def execOutlierMacTile (c : Fin 1024) (s : State) : Res :=
  match s.cells[c].running 3 with
  | none => .next s
  | some n =>
    let k := s.cells[c]
    let f := k.active.bytes
    if !tMac f then .next s
    else if !nestDone f n && k.entered && !macInside f n.args n.pos then .next (s.nestFault c)
    else .next (s.laneStep c n
      (s.laneOut c n n.pos (convTile f (s.keyOf n f) 0 0 0 (n.args.m0 + tileM f n.pos) (n.args.n0 + tileN f n.pos)
        (macTile f k.store n.args n.pos)) id))

/-- The object of a kind that holds a tile of a tensor: its tile number in the object (R222). -/
def State.tileOf (s : State) (kind tensor m n : Nat) : Option (ObjS × Nat) :=
  (s.rt.objects.find? fun o => decide (o.e.kind = kind) && decide (o.e.tensor = tensor) && decide (o.e.shardFirst ≤ m) &&
    decide (m < o.e.shardFirst + o.e.mTiles) && decide (n < o.e.nTiles)).map fun o => (o, (m - o.e.shardFirst) * o.e.nTiles + n)

/-- A drained slot goes to the stack tier: a full copy into its tile of the saved activation, an outlier block into its place among the outlier
blocks, of as many bytes a tile as the frame's slots have (R25, R199, R200, R254). A tensor that no object holds is drained to nowhere.
(DESIGN CHOICE, log entry 141) -/
def State.saveSlot (s : State) (full : Bool) (bs : Bytes) : State :=
  let put := fun (x : ObjS × Nat) (len : Nat) (data : Bytes) =>
    if (x.2 + 1) * len ≤ x.1.size then s.writeObj .mover x.1 (x.2 * len) data else s
  match s.tileOf (if full then 3 else 8) (leNat bs 4 4) (leNat bs 0 2) (leNat bs 2 2) with
  | none => s
  | some x =>
    if !full then put x bs.length bs
    else if x.1.e.fmt = 4 then put x (recSize 4) (bs.drop 64)
    else s

/-- RING_SLOT_DRAINED (R25, R200, R201): the tile mover has read the oldest filled slot of the outlier-block or full-copy ring into the stack
tier; it is free, and what waited for it goes on. -/
def execRingSlotDrained (c : Fin 1024) (full : Bool) (s : State) : Res :=
  let k := s.cells[c]
  let f := k.active.bytes
  let slots := if full then k.fullFull else k.oblkFull
  let words := if full then 67 else oblkWords f
  let base := if full then fullBase f else oblkBase f
  let s := match slots with
    | [] => s
    | i :: _ => s.saveSlot full (k.store.readN (64 * (base + i * words)) (64 * words))
  .next ((s.upCell c fun k =>
    if full then { k with fullFull := k.fullFull.drop 1 } else { k with oblkFull := k.oblkFull.drop 1 }).retry c)

end Sys2Proof.Machine
end

