-- ==== Sys2Proof/Machine/MedlarOps.lean ====
section
/-! DEFINITION. The arithmetic of the update engines: the scalars of R291, the recurrence of R292 to R294, the coding of working
tiles (R166, R167), the sum of squares (R307), the clip factor (R308) and the ratios (R316). -/
namespace Sys2Proof.Machine

/-! ### Scalars (R291, R308) -/

/-- FP64 subtraction. -/
def sub64 (a b : DWord) : DWord := enc64 ((dec64 a).add (dec64 b).neg)

/-- A group with every field 0: the entry of a group that no table gives. -/
def Group.blank : Group :=
  { valid := false, denom := false, sign := false, bc1 := false, bc2 := false, clipExempt := false, a1 := 0, b1 := 0, a2 := 0, b2 := 0,
    c0 := 0, c1 := 0, c2 := 0, eps := 0, gScale := 0, lCoupled := 0, lDecoupled := 0, lrScale := 0, ratioLo := 0, ratioHi := 0,
    persist := 0 }

/-- Scalars of a group, every one 0. -/
def Scalars.zero : Scalars := { kG := 0, bc1 := 0, bc2 := 0, keep := 0, step := 0 }

/-- The scalars of a group for a step size, a clip factor and an update count (R291); the powers of t = U + 1 are formed as those of R311.
(DEDUCED, log entry 64) -/
def scalarsOf (g : Group) (eta clip : Word) (u : DWord) : Scalars :=
  let bc := fun (on : Bool) (a : Word) => if on then to32of64 (div64 one64 (sub64 one64 (powBits64 (to64of32 a) (u.toNat + 1) 64 one64))) else one32
  let lr := mul64 (to64of32 eta) (to64of32 g.lrScale)
  { kG := if g.clipExempt then g.gScale else to32of64 (mul64 (to64of32 g.gScale) (to64of32 clip))
    bc1 := bc g.bc1 g.a1
    bc2 := bc g.bc2 g.a2
    keep := to32of64 (sub64 one64 (mul64 lr (to64of32 g.lDecoupled)))
    step := to32of64 lr }

/-- The clip factor (R308).
(DEDUCED, log entry 152) -/
def clipOf (clipNorm : Word) (sumsq : DWord) : Word :=
  if (dec32 clipNorm).isZero || (dec64 sumsq).isZero then one32
  else
    let c := div64 (to64of32 clipNorm) (sqrt64 sumsq)
    to32of64 (if (dec64 c).lt .one then c else one64)

/-! ### The recurrence (R292 to R294) -/

/-- sign(n) of R292.
(DEDUCED, log entry 65) -/
def sign32 (n : Word) : Word :=
  if isNaN32 n then nan32 else if (dec32 n).isZero then 0 else if (dec32 n).isNeg then neg32 one32 else one32

/-- What s missed updates leave of a row's element (R311). -/
def catchUp (g : Group) (sc : Scalars) (s : Nat) (w m v : Word) : Word × Word × Word :=
  if s = 0 then (w, m, v)
  else (mul32 w (powi32 sc.keep s), mul32 m (powi32 g.a1 s), mul32 v (powi32 g.a2 s))

/-- The recurrence of R292 on one element, after its catch-up: new weight, first and second moment. -/
def medlarElement (g : Group) (sc : Scalars) (w m v gr : Word) : Word × Word × Word :=
  let gs := fma32 g.lCoupled w (mul32 gr sc.kG)
  let mNew := fma32 g.a1 m (mul32 g.b1 gs)
  let vNew := fma32 g.a2 v (mul32 g.b2 (mul32 gs gs))
  let n := fma32 g.c0 m (fma32 g.c1 (mul32 mNew sc.bc1) (mul32 g.c2 gs))
  let u := if g.sign then sign32 n
    else if g.denom then div32 n (add32 (sqrt32 (mul32 vNew sc.bc2)) g.eps)
    else n
  (fma32 w sc.keep (neg32 (mul32 sc.step u)), mNew, vNew)

/-- What one element became: its codes, whether it was kept (R294), whether its second moment overflowed L16, and the FP64
squares of its change and of its weight (R316). -/
structure ElemOut where
  w : Nat
  m : Nat
  v : Nat
  kept : Bool
  sat : Bool
  d2 : DWord
  w2 : DWord
  deriving DecidableEq, Repr

/-- A BF16 code as FP32, exactly. -/
def w32 (code : Nat) : Word := enc32 (decBF16 code)

/-- An FP32 result that BF16 cannot hold (R294): NaN, infinite, or beyond its largest finite value. -/
def beyondBF16 (x : Word) : Bool := !isFin32 x || (decodeF fBF16 (maxF fBF16 false)).lt (dec32 x).abs

/-- One component that changed: its BF16 code by a draw, or the code read when the result equals the value read (R293). -/
def writeBF16 (code : Nat) (draw : Nat) (x : Word) : Nat := if eq32 x (w32 code) then code else (toBF16 (.sr draw) false x).bits

/-- The second moment's L16 code, and whether it overflowed (R170, R293). -/
def writeL16 (code : Nat) (draw : Nat) (x : Word) : Nat × Bool := if eq32 x (decL16 code) then (code, false) else toL16 (.sr draw) x

/-- One element of an update (R292 to R294, R300). -/
def elemOut (g : Group) (sc : Scalars) (s : Nat) (draw : Nat → Nat) (cw cm cv : Nat) (gr : Word) : ElemOut :=
  let c := catchUp g sc s (w32 cw) (w32 cm) (decL16 cv)
  let r := medlarElement g sc c.1 c.2.1 c.2.2 gr
  if beyondBF16 r.1 || beyondBF16 r.2.1 || isNaN32 r.2.2 then { w := cw, m := cm, v := cv, kept := true, sat := false, d2 := 0, w2 := 0 }
  else
    let nw := writeBF16 cw (draw 0) r.1
    let nm := writeBF16 cm (draw 1) r.2.1
    let nv := writeL16 cv (draw 2) r.2.2
    let d := enc64 ((decBF16 nw).add (decBF16 cw).neg)
    { w := nw, m := nm, v := nv.1, kept := false, sat := nv.2, d2 := mul64 d d, w2 := mul64 (enc64 (decBF16 cw)) (enc64 (decBF16 cw)) }

/-! ### Weight coding (R166, R167) -/

/-- Column scale of a block of 64 values in an object format (8 W2Q, 9 W2T, 10 W1): its E4M3 code, and whether it counts in the
weight-scale telemetry. -/
def weightScaleOf (fmt : Nat) (xs : List Word) : Nat × Bool :=
  let vs := xs.map fun x => (dec32 x).abs
  let pick := fun (mode : Rnd) (x : FVal) (num den : Nat) => match x with
    | .nan => (0x7F, false)
    | .inf _ => (maxF fE4M3 false, true)
    | .fin _ m e =>
      if m = 0 then (0, false)
      else
        let c := roundF fE4M3 mode true false (m * num) den e
        let low := (FVal.fin false (m * num) e).lt (.fin false den (-9))
        (c.bits, c.sat || (decide (fmt ≠ 10) && decide (c.bits = 1) && low))
  if vs.any FVal.isNaN then (0x7F, false)
  else
    let top := vs.foldl magMax .zero
    if top.isZero then (0, false)
    else if fmt = 8 then pick .up top 2 3
    else if fmt = 9 then pick .up top 1 1
    else pick .rne (vs.foldl FVal.add .zero) 1 64

/-- Code of one value under a scale (R167): from q = x / s in FP32. -/
def weightCodeOf (fmt scale : Nat) (x : Word) : Nat :=
  if scale = 0x7F || (scale = 0 && decide (fmt ≠ 10)) then 0
  else
    let q := dec32 (div32 x (enc32 (decodeF fE4M3 scale)))
    match fmt with
    | 8 => if (FVal.fin false 1 0).lt q.abs then (if q.isNeg then 3 else 1) else if q.isZero || !q.isNeg then 0 else 2
    | 9 => if (FVal.fin false 1 (-1)).lt q.abs then (if q.isNeg then 3 else 1) else 0
    | _ => if q.lt .zero then 1 else 0

/-- One byte of codes of w bits each, the first lowest. -/
def packCodes (w : Nat) (l : List Nat) : Byte := BitVec.ofNat 8 (l.zipIdx.foldl (fun n x => n + x.1 * 2 ^ (w * x.2)) 0)

/-- A working tile record from its 64 columns of 64 values (R160, R161), and its count of clipped and raised columns. -/
def codeTile (fmt : Nat) (cols : List (List Word)) : Bytes × Nat :=
  let scales := cols.map (weightScaleOf fmt)
  let codes := (cols.zip scales).map fun x => x.1.map (weightCodeOf fmt x.2.1)
  let w := if fmt = 10 then 1 else 2
  let per := 8 / w
  let data := (List.range 64).flatMap fun r => (List.range (64 / per)).map fun b =>
    packCodes w ((List.range per).map fun i => (codes.getD (b * per + i) []).getD r 0)
  (data ++ scales.map (fun s => BitVec.ofNat 8 s.1), (scales.filter (·.2)).length)

/-! ### Sums -/

/-- The pairwise tree of R138 over 2^n FP64 values: neighbours are added, level by level. -/
def pairs64 : List DWord → List DWord
  | a :: b :: l => add64 a b :: pairs64 l
  | l => l
def tree64 : Nat → List DWord → DWord
  | 0, l => l.headD 0
  | n + 1, l => tree64 n (pairs64 l)

/-- Sum of the squares of a tile of 4,096 BF16 codes (R307).
(DEDUCED, log entry 63) -/
def tileSquares (codes : List Nat) : DWord := tree64 12 (codes.map fun c => mul64 (enc64 (decBF16 c)) (enc64 (decBF16 c)))

/-- The BF16 codes of n elements of an object from a byte offset. -/
def codesOf (bs : Bytes) : Nat → List Nat
  | 0 => []
  | n + 1 => leNat bs 0 2 :: codesOf (bs.drop 2) n

/-- The one stack of a set. -/
def HomeSet.single (h : HomeSet) : Option (Fin 12) :=
  match h with
  | .stack k => some k
  | _ => none

/-- The gradients on which Medlar acts (R284): KIND 2 objects homed on one stack whose PARENT is of KIND 0 or 5, in ascending OBJ_ID. -/
def State.medlarGrads (s : State) : List ObjS :=
  (s.rt.objects.filter fun o => decide (o.e.kind = 2) && o.home.set.single.isSome && (match s.obj o.e.parent with
    | none => false
    | some p => decide (p.e.kind = 0 ∨ p.e.kind = 5))).inOrder fun a b => decide (a.e.id ≤ b.e.id)

/-- Rows below COUNT of a packed-row gradient; every row of another one. -/
def State.gradRows (s : State) (o : ObjS) : Nat :=
  match s.obj o.e.parent with
  | none => o.e.mTiles * 64
  | some p => if p.e.kind = 5 then (s.listedRows o.e.id).length else o.e.mTiles * 64

/-- Sum of squares of one gradient object (R307): its tiles in ascending order; rows at or above COUNT count as zeros. -/
def State.objSquares (s : State) (o : ObjS) : DWord :=
  let rows := s.gradRows o
  (List.range o.e.tiles).foldl (fun acc t =>
    let m := t / max 1 o.e.nTiles
    let codes := codesOf (s.readObj o (t * 8192) 8192) 4096
    add64 acc (tileSquares (codes.zipIdx.map fun x => if m * 64 + x.2 / 64 < rows then x.1 else 0))) 0

/-- The module's sum (R307). -/
def State.sumSquares (s : State) : DWord := s.medlarGrads.foldl (fun acc o => add64 acc (s.objSquares o)) 0

/-! ### Ratios (R316, R317) -/

/-- The ratio of a pair's sums, objects in ascending OBJ_ID, formed in FP32. -/
def RatioS.form (r : RatioS) : Word :=
  let l := r.sums.inOrder fun a b => decide (a.1 ≤ b.1)
  let d := to32of64 (l.foldl (fun acc x => add64 acc x.2.1) 0)
  let w := to32of64 (l.foldl (fun acc x => add64 acc x.2.2) 0)
  if (dec32 w).isZero then (if (dec32 d).isZero then 0 else pinf32) else sqrt32 (div32 d w)

/-- Adds squares to the sums of an object in its pair. -/
def addRatio (layer group obj : Nat) (outs : List ElemOut) (l : List RatioS) : List RatioS :=
  l.map fun r =>
    if r.layer = layer && r.group = group then
      let old := (r.sums.find? fun x => x.1 = obj).getD (obj, 0, 0)
      let kept := outs.filter fun o => !o.kept
      let d := kept.foldl (fun acc o => add64 acc o.d2) old.2.1
      let w := kept.foldl (fun acc o => add64 acc o.w2) old.2.2
      { r with sums := putKV obj (d, w) r.sums }
    else r

/-- One comparison with the band of a group (R317): the new counts, and the event to raise. -/
def RatioS.check (g : Group) (r : RatioS) : RatioS × Option Nat :=
  let p := max 1 g.persist
  if (dec32 g.ratioHi).isZero then ({ r with above := 0, below := 0 }, none)
  else if lt32 g.ratioHi r.ratio then
    (if r.above + 1 ≥ p then ({ r with above := 0, below := 0 }, some evRatioHigh) else ({ r with above := r.above + 1, below := 0 }, none))
  else if lt32 r.ratio g.ratioLo then
    (if r.below + 1 ≥ p then ({ r with above := 0, below := 0 }, some evRatioLow) else ({ r with above := 0, below := r.below + 1 }, none))
  else ({ r with above := 0, below := 0 }, none)

end Sys2Proof.Machine
end

