-- ==== Sys2Proof/Machine/MedlarRows.lean ====
section
/-! DEFINITION. Meanings of the rows of the update pass (R284 to R302, R310 to R316). -/
namespace Sys2Proof.Machine

/-! ### Beginning the pass -/

/-- Groups of the coefficient table. -/
def State.groups (s : State) : List Group := (s.rt.image.map (·.groups)).getD []
def State.groupOf (s : State) (g : Nat) : Group := s.groups.getD g .blank
def State.scalarsFor (s : State) (g : Nat) : Scalars := s.medlar.scalars.getD g .zero

/-- The gradient of a parameter. -/
def State.gradFor (s : State) (o : ObjS) : Option ObjS := s.rt.objects.find? fun c => decide (c.e.kind = 2) && decide (c.e.parent = o.e.id)

/-- Rows listed for a KIND 5 object (R290). -/
def State.rowsFor (s : State) (o : ObjS) : List Nat :=
  match s.gradFor o with
  | none => []
  | some g => s.listedRows g.e.id

/-- Stack whose Medlar acts on an object (R284, R313): its own; for an embedding, the one stack of its gradient. None acts on an embedding whose
gradient has no stack of its own, for a Medlar reads and writes only the channels of its stack.
(DEDUCED, log entry 66) -/
def State.medlarOf (s : State) (o : ObjS) : Option (Fin 12) :=
  if o.e.kind = 5 then (s.gradFor o).bind fun g => g.home.set.single else o.home.set.single

/-- The rows of an embedding pass through the row window of the Medlar that acts: it is not homed in that Medlar's stack (R284, R313). -/
def State.windowed (s : State) (o : ObjS) : Bool := decide (o.e.kind = 5) && decide (o.home.set.single ≠ s.medlarOf o)

/-- Tile rows of a rotation group: four of a block of 256, else one (R299). -/
def ObjE.groupTiles (e : ObjE) : Nat := if e.rotBlock = 2 then 4 else 1

/-- Units of an object (R299): rotation groups of its tile columns; blocks of 64 listed rows. -/
def State.unitsOf (s : State) (o : ObjS) : Nat :=
  if o.e.kind = 5 then ceilDiv (s.rowsFor o).length 64 else o.e.nTiles * ceilDiv o.e.mTiles o.e.groupTiles

/-- The objects of the pass, by LAYER and OBJ_ID (R284, R287). -/
def State.passList (s : State) : List PassObj :=
  let os := s.rt.objects.filter fun o => decide (o.e.kind = 0 ∨ o.e.kind = 5) && (s.medlarOf o).isSome && decide (0 < s.unitsOf o)
  (os.inOrder fun a b => decide (a.e.layer < b.e.layer) || (decide (a.e.layer = b.e.layer) && decide (a.e.id ≤ b.e.id))).map fun o =>
    { obj := BitVec.ofNat 32 o.e.id, done := 0 }

/-- The (LAYER, GROUP) pairs of the objects, in ascending order. -/
def State.ratioPairs (s : State) : List (Nat × Nat) :=
  (((s.rt.objects.filter fun o => decide (o.e.kind = 0 ∨ o.e.kind = 5)).map fun o => (o.e.layer, o.e.group)).dedup).inOrder fun a b =>
    decide (a.1 < b.1) || (decide (a.1 = b.1) && decide (a.2 ≤ b.2))

/-- The ratios at the start of a pass: sums empty, the counts of R317 kept. -/
def State.freshRatios (s : State) : List RatioS :=
  s.ratioPairs.map fun p =>
    match s.medlar.ratios.find? fun r => r.layer = p.1 && r.group = p.2 with
    | none => { layer := p.1, group := p.2, sums := [], ratio := 0, above := 0, below := 0 }
    | some r => { r with sums := [] }

/-- UPDATE_PASS_START (R36, R37, R285, R286, R291, R306): the decision is update, the step sizes are there, and securing has
released the buffer. -/
def execUpdatePassStart (s : State) : Res :=
  match s.medlar.inUse with
  | none => .next s
  | some r =>
    if decide (s.job.stage = .stage5) && !s.medlar.passOn && s.sec.bufferFree then
      .next (s.upMedlar fun m =>
        { m with
          passOn := true
          midUpdate := true
          prevStep := none
          scalars := (List.range 64).map fun g => scalarsOf (s.groupOf g) (r.eta.getD g 0) m.clip m.u
          pass := s.passList
          ratios := s.freshRatios })
    else .next s

/-! ### One unit -/

/-- Bytes of a plane's tile: buffer, plane and tile (R288). -/
def planeOff (e : ObjE) (buf plane tile : Nat) : Nat := (3 * buf + plane) * e.plane + tile * 8192

/-- The gradient's elements of a rotation group, in the unrotated basis: tile by tile, row-major (R299 steps 1 and 2). A
parameter without a gradient object has a gradient of 0. -/
def State.unitGrad (s : State) (o : ObjS) (tiles : List Nat) (p : Nat) : List (List Word) :=
  let raw := tiles.map fun t => match s.gradFor o with
    | none => List.replicate 4096 0
    | some g => (codesOf (s.readObj g (t * 8192) 8192) 4096).map w32
  if o.e.rotBlock = 0 then raw
  else
    let b := if o.e.rotBlock = 2 then 8 else 6
    let cols := (List.range 64).map fun c =>
      rotateGroup b true (BitVec.ofNat 32 o.e.rotSeed) p (raw.flatMap fun t => (List.range 64).map fun r => t.getD (64 * r + c) 0)
    (List.range tiles.length).map fun i => (List.range 4096).map fun e => (cols.getD (e % 64) []).getD (64 * i + e / 64) 0

/-- The new elements of one tile (R299 step 3, R300). -/
def State.tileOuts (s : State) (o : ObjS) (tile : Nat) (grad : List Word) : List ElemOut :=
  let buf := s.medlar.u.toNat % 2
  let at_ := fun (plane : Nat) => codesOf (s.readObj o (planeOff o.e buf plane tile) 8192) 4096
  let g := s.groupOf o.e.group
  let sc := s.scalarsFor o.e.group
  let width := o.e.nTiles * 64
  let row0 := (o.e.shardFirst + tile / max 1 o.e.nTiles) * 64
  let col0 := tile % max 1 o.e.nTiles * 64
  (((at_ 0).zip (at_ 1)).zip ((at_ 2).zip grad)).zipIdx.map fun x =>
    let elem := (row0 + x.2 / 64) * width + col0 + x.2 % 64
    elemOut g sc 0 (draw12 s.job.p.seed s.job.step (BitVec.ofNat 32 o.e.tensor) elem) x.1.1.1 x.1.1.2 x.1.2.1 x.1.2.2

/-- Writes bytes into the home of an object. Medlar works on an object only while no stub of it stands. -/
def State.writeHome (s : State) (o : ObjS) (off : Nat) (bs : Bytes) : State := s.upTiers fun t => t.writeHome o.home off bs

/-- Writes one tile's new state into the write buffer (R299 step 4). -/
def State.writeTileOuts (s : State) (o : ObjS) (tile : Nat) (outs : List ElemOut) : State :=
  let buf := (s.medlar.u.toNat + 1) % 2
  ((s.writeHome o (planeOff o.e buf 0 tile) (outs.flatMap fun x => toLE x.w 2)).writeHome o (planeOff o.e buf 1 tile)
    (outs.flatMap fun x => toLE x.m 2)).writeHome o (planeOff o.e buf 2 tile) (outs.flatMap fun x => toLE x.v 2)

/-- The working tiles of a rotation group of weights: each with its record and its count (R299 steps 5 and 6). -/
def workTiles (e : ObjE) (fmt p : Nat) (weights : List (List Word)) : List (Bytes × Nat) :=
  let b := if e.rotBlock = 2 then 8 else 6
  let cols := (List.range 64).map fun c =>
    let l := weights.flatMap fun t => (List.range 64).map fun r => t.getD (64 * r + c) 0
    if e.rotBlock = 0 then l else rotateGroup b false (BitVec.ofNat 32 e.rotSeed) p l
  (List.range weights.length).map fun i => codeTile fmt (cols.map fun l => (l.drop (64 * i)).take 64)

/-- Counts in a stack's telemetry, and raises UPDATE_KEPT once per object and step (R294). -/
def State.countOuts (s : State) (k : Fin 12) (o : ObjS) (outs : List ElemOut) (scales : Nat) : State :=
  let kept := (outs.filter (·.kept)).length
  let id := BitVec.ofNat 32 o.e.id
  let raise := decide (0 < kept) && !s.medlar.keptRaised.contains id
  let s := s.upMedlar fun m =>
    { m with
      kept := updV m.kept k fun x => satAdd x kept
      l16Sat := updV m.l16Sat k fun x => satAdd x (outs.filter (·.sat)).length
      scaleCount := updV m.scaleCount k fun x => satAdd x scales
      ratios := addRatio o.e.layer o.e.group o.e.id outs m.ratios
      keptRaised := if raise then m.keptRaised ++ [id] else m.keptRaised }
  s.when raise fun s => s.event evUpdateKept s.job.step (arg o.e.id)

/-- One more unit of an object is done; without an outbox to hand off, an object that is finished leaves the pass. -/
def Medlar.unitDone (m : Medlar) (obj : Word) (total : Nat) (outbox : Bool) : Medlar :=
  { m with pass := m.pass.filterMap fun p =>
      if p.obj = obj then (if p.done + 1 ≥ total && !outbox then none else some { p with done := p.done + 1 }) else some p }

/-- Updates one rotation group of one tile column (R299). -/
def State.updateUnit (s : State) (k : Fin 12) (o : ObjS) (unit : Nat) : State :=
  let gt := o.e.groupTiles
  let per := ceilDiv o.e.mTiles gt
  let m0 := unit % max 1 per * gt
  let n := unit / max 1 per
  let tiles := ((List.range gt).map fun i => (m0 + i) * o.e.nTiles + n).filter fun t => decide (t < o.e.tiles)
  let p := (o.e.shardFirst + m0) * 64
  let outs : List (Nat × List ElemOut) := (tiles.zip (s.unitGrad o tiles p)).map fun x => (x.1, s.tileOuts o x.1 x.2)
  let work := childOf 1 s.objTable o.e.id
  let s := outs.foldl (fun s x => s.writeTileOuts o x.1 x.2) s
  let recs : List (Nat × (Bytes × Nat)) := match work with
    | none => []
    | some w => tiles.zip (workTiles o.e w.fmt p (outs.map fun x => x.2.map fun y => w32 y.w))
  let size := (work.map fun w => recSize w.fmt).getD 0
  let s := recs.foldl (fun s x => s.writeHome o (6 * o.e.plane + x.1 * size) x.2.1) s
  let s := s.countOuts k o (outs.flatMap (·.2)) (sumNat (recs.map fun x => x.2.2))
  s.upMedlar fun m => m.unitDone (BitVec.ofNat 32 o.e.id) (s.unitsOf o) work.isSome

/-- A parameter's rows in a block of its list (R290, R310 to R312). -/
def State.rowOuts (s : State) (o g : ObjS) (pos row : Nat) : List ElemOut × Word :=
  let w := o.e.rowW
  let gw := g.e.nTiles
  let bytes := s.readObj o (row * (6 * w)) (6 * w)
  let grad := (List.range gw).flatMap fun n => codesOf (s.readObj g ((pos / 64 * gw + n) * 8192 + pos % 64 * 128) 128) 64
  let count := leNat (s.readObj o (o.e.mTiles * 64 * (6 * w) + 4 * row) 4) 0 4
  let t := s.medlar.u.toNat + 1
  let miss := (t + 2 ^ 64 - count - 1) % 2 ^ 32
  let gr := s.groupOf o.e.group
  let sc := s.scalarsFor o.e.group
  let cw := codesOf bytes w
  let cm := codesOf (bytes.drop (2 * w)) w
  let cv := codesOf (bytes.drop (4 * w)) w
  ((List.range w).map fun c =>
    elemOut gr sc miss (draw12 s.job.p.seed s.job.step (BitVec.ofNat 32 o.e.tensor) ((o.e.shardFirst * 64 + row) * w + c))
      (cw.getD c 0) (cm.getD c 0) (cv.getD c 0) (w32 (grad.getD c 0)), BitVec.ofNat 32 t)

/-- The bytes of a row as written, and its log entry in whole 64 B words (R289, R315). -/
def rowBytes (outs : List ElemOut) : Bytes :=
  (outs.flatMap fun x => toLE x.w 2) ++ (outs.flatMap fun x => toLE x.m 2) ++ outs.flatMap fun x => toLE x.v 2
def logEntry (row : Nat) (count : Word) (bs : Bytes) : Bytes :=
  let e := toLE row 4 ++ toLE count.toNat 4 ++ bs
  padTo e (64 * ceilDiv e.length 64)

/-- Updates one listed row: the row, its count, and its log entry. -/
def State.updateRow (s : State) (k : Fin 12) (o g : ObjS) (pos row : Nat) : State :=
  let r := s.rowOuts o g pos row
  let bs := rowBytes r.1
  let w := o.e.rowW
  let s := (s.writeHome o (row * (6 * w)) bs).writeHome o (o.e.mTiles * 64 * (6 * w) + 4 * row) (toLE r.2.toNat 4)
  (s.countOuts k o r.1 0).upMedlar fun m => { m with logNow := m.logNow ++ [(BitVec.ofNat 32 o.e.id, row, logEntry row r.2 bs)] }

/-- Updates one block of 64 listed rows of a KIND 5 object (R310 to R315). -/
def State.updateRows (s : State) (k : Fin 12) (o : ObjS) (block : Nat) : State :=
  let total := s.unitsOf o
  match s.gradFor o with
  | none => s
  | some g =>
    let rows := ((s.rowsFor o).drop (64 * block)).take 64
    let s := rows.zipIdx.foldl (fun s x => s.updateRow k o g (64 * block + x.2) x.1) s
    s.upMedlar fun m => m.unitDone (BitVec.ofNat 32 o.e.id) total false

/-- The next object with a unit to do of those on which a stack's Medlar acts now (R284, R287, R320). -/
def State.nextPass (s : State) (k : Fin 12) : Option (PassObj × ObjS) :=
  s.medlar.pass.findSome? fun p => match s.obj p.obj.toNat with
    | none => none
    | some o => if decide (s.medlarOf o = some k) && decide (p.done < s.unitsOf o) then some (p, o) else none

/-- Medlar waits for an object: a stub of it or of its gradient stands, or its gradient is on another stack and will follow it (R284, R285, R320). -/
def State.medlarStub (s : State) (o : ObjS) : Bool := o.move.isSome || ((s.gradFor o).map (·.move.isSome)).getD false || s.apart o

/-- The object's outbox of its last update is not released (R302). -/
def Medlar.outboxHeld (m : Medlar) (obj : Word) : Bool := m.outboxes.contains obj

/-- The Medlar of a stack begins to wait for an outbox, or its wait ends and is added to the step record (R302). -/
def State.outboxWait (s : State) (k : Fin 12) : State :=
  if s.medlar.outboxSince[k].isSome then s else s.upMedlar fun m => { m with outboxSince := setV m.outboxSince k (some s.now) }
def State.outboxGo (s : State) (k : Fin 12) : State :=
  match s.medlar.outboxSince[k] with
  | none => s
  | some t =>
    (s.upMedlar fun m => { m with outboxSince := setV m.outboxSince k none }).upJob fun j =>
      { j with record := { j.record with waitOutbox := j.record.waitOutbox + (s.now.toNat - t.toNat) / usU } }

/-- MEDLAR_UNIT (R284, R287, R292 to R302, R310 to R316): the Medlar of a stack does its next unit: a rotation group of one tile
column, or a block of listed rows of an embedding of its stack. -/
def execMedlarUnit (k : Fin 12) (s : State) : Res :=
  match s.nextPass k with
  | none => .next s
  | some (p, o) =>
    if !s.medlar.passOn || s.medlarStub o || s.windowed o then .next s
    else if o.e.kind = 5 then .next (s.updateRows k o p.done)
    else if s.medlar.outboxHeld p.obj then .next (s.outboxWait k)
    else .next ((s.outboxGo k).updateUnit k o p.done)

/-- ROW_WINDOW_BLOCK (R310 to R315, R272): a block of listed rows of an embedding that is not homed in its Medlar's stack goes through
the row window, with a buffer of class P. -/
def execRowWindowBlock (obj : Word) (s : State) : Res :=
  match s.obj obj.toNat with
  | none => .next s
  | some o =>
    match s.medlarOf o with
    | none => .next s
    | some k =>
      match s.nextPass k with
      | none => .next s
      | some (p, _) =>
        if !s.medlar.passOn || decide (p.obj ≠ obj) || !s.windowed o || s.medlarStub o then .next s
        else .next (s.withBuf (.rows obj) fun bad s => if bad then s else s.updateRows k o p.done)

/-! ### The outbox (R302, R342) -/

/-- Stores one working tile's pieces, each within one 4 KiB page, with the other members (R342, R370). -/
def State.sendTile (s : State) (m : TileMsg) (off : Nat) (bs : Bytes) : State :=
  (linePages off bs.length).foldl (fun s x => s.sendDown m x.1 (slice bs (x.1 - off) x.2)) s
where
  /-- The pieces of a span between page boundaries: local offset and length. -/
  linePages (off n : Nat) : List (Nat × Nat) :=
    (List.range (n / 4096 + 2)).filterMap fun i =>
      let a := max off (4096 * (off / 4096 + i))
      let b := min (off + n) (4096 * (off / 4096 + i + 1))
      if a < b then some (a, b - a) else none

/-- The local copy and the multicast of the tiles of an outbox (R302, R342, R343).
(DESIGN CHOICE, log entry 67) -/
def State.handOff (s : State) (o w : ObjS) : State :=
  let size := recSize w.e.fmt
  (List.range o.e.tiles).foldl (fun s t =>
    let bs := s.readObj o (6 * o.e.plane + t * size) size
    let place := (o.e.shardFirst + t / max 1 o.e.nTiles) * w.e.nTiles + t % max 1 o.e.nTiles
    match s.obj w.e.id with
    | none => s
    | some w =>
      let s := s.writeObj .mover w (place * size) bs
      let s := s.upColl fun c => c.gotTile (BitVec.ofNat 32 w.e.id) place size
      s.sendTile { step := s.coll.lastUpdate.getD s.job.step, tensor := BitVec.ofNat 32 w.e.tensor, tile := BitVec.ofNat 32 place, owner := BitVec.ofNat 17 s.me }
        (w.base + place * size) bs) s

/-- OUTBOX_HANDOFF (R287, R302, R342, R343): the outbox of a finished object goes to its local copy and to the other members. -/
def execOutboxHandoff (obj : Word) (s : State) : Res :=
  match s.obj obj.toNat with
  | none => .next s
  | some o =>
    let ready := s.medlar.pass.any fun p => p.obj = obj && decide (p.done ≥ s.unitsOf o)
    match s.rt.objects.find? fun w => decide (w.e.kind = 1) && decide (w.e.parent = o.e.id) with
    | none => .next s
    | some w =>
      if !s.medlar.passOn || !ready then .next s
      else
        let s := s.handOff o w
        .next ((s.upMedlar fun m => { m with pass := m.pass.filter fun p => p.obj ≠ obj, outboxes := m.outboxes ++ [obj] }).noteStep)

/-- OUTBOX_RELEASE (R302): both transfers have read the outbox. -/
def execOutboxRelease (obj : Word) (s : State) : Res :=
  .next (s.upMedlar fun m => { m with outboxes := m.outboxes.filter (· ≠ obj) })

end Sys2Proof.Machine
end

