-- ==== Sys2Proof/Machine/TargetRows.lean ====
section
/-! DEFINITION. Meanings of the rows of requests at their target (R365 to R372, R389 to R391) and of contributions (R324 to
R336). -/
namespace Sys2Proof.Machine

/-! ### Requests -/

/-- Bramble takes a contribution: it is checked, and answered OK once it sits in the scratch (R370); one of a step beyond the next, or of no child of
this node, is refused, and the first counts in DROPPED (R348). -/
def State.takeContrib (s : State) (k : Pkt) : State :=
  s.checked k fun s =>
    let h := contribOf k.payload
    match s.contribIn h (k.payload.drop 64) s.now with
    | some s => s.applied k 0 []
    | none =>
      let s := s.when (decide (s.runPlace h = 3)) fun s =>
        s.upColl fun c => { (if countsOnce h then c.drop else c) with collFault := true }
      s.refuseFree k

/-- Bramble takes a request for lines of this module: it is checked and goes to its ordering points; a working tile of another step than the latest
update is refused (R344). -/
def State.takeLines (s : State) (p : Fin 32) (k : Pkt) : State :=
  s.checked k fun s => if s.tileStale k then s.refuseTile k else s.orderLines p k

/-- Bramble takes a request. -/
def State.take (s : State) (p : Fin 32) (k : Pkt) : State := if pktReduces k then s.takeContrib k else s.takeLines p k

/-- The first request of the receive buffers that Bramble can take now: its port and the request. -/
def State.rxNext (s : State) : Option (Fin 32 × Pkt) :=
  (List.finRange 32).findSome? fun p => s.fab.ports[p].rx.toList.findSome? fun l => (l.find? fun k => !s.mustHold k).map fun k => (p, k)

/-- Takes a request out of its receive buffer. -/
def Port.dropRx (q : Port) (k : Pkt) : Port := { q with rx := updV q.rx k.cls (·.erase k) }

/-- Bramble takes what it can from the receive buffers, at most n requests. -/
def State.drainRx : Nat → State → State
  | 0, s => s
  | n + 1, s => match s.rxNext with
    | none => s
    | some (p, k) => State.drainRx n ((s.upPort p (·.dropRx k)).take p k)

/-- Requests in the receive buffers. -/
def Fabric.rxCount (b : Fabric) : Nat := sumNat (b.ports.toList.map fun q => sumNat (q.rx.toList.map List.length))

/-- What Bramble does when ordering points or the scratch may have become free (R326, R391). -/
def State.pumpRx (s : State) : State := State.drainRx s.fab.rxCount s

/-- A request for this module arrives: Bramble takes it at once, or it stays in the receive buffer of its class (R378, R391), where it is pending
(R389): a further copy is discarded. -/
def State.receive (s : State) (p : Fin 32) (k : Pkt) : State :=
  if s.fab.inRx k then s
  else if s.mustHold k then if s.fab.pendingReq.contains (k.src, k.seq) then s else s.upPort p fun q => { q with rx := updV q.rx k.cls (· ++ [k]) }
  else (s.take p k).pumpRx

/-- A packet of this module to itself stays where it is while its ordering point or the scratch is full. -/
def State.arriveHere (s : State) (p : Fin 32) (k : Pkt) : State :=
  if s.fab.loop.contains k && s.mustHold k then s else s.arrivePkt p k fun s => s.receive p k

/-- LOAD (R367, R370, R390). -/
def execLoad (p : Fin 32) (k : Pkt) (s : State) : Res :=
  if decide (k.op = 0x01#8) && s.fab.mine p k then .next (s.arriveHere p k) else .next s

/-- STORE (R367, R370, R390): applied line by line, or, with RW 1, placed for reduction. -/
def execStore (p : Fin 32) (k : Pkt) (s : State) : Res :=
  if decide (k.op = 0x02#8) && s.fab.mine p k then .next (s.arriveHere p k) else .next s

/-- ATOMIC (R367, R371, R390). -/
def execAtomic (p : Fin 32) (k : Pkt) (s : State) : Res :=
  if decide (k.op = 0x03#8) && s.fab.mine p k then .next (s.arriveHere p k) else .next s

/-- REDUCE (R326, R367, R370). -/
def execReduce (p : Fin 32) (k : Pkt) (s : State) : Res :=
  if decide (k.op = 0x04#8) && s.fab.mine p k then .next (s.arriveHere p k) else .next s

/-- The part of an MCAST_STORE for this module: the packet with this target alone, and its SEQ (R372). -/
def mcOwn (k : Pkt) (t : BitVec 17 × Word) : Pkt := { mcCopy k [t] with seq := t.2 }

/-- The copies for the other targets of an MCAST_STORE: one for each next port (R372), or ROUTE where HOPS_LEFT is exhausted (R386). -/
def State.passMcast (s : State) (k : Pkt) (rest : List (BitVec 17 × Word)) : State :=
  if rest.isEmpty then s
  else if k.hops.toNat > 1 then s.sendMcast { k with hops := k.hops - 1 } rest (pktData k)
  else rest.foldl (fun s t => s.sendPkt (s.respPkt k t.1 t.2 6 false 0 [])) s

/-- MCAST_STORE (R344, R372, R391): the store is applied here when the module is a target, and each next port gets one copy for its
group of the other targets, whether or not this module's own part must wait. -/
def execMcastStore (p : Fin 32) (k : Pkt) (s : State) : Res :=
  if k.op ≠ 0x05#8 then .next s
  else
    let own := s.fab.idAt p k
    .next (s.arrivePkt p k fun s =>
      let ts := mcTargets k.payload
      let s := match ts.find? fun t => t.1 = own with
        | none => s
        | some t => s.receive p (mcOwn k t)
      s.passMcast k (ts.filter fun t => t.1 ≠ own))

/-- LINE_UPDATE (R390, R391): the ordering point applies the oldest update of a line, and Bramble takes what may follow. -/
def execLineUpdate (line : BitVec 41) (s : State) : Res :=
  match s.fab.lines.find? fun l => l.line = line.toNat with
  | none => .next s
  | some l => if s.lineWaits l then .next s else .next (s.applyLine l).pumpRx

/-! ### Contributions -/

/-- Bytes of a whole contribution of the module's own (R324). -/
def ownLen (h : ContribHdr) : Nat := if isEmptyC h then 0 else (if h.rows then 256 else 0) + (if h.bf16 then 8192 else 4224)

/-- A contribution that belongs to the present run of the module's job (R323, R324). -/
def State.ownContrib (s : State) (h : ContribHdr) (payload : Bytes) : Bool :=
  s.inJob && decide (h.job = s.job.p.jobId) && decide (h.step = s.job.step) && decide (h.run = s.job.replay) &&
    decide (s.job.stage = .running ∨ s.job.stage = .stage4) && decide (h.owner.toNat < s.job.p.n) && decide (payload.length = ownLen h) &&
    (isEmptyC h || h.bf16 || decide (s.job.p.level = 3))

/-- Places an own contribution into slot 0: a BF16 one as its two halves. -/
def State.placeOwn (s : State) (h : ContribHdr) (payload : Bytes) : State :=
  let index := if h.rows then payload.take 256 else []
  let data := if h.rows then payload.drop 256 else payload
  if isEmptyC h || !h.bf16 then s.place 0 { h with half := false } payload s.now
  else (s.place 0 { h with half := false } (index ++ data.take 4096) s.now).place 0 { h with half := true } (index ++ data.drop 4096) s.now

/-- The finished tile that a contribution is built from: of its tensor and tile, or for packed rows the first of its tensor. -/
def State.producedFor (s : State) (h : ContribHdr) : Option Produced :=
  s.coll.toSend.find? fun t => t.tensor = h.tensor && (h.rows || t.tile = h.tile)

/-- Some element of a contribution's record is infinite or NaN (R324). -/
def recordBad (h : ContribHdr) (payload : Bytes) : Bool :=
  !isEmptyC h && (List.range 4096).any fun e => !(recordVal h.bf16 (if h.rows then payload.drop 256 else payload) e).isFin

/-- A contribution as the module forms it (R324): of one leaf, without a deferred slot, of the LAYER of its gradient, in packed rows when the
gradient holds them, and for the owner whose shard holds the tile. -/
def State.leafOf (s : State) (h : ContribHdr) : ContribHdr :=
  let rows := s.rowTensor h.tensor
  let row := h.tile.toNat / s.tensorCols h.tensor
  { h with
    count := if isEmptyC h then 0 else 1, stale := false, rows := rows, last := rows && h.last, half := false
    layer := ((s.gradOf h.tensor 0).map fun o => BitVec.ofNat 10 o.e.layer).getD h.layer
    owner := if rows then h.owner else ((s.job.p.ownerOf (s.paramTensor h.tensor) row).map (BitVec.ofNat 17)).getD h.owner }

/-- The header of a contribution as Bramble sends it: NONFINITE is that of the header of the tile it was built from (R325), and stands where an
element is not finite (R324). -/
def State.leafHdr (s : State) (h : ContribHdr) (payload : Bytes) : ContribHdr :=
  let h := s.leafOf h
  { h with nonfinite := ((s.producedFor h).map (·.nonfinite)).getD false || recordBad h payload }

/-- A finished tile has been handed to Bramble. -/
def State.handed (s : State) (h : ContribHdr) : State :=
  match s.producedFor h with
  | none => s
  | some t => s.upColl fun c => { c with toSend := c.toSend.erase t }

/-- CONTRIBUTION_SEND (R323 to R326, R333, R336, R338, R339): a converted tile is handed to Bramble. A leaf of the owner's tree sends
it to its parent; another node is itself the receiver, in slot 0, and the tile stays while the scratch has no room for it (R326). -/
def execContributionSend (h : ContribHdr) (payload : Bytes) (s : State) : Res :=
  let h := s.leafHdr h payload
  let pos := s.treePos h.owner.toNat
  let leaf := decide (pos ≠ 0) && (s.job.p.childPos pos).isEmpty
  if s.ownContrib h payload && (leaf || !s.scratchFull h payload) then
    let s := (s.handed h).upColl fun c => { c with lastContrib := s.now, sentNonfinite := c.sentNonfinite || h.nonfinite }
    if leaf then
      let index := if h.rows then payload.take 256 else []
      let data := if h.rows then payload.drop 256 else payload
      .next ((s.noteLate h.owner.toNat h.layer.toNat).sendContrib h index data)
    else
      let late := ((s.coll.tile h.owner h.tensor (tileKey h)).map (·.closed)).getD false
      .next ((s.upColl fun c => { c with lateOwn := c.lateOwn || late }).placeOwn h payload).pumpRx
  else .next s

/-- The tile stands in the tree of the owner, and this node combines it (R322, R326). -/
def State.closes (s : State) (owner : BitVec 17) (tensor tile : Word) : Bool :=
  let pos := s.treePos owner.toNat
  s.inJob && decide (s.job.stage = .running ∨ s.job.stage = .stage4) && decide (owner.toNat < s.job.p.n) &&
    (decide (pos = 0) || !(s.job.p.childPos pos).isEmpty) && (s.gradOf tensor 0).isSome &&
    (if s.rowTensor tensor then decide (tile = 0)
     else decide (s.job.p.ownerOf (s.paramTensor tensor) (tile.toNat / s.tensorCols tensor) = some owner.toNat))

/-- TILE_CLOSE_TIMER (R328, R329, R332): module time reaches a tile's close time, and the tile closes with what is there. -/
def execTileCloseTimer (owner : BitVec 17) (tensor tile : Word) (s : State) : Res :=
  if s.closes owner tensor tile then
    let layer : BitVec 10 := ((s.gradOf tensor 0).map fun o => BitVec.ofNat 10 o.e.layer).getD 0
    let t := (s.coll.tile owner tensor tile).getD
      { owner := owner, tensor := tensor, tile := tile, layer := layer, rows := s.rowTensor tensor, closed := false, slots := [] }
    if t.closed then .next s
    else .next ((s.advanceTo (BitVec.ofNat 64 (s.closeAt t.layer.toNat (s.treePos owner.toNat)).toNat)).closeTile t).pumpRx
  else .next s

end Sys2Proof.Machine
end

