-- ==== Sys2Proof/Machine/StepOps.lean ====
section
/-! DEFINITION. The turn from one run to the next (R211, R331, R335, R348), lateness (R246 to R249), and what a member does on
the result of the integrity all-reduce (R309, R340, R349). -/
namespace Sys2Proof.Machine

/-! ### Beginning a run -/

/-- The share granted for a step applies from it (R248). -/
def State.applyShare (s : State) (step : DWord) : State :=
  match s.rt.shareNext with
  | none => s
  | some (at_, share) =>
    if at_.toNat ≤ step.toNat then s.upRt fun t => { t with share := share, shareNext := none } else s

/-- Begins a run of the present step at start S (R331): what the last run gathered is cleared, and what was held for this run
opens (R348). -/
def State.beginRun (s : State) (replay : Bool) (stamp : DWord) : State :=
  let s := s.clearRun
  let s := s.upJob fun j => { j with stage := .running, replay := replay, tStart := stamp, record := .zero }
  let s := s.upColl fun c => { c with children := c.early4, early4 := [] }
  s.openEarly.noteStep

/-- The next step begins, or stage 1 is held at the boundary (R461). A park that waits for the boundary begins first (R434). -/
def State.nextStep (s : State) (stamp : DWord) : State :=
  let s := s.when s.pwr.parkWait fun s => s.upPwr fun p => { p with parkWait := false, goal := some .parked }
  if s.job.holdStep = some s.job.step then (s.upJob fun j => { j with stage := .idle, tStart := stamp }).noteStep
  else
    let step := s.job.step + 1
    ((s.upJob fun j => { j with step := step }).applyShare step).beginRun false stamp

/-! ### Lateness (R246 to R249) -/

/-- Lowest set frequency among the regions of the highest WEIGHT. -/
def State.topFreq (s : State) : Nat :=
  let es := (s.rt.image.map (·.regions)).getD []
  let top := maxList (es.map (·.weight))
  (minList ((List.range es.length).filterMap fun i =>
    if ((es[i]?).map (·.weight)).getD 0 = top then (s.regionS i).cluster.map s.wantMHz else none)).getD 0

/-- The module as it would be bound. -/
def State.asBound (s : State) (b : Binding) : State :=
  s.upRt fun t => { t with regions := t.regions.zipIdx.map fun x => { x.1 with cluster := (b.getD x.2 none).map (·.1) } }

/-- R246: the placement engine binds anew when that raises the lowest set frequency of the regions of the highest WEIGHT. -/
def State.lateRebind (s : State) : State :=
  match s.rt.image.bind s.bindImage with
  | none => s
  | some b => if s.topFreq < (s.asBound b).topFreq then s.askBinding b else s

/-- A request for a share, to the fabric manager (R247, R249). -/
def State.shareRequest (s : State) (fraction : Word) (share : Nat) : State :=
  let s := s.fmMsgOut 0x07 s.job.p.jobId
    (toLE s.job.p.jobId.toNat 4 ++ toLE s.fab.modId.toNat 4 ++ toLE s.job.step.toNat 8 ++ toLE fraction.toNat 4 ++ toLE share 4)
  (s.upRt fun t => { t with shedWait := true, lateFurther := 0, idleStreak := 0 }).event evShedSent s.job.step (arg share)

/-- A further request may go out (R248). -/
def State.mayAsk (s : State) : Bool := !s.rt.shedWait && decide (s.rt.shedAgain.toNat ≤ s.job.step.toNat)

/-- The step was late, or was not and waited more than a tenth of its time (R246, R247, R249).
(DEDUCED, log entry 54) -/
def State.countLate (s : State) (late idle : Bool) : State :=
  let l := max 1 s.job.p.lateLimit
  s.upRt fun t =>
    { t with
      lateStreak := if late then t.lateStreak + 1 else 0
      lateFurther := if late then (if t.lateStreak ≥ l then t.lateFurther + 1 else 0) else 0
      idleStreak := if !late && idle && decide (t.share < t.shareOrig) then t.idleStreak + 1 else 0 }

/-- What a member does about its lateness at the end of a step (R246 to R249): after LATE_LIMIT late steps it binds anew; after
LATE_LIMIT further ones it asks for a smaller share; when it has shed and waits enough, it asks for its share back. -/
def State.lateness (s : State) (r : IntRec) (ownTime : Nat) (fraction : Word) (idle : Bool) : State :=
  let l := max 1 s.job.p.lateLimit
  let s := s.countLate s.coll.lateOwn idle
  let s := s.when (decide (s.rt.lateStreak = l)) State.lateRebind
  if decide (s.rt.lateFurther ≥ l) && s.mayAsk then s.shareRequest fraction (s.rt.share * r.ownTime.toNat / (max 1 r.members.toNat * max 1 ownTime))
  else if decide (s.rt.idleStreak ≥ l) && s.mayAsk then s.shareRequest fraction s.rt.shareOrig
  else s

/-! ### Layer histories (R208) -/

/-- The entry of a layer for a run. -/
def LayerRun.entry (r : LayerRun) (step : DWord) (ovf replay : Bool) : HistE :=
  { step := BitVec.ofNat 32 step.toNat, amax := r.amax, recs := BitVec.ofNat 32 r.recs, clamped := BitVec.ofNat 16 (min r.clamps 65535),
    overflow := ovf, replay := replay, hEff := BitVec.ofNat 8 r.hEff }

/-- Writes one entry for each layer that reported in the run; a ring holds the 16 latest. -/
def State.writeHistory (s : State) : State :=
  s.upRt fun t =>
    { t with
      history := t.layerRuns.foldl (fun h x =>
        putKV x.1 ((x.2.entry s.job.step (t.ovfSet.contains x.1) s.job.replay :: (getKV x.1 h).getD []).take 16) h) t.history
      sizing := t.layerRuns.foldl (fun h x => putKV x.1 (x.2.poolSum, x.2.maxBudget) h) t.sizing }

/-! ### Acting on the result (R309, R335, R349, R350) -/

/-- 0.02, 0.05 and 0.10 as thresholds of R346, R425 and R249. -/
def frac002 : FVal := decodeF fFP64 0x3F947AE147AE147B
def frac005 : FVal := decodeF fFP64 0x3FA999999999999A
def frac010 : FVal := decodeF fFP64 0x3FB999999999999A

/-- The step's wait fraction (R345), free when no sample was taken; whether it is below 0.02 and above 0.10. -/
def State.fractionOf (s : State) : Word × Bool × Bool × State :=
  let n := s.runSamples.length
  if n = 0 then
    let (w, s) := s.fresh 32
    (w, (dec32 w).lt frac002, frac010.lt (dec32 w), s)
  else
    let sum := sumNat s.runSamples
    (s.waitFraction, decide (sum * 50 < n * msU), decide (sum * 10 > n * msU), s)

/-- Fills the step record from the result and from this member's own part (R349).
(DEDUCED, log entry 154) -/
def State.fillRecord (s : State) (r : IntRec) (clip fraction : Word) (critical : Bool) : State :=
  let own := s.coll.ownRec
  s.upJob fun j =>
    { j with
      lastFraction := if r.decision = 2 then j.lastFraction else fraction
      lastCritical := if r.decision = 2 then j.lastCritical else critical
      record := { j.record with
        step := j.step, jobId := j.p.jobId, status := BitVec.ofNat 8 (finalStatus r), decision := r.decision, replayRun := j.replay
        nonfiniteOwn := (own.map (·.nonfinite)).getD false, ovfOwn := (own.map (·.ovf)).getD false, lateOwn := s.coll.lateOwn
        critical := critical, sumsq := r.sumsq, clip := clip, waitFraction := fraction, nonfiniteMembers := r.nonfiniteMembers
        ovfMembers := r.ovfMembers, lateMembers := r.lateMembers, criticalMembers := r.criticalMembers, deferredJob := r.deferred
        droppedJob := r.dropped, deferredHere := s.coll.deferredN, droppedHere := s.coll.droppedN, tStart := j.tStart
        tLastContrib := s.coll.lastContrib, tSent := s.coll.sentAt, tDecision := s.now
        jobMeanTime := BitVec.ofNat 64 (r.ownTime.toNat / max 1 r.members.toNat), u := s.medlar.u
        marginMin := s.coll.marginMin.getD 0, contribMin := s.coll.contribMin.getD 0, rowsDropped := s.coll.rowsDropped
        lateStreak := BitVec.ofNat 16 (min s.rt.lateStreak 65535) } }

/-- Frees the retention slot of the step (R214, R215). -/
def Tiers.releaseInputs (t : Tiers) (step : DWord) : Tiers := { t with retention := t.retention.filter fun r => r.step ≠ step }

/-- The decision of update: stage 5 may begin (R309) with the step sizes of the step, when they are held (R306), working tiles are awaited
(R343), and contributions deferred in this step wait for the next (R335). -/
def State.actUpdate (s : State) (clip : Word) : State :=
  let step := s.job.step
  let s := s.upColl fun c =>
    { c with deferred := c.deferred.filter (fun d => d.step = step), w2Armed := true, w2Got := [], lastUpdate := some step }
  let s := s.upMedlar fun m =>
    { m with
      clip := clip, keptRaised := [], passOn := false
      inUse := m.sizes.find? fun r => r.step = step
      sizes := m.sizes.filter fun r => r.step ≠ step }
  let s := s.upSec fun c => { c with bufferSince := if c.bufferFree then none else some s.now }
  (((s.upTiers (·.releaseInputs step)).upRt fun t => { t with ovfFirst := [] }).upJob fun j => { j with stage := .stage5 }).noteStep

/-- The decision of skip (R29, R306, R309, R335): nothing is written, the record is final, and the next step begins. -/
def State.actSkip (s : State) (stamp : DWord) : State :=
  let step := s.job.step
  let s := s.upColl fun c => { c with deferred := [] }
  let s := s.upMedlar fun m => { m with sizes := m.sizes.filter (fun r => r.step ≠ step), rowLists := [] }
  let s := (s.upTiers (·.releaseInputs step)).upRt fun t => { t with ovfFirst := [] }
  (s.returnRecord s.job.record).nextStep stamp

/-- A cell without the outlier blocks and full copies that it has written and the tile mover has not yet read (R211). -/
def CellS.dropCopies (c : CellS) : CellS := { c with oblkFull := [], fullFull := [] }

/-- The decision of replay (R30, R211, R212, R335): the first run's gradients, outlier blocks and full copies are discarded, and stage 1 begins
again for the same step. -/
def State.actReplay (s : State) (stamp : DWord) : State :=
  let step := s.job.step
  let s := s.upColl fun c => { c with deferred := c.deferred.filter fun d => d.step ≠ step }
  let s := (s.upMedlar fun m => { m with rowLists := [], sumsq := none, sumStarted := false }).upRt fun t => { t with ovfFirst := t.ovfSet }
  let s := { s with cells := s.cells.map CellS.dropCopies }
  s.beginRun true stamp

/-- A member acts on the result (R340); of the samples of the wait fraction those before the start of the next run go (R331, R345). -/
def State.act (s : State) (r : IntRec) : State :=
  let s := (s.upColl fun c => { c with result := some r }).noteStep
  let s := s.writeHistory
  let clip := clipOf ((s.rt.image.map (·.clipNorm)).getD 0) r.sumsq
  let (fraction, critical, idle, s) := s.fractionOf
  let s := s.upJob fun j => { j with samples := j.samples.filter fun x => decide (r.stamp.toNat ≤ x.1.toNat) }
  let ownTime : Nat := match s.coll.ownRec with
    | none => 0
    | some o => o.ownTime.toNat
  let s := s.when (decide (r.decision ≠ 2)) fun s => s.lateness r ownTime fraction idle
  let s := s.fillRecord r clip fraction critical
  let s := s.when (s.job.p.shift && decide (r.decision ≠ 2)) fun s => s.upPwr fun p =>
    { p with borrower := critical || (p.borrower && (dec32 fraction).lt frac005) }
  match r.decision.toNat with
  | 0 => s.actUpdate clip
  | 1 => s.actSkip r.stamp
  | _ => s.actReplay r.stamp

/-! ### Combining up the tree (R340) -/

/-- Modules of this node's children in T_0, in ascending position. -/
def State.kids (s : State) : List Nat := s.job.p.childPos (s.treePos 0)

/-- Sends a record to a position of T_0 (R375). -/
def State.sendRec (s : State) (pos : Nat) (r : IntRec) : State :=
  s.jobMsg (s.job.p.moduleOf (s.job.p.memberAt 0 pos)) 0x06 (intBytes r)

/-- Passes the result down, and acts on it. -/
def State.passDown (s : State) (r : IntRec) : State := (s.kids.foldl (fun s k => s.sendRec k r) s).act r

/-- The result that the root forms (R210, R337). -/
def State.resultOf (s : State) (r : IntRec) : IntRec :=
  { r with decision := decideR r.nonfinite r.ovf r.run s.job.p.replayEn, result := true, stamp := s.now }

/-- Combines the node's own record with those of its children once all are there, and sends the combination on. -/
def State.tryCombine (s : State) : State :=
  match s.coll.ownRec with
  | none => s
  | some own =>
    let recs := s.kids.map fun k => getKV k s.coll.children
    if s.coll.sentUp || recs.any Option.isNone then s
    else
      let r := (recs.filterMap id).foldl IntRec.combine own
      let s := s.upColl fun c => { c with sentUp := true }
      let pos := s.treePos 0
      if pos = 0 then s.passDown (s.resultOf r) else s.sendRec (s.job.p.parentPos pos) r

end Sys2Proof.Machine
end

