-- ==== Sys2Proof/Machine/SecOps.lean ====
section
/-! DEFINITION. Secured images: what they hold, their transfer to the partner and to flash, and what a restore places (R441 to
R451, R457 to R459). -/
namespace Sys2Proof.Machine

/-! ### Images (R449, R450) -/

/-- A section of an image: its 8 B word of type and length, its content, and the padding to the next 64 B boundary. -/
def section_ (type : Nat) (body : Bytes) : Bytes :=
  let b := toLE (type + 256 * body.length) 8 ++ body
  padTo b (64 * ceilDiv b.length 64)

/-- The KIND 0 and KIND 5 objects, in ascending OBJ_ID. -/
def State.stateObjs (s : State) : List ObjS :=
  (s.rt.objects.filter fun o => decide (o.e.kind = 0 ∨ o.e.kind = 5)).inOrder fun a b => decide (a.e.id ≤ b.e.id)
def State.denseObjs (s : State) : List ObjS := s.stateObjs.filter fun o => o.e.kind = 0
def State.rowObjs (s : State) : List ObjS := s.stateObjs.filter fun o => o.e.kind = 5

/-- Tiles of a unit of R299, and the tensor index of its first row. -/
def ObjE.unitTiles (e : ObjE) (unit : Nat) : List Nat × Nat :=
  let gt := e.groupTiles
  let per := ceilDiv e.mTiles gt
  let m0 := unit % max 1 per * gt
  let n := unit / max 1 per
  (((List.range gt).map fun i => (m0 + i) * e.nTiles + n).filter fun t => decide (t < e.tiles), (e.shardFirst + m0) * 64)

/-- The working tiles that the weights of a buffer derive (R299 steps 5 to 7): tile and record. -/
def State.derived (s : State) (o : ObjS) (fmt buf : Nat) : List (Nat × Bytes) :=
  (List.range (s.unitsOf o)).flatMap fun u =>
    let (tiles, p) := o.e.unitTiles u
    let ws := tiles.map fun t => (codesOf (s.readObj o (planeOff o.e buf 0 t) 8192) 4096).map w32
    (tiles.zip (workTiles o.e fmt p ws)).map fun x => (x.1, x.2.1)

/-- E4M3 scales of a working tile record: its last 64 B. -/
def scalesOf (rec_ : Bytes) : Bytes := rec_.drop (rec_.length - 64)

/-- The scales of an object's working tiles, in ascending tile order; none where no KIND 1 object derives from it. -/
def State.objScales (s : State) (o : ObjS) (buf : Nat) : List (Nat × Bytes) :=
  match childOf 1 s.objTable o.e.id with
  | none => []
  | some w => ((s.derived o w.fmt buf).map fun x => (x.1, scalesOf x.2)).inOrder fun a b => decide (a.1 ≤ b.1)

/-- Bytes of a row log entry, headed by the object and the length (the spec gives the log of a section no frame of its own). -/
def logBytes (l : List (Word × Nat × Bytes)) : Bytes :=
  l.flatMap fun x => toLE x.1.toNat 4 ++ toLE x.2.2.length 4 ++ x.2.2

/-- Highest LAYER of the object table, of the transform frames and of the rings kept (R208, R450). -/
def State.topLayer (s : State) : Nat :=
  maxList (s.objTable.map (·.layer) ++ (((s.rt.image.map (·.frames)).getD []).filter fun f => fPers f = 3).map tLayer ++ s.rt.history.map (·.1))

/-- A layer history entry (R208). -/
def HistE.bytes (h : HistE) : Bytes :=
  toLE h.step.toNat 4 ++ toLE h.amax.toNat 4 ++ toLE h.recs.toNat 4 ++ toLE h.clamped.toNat 2 ++
  toLE (b2n h.overflow + 2 * b2n h.replay) 1 ++ [h.hEff]
def histOf (b : Bytes) : HistE :=
  { step := BitVec.ofNat 32 (leNat b 0 4), amax := BitVec.ofNat 32 (leNat b 4 4), recs := BitVec.ofNat 32 (leNat b 8 4),
    clamped := BitVec.ofNat 16 (leNat b 12 2), overflow := bit (byteAt b 14) 0, replay := bit (byteAt b 14) 1, hEff := b.getD 15 0 }

/-- The rings of every layer, newest entry first, 256 B for each layer. -/
def State.histSection (s : State) : Bytes :=
  (List.range (s.topLayer + 1)).flatMap fun l => padTo (((getKV l s.rt.history).getD []).flatMap HistE.bytes) 256

/-- Outlier sizing, 16 B for each layer (R450). -/
def State.sizingSection (s : State) : Bytes :=
  (List.range (s.topLayer + 1)).flatMap fun l =>
    let z := (getKV l s.rt.sizing).getD (0, 0)
    let h := (((getKV l s.rt.history).getD []).head?.map (·.hEff.toNat)).getD 0
    toLE l 4 ++ toLE z.1 4 ++ toLE z.2 4 ++ toLE h 4

/-- Layers of an image (R449). -/
def layerPartner : Nat := 0
def layerFlash : Nat := 1
def layerShared : Nat := 2
def layerHandover : Nat := 3

/-- The latest complete base of each KIND 5 object. -/
def State.baseOf (s : State) (o : ObjS) : Option EmbBase :=
  (s.sec.bases.filter fun b => decide (b.obj.toNat = o.e.id) && b.complete).getLast?

/-- The step of the oldest base that a flash image uses; 0 without KIND 5 objects. -/
def State.baseStep (s : State) : Nat := (minList (s.rowObjs.filterMap fun o => (s.baseOf o).map (·.step.toNat))).getD 0

/-- Sections of the image of the state that a buffer holds, with U.
(DESIGN CHOICE, log entry 96) -/
def State.imageSections (s : State) (layer : Nat) (step : DWord) (us : Nat) (logs : List (Word × Nat × Bytes)) : List (Nat × Bytes) :=
  let buf := us % 2
  let base := if layer = layerFlash then s.rowObjs.flatMap fun o => ((s.baseOf o).map (·.bytes)).getD []
    else if layer = layerPartner then [] else s.rowObjs.flatMap fun o => s.readObj o 0 o.size
  let lg := if layer = layerFlash then (s.sec.flashLogs.filter fun l => decide (s.baseStep ≤ l.1.toNat)).map fun l => (l.2.1, l.2.2.1, l.2.2.2) else logs
  let rc := s.job.records.reverse.find? fun r => r.step = step
  [(1, s.stateObjs.flatMap fun o => o.e.bytes),
   (2, s.denseObjs.flatMap fun o => s.readObj o (3 * buf * o.e.plane) (3 * o.e.plane)),
   (3, s.denseObjs.flatMap fun o => (s.objScales o buf).flatMap (·.2)),
   (4, base), (5, logBytes lg), (6, s.histSection), (7, s.sizingSection),
   (8, ((s.rt.image.bind (·.coeff)).getD [])), (9, (rc.map StepRecord.bytes).getD [])].filter fun x => !x.2.isEmpty

/-- BASE_STEP of an image (R449): in one that holds the rows as they stand, the step of these rows. -/
def State.baseStepOf (s : State) (layer : Nat) (step : DWord) : Nat :=
  if layer = layerPartner ∨ s.rowObjs.isEmpty then 0 else if layer = layerFlash then s.baseStep else step.toNat

/-- An image (R449): its header with a DIGEST over the whole, COMPLETE taken as 0; COMPLETE is set in what is returned. -/
def State.imageFor (s : State) (layer : Nat) (step : DWord) (us : Nat) (logs : List (Word × Nat × Bytes)) : Bytes :=
  let secs := s.imageSections layer step us logs
  let body := secs.flatMap fun x => section_ x.1 x.2
  let head := fun (complete : Bool) (digest : Bytes) =>
    toLE 0x53454355 4 ++ toLE (s.job.p.secFmt % 256 + 2 ^ 8 * layer + 2 ^ 10 * b2n complete) 4 ++ toLE s.job.p.jobId.toNat 4 ++
    toLE s.fab.modId.toNat 4 ++ toLE step.toNat 8 ++ toLE us 8 ++ toLE s.job.p.seed.toNat 8 ++ toLE s.job.p.level.toNat 4 ++
    toLE secs.length 4 ++ toLE (128 + body.length) 8 ++ toLE (s.baseStepOf layer step) 8 ++
    padTo ((s.rt.image.map (·.digest)).getD []) 32 ++ digest
  let zero := head false (List.replicate 32 0)
  head true (sha256 (zero ++ body)) ++ body

/-! ### Reading an image -/

/-- The digest of an image is that of its bytes (R449). -/
def digestOk (b : Bytes) : Bool :=
  let n := leNat b 0x30 8
  let w := leNat b 4 4
  let zero := b.take 4 ++ toLE (if bit w 10 then w - 2 ^ 10 else w) 4 ++ slice b 8 0x58 ++ List.replicate 32 0 ++ slice b 128 (n - 128)
  decide (128 ≤ n) && decide (n ≤ b.length) && decide (slice b 0x60 32 = sha256 zero)

/-- An image as a layer hands it out (R449): its bytes with that LAYER, and the DIGEST of these. -/
def relayer (b : Bytes) (layer : Nat) : Bytes :=
  let w := leNat b 4 4
  let head := fun (complete : Bool) (digest : Bytes) =>
    b.take 4 ++ toLE (w % 256 + 2 ^ 8 * layer + 2 ^ 10 * b2n complete) 4 ++ slice b 8 0x58 ++ digest
  head (bit w 10) (sha256 (head false (List.replicate 32 0) ++ slice b 128 (leNat b 0x30 8 - 128))) ++ b.drop 128

/-- The header names a complete image of the job at a step (R443, R457). -/
def State.imageFits (s : State) (b : Bytes) (step : DWord) : Bool :=
  let w := leNat b 4 4
  decide (leNat b 0 4 = 0x53454355) && decide (w % 256 = 1) && bit w 10 && decide (leNat b 8 4 = s.job.p.jobId.toNat) &&
  decide (leNat b 0x10 8 = step.toNat) && decide (leNat b 0x20 8 = s.job.p.seed.toNat)

/-! ### Transfers (R442 to R448) -/

/-! ### Sizes (R444, R445) -/

/-- D of R445: one dense image without sections 4 and 5. -/
def denseSize (im : Image) : Nat :=
  let st := im.objects.filter fun o => decide (o.kind = 0 ∨ o.kind = 5)
  let dense := im.objects.filter fun o => o.kind = 0
  let layers := maxList (im.objects.map (·.layer) ++ (im.frames.filter fun f => fPers f = 3).map tLayer) + 1
  let pairs := (st.map fun o => (o.layer, o.group)).dedup.length
  128 + sumNat ([64 * st.length, sumNat (dense.map fun o => 3 * o.plane),
    sumNat (dense.map fun o => if (childOf 1 im.objects o.id).isSome then 64 * o.tiles else 0), 256 * layers, 16 * layers,
    (im.coeff.getD []).length, 256 + 8 * pairs].map fun n => 64 * ceilDiv (8 + n) 64)

/-- B of R445: every KIND 5 object with its row counts. -/
def rowSize (im : Image) : Nat := sumNat ((im.objects.filter fun o => o.kind = 5).map ObjE.embBytes)

/-- L of R445: the largest row log of one update. -/
def logSize (im : Image) : Nat :=
  sumNat ((im.objects.filter fun o => o.kind = 5).map fun o => match childOf 2 im.objects o.id with
    | none => 0
    | some g => g.mTiles * 64 * (64 * ceilDiv (8 + 6 * o.rowW) 64))

/-- What frames the entries of that log in an image and in the ring: 8 B for each. -/
def logFrames (im : Image) : Nat :=
  sumNat ((im.objects.filter fun o => o.kind = 5).map fun o => match childOf 2 im.objects o.id with
    | none => 0
    | some g => g.mTiles * 64 * 8)

/-- Offset of the partner image area in a module's address space (R252). -/
def partnerOff : Nat := 4 * 2 ^ 44

/-- The module that hosts this member's image. -/
def State.hostMod (s : State) : BitVec 17 := s.job.p.moduleOf s.job.p.partner

/-- A store into the partner's area. -/
def State.areaStore (s : State) (off : Nat) (bs : Bytes) : Pkt :=
  { pktBlank with
    op := 0x02, cls := 3, dst := s.hostMod, addr := BitVec.ofNat 64 (s.hostMod.toNat * 2 ^ 47 + partnerOff + off), len := BitVec.ofNat 13 bs.length,
    payload := bs, key := s.tileKeyOf (partnerOff + off) false, job := s.job.p.jobId }

/-- The stores of a span, each within one 4 KiB page. -/
def State.areaStores (s : State) (off : Nat) (bs : Bytes) : List Pkt :=
  (List.range (bs.length / 4096 + 2)).filterMap fun i =>
    let a := max off (4096 * (off / 4096 + i))
    let b := min (off + bs.length) (4096 * (off / 4096 + i + 1))
    if a < b then some (s.areaStore a (slice bs (a - off) (b - a))) else none

/-- Where the four parts of the partner image area stand (R444).
(DESIGN CHOICE, log entry 86) -/
structure AreaParts where
  slot : Nat
  slot0 : Nat
  slot1 : Nat
  copy : Nat
  ring : Nat

/-- The parts of the area for a job: slots for a dense image with the logs of a partner interval, the embedding copies, and the log ring. -/
def areaParts (p : JobParams) (im : Image) : AreaParts :=
  let slot := page (denseSize im + 64 + p.pInt * (logSize im + logFrames im))
  let copies := sumNat ((im.objects.filter fun e => e.kind = 5).map fun e => page e.embBytes)
  { slot := slot, slot0 := 4096, slot1 := 4096 + slot, copy := 4096 + 2 * slot, ring := 4096 + 2 * slot + copies }

/-- Bytes that the ring needs: the logs of two partner intervals; none without KIND 5 objects. -/
def ringNeed (p : JobParams) (im : Image) : Nat := if rowSize im = 0 then 0 else 2 * p.pInt * stagedSize (logSize im + logFrames im)

/-- The parts and the ring size of the job in force. -/
def State.area (s : State) : AreaParts × Nat :=
  match s.rt.image with
  | none => ({ slot := 0, slot0 := 0, slot1 := 0, copy := 0, ring := 0 }, 0)
  | some im => (areaParts s.job.p im, ringNeed s.job.p im)

/-- The area directory: offset and size of each of the four parts. -/
def State.areaDir (s : State) : Bytes :=
  let (a, n) := s.area
  padTo (toLE a.slot0 8 ++ toLE a.slot 8 ++ toLE a.slot1 8 ++ toLE a.slot 8 ++ toLE a.copy 8 ++ toLE (a.ring - a.copy) 8 ++ toLE a.ring 8 ++ toLE n 8) 4096

/-- Stores into the ring from a position of it, round its end. -/
def State.ringStores (s : State) (pos : Nat) (bs : Bytes) : List Pkt :=
  let (a, n) := s.area
  let k := min bs.length (n - pos)
  s.areaStores (a.ring + pos) (bs.take k) ++ s.areaStores a.ring (bs.drop k)

/-- A row log as it stands in the ring: a header with its step and length, then the log, in 64 B words. -/
def stagedLog (step : DWord) (l : List (Word × Nat × Bytes)) : Bytes :=
  let b := logBytes l
  if b.isEmpty then [] else padTo (padTo (toLE step.toNat 8 ++ toLE b.length 8) 64 ++ b) (stagedSize b.length)

/-- The step of the KIND 5 rows as they stand, once what an update in progress logs of them is applied (R289, R315). -/
def State.liveStep (s : State) : DWord := if s.medlar.midUpdate then s.medlar.stateStep + 1 else s.medlar.stateStep

/-- The embedding copy at the host, with the staged logs up to a unit, is the state of that unit; until then the unit's image stays incomplete
(R446, R448). -/
def State.copyGood (s : State) (u : SecUnit) : Bool := s.rowObjs.isEmpty || decide (s.sec.copyStep.toNat ≤ u.step.toNat)

/-- The stores of a first transfer: the area directory, and the embedding copies as the rows stand (R444, R448). -/
def State.firstStores (s : State) : List Pkt :=
  s.areaStores 0 s.areaDir ++
    s.rowObjs.flatMap fun o => s.areaStores (s.area.1.copy + copyOffset s.objTable o.e.id) (s.readObj o 0 o.e.embBytes)

/-- Begins the partner transfer of the oldest unit (R442, R443, R446, R448): with the first, the directory and the embedding copies; the row logs to
the staging ring; and at a partner point the image, whose header waits until everything before it is answered. A job of one member has no partner. -/
def State.beginPartner (s : State) : State :=
  match s.sec.units with
  | [] => s
  | u :: _ =>
    if u.begun then s
    else
      let mark := fun (s : State) (h : Option Pkt) => s.upSec fun c => { c with units := c.units.map fun u => { u with begun := true, header := h } }
      if s.job.p.n ≤ 1 then mark s none
      else
        let first := s.sec.firstImage && (u.needPartner || !s.rowObjs.isEmpty)
        let s := s.when first fun s => s.upSec fun c => { c with copyStep := s.liveStep }
        let since := s.sec.logsSince ++ u.logs
        let img := if u.needPartner then s.imageFor layerPartner u.step u.us.toNat since else []
        let (a, n) := s.area
        let lg := stagedLog u.step u.logs
        let at_ := if s.sec.slotNext then a.slot1 else a.slot0
        let logStores := s.ringStores s.sec.logPos lg
        let body := if u.needPartner then s.areaStores (at_ + 128) (img.drop 128) else []
        let header := if u.needPartner && s.copyGood u then some (s.areaStore at_ (img.take 128)) else none
        let stores := (if first then s.firstStores else []) ++ logStores ++ body
        let s := s.upSec fun c => { c with logPos := (c.logPos + lg.length) % max 1 n, logsSince := if u.needPartner then [] else since }
        mark (stores.foldl (fun s k => s.request k none) s) header

/-- The header of an image goes at once when nothing of the image is open any more. -/
def State.headerIfDue (s : State) : State :=
  match s.sec.units with
  | [] => s
  | u :: _ => match u.header with
    | none => s
    | some h =>
      if s.imageOpen || u.failed then s
      else (s.upSec fun r => { r with units := r.units.map fun u => { u with header := none } }).request h none

/-- The drain of a unit holds its buffer (R39, R263, R273). -/
def State.drainHeld (s : State) (u : SecUnit) : Bool := (s.mover.bufOf (.drain u.step)).isSome

/-- The drain of the oldest unit: it holds a staging buffer of class D before its transfer begins, and claims one (R263, R272). -/
def State.drainOn (s : State) : State :=
  match s.sec.units with
  | [] => s
  | u :: _ =>
    if u.begun then s
    else if s.drainHeld u then s.beginPartner.headerIfDue
    else s.upMover fun m => m.claim (.drain u.step)

/-- The transfer of the oldest unit to its partner is over: every store is answered, or the image stays incomplete. -/
def State.partnerOver (s : State) (u : SecUnit) : Bool := u.begun && !u.partnerDone && !s.imageOpen && (u.header.isNone || u.failed)

/-! ### Restore (R457 to R459) -/

/-- Tile rows of an object, as (tensor, row within the tensor). -/
def ObjE.tileRows (e : ObjE) : List (Word × Nat) := (List.range e.mTiles).map fun r => (BitVec.ofNat 32 e.tensor, e.shardFirst + r)

/-- The tile rows of the image that a restore has to find. -/
def State.rowsNeeded (s : State) : List (Word × Nat) := s.stateObjs.flatMap fun o => o.e.tileRows

/-- Places one tile row of dense state from an image object into a new object. -/
def State.placeRow (s : State) (o : ObjS) (e : ObjE) (dense : Bytes) (row buf : Nat) : State :=
  let w := e.nTiles * 8192
  [0, 1, 2].foldl (fun s p =>
    s.writeHome o (planeOff o.e buf p ((row - o.e.shardFirst) * o.e.nTiles)) (slice dense (p * e.plane + (row - e.shardFirst) * w) w)) s

/-- Places one tile row of an embedding: its 64 rows and their counts. -/
def State.placeRows (s : State) (o : ObjS) (e : ObjE) (base : Bytes) (row : Nat) : State :=
  let w := 6 * e.rowW
  let r0 := (row - e.shardFirst) * 64
  let n0 := (row - o.e.shardFirst) * 64
  (s.writeHome o (n0 * w) (slice base (r0 * w) (64 * w))).writeHome o (o.e.mTiles * 64 * w + 4 * n0) (slice base (e.mTiles * 64 * w + 4 * r0) 256)

/-- Applies the row logs of an image to the tile rows of an embedding that it restores (R446, R447). -/
def State.applyLogs (s : State) (o : ObjS) (e : ObjE) (rows : List (Word × Nat)) : Nat → Bytes → State
  | 0, _ => s
  | n + 1, b =>
    if b.length < 8 then s
    else
      let len := leNat b 4 4
      let x := slice b 8 len
      let at_ := leNat x 0 4 + e.shardFirst * 64
      let row := at_ - o.e.shardFirst * 64
      let w := 6 * e.rowW
      let s := if leNat b 0 4 = e.id && rows.contains (BitVec.ofNat 32 e.tensor, at_ / 64) && o.e.tileRows.contains (BitVec.ofNat 32 e.tensor, at_ / 64) then
          (s.writeHome o (row * w) (slice x 8 w)).writeHome o (o.e.mTiles * 64 * w + 4 * row) (slice x 4 4)
        else s
      s.applyLogs o e rows n (b.drop (8 + len))

/-- The new object that holds a tile row. -/
def State.objOfRow (s : State) (kind : Nat) (t : Word × Nat) : Option ObjS :=
  s.rt.objects.find? fun o => decide (o.e.kind = kind) && decide (BitVec.ofNat 32 o.e.tensor = t.1) && decide (o.e.shardFirst ≤ t.2) &&
    decide (t.2 < o.e.shardFirst + o.e.mTiles)

/-- Places the rows of one image object that are still needed. Embedding rows come from the image's base with its logs, or from the host's copy, which
is at the image's step (R458). -/
def State.placeObj (s : State) (e : ObjE) (dense scales base logs : Bytes) (buf : Nat) : State :=
  let rows := e.tileRows.filter fun t => s.sec.restoreNeed.contains t
  let s := rows.foldl (fun s t => match s.objOfRow e.kind t with
    | none => s
    | some o =>
      if e.kind = 0 then
        let s := s.placeRow o e dense t.2 buf
        s.upSec fun c => { c with restoreScales := c.restoreScales ++ (List.range e.nTiles).map fun n =>
          ((t.1, t.2, n), slice scales (((t.2 - e.shardFirst) * e.nTiles + n) * 64) 64) }
      else if base.isEmpty then s else s.placeRows o e base t.2) s
  let s := if e.kind = 5 && !base.isEmpty then (s.rt.objects.filter fun o => decide (o.e.kind = 5) && decide (o.e.tensor = e.tensor)).foldl
      (fun s o => s.applyLogs o e rows logs.length logs) s else s
  s.upSec fun c => { c with restoreNeed := if e.kind = 5 && base.isEmpty then c.restoreNeed else c.restoreNeed.filter fun t => !rows.contains t }

/-- Places what an image and the embedding copies of its host hold of the rows still needed, in buffer U_s mod 2, and takes its U, histories and
outlier sizing. -/
def State.placeImage (s : State) (b copy : Bytes) : State :=
  let us := leNat b 0x18 8
  let buf := us % 2
  let es := (entriesOf (imgSection b 1) 64).map objOf
  let withTiles := fun (e : ObjE) => s.objTable.any fun c => decide (c.kind = 1) && s.objTable.any fun p => decide (p.id = c.parent) && decide (p.tensor = e.tensor)
  let dense := imgSection b 2
  let scales := imgSection b 3
  let base := imgSection b 4
  let logs := if base.isEmpty then [] else imgSection b 5
  let s := (es.foldl (fun (acc : State × Nat × Nat × Nat) e =>
    let (s, d, c, m) := acc
    let rows := if base.isEmpty then slice copy (copyOffset es e.id) e.embBytes else slice base m e.embBytes
    let s := s.placeObj e (slice dense d (3 * e.plane)) (slice scales c (64 * e.tiles)) rows logs buf
    if e.kind = 0 then (s, d + 3 * e.plane, if withTiles e then c + 64 * e.tiles else c, m) else (s, d, c, m + e.embBytes)) (s, 0, 0, 0)).1
  let hist := entriesOf (imgSection b 6) 256
  let s := s.upRt fun t =>
    { t with history := hist.zipIdx.foldl (fun h x => putKV x.2 ((entriesOf x.1 16).filter (fun e => e.any (· ≠ 0)) |>.map histOf) h) t.history
             sizing := (entriesOf (imgSection b 7) 16).foldl (fun z e => putKV (leNat e 0 4) (leNat e 4 4, leNat e 8 4) z) t.sizing }
  s.upMedlar fun m => { m with u := BitVec.ofNat 64 us, stateStep := BitVec.ofNat 64 (leNat b 0x10 8), prevStep := none }

/-- Every scale derived for a restored tile is the one that its image holds (R459, step 2). -/
def State.scalesAgree (s : State) : Bool :=
  let buf := s.medlar.u.toNat % 2
  s.denseObjs.all fun o => (s.objScales o buf).all fun x =>
    match getKV (BitVec.ofNat 32 o.e.tensor, o.e.shardFirst + x.1 / max 1 o.e.nTiles, x.1 % max 1 o.e.nTiles) s.sec.restoreScales with
    | none => true
    | some e => decide (e = x.2)

/-- Derives the working tiles of the restored shard and multicasts them (R459, steps 1 and 3). -/
def State.deriveAll (s : State) : State :=
  let buf := s.medlar.u.toNat % 2
  s.denseObjs.foldl (fun s o => match s.rt.objects.find? fun w => decide (w.e.kind = 1) && decide (w.e.parent = o.e.id) with
    | none => s
    | some w =>
      let size := recSize w.e.fmt
      let s := (s.derived o w.e.fmt buf).foldl (fun s x => s.writeHome o (6 * o.e.plane + x.1 * size) x.2) s
      s.handOff o w) s

end Sys2Proof.Machine
end

