-- ==== Sys2Proof/Machine/StepRows.lean ====
section
/-! DEFINITION. Meanings of the rows of stages 4 and 5, of the integrity all-reduce and of teardown (R28 to R37, R307 to R320,
R337 to R350, R396). -/
namespace Sys2Proof.Machine

/-! ### Stage 4 -/

/-- Tiles of the module's own shard: tensor and tile number, of each gradient on which Medlar acts. -/
def State.shardTiles (s : State) : List (Word × Word) :=
  s.medlarGrads.flatMap fun o =>
    let t := BitVec.ofNat 32 o.e.tensor
    if s.rowTensor t then [(t, 0)]
    else (List.range o.e.tiles).map fun i => (t, BitVec.ofNat 32 (o.e.shardFirst * o.e.nTiles + i))

/-- The tiles of the trees in which the module combines contributions below the root: owner, tensor, tile and layer (R322). -/
def State.innerTiles (s : State) : List (BitVec 17 × Word × Word × Nat) :=
  let grads := s.rt.objects.filter fun o => decide (o.e.kind = 2)
  grads.flatMap fun o =>
    let t := BitVec.ofNat 32 o.e.tensor
    let cols := s.tensorCols t
    let mine := s.job.p.shardMap.filter fun x =>
      let pos := s.treePos x.2.2.2
      decide (x.1 = s.paramTensor t) && decide (pos ≠ 0) && !(s.job.p.childPos pos).isEmpty
    if s.rowTensor t then mine.map fun x => (BitVec.ofNat 17 x.2.2.2, t, 0, o.e.layer)
    else mine.flatMap fun x => (List.range (x.2.2.1 * cols)).map fun i => (BitVec.ofNat 17 x.2.2.2, t, BitVec.ofNat 32 (x.2.1 * cols + i), o.e.layer)

/-- A tile of a tree has closed at this node. -/
def State.tileClosed (s : State) (owner : BitVec 17) (tensor tile : Word) : Bool := ((s.coll.tile owner tensor tile).map (·.closed)).getD false

/-- Every tile of the shard is reduced, and each tile of another tree is closed or past its close time, so that the deadline of every outstanding
contribution has passed (R35). -/
def State.shardReduced (s : State) : Bool :=
  (s.shardTiles.all fun x => s.tileClosed (BitVec.ofNat 17 s.me) x.1 x.2) &&
    s.innerTiles.all fun x => s.tileClosed x.1 x.2.1 x.2.2.1 || decide (s.closeAt x.2.2.2 (s.treePos x.1.toNat) ≤ (s.now.toNat : Int))

/-- Every region with a transform frame has run, and every transform nest has reported (R35, R207). -/
def State.transformsDone (s : State) : Bool :=
  decide (s.rt.nestsStarted = s.rt.nestsReported) &&
    match s.rt.image with
    | none => false
    | some im => (List.range im.regions.length).all fun i =>
        match im.regions[i]? with
        | none => true
        | some e =>
          !(((im.frames.drop e.frameFirst).take e.frameCount).any fun f => decide (fPers f = 3)) ||
            (!(s.regionS i).running && decide ((s.regionS i).doneRuns > 0))

/-- STAGE4_BEGIN (R35, R207, R307): stage 4 begins, and Medlar begins its sum of squares.
(DEDUCED, log entry 70) -/
def execStage4Begin (s : State) : Res :=
  if s.inJob && decide (s.job.stage = .running) && s.shardReduced && s.transformsDone then
    .next (((s.upJob fun j => { j with stage := .stage4 }).upMedlar fun m => { m with sumStarted := true, sumsq := none }).noteStep)
  else .next s

/-- SUMSQ_DONE (R307): the sum of squares of the module is complete. A gradient that moves is waited for (R242). -/
def execSumsqDone (s : State) : Res :=
  if s.medlar.sumStarted && s.medlar.sumsq.isNone && !s.medlarGrads.any ObjS.readWaits then
    .next (s.upMedlar fun m => { m with sumsq := some s.sumSquares })
  else .next s

/-- A contribution of the run is still to be handed to Bramble, waits to be issued, or waits at a port (R339). -/
def State.unsent (s : State) : Bool :=
  let mine := fun (k : Pkt) => decide (k.job = s.job.p.jobId) && pktReduces k
  !s.coll.toSend.isEmpty || (s.fab.waiting.any fun o => mine o.pkt) ||
    s.fab.ports.toList.any fun q => q.queues[1].any fun x => decide (x.1.src = q.sentId) && mine x.1

/-- This member's record (R337, R338). -/
def State.ownRecord (s : State) : IntRec :=
  let nf := s.coll.sentNonfinite || s.coll.slotNonfinite || s.rt.nonfinite
  let n := fun (b : Bool) => BitVec.ofNat 32 (b2n b)
  { jobId := s.job.p.jobId, run := s.job.replay, nonfinite := nf, ovf := s.rt.ovf, late := s.coll.lateOwn, critical := s.job.lastCritical,
    decision := 0, result := false, step := s.job.step, sumsq := s.medlar.sumsq.getD 0, members := 1, nonfiniteMembers := n nf,
    ovfMembers := n s.rt.ovf, lateMembers := n s.coll.lateOwn, criticalMembers := n s.job.lastCritical, deferred := s.coll.deferredN,
    dropped := s.coll.droppedN, ownTime := s.now - s.job.tStart, stamp := 0 }

/-- INTEGRITY_SEND (R336 to R340): the member's contribution goes up T_0. -/
def execIntegritySend (s : State) : Res :=
  if s.inJob && decide (s.job.stage = .stage4) && s.allRunsDone && s.medlar.sumsq.isSome && decide (s.rt.nestsStarted = s.rt.nestsReported) &&
      s.coll.ownRec.isNone && !s.unsent then
    let r := s.ownRecord
    .next ((s.upColl fun c => { c with ownRec := some r, sentAt := s.now }).noteStep.tryCombine.pumpRx)
  else .next s

/-- Position in T_0 of a module. -/
def State.posOf (s : State) (m : BitVec 17) : Option Nat := s.job.p.members.findIdx? fun x => x = m

/-- A child's record (R340, R348): of the present run it is kept and combined; of the run to come it is held; of any other it is
refused, and the fabric manager is told. -/
def State.childRec (s : State) (pos : Nat) (src : BitVec 17) (r : IntRec) : State :=
  if r.step = s.job.step && decide (r.run = s.job.replay) && s.coll.result.isNone then
    (s.upColl fun c => { c with children := putKV pos r c.children }).tryCombine
  else if (decide (r.step = s.job.step + 1) && !r.run) || (decide (r.step = s.job.step) && r.run && !s.job.replay) then
    s.upColl fun c => { c with early4 := putKV pos r c.early4 }
  else s.deadSuspect s.job.p.jobId src 0 0x10

/-- INTEGRITY (R337, R340, R348, R377): a record of a child is combined; the result from the parent goes on to the children, and
the member acts on it. -/
def execIntegrity (p : Fin 32) (k : Pkt) (s : State) : Res :=
  if k.op = 0x10#8 && s.fab.mine p k && decide (msgType k = 0x06) && msgKnown k then
    .next (s.arrivePkt p k fun s =>
      let r := intOf (k.payload.drop 4)
      if !(s.inJob && decide (k.job = s.job.p.jobId) && decide (r.jobId = s.job.p.jobId) && s.fab.collOk k) then s.countDiscard p
      else
        let pos := s.treePos 0
        match s.posOf k.src with
        | none => s.countDiscard p
        | some from_ =>
          if r.result then
            if decide (pos ≠ 0) && decide (from_ = s.job.p.parentPos pos) && s.coll.sentUp && s.coll.result.isNone && decide (r.step = s.job.step) &&
                decide (r.run = s.job.replay) then (s.passDown r).pumpRx
            else s.countDiscard p
          else if s.kids.contains from_ then (s.childRec from_ k.src r).pumpRx
          else s.countDiscard p)
  else .next s

/-! ### The end of stage 5 -/

/-- Every object is written, and every outbox is handed off (R318). -/
def State.passOver (s : State) : Bool := s.medlar.passOn && s.medlar.pass.isEmpty

/-- A multiple of an interval; an interval of 0 has none. -/
def multipleOf (u n : Nat) : Bool := decide (0 < n) && decide (u % n = 0)

/-- The unit that stage 5 hands to securing (R319, R441): the state that the update read, labelled with the step whose update
produced it, and the row logs of that update.
(DEDUCED, log entry 97) -/
def State.secUnit (s : State) : SecUnit :=
  let u := s.medlar.u.toNat
  { step := s.medlar.stateStep, us := s.medlar.u, needPartner := multipleOf u s.job.p.pInt, needFlash := multipleOf u s.job.p.fInt,
    needExport := multipleOf u s.job.p.sInt, logs := s.medlar.logPrev, begun := false, header := none, failed := false,
    partnerDone := false }

/-- Checks every ratio against its band, and raises what R317 asks for (R316, R317). -/
def State.checkRatios (s : State) : State :=
  let rs := s.medlar.ratios.map fun r => let r := { r with ratio := r.form }; (r, r.check (s.groupOf r.group))
  let s := s.upMedlar fun m => { m with ratios := rs.map fun x => x.2.1 }
  rs.foldl (fun s x => match x.2.2 with
    | none => s
    | some code => s.event code s.job.step (arg (x.1.layer % 1024 + 1024 * (x.1.group % 64) + 2 ^ 32 * x.1.ratio.toNat))) s

/-- STAGE5_END (R306, R309, R316 to R319, R349, R486): U increases by one, the buffer that was read goes to securing, and the step
record is final. -/
def execStage5End (s : State) : Res :=
  if decide (s.job.stage = .stage5) && s.passOver then
    let unit := s.secUnit
    let s := s.checkRatios
    let s := s.upSec fun c => { c with units := c.units ++ [unit], bufferFree := false }
    let s := s.upMedlar fun m =>
      { m with
        u := m.u + 1, stateStep := s.job.step, prevStep := some m.stateStep, passOn := false, midUpdate := false, rowLists := [], sumsq := none, sumStarted := false
        inUse := none, logPrev := m.logNow, logNow := [] }
    let s := s.drainOn
    let s := s.upJob fun j =>
      { j with record := { j.record with tUpdateEnd := s.now, u := s.medlar.u, ratios := s.medlar.ratios.map fun r => (r.layer, r.group, r.ratio) } }
    let stamp := (s.coll.result.map (·.stamp)).getD s.now
    .next ((s.returnRecord s.job.record).nextStep stamp).pumpRx
  else .next s

/-! ### Teardown -/

/-- Acts on a TEARDOWN for a job (R396), and acknowledges it. -/
def State.teardownFor (s : State) (job : Word) : State :=
  let s := s.when (s.inJob && decide (job = s.job.p.jobId)) State.tearDown
  s.fmMsgOut 0x0C job (toLE job.toNat 4)

/-- A message of the fabric manager that a packet brings is accepted from the relay module alone (R377). -/
def State.fromRelay (s : State) (k : Pkt) : Bool := s.fab.relayEn && decide (k.src = s.fab.relayMod)

/-- SHED_REPLY (R248, R249, R377): from the relay module alone. -/
def execShedReply (p : Fin 32) (k : Pkt) (r : ShedAns) (s : State) : Res :=
  if k.op = 0x10#8 && s.fab.mine p k && decide (msgType k = 0x08) && msgKnown k then
    .next (s.arrivePkt p k fun s => if s.fromRelay k then s.shedAnswer r.grant r.firstStep r.share else s.countDiscard p)
  else .next s

/-- TEARDOWN (R377, R396). -/
def execTeardown (p : Fin 32) (k : Pkt) (s : State) : Res :=
  if k.op = 0x10#8 && s.fab.mine p k && decide (msgType k = 0x0B) && msgKnown k then
    .next (s.arrivePkt p k fun s => if s.fromRelay k then (s.teardownFor (BitVec.ofNat 32 (leNat k.payload 4 4))).pumpRx else s.countDiscard p)
  else .next s

end Sys2Proof.Machine
end

