-- ==== Sys2Proof/Machine/PowerRows.lean ====
section
/-! DEFINITION. Meanings of the rows of power: envelope, balancing, the voltage request bus, Currant, frequency steps, thermal
protection and power states (R398 to R438, R529, R530). -/
namespace Sys2Proof.Machine

/-! ### The envelope (R416 to R420) -/

/-- The latest accepted ceiling comes into force (R418, R420): RAMP_DOWN counts from now. -/
def State.applyCeiling (s : State) (m : EnvMsg) : State :=
  s.changeEnv fun p =>
    { p with msgCeil := some m.ceiling, msgPend := none, rampDown := m.rampDown
             ceilAt := if m.ceiling < p.ceilNow then s.now else p.ceilAt }

/-- A sequence number is greater than another, modulo 2^32 (R418).
(DEDUCED, log entry 90) -/
def seqNewer (a b : Word) : Bool := decide (0 < (a - b).toNat) && decide ((a - b).toNat < 2 ^ 31)

/-- An ENVELOPE message that the fabric manager sends (R418), or none where it is discarded. -/
def State.envelopeMsg (s : State) (b : Bytes) : Option State :=
  let seq := BitVec.ofNat 32 (leNat b 4 4)
  let m : EnvMsg := { ceiling := leNat b 16 2, rampDown := leNat b 18 2, effective := BitVec.ofNat 64 (leNat b 8 8) }
  let fresh_ := match s.pwr.msgSeq with
    | none => true
    | some last => seqNewer seq last
  if fresh_ && decide (250 ≤ m.ceiling) && decide (m.ceiling ≤ 1500) then
    let s := s.upPwr fun p => { p with msgSeq := some seq }
    if m.effective.toNat ≤ s.now.toNat then some (s.applyCeiling m) else some (s.upPwr fun p => { p with msgPend := some m })
  else none

/-- ENVELOPE (R377, R418): a ceiling that the relay module brings. -/
def execEnvelope (p : Fin 32) (k : Pkt) (s : State) : Res :=
  if k.op = 0x10#8 && s.fab.mine p k && decide (msgType k = 0x04) && msgKnown k then
    .next (s.arrivePkt p k fun s =>
      if s.fromRelay k then (s.envelopeMsg k.payload).getD (s.countDiscard p) else s.countDiscard p)
  else .next s

/-- ENVELOPE_EFFECTIVE (R418): module time reaches T_EFFECTIVE of the ceiling that waits. -/
def execEnvelopeEffective (s : State) : Res :=
  match s.pwr.msgPend with
  | none => .next s
  | some m => .next ((s.advanceTo m.effective).applyCeiling m)

/-- ENV_STEP_CHANGE (R417, R438, R540): the pins carry a new code. It acts while the module runs, and is only recorded outside
ACTIVE; during a reset or a start it is ignored until DEVICE_READY.
(DESIGN CHOICE, log entry 129) -/
def execEnvStepChange (code : BitVec 3) (s : State) : Res :=
  let s := s.upPins fun p => { p with envCode := code }
  .next (if s.quince.running && s.pins.vaux && s.pins.modRst && s.quince.start.isNone then s.changeEnv fun p => { p with pinCode := code } else s)

/-- FMOD_EVAL (R419, R420): what is due of a rise or of a ramped fall is released, and f_mod is chosen anew; while the measured draw
exceeds E it falls by one step. -/
def execFmodEval (drawOver : Bool) (s : State) : Res :=
  let s := s.ceilingStep
  if s.pwr.st ≠ .active then .next s
  else if drawOver then
    .next ((s.upPwr fun p => { p with fMod := BitVec.ofNat 11 (max 500 (p.fMod.toNat - 25)) }).refreq)
  else
    let f := fmodFor s.free s.pwr.ceilNow
    let s : State := { s with free := s.free + 1 }
    .next ((s.upPwr fun p => { p with fMod := BitVec.ofNat 11 f }).refreq)

/-! ### Shift mode (R424 to R429) -/

/-- A FP32 value that is not negative, as a quotient. -/
def ratioOf (w : Word) : Nat × Nat :=
  let e := field w.toNat 30 23
  let m := field w.toNat 22 0 + (if e = 0 then 0 else 2 ^ 23)
  let e := max 1 e
  if e ≥ 150 then (m * 2 ^ (e - 150), 1) else (m, 2 ^ (150 - e))

/-- Offer of a lender (R426). -/
def lenderOffer (eBase pTarget pCore : Nat) (w : Word) : Nat :=
  let (n, d) := ratioOf w
  let spare := eBase - ceilDiv (100 * pTarget) 98
  let waits := if n * 20 ≥ d then (50 * n - d) * pCore / (50 * d) else 0
  min (spare + waits) (eBase - 250)

/-- Ask of a borrower (R426). -/
def borrowerAsk (eBase pTarget cap therm : Nat) : Nat := min (ceilDiv (100 * min cap pTarget) 98 - eBase) (therm - eBase)

/-- A CREDIT message (R427), after its MSG word. -/
def creditBytes (job round : Word) (down : Bool) (offers asks borrowers : Nat) : Bytes :=
  toLE job.toNat 4 ++ toLE round.toNat 4 ++ toLE (b2n down) 4 ++ toLE offers 8 ++ toLE asks 8 ++ toLE borrowers 4

/-- A member takes its grant and its lend from a result (R428, R429). -/
def State.applyCredit (s : State) (o a : Nat) : State :=
  s.changeEnv fun p =>
    { p with roundOn := false
             grant := BitVec.ofNat 16 (p.ask * min a o / a)
             lend := BitVec.ofNat 16 (ceilDiv (p.offer * min a o) o) }

/-- Credit rounds run (R424), so that the member may send a CREDIT message: never while it is not FABRIC_LOCKED (R83). -/
def State.roundsRun (s : State) : Bool := s.inJob && s.job.p.shift && s.time.locked && decide (s.pwr.st = .active)

/-- The result goes down the tree, and the member acts on it. -/
def State.creditDown (s : State) (o a n : Nat) : State :=
  (s.when s.roundsRun fun s => s.kids.foldl (fun s k => s.jobMsg (s.job.p.moduleOf (s.job.p.memberAt 0 k)) 0x05
    (creditBytes s.job.p.jobId s.pwr.round true o a n)) s).applyCredit o a

/-- Up message of a child for the present round. -/
def Power.childOf (p : Power) (k : Nat) : Option (Word × Nat × Nat × Nat) :=
  (p.childCredits.find? fun x => decide (x.1 = k) && decide (x.2.1 = p.round)).map (·.2)

/-- Sends the node's up message once every child's is there; the root forms the result (R427). -/
def State.tryCredit (s : State) : State :=
  let cs := s.kids.map s.pwr.childOf
  if !s.pwr.roundOn || s.pwr.upSent || !s.roundsRun || cs.any Option.isNone then s
  else
    let got := cs.filterMap id
    let o := s.pwr.offer + sumNat (got.map (·.2.1))
    let a := s.pwr.ask + sumNat (got.map (·.2.2.1))
    let n := b2n s.pwr.borrower + sumNat (got.map (·.2.2.2))
    let s := s.upPwr fun p => { p with upSent := true }
    let pos := s.treePos 0
    if pos = 0 then s.creditDown o a n
    else s.jobMsg (s.job.p.moduleOf (s.job.p.memberAt 0 (s.job.p.parentPos pos))) 0x05
      (creditBytes s.job.p.jobId s.pwr.round false o a n)

/-- CREDIT_ROUND_START (R424 to R427): module time crosses a multiple of 2^24. -/
def execCreditRoundStart (pTarget pCore : Nat) (s : State) : Res :=
  if s.roundsRun then
    let k := max (s.now.toNat / 2 ^ 24) (s.pwr.roundAt.toNat / 2 ^ 24 + 1)
    let at_ := BitVec.ofNat 64 (k * 2 ^ 24)
    let s := (s.advanceTo at_).changeEnv fun p => { p with capNow := p.shiftCap }
    let p := s.pwr
    let round := BitVec.ofNat 32 k
    let offer := if p.borrower then 0 else lenderOffer p.eBase pTarget pCore s.job.lastFraction
    let ask := if p.borrower then borrowerAsk p.eBase pTarget (clampW p.capNow.toNat) p.thermW else 0
    .next ((s.upPwr fun p =>
      { p with roundOn := true, round := round, roundAt := at_, offer := offer, ask := ask, upSent := false
               childCredits := p.childCredits.filter fun x => decide (x.2.1 = round) }).tryCredit)
  else .next s

/-- A borrower's grant becomes 0 at once (R429). -/
def State.dropGrant (s : State) : State := s.when s.pwr.borrower fun s => s.changeEnv fun p => { p with grant := 0 }

/-- CREDIT_ROUND_VOID (R427, R429): 400 µs after the round began a child's message is missing. -/
def execCreditRoundVoid (s : State) : Res :=
  if s.pwr.roundOn && !s.pwr.upSent then
    let s := s.advanceTo (after s.pwr.roundAt (400 * usU))
    .next ((s.upPwr fun p => { p with upSent := true }).dropGrant)
  else .next s

/-- CREDIT_RESULT_TIMEOUT (R429): no result 1 ms after the round began. -/
def execCreditResultTimeout (s : State) : Res :=
  if s.pwr.roundOn then .next ((s.advanceTo (after s.pwr.roundAt msU)).dropGrant) else .next s

/-- An up message of a child: of the present round it is summed up, and of the round to come it is held.
(DEDUCED, log entry 91) -/
def State.creditUp (s : State) (pos : Nat) (round : Word) (o a n : Nat) : State :=
  if round = s.pwr.round || round = s.pwr.round + 1 then
    (s.upPwr fun p => { p with childCredits := p.childCredits ++ [(pos, round, o, a, n)] }).tryCredit
  else s

/-- CREDIT (R377, R427 to R429). -/
def execCredit (p : Fin 32) (k : Pkt) (s : State) : Res :=
  if k.op = 0x10#8 && s.fab.mine p k && decide (msgType k = 0x05) && msgKnown k then
    .next (s.arrivePkt p k fun s =>
      let b := k.payload
      let round := BitVec.ofNat 32 (leNat b 8 4)
      let o := leNat b 16 8
      let a := leNat b 24 8
      let n := leNat b 32 4
      if !(s.inJob && s.job.p.shift && decide (k.job = s.job.p.jobId) && decide (leNat b 4 4 = s.job.p.jobId.toNat) && s.fab.collOk k) then
        s.countDiscard p
      else
        match s.posOf k.src with
        | none => s.countDiscard p
        | some from_ =>
          if bit (byteAt b 12) 0 then
            if decide (s.treePos 0 ≠ 0) && decide (from_ = s.job.p.parentPos (s.treePos 0)) && s.pwr.roundOn && decide (round = s.pwr.round) then
              s.creditDown o a n
            else s.countDiscard p
          else if s.kids.contains from_ then s.creditUp from_ round o a n
          else s.countDiscard p)
  else .next s

/-! ### The voltage request bus (R400 to R403, R528 to R530) -/

/-- A rail fault (R402, R403, R522): the voltage is unknown, a raise is given up, the die of a VCORE rail goes to 500 MHz, and the runtime
is told. PWR_GOOD falls where the power state needs the rail. -/
def State.railFault (s : State) (i : Fin 8) (status : DWord) : State :=
  if s.pwr.rails[i].fault then s
  else
    let s := s.upPwr fun p => { p with busFault := true, faultRail := BitVec.ofNat 3 i.val }
    let s := s.upRail i fun r => { r with fault := true, acks := 0, pending := false, wantTarget := r.target, wantEnable := r.wantEnable && r.enabled, status2 := false }
    let s := s.when (decide (s.pwr.st ≠ .standby)) fun s => s.upPins fun p => { p with pwrGood := false }
    (s.event evRailFault (arg i.val) status).refreq

/-- A frame that went unanswered, drew a NAK or failed CRC_S (R402); only NAKs and CRC failures count in NAK_COUNT. -/
def State.frameFailed (s : State) (i : Fin 8) (counted : Bool) (status : DWord) : State :=
  let s := s.upPwr fun p => { p with busUp := false, nakCount := satAdd p.nakCount (b2n counted) }
  let s := s.upRail i fun r => { r with fails := r.fails + 1, acks := 0 }
  if s.pwr.rails[i].fails ≥ 3 then s.railFault i status else s

/-- What a rail that is switched off takes with it (R398): the clocks of its die, or the light of the ports. -/
def State.railDark (s : State) (i : Fin 8) : State :=
  let s := { s with clusters := s.clusters.mapFinIdx fun c k h => if (dieOf ⟨c, h⟩).val = i.val then { k with running := false } else k }
  if i.val = 6 then s.upFab fun b => { b with ports := b.ports.map fun q => if q.st = .disabled then q else { q with st := .dark, level := 0 } }
  else s

/-- What a frame is sent for: it repeats the rail's present target, carries a pending change (R401), or is one of the sequences that switch the
rails off (R530) and on (R529). -/
inductive Frame where
  | poll
  | change
  | off
  | on
  deriving DecidableEq, Repr

/-- A rail after an acknowledged frame that carries an enable bit (R401, R402). -/
def Rail.acked (r : Rail) (k : Frame) (enable : Bool) (iRead : Nat) : Rail :=
  { r with
    target := if k = .change then r.wantTarget else r.target
    enabled := enable
    pending := r.pending && decide (k = .poll)
    status2 := false, fails := 0, acks := r.acks + 1, iRead := iRead, fault := r.fault && decide (r.acks + 1 < 10) }

/-- An acknowledged frame (R401, R402): a pending target is in force; a fault clears after ten of them, and with the last of them PWR_GOOD rises
again (R522). -/
def State.frameAcked (s : State) (i : Fin 8) (k : Frame) (enable : Bool) (iRead : Nat) : State :=
  let was := s.pwr.rails[i]
  let s := (s.upPwr fun p => { p with busUp := true }).upRail i fun r => r.acked k enable iRead
  let s := s.when (decide (k = .on)) fun s => s.railOn i
  let s := s.when (was.enabled && !s.pwr.rails[i].enabled) fun s => s.railDark i
  s.when (was.fault && !s.pwr.rails[i].fault) fun s =>
    (s.when (s.railsGood && s.pwr.offSeq.isEmpty && s.quince.start.isNone) fun s => s.upPins fun p => { p with pwrGood := p.pwrGood || !p.goodHeld }).refreq

/-- A reply to the frame of a rail. -/
def State.frameReply (s : State) (i : Fin 8) (k : Frame) (enable : Bool) (reply : Option (BitVec 22)) : State :=
  match reply with
  | none =>
    let (st, s) := s.fresh 64
    s.frameFailed i false st
  | some r =>
    let v := r.toNat
    let status := field v 21 20
    if crc8 (field v 21 8) 14 0 ≠ field v 7 0 then s.frameFailed i true (arg status)
    else match status with
      | 0 => s.frameAcked i k enable (field v 19 8)
      | 1 => s.frameFailed i true (arg 1)
      | 2 =>
        let again := s.pwr.rails[i].status2
        let s := s.upPwr fun p => { p with nakCount := satAdd p.nakCount 1 }
        let s := s.upRail i fun r => { r with fails := 0, acks := 0, status2 := !again, iRead := field v 19 8 }
        s.when again fun s => s.railFault i (arg 2)
      | _ => (s.upRail i fun r => { r with fails := 0, acks := 0, iRead := field v 19 8 }).railFault i (arg 3)

/-- A rail has a pending change that a frame may carry (R401): the lowering of a VCORE target waits while a droop response on its die is active
(R414). -/
def State.frameWaits (s : State) (i : Fin 8) : Bool :=
  let r := s.pwr.rails[i]
  r.pending && !(if h : i.val < 4 then decide (r.wantTarget < r.target) && s.dieDroops ⟨i.val, h⟩ else false)

/-- The rail that a frame goes to, and what the frame is sent for: the sequences of R529 and R530 in their order and at their times, then a
pending change, then the next rail in turn. -/
def State.nextFrame (s : State) : Fin 8 × Frame :=
  let other : Fin 8 × Frame := match (List.finRange 7).find? fun i => s.frameWaits i.castSucc with
    | some j => (j.castSucc, .change)
    | none => (Fin.ofNat 8 (s.pwr.nextRail % 7), .poll)
  match s.pwr.offSeq, s.pwr.onSeq with
  | i :: _, _ => if s.pwr.offAt.toNat ≤ s.now.toNat then (i, .off) else other
  | [], i :: _ => if s.pwr.onAt.toNat ≤ s.now.toNat then (i, .on) else other
  | [], [] => other

/-- TARGET and ENABLE of a frame to a rail. A rail whose ENABLE 0 has gone out, acknowledged or not, is not enabled by a later frame. -/
def Frame.target (k : Frame) (i : Fin 8) (r : Rail) : Nat :=
  match k with
  | .on => firstTarget i.val
  | .change => r.wantTarget
  | _ => r.target
def Frame.enable (k : Frame) (r : Rail) : Bool :=
  match k with
  | .on => true
  | .off => false
  | .change => r.wantEnable
  | .poll => r.enabled && r.wantEnable

/-- A frame of R530 has gone out: the next one waits 1 ms, and with the first PWR_GOOD falls. -/
def State.sentOff (s : State) (i : Fin 8) : State :=
  ((s.upRail i fun r => { r with wantEnable := false }).upPwr fun p =>
    { p with offSeq := p.offSeq.drop 1, offAt := after s.now msU }).upPins fun p => { p with pwrGood := false }

/-- VRB_FRAME (R400 to R403, R529, R530, R532): a frame goes out, and its reply is read; while VRB_CLK runs, held in reset too. -/
def execVrbFrame (reply : Option (BitVec 22)) (s : State) : Res :=
  if s.pins.vaux && s.pins.vrbClk then
    let (i, k) := s.nextFrame
    let (v, s) := s.fresh 2
    let r := s.pwr.rails[i]
    let enable := k.enable r
    let s := s.upPwr fun p =>
      { p with lastFrame := vrbHead i.val (k.target i r) (if k = .on then onSlew else v.toNat) enable
               nextRail := if k = .poll then (p.nextRail + 1) % 7 else p.nextRail }
    let s := s.when (decide (k = .off)) fun s => s.sentOff i
    .next (s.frameReply i k enable reply)
  else .next s

/-- The order in which the rails go off (R530), a first rail before it. -/
def offOrder (first : Option (Fin 8)) : List (Fin 8) :=
  let order : List (Fin 8) := [3, 2, 1, 0, 6, 5, 4]
  match first with
  | none => order
  | some i => i :: order.filter fun j => decide (j ≠ i)

/-- Requests rails off: the frames of R530 follow one another, and no further rail is switched on (R540). -/
def State.requestOff (s : State) (first : Option (Fin 8)) (fault : Bool) : State :=
  (s.upPwr fun p =>
    { p with offSeq := offOrder first, offAt := s.now, onSeq := [], rails := p.rails.map fun r => { r with pending := false }
             dies := p.dies.map fun d => { d with railOff := true } }).upPins fun p => { p with goodHeld := p.goodHeld || fault }

/-! ### Currant (R404 to R407) -/

/-- Governor level of a die after an evaluation (R405). -/
def DieP.level' (d : DieP) (now : DWord) (m lim : Nat) : Nat × DWord :=
  if 100 * m > 95 * lim && decide (d.levelAt.toNat + 4096 ≤ now.toNat) && decide (d.level < 8) then (d.level + 1, now)
  else if 100 * m < 90 * lim && decide (d.levelAt.toNat + 16000 ≤ now.toNat) && decide (0 < d.level) then (d.level - 1, now)
  else (d.level, d.levelAt)

/-- Opens, keeps or closes an interval. -/
def since (cur : Option DWord) (now : DWord) (b : Bool) : Option DWord := if b then some (cur.getD now) else none

/-- A die after an evaluation of the mean of its rail (R405, R407). -/
def DieP.eval (d : DieP) (now : DWord) (m lim : Nat) (slow : Bool) : DieP :=
  let (l, at_) := d.level' now m lim
  { d with level := l, levelAt := at_, aboveSince := since d.aboveSince now (decide (0 < l)),
           coolSince := since d.coolSince now (decide (100 * m < 80 * lim)),
           overSince := since d.overSince now (decide (m > lim) && decide (l = 8) && slow) }

/-- A throttle after an evaluation (R406): set above 0.95 × I_LIM, and released after 10 µs below 0.90 × I_LIM. -/
def throttle (on : Bool) (below : Option DWord) (now : DWord) (m lim : Nat) : Bool × Option DWord :=
  if 100 * m > 95 * lim then (true, none)
  else if on && decide (100 * m < 90 * lim) then
    let t := below.getD now
    if t.toNat + 10 * usU ≤ now.toNat then (false, none) else (true, some t)
  else (on, none)

/-- Every cluster of a die runs at 500 MHz, or not at all. -/
def State.dieSlow (s : State) (d : Fin 4) : Bool := (clustersOf d).all fun c => !s.clusters[c].running || decide (s.clusters[c].periodFs = periodOf 500)

/-- A rail after an estimate of its current in 0.1 A, one each 64 ns: those of its trailing window are kept (R404). -/
def Rail.noteEstimate (r : Rail) (raw : Nat) : Rail :=
  { r with estimates := (Config.railCalibrated raw r.iRead :: r.estimates).take (r.window.toNat * 1000 / 64) }

/-- The mean of the estimates within the window (R404). -/
def Rail.mean (r : Rail) : Nat := sumNat r.estimates / max 1 r.estimates.length

/-- The limit of a rail (R398). -/
def State.railLim (s : State) (i : Fin 8) : Nat := min (railMax i) s.pwr.rails[i].iLim.toNat

/-- VOPT and VAUX have no throttle: where the mean comes to stand above 0.95 × I_LIM the device runtime gets an event (R406). -/
def State.railWatch (s : State) (i : Fin 8) : State :=
  let above := decide (100 * s.pwr.rails[i].mean > 95 * s.railLim i)
  let t := s.upRail i fun r => { r with high := above }
  t.when (above && !s.pwr.rails[i].high) fun t => t.upRt fun r => { r with railEvents := r.railEvents ++ [(i.val, t.now)] }

/-- CURRANT_EVAL (R404 to R406): at the next multiple of 64 ns, the raw estimates of the rails' currents that the activity counters give, in 0.1 A.
(DEDUCED, log entry 93) -/
def execCurrantEval (raw : List Nat) (s : State) : Res :=
  if s.lit then
    let s := (s.advanceTo (BitVec.ofNat 64 ((s.now.toNat / 1024 + 1) * 1024))).settleGov
    let s := s.upPwr fun p => { p with rails := p.rails.mapFinIdx fun i r _ => r.noteEstimate (raw.getD i 0) }
    let m := fun (i : Fin 8) => s.pwr.rails[i].mean
    let before := s.pwr.dies
    let hub := throttle s.pwr.hubThrottle s.pwr.hubSince s.now (m 4) (s.railLim 4)
    let stk := throttle s.pwr.stkThrottle s.pwr.stkSince s.now (m 5) (s.railLim 5)
    let s := s.upPwr fun p =>
      { p with
        dies := p.dies.mapFinIdx fun i d h => d.eval s.now (m (railOf ⟨i, h⟩)) (s.railLim (railOf ⟨i, h⟩)) (s.dieSlow ⟨i, h⟩)
        hubThrottle := hub.1, hubSince := hub.2, stkThrottle := stk.1, stkSince := stk.2 }
    let s := (s.railWatch 6).railWatch 7
    .next (s.when ((List.finRange 4).any fun d => decide (before[d].level > 0) && decide (s.pwr.dies[d].level = 0)) State.refreq)
  else .next s

/-- Changes one die. -/
def State.upDie (s : State) (d : Fin 4) (f : DieP → DieP) : State := s.upPwr fun p => { p with dies := updV p.dies d f }

/-- DIE_CAP_STEP (R405): after 100 µs above level 0 the die's cap falls by one step, and after 1 ms below 0.80 × I_LIM it rises by
one. -/
def execDieCapStep (d : Fin 4) (s : State) : Res :=
  let k := s.pwr.dies[d]
  match k.aboveSince, k.coolSince with
  | some t, _ =>
    let s := s.advanceTo (after t (100 * usU))
    .next ((s.upDie d fun k => { k with cap := max 500 (k.cap - 25), aboveSince := some s.now }).refreq)
  | none, some t =>
    if k.cap < 1800 then
      let s := s.advanceTo (after t msU)
      .next ((s.upDie d fun k => { k with cap := min 1800 (k.cap + 25), coolSince := some s.now }).refreq)
    else .next s
  | none, none => .next s

/-- RAIL_OVERCURRENT (R407, R524, R530): the mean has stayed above I_LIM for 100 µs at the lowest settings. -/
def execRailOvercurrent (d : Fin 4) (s : State) : Res :=
  match s.pwr.dies[d].overSince with
  | none => .next s
  | some t =>
    let s := s.advanceTo (after t (100 * usU))
    let s := (s.assertFault .overcurrent).logFault fkOvercurrent
    let s := s.upDie d fun k => { k with overSince := none }
    let s := s.requestOff (some (railOf d)) true
    let (st, s) := s.fresh 64
    .next ((s.event evRailFault (arg d.val) st).leaveJobs true)

/-! ### Frequencies (R409 to R415) -/

/-- MONITOR_RING_MEASURE (R409, R410, R453): the largest slowdown is kept, and a bound cluster beyond 50,000 ppm advises departure. -/
def execMonitorRingMeasure (slow : List Nat) (s : State) : Res :=
  if s.pwr.st = .active && s.quince.running then
    let s : State := { s with clusters := s.clusters.mapFinIdx fun i k _ => { k with slow := max k.slow (slow.getD i 0) } }
    let aged := (List.finRange 64).any fun c => decide (s.clusters[c].slow > 50000) && !(s.regionsOn c).isEmpty
    .next ((s.when aged fun s => s.adviseNew 2).refreq)
  else .next s

/-- FREQ_STEP_STAGE (R46, R47, R413, R414): one stage of a frequency step, in both halves of a pair. A raise waits until its die's raised
target is acknowledged, and a step holds while the droop response is active. -/
def execFreqStepStage (c : Fin 64) (s : State) : Res :=
  let k := s.clusters[s.oscOf c]
  let rail := s.pwr.rails[railOf (dieOf c)]
  match k.stepTo with
  | none => .next s
  | some f =>
    let goal := periodOf f
    let p := if goal > k.periodFs then min goal (k.periodFs + k.periodFs / 4) else max goal (k.periodFs - k.periodFs / 16)
    if !k.running || k.stepHeld || (decide (goal < k.periodFs) && decide (rail.wantTarget > rail.target)) then .next s
    else
      let fuse := s.fuseMHz c
      let s := (s.halves c).foldl (fun s h => s.upCluster h fun k =>
        { k.paced p k.trimFs fuse with stepTo := if p = goal then none else some f, mixed := true }) s
      .next (s.retarget (dieOf c))

/-- CLUSTER_CAP_RELEASE (R415): 100 ms after four stretch-limit events the cluster's own cap ends. -/
def execClusterCapRelease (c : Fin 64) (s : State) : Res :=
  let k := s.clusters[c]
  if k.ownCap = 0 then .next s
  else .next (((s.advanceTo k.capUntil).upCluster c fun k => { k with ownCap := 0 }).refreq)

/-! ### Thermal limits (R430 to R432) -/

/-- T_SOFT, T_HARD and T_TRIP of a sensor (R430).
(DEDUCED, log entry 94) -/
def softOf (p : Power) (x : Sensor) : Nat :=
  match x with
  | .cluster _ => min 0x5F p.softC.toNat
  | .stack _ => 90
  | .hub => 95
  | .optical _ => 75
def hardOf (x : Sensor) : Nat :=
  match x with
  | .cluster _ | .hub => 105
  | .stack _ => 100
  | .optical _ => 85
def tripOf (x : Sensor) : Nat := hardOf x + 10

/-- Keeps a temperature. -/
def State.noteTemp (s : State) (x : Sensor) (t : Nat) : State := s.upPwr fun p => { p with temps := putKV x t p.temps }

/-- THERMAL_SOFT (R431): a sensor comes to exceed its T_SOFT, and the thermal ceiling becomes the present draw less 5 %. -/
def execThermalSoft (x : Sensor) (temp draw : Nat) (s : State) : Res :=
  let was := decide ((getKV x s.pwr.temps).getD 0 > softOf s.pwr x)
  let s := s.noteTemp x temp
  if decide (temp > softOf s.pwr x) && (!was || s.pwr.thermCeil.isNone) then
    .next (s.changeEnv fun p => { p with thermCeil := some (max 250 (draw * 95 / 100)), thermBase := draw, thermAt := s.now, thermBy := x })
  else .next s

/-- THERMAL_CEILING_STEP (R431): the thermal ceiling falls each millisecond while any sensor is above its T_SOFT, and rises every
10 ms while all are at least 3 °C below it. -/
def execThermalCeilingStep (s : State) : Res :=
  match s.pwr.thermCeil with
  | none => .next s
  | some c =>
    if s.pwr.temps.any fun x => decide (x.2 > softOf s.pwr x.1) then
      let s := s.advanceTo (after s.pwr.thermAt msU)
      .next (s.changeEnv fun p => { p with thermCeil := some (max 250 (c - p.thermBase * 2 / 100)), thermAt := s.now })
    else if s.pwr.temps.all fun x => decide (x.2 + 3 ≤ softOf s.pwr x.1) then
      let s := s.advanceTo (after s.pwr.thermAt (10 * msU))
      .next (s.changeEnv fun p => { p with thermCeil := if c + 15 ≥ 1500 then none else some (c + 15), thermAt := s.now })
    else .next s

/-- The throttle of a sensor at its T_HARD, set or released (R430): the hub's VHUB throttle, or the issue of a stack's channels with its refresh. -/
def State.hot (s : State) (x : Sensor) (on : Bool) : State :=
  s.upPwr fun p =>
    { p with hard := if on then p.hard ++ [x] else p.hard.erase x
             hubHot := if x = .hub then on else p.hubHot
             stkHot := p.stkHot.mapFinIdx fun i b h => if x = .stack ⟨i, h⟩ then on else b }

/-- THERMAL_HARD (R430): a sensor reaches its T_HARD, and its throttle acts; an optical engine raises an event. -/
def execThermalHard (x : Sensor) (temp : Nat) (s : State) : Res :=
  let s := s.noteTemp x temp
  if decide (temp ≥ hardOf x) && !s.pwr.hard.contains x then
    let s := s.hot x true
    match x with
    | .cluster _ => .next s.refreq
    | .optical _ => .next (s.thermEvent x temp)
    | _ => .next s
  else .next s

/-- THERMAL_HARD_RELEASE (R430): a sensor falls back below its T_HARD, and its throttle is released. -/
def execThermalHardRelease (x : Sensor) (temp : Nat) (s : State) : Res :=
  let s := s.noteTemp x temp
  if decide (temp < hardOf x) && s.pwr.hard.contains x then .next (s.hot x false).refreq else .next s

/-- The module is in STANDBY (R433): clusters stopped, the rails off but VAUX, cell stores, stack tier and rings lost, the link
down, the watchdog disarmed (R85). What stands at its T_HARD stays throttled (R430). -/
def State.standby (s : State) : State :=
  let s : State := { s with
    clusters := s.clusters.map Cluster.stopClock
    cells := s.cells.map CellS.restart
    queues := Vector.replicate 7680 .reset
    joins := Vector.replicate 1792 .reset
    rt := { Runtime.reset with degradedClusters := s.rt.degradedClusters } }
  let s := s.upTiers fun t => { t with stackMem := [], retention := [], retWait := [], wipeStk := false, wipeCell := false }
  let s := s.upHost fun h => { h with linkUp := false, deviceReady := false, rings := Vector.replicate 64 .reset }
  let s := s.upPins fun p => { p with traceOn := false }
  let s := s.upTime fun t => { t with wdArmed := false, quinceTimer := false }
  (s.departPorts .dark).upPwr fun p =>
    { p with st := .standby, goal := none, parkWait := false, hubThrottle := false, stkThrottle := false, fMod := 0x1F4
             dies := Vector.replicate 4 { DieP.reset with railOff := true } }

/-- A rail is on, or about to be switched on. -/
def State.railsLit (s : State) : Bool := !s.pwr.onSeq.isEmpty || (List.finRange 7).any fun i => s.pwr.rails[i].enabled

/-- THERMAL_TRIP (R432, R497, R524, R530, R540): the fault output, ports dark without DEPART blocks, rails off, STANDBY, and the
job lost by the failure path. In STANDBY, and on the way out of it, the fault output is asserted too, and what is on goes off. -/
def execThermalTrip (x : Sensor) (temp : Nat) (s : State) : Res :=
  let s := s.noteTemp x temp
  if decide (temp ≥ tripOf x) && s.quince.running then
    let s := ((s.assertFault .trip).logFault fkTrip).raiseIbi
    let s := s.leaveJobs true
    let s := (s.when s.quince.start.isSome State.failStart).cutLong
    let s := s.when s.railsLit fun s => s.requestOff none true
    let s := s.standby
    .next (s.upFab fun b => { b with ports := b.ports.map fun q => { q with departSent := false } })
  else .next s

/-! ### Power states (R433 to R437) -/

/-- Ends a request for a power state: the SET_POWER descriptor that asked, by its number on its ring, completes, or the board is answered. -/
def State.endPower (s : State) (a : Asker) (index : DWord) (status detail : Nat) : State :=
  match a with
  | .ring r => s.complete r index status detail 0
  | .mctp => s.mctp (.done status detail)
  | .mailbox => s

/-- A request for a power state that is refused (R434). -/
def State.refusePower (s : State) (a : Asker) (index : DWord) : State := s.endPower a index stBusy 0x1B

/-- The transition of R435 has ended: whoever asked is told. -/
def State.transitionDone (s : State) : State :=
  match s.pwr.asker with
  | none => s.upPwr fun p => { p with goal := none }
  | some (a, index) => (s.upPwr fun p => { p with goal := none, asker := none }).endPower a index stOk 0

/-- Runs a request for a power state of a code: the next descriptor of ring 0 when it is a SET_POWER for it, with its number, or a request of
the board, which a long operation refuses (R490).
(DEDUCED, log entry 95) -/
def State.askPower (s : State) (a : Asker) (code : Nat) (f : DWord → State → State) : State :=
  match a with
  | .ring r =>
    match s.host.rings[r].nextDesc with
    | some d =>
      if decide (r.val = 0) && decide (field (byteAt d.bytes 8) 1 0 = code) then s.beginDesc r 0x02 (fun d s => f d.index s) else s
    | none => s
  | .mctp => if !s.quinceServes then s else if s.host.mgmtBusy then s.mctp (.done stBusy 0x14) else f 0 s
  | .mailbox => s

/-- Another transition is in progress or waits, or a start is, or rails still go off. -/
def State.powerBusy (s : State) : Bool := s.pwr.goal.isSome || !s.pwr.offSeq.isEmpty || s.pwr.parkWait || s.quince.start.isSome || !s.quince.running

/-- ENTER_PARKED (R434, R438): a member of a running job parks at its next step boundary. Moves that may be given up are (R245). -/
def execEnterParked (a : Asker) (s : State) : Res :=
  .next (s.askPower a 1 fun n s =>
    if s.powerBusy || decide (s.pwr.st = .standby) then s.refusePower a n
    else if s.pwr.st = .parked then s.endPower a n stOk 0
    else
      let wait := decide (s.job.phase = .formed) && decide (s.job.stage ≠ .idle)
      s.abortMoves.upPwr fun p => { p with asker := some (a, n), parkWait := wait, goal := if wait then none else some .parked })

/-- A stub is in place: a move beyond step 4 runs to its retirement before PARKED or STANDBY is entered (R245). -/
def State.stubsLive (s : State) : Bool := s.rt.objects.any fun o => o.move.isSome

/-- PARK_DONE (R433, R435): every cluster clock is stopped, and VCORE stands at 0.40 V. -/
def execParkDone (s : State) : Res :=
  if s.pwr.goal = some .parked && !s.stubsLive then
    let s : State := { s with clusters := s.clusters.map Cluster.stopClock }
    let s := s.upPwr fun p =>
      { p with st := .parked
               rails := p.rails.mapFinIdx fun i r _ => if i < 4 then { r with target := 800, wantTarget := 800, pending := false } else r }
    .next s.transitionDone
  else .next s

/-- RETURN_ACTIVE (R434, R436, R437, R529): out of PARKED, or out of STANDBY for the board controller, which begins to switch the rails on. -/
def execReturnActive (a : Asker) (s : State) : Res :=
  .next (s.askPower a 0 fun n s =>
    if s.powerBusy then s.refusePower a n
    else if s.pwr.st = .active then s.endPower a n stOk 0
    else
      let s := s.when (decide (s.pwr.st = .standby)) fun s => s.upPwr fun p =>
        { p with onSeq := onOrder, onAt := s.now, busFault := false, nakCount := 0 }
      s.upPwr fun p => { p with asker := some (a, n), goal := some .active })

/-- A run that goes on across a stop of its clock keeps its length in cluster cycles, although the count of its cluster begins anew (R52,
R436). -/
def State.keepRunTimes (s : State) : State :=
  s.upRt fun t => { t with regions := t.regions.map fun g => match g.cluster with
    | some c => { g with startCycle := g.startCycle - s.clusters[c].cycles }
    | none => g }

/-- UNPARK_DONE (R52, R435, R436, R438): the clocks run again from the cycle at which they stopped, at 500 MHz; copies of module time step
at their first beacon; changes recorded meanwhile are applied. -/
def execUnparkDone (s : State) : Res :=
  if s.pwr.st = .parked && s.pwr.goal = some .active then
    let s := s.upPwr fun p => { p with st := .active, ceilAt := s.now }
    let s := s.keepRunTimes
    let s := (List.finRange 64).foldl (fun s c => s.when (!(s.regionsOn c).isEmpty) fun s =>
      let fuse := s.fuseMHz c
      s.upCluster c fun k => { k.startClock.paced (periodOf 500) k.trimFs fuse with setMHz := 500, stepTo := none, stepHeld := false }) s
    .next (s.transitionDone.ceilingStep.refreq)
  else .next s

/-- ENTER_STANDBY (R434, R491, R530): refused while the module is a member of a job or a ring is bound; else the watchdog is
disarmed before the cores stop (R85), DEPART blocks go out and rails 0 to 6 go off. -/
def execEnterStandby (a : Asker) (s : State) : Res :=
  .next (s.askPower a 2 fun n s =>
    if s.powerBusy || s.inJob || (s.host.rings.toList.any fun g => g.jobId.isSome) then s.refusePower a n
    else if s.pwr.st = .standby then s.endPower a n stOk 0
    else
      let s := (s.abortMoves.upTime fun t => { t with wdArmed := false, quinceTimer := false }).departPorts .dark
      (s.requestOff none false).upPwr fun p => { p with asker := some (a, n), goal := some .standby })

/-- STANDBY_ENTRY_DONE (R433, R435, R530): the last frame of R530 has gone out, and 1 ms later PWR_GOOD is high again; whoever asked is told, and
the module is in STANDBY. -/
def execStandbyEntryDone (s : State) : Res :=
  if s.pwr.goal = some .standby && !s.stubsLive && s.pwr.offSeq.isEmpty then
    .next ((s.advanceTo s.pwr.offAt).transitionDone.standby.upPins fun p => { p with pwrGood := !p.goodHeld })
  else .next s

/-- Counters of telemetry that leaving STANDBY clears: every group but 4 and 5 (R437, R548). -/
def State.clearTelemetry (s : State) : State :=
  let s : State := { s with
    clusters := s.clusters.map (fun k => { k with stretched := 0, overLong := 0, govStretched := 0, cycles := 0 })
    cells := s.cells.map (fun c => { c with ceCount := 0, waitCycles := 0, bpCycles := 0 }) }
  let s := s.upMedlar fun m =>
    { m with l16Sat := Vector.replicate 12 0, scaleCount := Vector.replicate 12 0, kept := Vector.replicate 12 0 }
  let s := s.upFab fun b => { b with ports := b.ports.map fun q => { q with discards := 0, aged := 0 } }
  (s.upColl fun c => { c with refusedTiles := 0 }).upJob fun j => { j with lastSample := 0 }

/-- The stack interfaces are trained from their stored values, or fully where those are not valid (R436, R510); a full training stores new values.
Whether a stack's stored values are valid is not the command's to say, and so it is free. -/
def State.trainStacks (s : State) : State :=
  let (bad, s) := s.fresh 12
  let n := s.free
  let full := fun (i : Nat) => decide (i < 12) && (bad.getLsbD i || !s.quince.storedValid)
  let s : State := { s with free := s.free + 12 }
  let s := s.upQuince fun q => { q with trainStored := q.trainStored.mapFinIdx fun i v _ => if full i then Config.freeValue 64 (n + i) else v }
  s.upTiers fun t => { t with trained := t.trained.mapFinIdx fun i v h => if i < 12 then s.quince.trainStored[i] else v }

/-- STANDBY_EXIT_DONE (R436, R437, R467, R529): the last rail has come on and its ramp is over; stack tier and cell stores are zero, ports in bring-up,
the link up, and the device ready again. The watchdog stays disarmed until a start arms it: the model's choice.
(DEDUCED, log entry 145) -/
def execStandbyExitDone (s : State) : Res :=
  if s.pwr.st = .standby && s.pwr.goal = some .active && s.pwr.onSeq.isEmpty then
    let s := (s.advanceTo s.pwr.onAt).upPwr fun p => { p with dies := Vector.replicate 4 .reset }
    let s := s.upTiers fun t => { t with stackMem := [], wipeStk := true, wipeCell := true, ceTotal := 0, ueTotal := 0 }
    let s : State := { s.clearTelemetry with cells := s.cells.map fun c => { c with store := [], marks := [] } }
    let s := s.upSec fun c => { c with imageFault := false, flashSkipped := false, departAdvice := 0 }
    let s := s.trainStacks
    let s := s.upFab fun b => { b with ports := b.ports.map fun q => { q with lost := false } }
    let s := s.upHost fun h => { h with linkUp := true, rings := Vector.replicate 64 .reset }
    let s := s.upPwr fun p => { p with st := .active, pinCode := s.pins.envCode, ceilNow := 250, ceilAt := s.now, fMod := 0x1F4, msgSeq := p.msgSeq }
    let s := s.bringUpPorts
    .next (s.transitionDone.deviceReady 3)
  else .next s

end Sys2Proof.Machine
end

