-- ==== Sys2Proof/Machine/SecRows.lean ====
section
/-! DEFINITION. Meanings of the rows of securing and restore (R441 to R464), and the end of a job set-up (R459, R477). -/
namespace Sys2Proof.Machine

/-! ### The staging arbiter (R272) -/

/-- STAGING_GRANT (R263, R272, R273): in a grant slot, one free buffer goes to one class; frames that waited for it are placed, and a drain that
waited for it begins. -/
def execStagingGrant (s : State) : Res :=
  let s := s.grantOne
  .next (match s.sec.units with
    | [] => s
    | u :: _ => if s.drainHeld u then s.drainOn else s)

/-! ### The end of a set-up -/

/-- Completes the JOB_SETUP in progress. -/
def State.endSetup (s : State) (status detail : Nat) (result : DWord) : State :=
  match s.findDesc 0x10 (fun _ => true) with
  | none => s
  | some (r, d) => (s.upRing r fun g => { g with setupOn := false }).complete r d.index status detail result

/-- Unbinds the rings of the job. -/
def State.unbindRings (s : State) : State :=
  s.upHost fun h => { h with rings := h.rings.map fun g => if g.jobId = some s.job.p.jobId then { g with jobId := none, setupOn := false } else g }

/-- A set-up that was accepted fails while it restores: the job is not formed (R455, R459). -/
def State.failSetup (s : State) (detail : Nat) : State :=
  let s := s.endSetup stVersion detail 0
  let s := s.reEnv fun s => (s.upJob fun j => { j with phase := .none, stage := .idle }).dropShares
  s.upSec fun c => { c with restoring := false, restoreScales := [] }

/-- The first step begins at the start time (R331, R459), and the set-up completes with its number. -/
def State.firstRun (s : State) (step : DWord) : State :=
  let s := s.upJob fun j => { j with step := step, p := { j.p with firstStep := step }, phase := .formed }
  let s := s.endSetup stOk 0 step
  s.beginRun false s.job.p.startTime

/-! ### Drains (R442 to R448) -/

/-- PARTNER_TRANSFER_DONE (R442, R443, R448): the partner transfer of the oldest unit is over. Its image counts as complete when
every store was answered OK and the embedding copy is there (R448). -/
def execPartnerTransferDone (s : State) : Res :=
  match s.sec.units with
  | [] => .next s
  | u :: rest =>
    if !s.partnerOver u || !s.drainHeld u || decide (s.pwr.st ≠ .active) then .next s
    else
      let ok := u.needPartner && !u.failed && decide (1 < s.job.p.n) && s.copyGood u
      let first := u.needPartner || !s.rowObjs.isEmpty
      .next (s.upSec fun c =>
        { c with
          units := { u with partnerDone := true, failed := false, header := none } :: rest
          partnerStep := if ok then u.step else c.partnerStep
          partnerValid := c.partnerValid || ok
          slotNext := if ok then !c.slotNext else c.slotNext
          firstImage := c.firstImage && (u.failed || !first) })

/-- The dense image of a unit goes into the ring of slots (R444, R464): the oldest slot that no export holds is overwritten; with every
slot held the point is skipped. -/
def Resilience.putFlash (c : Resilience) (slots : Nat) (i : FlashImg) : Resilience :=
  if c.flash.length < slots then { c with flash := c.flash ++ [i], flashStep := i.step, flashPoints := c.flashPoints + 1 }
  else match takeFirst (fun x => !x.held) c.flash with
    | none => { c with flashSkipped := true }
    | some (_, rest) => { c with flash := rest ++ [i], flashStep := i.step, flashPoints := c.flashPoints + 1 }

/-- The base that an image uses replaces the older ones, and the logs before it are deleted (R447). -/
def Resilience.trimBases (c : Resilience) (from_ : Nat) : Resilience :=
  { c with
    bases := c.bases.zipIdx.filter (fun b => !b.1.complete || !(c.bases.zipIdx.any fun x => decide (b.2 < x.2) && decide (x.1.obj = b.1.obj) && x.1.complete))
      |>.map (·.1)
    flashLogs := c.flashLogs.filter fun l => decide (from_ ≤ l.1.toNat) }

/-- A new base of each KIND 5 object begins every REBASE_INT flash points (R447). -/
def State.rebaseIfDue (s : State) : State :=
  if s.sec.flashPoints % max 1 s.job.p.rebaseInt = 0 then
    s.upSec fun c => { c with bases := c.bases ++ s.rowObjs.map fun o =>
      { obj := BitVec.ofNat 32 o.e.id, step := s.medlar.stateStep, bytes := [], complete := false } }
  else s

/-- The flash part of a unit (R441, R444, R447): its dense image, where it is a flash point and the set-up lock has given flash its
area. -/
def State.toFlash (s : State) (u : SecUnit) : State :=
  if !u.needFlash || u.failed || !s.regs.lock then s
  else
    let img := s.imageFor layerFlash u.step u.us.toNat u.logs
    let before := s.sec.flashSkipped
    let s := s.upSec fun c => { c with flashSkipped := false }
    let s := s.upSec fun c => c.putFlash s.job.p.flashSlots { step := u.step, image := img, complete := true, held := false }
    let skipped := s.sec.flashSkipped
    let s := s.upSec fun c => { c with flashSkipped := before || skipped }
    if skipped then s
    else
      let s := s.upSec fun c => c.trimBases s.baseStep
      let s := s.when u.needExport fun s => s.event evExportReady u.step (arg img.length)
      s.rebaseIfDue

/-- The unit waits for a base that is not complete yet. -/
def State.baseMissing (s : State) : Bool := s.rowObjs.any fun o => (s.baseOf o).isNone

/-- The wait of a decided update for its buffer ends, and the step record counts it (R37, R349). -/
def State.endBufferWait (s : State) : State :=
  match s.sec.bufferSince with
  | none => s
  | some t =>
    if s.sec.bufferFree then
      (s.upSec fun c => { c with bufferSince := none }).upJob fun j =>
        { j with record := { j.record with waitBuffer := (s.now.toNat - t.toNat) / usU } }
    else s

/-- The first step of a restored job, which has waited for the transfer of the image to a new host, begins (R459, step 5). -/
def State.startRestored (s : State) : State :=
  match s.sec.startStep with
  | none => s
  | some step => (s.upSec fun c => { c with startStep := none }).firstRun step

/-- Releases the oldest unit (R33, R37): the buffer is free for the next update, which has waited for it since its decision; the next
unit's transfer begins, and so does a first step that has waited for it. -/
def State.releaseUnit (s : State) : State :=
  let s := match s.sec.units with
    | [] => s
    | u :: _ => s.upMover fun m => m.land (.drain u.step)
  let s := s.upSec fun c => { c with units := c.units.drop 1, bufferFree := decide (c.units.length ≤ 1) }
  s.endBufferWait.drainOn.startRestored

/-- FLASH_TRANSFER_DONE (R33, R37, R277, R442, R444, R446, R447, R464): the flash transfer of the oldest unit is over, and the unit is
released. -/
def execFlashTransferDone (s : State) : Res :=
  match s.sec.units with
  | [] => .next s
  | u :: _ =>
    if !u.partnerDone || !s.drainHeld u || decide (s.pwr.st ≠ .active) || (u.needFlash && s.regs.lock && s.baseMissing) then .next s
    else
      let s := s.upSec fun c => { c with flashLogs := c.flashLogs ++ u.logs.map fun l => (u.step, l.1, l.2.1, l.2.2) }
      .next (s.toFlash u).releaseUnit

/-- EMBEDDING_BASE_DONE (R263, R314, R447): the stream of a new base is complete, through a buffer of class D; it pauses while stage 5 works on
the object, and goes again when its buffer failed twice. -/
def execEmbeddingBaseDone (obj : Word) (s : State) : Res :=
  match s.obj obj.toNat with
  | none => .next s
  | some o =>
    if o.e.kind ≠ 5 || s.rowsBusy o || s.sec.restoring then .next s
    else .next (s.withBuf (.base obj) fun bad s =>
      let bytes := s.readObj o 0 o.e.embBytes
      let done := fun (l : List EmbBase) => match l.findIdx? fun b => b.obj = obj && !b.complete with
        | none => l
        | some i => l.modify i fun b => { b with bytes := bytes, complete := true }
      if bad then s else s.upSec fun c => { c with bases := done c.bases })

/-! ### Restore (R457 to R459, R464) -/

/-- Every row is restored: scales are compared, working tiles multicast, the image of s goes to a new partner, and the first step
begins (R459). -/
def State.endRestore (s : State) : State :=
  if !s.scalesAgree then (s.upSec fun c => { c with imageFault := true }).failSetup 0x21
  else
    let s := s.deriveAll
    let s := s.upMedlar fun m => { m with sizes := [] }
    let s := s.upTiers fun t => { t with retention := [], retWait := [] }
    let move := s.sec.newHost && decide (1 < s.job.p.n)
    let unit : SecUnit := { step := s.medlar.stateStep, us := s.medlar.u, needPartner := true, needFlash := false, needExport := false, logs := [],
                            begun := false, header := none, failed := false, partnerDone := false }
    let s := s.upSec fun c => { c with restoring := false, restoreNeed := [], restoreScales := [], units := if move then [unit] else [] }
    if move then (s.upSec fun c => { c with startStep := some (s.sec.restoreStep + 1) }).drainOn else s.firstRun (s.sec.restoreStep + 1)

/-- Places an image, or moves on to the next source where it gives nothing that is still needed (R457, R464): an image that does not fit
the restore point or whose digest fails counts as incomplete. -/
def State.tryImage (s : State) (b copy : Bytes) : State :=
  let next := fun (s : State) =>
    if s.sec.restoreSource ≥ 3 then s.failSetup 0x20 else s.upSec fun c => { c with restoreSource := c.restoreSource + 1 }
  if !s.imageFits b s.sec.restoreStep then next s
  else if !digestOk b then next (s.upSec fun c => { c with imageFault := true })
  else if decide (imgSection b 8 ≠ (s.rt.image.bind (·.coeff)).getD []) then s.failSetup 0x22
  else
    let before := s.sec.restoreNeed.length
    let s := s.placeImage b copy
    if s.sec.restoreNeed.isEmpty then s.endRestore
    else if s.sec.restoreNeed.length = before || s.sec.restoreSource ≤ 1 then next s
    else s

/-- RESTORE_READ_DONE (R263, R273, R455 to R459, R464): the restore reads of one image, and of the embedding copies beside a partner image, are
complete, through a buffer of class D. The source at hand is the member's own flash, then a partner image, then the shared store; a read that failed
moves on to the next. -/
def execRestoreReadDone (sourceOk : Bool) (image : Restored) (s : State) : Res :=
  if !s.sec.restoring then .next s
  else .next (s.withBuf .restore fun bad s =>
    let ok := sourceOk && !bad
    if s.sec.restoreSource ≤ 1 then
      match s.sec.flash.reverse.find? fun i => i.step = s.sec.restoreStep && i.complete with
      | none => s.tryImage [] []
      | some i => s.tryImage (if ok then i.image else []) []
    else s.tryImage (if ok then image.image else []) (if s.sec.restoreSource = 2 then image.copy else []))

/-- A departing member is released from its job (R462). -/
def State.releaseMember (s : State) : State :=
  let s := s.endSetup stOk 0 s.job.p.firstStep
  let s := s.unbindRings.reEnv fun s => (s.upJob fun j => { j with phase := .none, stage := .idle }).dropShares
  let s := s.upHost fun h => { h with rings := h.rings.map fun g => g.drainEnd none }
  s.upSec fun c => { c with handoverWait := false, handoverTo := [], handover := [], handoverRead := [], units := [], serves := none }

/-- HANDOVER_IMAGE_DONE (R462): a gaining member has read its handover image. With the last one a departing member is released, and another
drops its image. -/
def execHandoverImageDone (member : BitVec 17) (s : State) : Res :=
  if s.sec.handoverTo.contains member && !s.sec.handoverRead.contains member then
    let s := s.upSec fun c => { c with handoverRead := c.handoverRead ++ [member], handedOver := putKV member c.handover c.handedOver }
    .next (if !s.sec.handoverTo.all s.sec.handoverRead.contains then s
      else if s.sec.handoverWait then s.releaseMember
      else s.upSec fun c => { c with handoverTo := [], handover := [], handoverRead := [] })
  else .next s

end Sys2Proof.Machine
end

