-- ==== Sys2Proof/Machine/RingRows.lean ====
section
/-! DEFINITION. Meanings of the rows of the host link, of the rings and of the descriptors that need no job (R465 to R483, R491, R492). -/
namespace Sys2Proof.Machine

/-- The host reaches the registers and doorbells beyond the first block: the link is up and DEVICE_READY is set (R466).
(DEDUCED, log entry 111) -/
def State.hostReady (s : State) : Bool := s.host.linkUp && s.host.deviceReady

/-- What a write of the host does: nothing while the link is down; before DEVICE_READY it is discarded and counted (R466). -/
def State.hostWriteAt (s : State) (bar2 : Bool) (off : Nat) (f : State → State) : State :=
  if !s.host.linkUp then s else if s.host.deviceReady then f s else s.discard bar2 off

/-- Every ring is DISABLED with its registers cleared, every vector masked, and the jobs are left by the failure path (R452, R468). -/
def State.levelReset (s : State) : State :=
  (s.upHost fun h => { h with rings := Vector.replicate 64 .reset, msix := h.msix.map fun e => { e with masked := true } }).leaveJobs false

/-- PERST# falls (R508, R532): it acts as a Function Level Reset, and takes the link down with it. -/
def State.perstLow (s : State) : State :=
  ((s.when s.host.cfgReady State.levelReset).upPins fun p => { p with perst := false }).upHost fun h => { h with linkUp := false, cfgReady := false }

/-- PERST_DEASSERT (R465, R466, R508): PERST# acts as a Function Level Reset; the link trains, configuration requests are answered, and a
Device Readiness Status message goes out. While MOD_RST# is low it governs (R540). Without a link generation it is the falling edge of
PERST#, for which the table has no row of its own. -/
def execPerstDeassert (gen : Option (BitVec 4)) (width : BitVec 5) (s : State) : Res :=
  match gen with
  | none => .next s.perstLow
  | some g =>
    let s := s.upPins fun p => { p with perst := true }
    if s.pins.vaux && s.pins.modRst && decide (s.pwr.st ≠ .standby) then
      let s := s.when s.host.cfgReady State.levelReset
      .next (s.upHost fun h => { h with cfgReady := true, linkUp := true, gen := g, width := width, drs := h.drs + 1 })
    else .next s

/-- FUNCTION_LEVEL_RESET (R452, R468): a device that answers configuration requests is reset by the host's request. -/
def execFunctionLevelReset (s : State) : Res := .next (s.when s.host.cfgReady State.levelReset)

/-! ### Doorbells and fetching (R471 to R480) -/

/-- A doorbell write: its lower half is recorded and acted on; a reserved bit written as 1 counts as discarded (R478, R479, R543). -/
def State.doorbell (s : State) (r : Fin 64) (off : Nat) (v : Word) (f : Half → Ring → Ring) : State :=
  s.hostWriteAt true (r.val * 0x1000 + off) fun s =>
    let s := s.when (decide (v.toNat ≥ 65536)) fun s => s.discard true (r.val * 0x1000 + off)
    (s.upRing r (f (BitVec.ofNat 16 v.toNat))).actDoorbells r

/-- SQ_TAIL (R472, R478, R479): new descriptors may be fetched; a value at or beyond the ring size is a fault. -/
def execSqTail (r : Fin 64) (v : Word) (s : State) : Res := .next (s.doorbell r 0 v fun x g => { g with sqTail := x, tailNew := true })

/-- CQ_HEAD (R471, R472, R478, R479): completion entries become free; a value past the last entry written is a fault. -/
def execCqHead (r : Fin 64) (v : Word) (s : State) : Res := .next (s.doorbell r 4 v fun x g => { g with headWritten := x, headNew := true })

/-- The ring may fetch: it runs, a descriptor waits, and a completion entry is free (R471, R479). -/
def Ring.canFetch (g : Ring) : Bool :=
  decide (g.st = .running) && decide (g.kind ≠ 2) && decide (g.sqTail ≠ g.sqHead) && decide (g.used + g.reserved < g.cqSize)

/-- Takes up a fetched descriptor (R471, R480). -/
def Ring.fetch (g : Ring) (b : Bytes) : Ring :=
  { g with
    sqHead := if g.sqHead.toNat + 1 ≥ g.sqSize then 0 else g.sqHead + 1
    fetched := g.fetched + 1
    reserved := g.reserved + 1
    descs := g.descs ++ [{ index := g.fetched, bytes := padTo (b.take 64) 64, begun := false, fin := none }] }

/-- Rings other than one that are bound to a job. -/
def State.boundRings (s : State) (r : Fin 64) (id : Word) : Nat :=
  ((List.finRange 64).filter fun i => decide (i ≠ r) && decide (s.host.rings[i].jobId = some id)).length

/-- A fetched JOB_SETUP binds its ring to the job that its set-up block names (R475), unless the job that the ring has runs or it would be the fifth.
(DEDUCED, log entry 105) -/
def State.bindRing (s : State) (r : Fin 64) (d : Desc) (jobId : Option Word) : State :=
  match jobId with
  | none => s
  | some id =>
    let g := s.host.rings[r]
    if decide (d.opcode = 0x10) && (d.malformed g.kind.toNat).isNone && decide (s.boundRings r id < 4) &&
        !(decide (s.job.phase = .formed) && decide (g.jobId = some s.job.p.jobId)) then
      s.upRing r fun g => { g with jobId := some id }
    else s

/-- DESCRIPTOR_FETCH (R471 to R473, R475, R479, R480): a completion entry is reserved first; a PCIe error puts the ring in FAULT; a malformed
descriptor ends as it begins; a JOB_SETUP binds the ring to the job in its set-up block. -/
def execDescriptorFetch (r : Fin 64) (desc : Option Fetched) (s : State) : Res :=
  if s.hostReady && s.host.rings[r].canFetch then
    match desc with
    | none => .next (s.ringFault r 1)
    | some b =>
      let s := s.upRing r (·.fetch b.bytes)
      let s := match s.host.rings[r].descs.getLast? with
        | none => s
        | some d => s.bindRing r d b.jobId
      .next (s.upHost fun h => HostIf.settle r s.now h.rings[r].descs.length h)
  else .next s

/-- MSIX_MOD_TIMER (R483): MOD_USEC has passed since the oldest entry not yet signalled. -/
def execMsixModTimer (r : Fin 64) (s : State) : Res :=
  let g := s.host.rings[r]
  if decide (g.modUsec ≠ 0) && decide (g.unsignalled > 0) then
    let s := (s.advanceTo (after g.oldestAt (g.modUsec.toNat * usU))).upRing r fun g => { g with unsignalled := 0 }
    .next (s.upHost (·.sendVector g.vec.toNat))
  else .next s

/-! ### Ring set-up (R470, R491, R492) -/

/-- A RING_CFG that R470 allows: ring 0 alone is the management ring, sizes start at 2^4, at most one EVENT ring, and a vector that
exists.
(DEDUCED, log entry 102) -/
def State.cfgOk (s : State) (r : Fin 64) : Bool :=
  let g := s.host.rings[r]
  decide (g.kind ≠ 3) && decide ((r.val = 0) = (g.kind = 0)) && decide (g.vec.toNat ≤ 64) && decide (4 ≤ g.cqLog2.toNat) &&
  (decide (g.kind = 2) || decide (4 ≤ g.sqLog2.toNat)) &&
  (decide (g.kind ≠ 2) || (List.finRange 64).all fun i => decide (i = r) || decide (s.host.rings[i].kind ≠ 2) || decide (s.host.rings[i].st = .disabled))

/-- Offset of a ring's RING_CTL in BAR0. -/
def ringCtlOff (r : Fin 64) : Nat := 0x11018 + 64 * r.val

/-- ENABLE is written 1 (R470, R472, R479, R489, R492): a JOB ring is STOPPED while a long operation stops the JOB rings. -/
def State.ringOn (s : State) (r : Fin 64) : State :=
  let s := s.upRing r fun g => { g with enable := true }
  if s.host.rings[r].st ≠ .disabled then s
  else if s.cfgOk r then
    let stop := decide (s.host.rings[r].kind = 1) && s.quince.long.any fun x => x.1.restarts
    (s.upRing r fun g => { g with st := if stop then .stopped else .running, faultCause := 0, lostWrite := false }).actDoorbells r
  else s.ringFault r 4

/-- ENABLE is written 0 (R491, R492). -/
def State.ringOff (s : State) (r : Fin 64) : State :=
  s.upRing r fun g =>
    let g := { g with enable := false }
    if g.st = .disabled then g else ({ g with st := .draining } : Ring).drainEnd s.curJob

/-- RING_ENABLE (R470, R479, R492): a DISABLED ring runs and acts on the doorbells recorded, or enters FAULT on a bad configuration. A
ring leaves FAULT only when it has been disabled (R472). -/
def execRingEnable (r : Fin 64) (s : State) : Res := .next (s.hostWriteAt false (ringCtlOff r) fun s => s.ringOn r)

/-- RING_DISABLE (R491, R492): nothing more is fetched, descriptors in progress run to their end, and the ring of a formed job drains
until the job is torn down or released. -/
def execRingDisable (r : Fin 64) (s : State) : Res := .next (s.hostWriteAt false (ringCtlOff r) fun s => s.ringOff r)

/-! ### Descriptors without a job (R474) -/

/-- NOP (R474): completes at once. -/
def execNop (r : Fin 64) (s : State) : Res := .next (s.beginDesc r 0x01 fun d s => s.complete r d.index stOk 0 0)

/-- FABRIC_TABLES (R382, R383, R474): the route table and the path set table come into force. -/
def execFabricTables (r : Fin 64) (route sets : Option Bytes) (s : State) : Res :=
  .next (s.beginDesc r 0x03 fun d s => match route, sets with
    | some a, some b =>
      let s := s.upFab fun f =>
        let f : Fabric := { f with route := padTo (a.take 131072) 131072, sets := (List.range 256).map fun i => BitVec.ofNat 32 (leNat b (4 * i) 4), backWait := [] }
        { f with buckets := f.dealAll }
      s.complete r d.index stOk 0 0
    | _, _ => s.complete r d.index stBusy 0x10 0)

/-- Acts on a message that the host delivers (R377, R396, R418): the fabric manager's types alone. None where it is discarded. -/
def State.hostMsg (s : State) (b : Bytes) : Option State :=
  if byteAt b 1 ≠ 0 then none
  else match byteAt b 0 with
  | 0x04 => s.envelopeMsg b
  | 0x08 =>
    let (grant, step, share) := Config.shedReply b
    some (s.shedAnswer grant step share)
  | 0x0B => some (s.teardownFor (BitVec.ofNat 32 (leNat b 4 4)))
  | _ => none

/-- FM_MSG (R377, R418, R474): a message payload from host memory is accepted, or discarded, counted and reported.
(DEDUCED, log entry 110) -/
def execFmMsg (r : Fin 64) (payload : Option Bytes) (s : State) : Res :=
  .next (s.beginDesc r 0x06 fun d s => match payload with
    | none => s.complete r d.index stBusy 0x10 0
    | some b => match s.hostMsg (padTo (b.take (leNat d.bytes 16 2 % 512)) (leNat d.bytes 16 2 % 512)) with
      | some s => s.complete r d.index stOk 0 0
      | none => (s.upFab fun f => { f with msgDiscards := satAdd f.msgDiscards 1 }).complete r d.index stVersion 0x19 0)

end Sys2Proof.Machine
end

