-- ==== Sys2Proof/Machine/LongRows.lean ====
section
/-! DEFINITION. Requests to Quince: restarts, two-party approvals and long operations (R489, R490, R498 to R508, R516, R517). -/
namespace Sys2Proof.Machine

/-! ### Asking and answering -/

/-- A mailbox request has completed. -/
def State.mbxDone (s : State) (status detail : Nat) : State :=
  s.upQuince fun q =>
    { q with mbxDone := true, mbxStatus := BitVec.ofNat 8 status, mbxDetail := BitVec.ofNat 16 detail
             mbxOut := q.mbxOut ++ [(BitVec.ofNat 8 status, BitVec.ofNat 16 detail)] }

/-- Answers whoever asked: the descriptor of an opcode in progress completes, the board controller or the mailbox is told. -/
def State.answer (s : State) (a : Asker) (opcode status detail : Nat) : State :=
  match a with
  | .ring _ => match s.findDesc opcode (fun _ => true) with
    | none => s
    | some (r, d) => s.complete r d.index status detail 0
  | .mctp => s.mctp (.done status detail)
  | .mailbox => s.mbxDone status detail

/-- Runs a request of ring 0 or of the board controller for an opcode, when the next descriptor of ring 0 is that request; during a long
operation it is answered with BUSY (R490). -/
def State.askFrom (s : State) (a : Asker) (opcode : Nat) (p : Desc → Bool) (f : State → State) : State :=
  match a with
  | .ring r => match s.host.rings[r].nextDesc with
    | some d => if decide (r.val = 0) && p d then s.beginDesc r opcode (fun _ s => f s) else s
    | none => s
  | .mctp => if !s.quinceServes then s else if s.host.mgmtBusy then s.mctp (.done stBusy 0x14) else f s
  | .mailbox => s

/-! ### Restarts (R474, R496, R508, R519) -/

/-- The ports through a requested start: on which of them DEPART blocks went out (R360). -/
def State.keepDeparts (s : State) (b : Fabric) : State :=
  s.upFab fun x => { x with ports := Vector.ofFn fun p => { x.ports[p] with departSent := b.ports[p].departSent } }

/-- A requested start: refused while the module is a member of a job or a start is in progress; DEPART blocks go out, the request
completes, and the start begins (R360). -/
def State.askStart (s : State) (a : Asker) (warm : Bool) : State :=
  s.askFrom a 0x04 (fun d => bit (byteAt d.bytes 8) 0 == !warm) fun s =>
    if s.inJob || s.quince.start.isSome then s.answer a 0x04 stBusy 0
    else
      let d := s.departPorts .dark
      ((d.answer a 0x04 stOk 0).askedStart warm true).keepDeparts d.fab

/-- WARM_RESTART (R474, R496, R508, R510). -/
def execWarmRestart (a : Asker) (s : State) : Res := .next (s.askStart a true)

/-- COLD_RESTART (R474, R496, R508). -/
def execColdRestart (a : Asker) (s : State) : Res := .next (s.askStart a false)

/-! ### Long operations (R489, R490, R504 to R507) -/

/-- Code of a long operation in LONG_OP, and of an operation in an approval record. -/
def BigOp.longCode : BigOp → Nat
  | .lifecycle _ => 1
  | .sanitise => 2
  | .firmware _ => 3
  | .format => 4
  | .rkt => 0
def BigOp.code : BigOp → Nat
  | .rkt => 1
  | .lifecycle _ => 2
  | .sanitise => 3
  | .format => 4
  | .firmware _ => 0

/-- No ring is bound to a job. -/
def State.unbound (s : State) : Bool := s.host.rings.toList.all fun g => g.jobId.isNone

/-- Accepts a long operation (R489, R490, R505): the management interface is busy from here, and the state to come is recorded first. -/
def State.acceptLong (s : State) (op : BigOp) (a : Asker) : State :=
  let s := s.upHost fun h =>
    { h with
      mgmtBusy := true
      longOp := BitVec.ofNat 4 op.longCode
      rings := h.rings.map fun g => if op.restarts && decide (g.kind = 1) && decide (g.st = .running) then { g with st := .stopped } else g }
  let s := s.upQuince fun q =>
    { q with
      long := some (op, a)
      changing := (match op with
        | .lifecycle t => some t
        | _ => q.changing)
      erasing := (match op with
        | .sanitise => true
        | _ => q.erasing) }
  let s := s.upHost fun h => HostIf.settle 0 s.now h.rings[0].descs.length h
  match a with
  | .mctp => s.mctp (.done stOk 0)
  | _ => s

/-- Accepts an operation that no bound job may meet, or refuses it (R489). -/
def State.acceptUnbound (s : State) (op : BigOp) (a : Asker) : State :=
  if s.unbound then s.acceptLong op a else s.answer a 0x05 stBusy 0x14

/-- A LONG_OP that waits for its approval holds the later descriptors of its ring (R502), until it need not. -/
def State.holdRing (s : State) (a : Asker) (on : Bool) : State :=
  match a with
  | .ring r => s.upRing r fun g => { g with longOn := on }
  | _ => s

/-- Opens an approval record for an object with a digest (R500); Quince draws the nonce and tells the board (R497).
(DEDUCED, log entry 115) -/
def State.openApproval (s : State) (op : BigOp) (a : Asker) (digest : Bytes) : State :=
  let (nonce, s) := s.fresh 128
  (s.upQuince fun q => { q with approval := some ({ op := op, asker := a, nonce := nonce, digest := digest, hostDone := false, boardDone := false,
                                                    openedAt := s.now } : Approval) }).raiseIbi.holdRing a true

/-- An operation that needs both approvals (R499, R501): APPROVAL_MISSING at once without enrolled keys, BUSY beside an open record. -/
def State.needApproval (s : State) (op : BigOp) (a : Asker) (digest : Bytes) : State :=
  if !s.quince.keysEnrolled then s.answer a 0x05 stApproval 0
  else if s.quince.approval.isSome then s.answer a 0x05 stBusy 0
  else s.openApproval op a digest

/-- A long operation that needs approval of its parameter block (R489, R499 to R501); a block that could not be read is BUSY (R485). -/
def State.approvedLong (s : State) (op : BigOp) (a : Asker) (block : Option Bytes) : State :=
  match block with
  | none => s.answer a 0x05 stBusy 0x10
  | some b =>
    if !s.quince.keysEnrolled then s.answer a 0x05 stApproval 0
    else if !s.unbound then s.answer a 0x05 stBusy 0x14
    else s.needApproval op a (sha384 b)

/-- Transitions of R503 that a LONG_OP may make. -/
def Life.mayTurn (l t : Life) : Bool :=
  match l, t with
  | .factory, .retired => true
  | .owned, .service => true
  | .owned, .factory => true
  | .owned, .retired => true
  | .service, .owned => true
  | .service, .retired => true
  | _, _ => false

/-- The next descriptor of ring 0 is the LONG_OP of a code. -/
def longIs (code : Nat) (d : Desc) : Bool := decide (byteAt d.bytes 8 % 16 = code)

/-- LIFECYCLE_CHANGE (R489, R499, R503): from FACTORY it needs no approval but must come from the board controller. -/
def execLifecycleChange (a : LongAsk) (target : BitVec 2) (s : State) : Res :=
  .next (s.askFrom a.asker 0x05 (longIs 1) fun s =>
    let t := Life.ofCode target.toNat
    if a.block.isNone then s.answer a.asker 0x05 stBusy 0x10
    else if !s.quince.life.mayTurn t then s.answer a.asker 0x05 stVersion 0
    else if s.quince.life = .factory then (if a.asker = .mctp then s.acceptUnbound (.lifecycle t) a.asker else s.answer a.asker 0x05 stApproval 0)
    else s.approvedLong (.lifecycle t) a.asker a.block)

/-- SANITISE (R489, R499). -/
def execSanitise (a : LongAsk) (s : State) : Res :=
  .next (s.askFrom a.asker 0x05 (longIs 2) fun s => s.approvedLong .sanitise a.asker a.block)

/-- FIRMWARE_COMMIT (R485, R489, R499, R517): accepted at any time, without approval. -/
def execFirmwareCommit (a : Asker) (package : Option Bytes) (s : State) : Res :=
  .next (s.askFrom a 0x05 (longIs 3) fun s => match package with
    | none => s.answer a 0x05 stBusy 0x10
    | some p => s.acceptLong (.firmware p) a)

/-- FLASH_FORMAT (R489, R499). -/
def execFlashFormat (a : LongAsk) (s : State) : Res :=
  .next (s.askFrom a.asker 0x05 (longIs 4) fun s => s.approvedLong .format a.asker a.block)

/-- What secured data of flash is lost (R504): images, logs and bases. -/
def State.eraseFlash (s : State) : State :=
  s.upSec fun c => { c with flash := [], bases := [], flashLogs := [], flashPoints := 0, flashStep := 0, exportStep := 0, exporting := false }

/-- A new media key, and region key tables cleared (R277, R504). -/
def State.replaceMedia (s : State) : State :=
  let (k, s) := s.fresh 512
  let s := s.upTiers fun t => { t with mediaKey := k }
  s.eraseFlash.upFab fun b => { b with rktActive := none, rktStaged := none, rktStagedBytes := [], rktAwait := false }

/-- A lifecycle change takes place (R503 to R506). -/
def State.turnLife (s : State) (t : Life) : State :=
  let s := s.replaceMedia
  let clear := decide (t = .factory) || decide (t = .retired)
  let s := s.upQuince fun q =>
    { q with
      life := t
      changing := none
      keysEnrolled := q.keysEnrolled && !clear
      hostHash := if clear then 0 else q.hostHash
      boardHash := if clear then 0 else q.boardHash
      retiredFuse := q.retiredFuse || decide (t = .retired)
      platformKey := q.platformKey && decide (t ≠ .retired) }
  s.when (decide (t = .retired)) fun s => s.upTiers fun x => { x with mediaKey := 0 }

/-- A lifecycle change or a sanitise has been recorded and not finished (R505, R519). -/
def State.changeOpen (s : State) : Bool := s.quince.erasing || s.quince.changing.isSome

/-- What Quince had recorded of a lifecycle change or a sanitise is completed (R505, R519). -/
def State.finishChange (s : State) : State :=
  let s := s.when s.quince.erasing fun s => s.replaceMedia.upQuince fun q => { q with erasing := false }
  match s.quince.changing with
  | none => s
  | some t => s.turnLife t

/-- Writes the inactive slot and marks it pending (R515, R517). -/
def State.writeSlot (s : State) (p : Bytes) : State :=
  s.upQuince fun q => { (if q.activeSlot then { q with slotA := pkgSlot p } else { q with slotB := pkgSlot p } : Quince) with pending := true }

/-- Ends a long operation (R489, R490): the result is reported, and whoever asked by the ring gets the completion. -/
def State.endLong (s : State) (a : Asker) (status : Nat) : State :=
  let s := s.upQuince fun q => { q with long := none }
  let s := s.upHost fun h => { h with mgmtBusy := false, longResult := BitVec.ofNat 8 status }
  match a with
  | .ring _ => s.answer a 0x05 status 0
  | _ => s.logFault fkLongOp (BitVec.ofNat 8 status)

/-- LONG_OP_DONE (R489, R490, R504 to R508, R517): a running long operation has done its work. A lifecycle change and a sanitise end
in a cold start. -/
def execLongOpDone (s : State) : Res :=
  match s.quince.long with
  | none => .next s
  | some (op, a) =>
    match op with
    | .firmware p => .next (if s.quince.verifies p then (s.writeSlot p).endLong a stOk else s.endLong a stVersion)
    | .format => .next (s.eraseFlash.endLong a stOk)
    | .lifecycle _ => .next ((s.finishChange.endLong a stOk).askedStart false false)
    | .sanitise => .next ((s.finishChange.endLong a stOk).askedStart false false)
    | .rkt => .next (s.endLong a stOk)

end Sys2Proof.Machine
end

