-- ==== Sys2Proof/Machine/QuinceRows.lean ====
section
/-! DEFINITION. Meanings of the rows of Quince: region key tables, approvals, the board controller's requests, supply and reset, and starts
(R366, R368, R493 to R519, R522, R531, R532, R540). -/
namespace Sys2Proof.Machine

/-! ### The mailbox: region key tables and approvals (R366, R368, R498 to R502) -/

/-- Runs a mailbox request: BAR0 decodes and Quince serves it; BUSY during a long operation (R466, R490). -/
def State.mailbox (s : State) (f : State → State) : State :=
  if !s.hostReady || !s.quinceServes then s else if s.host.mgmtBusy then s.mbxDone stBusy 0x14 else f s

/-- A region key table entry (R366). -/
def keyOf (b : Bytes) : KeyE :=
  let f := leNat b 0x18 4
  { base := leNat b 0 8, length := leNat b 8 8, key := BitVec.ofNat 32 (leNat b 0x10 4), job := BitVec.ofNat 32 (leNat b 0x14 4),
    load := bit f 0, store := bit f 1, atomic := bit f 2, mcast := bit f 3, collective := bit f 4 }

/-- An entry keeps the ranges and reserved bits of R366, has a key, and has no length when it is a COLLECTIVE entry. -/
def keyEntryOk (b : Bytes) : Bool :=
  let e := keyOf b
  decide (e.key ≠ 0) && (!e.collective || decide (e.length = 0)) &&
  decide (e.base < 2 ^ 47) && decide (e.base % 4096 = 0) && decide (e.length < 2 ^ 47) && decide (e.length % 4096 = 0) &&
  decide (leNat b 0x18 4 < 32) && decide (leNat b 0x1C 4 = 0)

/-- No two entries that carry a range overlap. -/
def keysApart : List KeyE → Bool
  | [] => true
  | e :: rest => (rest.all fun x => !rangesMeet e.base e.length x.base x.length) && keysApart rest

/-- A table that R366 allows. -/
def rktOk (t : Bytes) : Bool :=
  decide (t.length % 32 = 0) && decide (t.length ≤ 4096 * 32) && (entriesOf t 32).all keyEntryOk && keysApart ((entriesOf t 32).map keyOf)

/-- The open record closes without effect, and the request that opened it completes with APPROVAL_MISSING (R501, R519). -/
def State.closeMissing (s : State) : State :=
  match s.quince.approval with
  | none => s
  | some r =>
    let s := (s.upQuince fun q => { q with approval := none }).raiseIbi
    let s := (s.upFab fun b => { b with rktAwait := false }).holdRing r.asker false
    s.answer r.asker 0x05 stApproval 0

/-- STAGE_RKT (R366, R368, R519): a table is staged; an open approval of the table before it closes without effect.
(DEDUCED, log entry 114) -/
def execStageRkt (table : Bytes) (s : State) : Res :=
  .next (s.mailbox fun s =>
    if !rktOk table then s.mbxDone stVersion 0
    else
      let s := (s.upFab fun b => { b with rktStaged := some ((entriesOf table 32).map keyOf), rktStagedBytes := table }).mbxDone stOk 0
      s.when (s.quince.approval.any fun r => r.op = .rkt) State.closeMissing)

/-- Mailbox command 0x02 (R368, R499 to R501). -/
def State.mbxActivate (s : State) : State :=
  s.mailbox fun s =>
    if s.fab.rktStaged.isNone then s.mbxDone stVersion 0
    else
      let s' := s.needApproval .rkt .mailbox (sha384 s.fab.rktStagedBytes)
      s'.upFab fun b => { b with rktAwait := s'.quince.approval.any fun r => r.op = .rkt }

/-- Mailbox command 0x04: closes a record opened through the mailbox. -/
def State.mbxCancel (s : State) : State :=
  s.mailbox fun s => if s.quince.approval.any fun r => decide (r.asker ≠ .mctp) then s.closeMissing.mbxDone stOk 0 else s.mbxDone stVersion 0

/-- ACTIVATE_RKT (R368, R499 to R501): the staged table waits for both approvals. -/
def execActivateRkt (s : State) : Res := .next s.mbxActivate

/-- Performs an approved operation (R368, R500). -/
def State.performOp (s : State) (op : BigOp) (a : Asker) : State :=
  match op with
  | .rkt => (s.upFab fun b => { b with rktActive := b.rktStaged, rktStaged := none, rktStagedBytes := [], rktAwait := false }).mbxDone stOk 0
  | _ => s.acceptUnbound op a

/-- The 72 B that both parties sign (R500). -/
def Approval.message (r : Approval) (modId : BitVec 17) : Bytes :=
  toLE r.op.code 1 ++ [0, 0, 0] ++ toLE modId.toNat 4 ++ toLE r.nonce.toNat 16 ++ r.digest

/-- Answers an APPROVE on the channel it came by. -/
def State.answerApprove (s : State) (board : Bool) (status : Nat) : State := if board then s.mctp (.done status 0) else s.mbxDone status 0

/-- Takes an approval (R498, R500, R502): the bytes signed are those of the open record and the signature is that of the channel's party;
anything else is refused and logged. With both approvals the record closes and the operation is performed. -/
def State.takeApproval (s : State) (board : Bool) (msg : Bytes) : State :=
  let key := toLE (if board then s.quince.boardHash else s.quince.hostHash).toNat 48
  match s.quince.approval with
  | none => (s.logFault fkApproval).answerApprove board stApproval
  | some r =>
    if decide (msg.length = 168) && decide (msg.take 72 = r.message s.fab.modId) && Config.ecdsaVerify key (msg.take 72) (msg.drop 72) then
      let r : Approval := { r with hostDone := r.hostDone || !board, boardDone := r.boardDone || board }
      let s := s.answerApprove board stOk
      if r.hostDone && r.boardDone then ((s.upQuince fun q => { q with approval := none }).raiseIbi.holdRing r.asker false).performOp r.op r.asker
      else s.upQuince fun q => { q with approval := some r }
    else (s.logFault fkApproval).answerApprove board stApproval

/-- APPROVE (R490, R496, R498, R500, R502). -/
def execApprove (board : Bool) (msg : Bytes) (s : State) : Res :=
  if board then .next (s.askFrom .mctp 0 (fun _ => true) fun s => s.takeApproval true msg)
  else .next (s.mailbox fun s => s.takeApproval false msg)

/-- CANCEL_APPROVAL: closes a record opened through the mailbox. -/
def execCancelApproval (s : State) : Res := .next s.mbxCancel

/-- APPROVAL_TIMEOUT (R501): 60 s after it opened, the record closes without effect. -/
def execApprovalTimeout (s : State) : Res :=
  match s.quince.approval with
  | none => .next s
  | some r => .next (s.advanceTo (after r.openedAt (60000 * msU))).closeMissing

/-! ### The board controller (R496, R497, R503, R506, R524) -/

/-- A request of the board controller that Quince answers in every lifecycle state; BUSY during a long operation (R490, R506). -/
def State.askBoard (s : State) (f : State → State) : State :=
  if !s.quinceUp then s else if s.host.mgmtBusy then s.mctp (.done stBusy 0x14) else f s

/-- STATUS (R496).
(DESIGN CHOICE, log entry 121) -/
def execStatus (s : State) : Res :=
  .next (s.askBoard fun s =>
    s.mctp (.status s.pwr.st.code s.quince.life.code s.host.startPath.toNat s.quince.failCount.toNat s.quince.activeSlot s.host.mgmtBusy))

/-- FAULT_LOG (R496, R524): one entry, oldest first; the newest releases FAULT# and its mirrors. -/
def execFaultLog (index : Fin 64) (s : State) : Res :=
  .next (s.askBoard fun s =>
    match s.quince.faults[index.val]? with
    | none => s.mctp (.done stVersion 0)
    | some e =>
      let s := s.mctp (.fault e)
      s.when (decide (index.val + 1 = s.quince.faults.length)) fun s => s.upPins fun p => { p with faultLow := false, causes := [] })

/-- ENROL (R277, R496, R499, R503, R504): accepted only in FACTORY, and makes the module OWNED, with a new media key; as a lifecycle change it is
followed by a cold start.
(DEDUCED, log entry 143) -/
def execEnrol (hostHash boardHash : BitVec 384) (s : State) : Res :=
  .next (s.askFrom .mctp 0 (fun _ => true) fun s =>
    if s.quince.life = .factory then
      ((s.replaceMedia.upQuince fun q => { q with hostHash := hostHash, boardHash := boardHash, keysEnrolled := true, life := .owned }).mctp
        (.done stOk 0)).askedStart false false
    else s.mctp (.done stVersion 0))

/-- Every temperature sensor of R430. -/
def allSensors : List Sensor :=
  (List.finRange 64).map Sensor.cluster ++ (List.finRange 12).map Sensor.stack ++ [.hub] ++ (List.finRange 8).map Sensor.optical

/-- What a sensor reads: the latest temperature that the model was told, or a value of its own measurement, which is free. -/
def State.senses (s : State) : List (Sensor × Nat) × State :=
  let n := s.free
  (allSensors.zipIdx.map fun x => (x.1, (getKV x.1 s.pwr.temps).getD (Config.freeValue 8 (n + x.2)).toNat), { s with free := s.free + 85 })

/-- PLDM_REQUEST (R496): every temperature, the rail currents and the draw, which is measured. -/
def execPldmRequest (s : State) : Res :=
  .next (s.askBoard fun s =>
    let (temps, s) := s.senses
    let (draw, s) := s.fresh 16
    s.mctp (.pldm temps (s.pwr.rails.toList.map (·.iRead)) draw))

/-- The identity that SPDM reports (R1, R539). -/
def identity : Identity :=
  { variantE := Config.variantE, stepping := 0x41, serial := (List.range 3).map Config.serial, flashTb := if Config.variantE then 16 else 8
    dateCode := Config.dateCode }

/-- SPDM_REQUEST (R496, R519, R539): identity and firmware measurement; during a start the answer comes after step 2. -/
def execSpdmRequest (s : State) : Res :=
  .next (s.askBoard fun s =>
    if s.quince.start.isSome then s.upQuince fun q => { q with spdmWait := q.spdmWait + 1 }
    else s.mctp (.spdm identity s.quince.runSlot s.quince.fwVersion))

/-- Step 2 of a start has selected a slot: the SPDM requests that wait are answered with it (R519); on the recovery image FW_VERSION is 0. -/
def State.answerSpdm (s : State) (slot recovery : Bool) : State :=
  s.upQuince fun q =>
    let v := if recovery then 0 else if slot then q.slotB.fwVersion else q.slotA.fwVersion
    { q with spdmWait := 0, out := q.out ++ List.replicate q.spdmWait (.spdm identity slot v) }

/-! ### Supply and reset (R508, R511, R519, R522, R531, R532, R540) -/

/-- The module stops: held in reset, or without supply. Jobs are lost, ports go dark without DEPART blocks, rails 0 to 6 go off, the
link is down, FAULT# and the SB pins are released, and a start in progress ends (R511, R532). -/
def State.goDown (s : State) : State :=
  let s := (s.leaveJobs true).cutLong
  let s : State := { s with clusters := s.clusters.map fun k => { k with running := false } }
  let s := (s.departPorts .dark).upFab fun b => { b with ports := b.ports.map fun q => { q with departSent := false } }
  let s := s.upPwr fun p => { p with rails := p.rails.map fun r => { r with enabled := false, wantEnable := false, pending := false }, offSeq := [], onSeq := [], goal := none, asker := none }
  let s := s.upHost fun h => { h with linkUp := false, cfgReady := false, deviceReady := false, rings := Vector.replicate 64 .reset }
  let s := s.upQuince fun q => { q with running := false, start := none, retryDue := none, startWaits := false, approval := none, spdmWait := 0 }
  let s := s.upTime fun t => { t with wdArmed := false, quinceTimer := false }
  s.upPins fun p => { p with pwrGood := false, faultLow := false, causes := [], traceOn := false, tpHigh := false }

/-- VAUX_APPLIED (R505, R508, R531): Quince completes what was interrupted, and a start begins unless MOD_RST# is low.
(DESIGN CHOICE, log entry 119) -/
def execVauxApplied (s : State) : Res :=
  let s := s.upPins fun p => { p with vaux := true, vrbClk := true }
  if s.pins.modRst then .next (s.finishChange.powerStart s.changeOpen) else .next s

/-- VAUX_BROWNOUT (R276, R519, R531, R532): Quince stops, PWR_GOOD falls and VRB_CLK stops, so that the rails go off; in OFF the tier keys are
lost, and the cell stores. -/
def execVauxBrownout (s : State) : Res :=
  let s := (s.goDown.upPins fun p => { p with vaux := false, vrbClk := false }).upTiers Tiers.off
  .next { s with cells := s.cells.map fun k => { k with store := [], marks := [] } }

/-- MOD_RST_ASSERT (R511, R522, R526, R532). -/
def execModRstAssert (s : State) : Res := .next (s.goDown.upPins fun p => { p with modRst := false })

/-- MOD_RST_RELEASE (R508, R522): a rising edge begins a start. -/
def execModRstRelease (s : State) : Res :=
  if s.pins.modRst then .next s
  else
    let s := s.upPins fun p => { p with modRst := true }
    if s.pins.vaux then .next (s.finishChange.powerStart s.changeOpen) else .next s

/-! ### Starts (R506, R509 to R513, R515, R518) -/

/-- The link comes up under R466 while PERST# is high: its rate and width are those the partner offers (R465). -/
def State.trainLink (s : State) : State :=
  if !s.pins.perst || s.host.linkUp then s
  else
    let (g, s) := s.fresh 8
    let (w, s) := s.fresh 8
    s.upHost fun h =>
      { h with cfgReady := true, linkUp := true, drs := h.drs + 1, gen := BitVec.ofNat 4 (4 + g.toNat % 3)
               width := BitVec.ofNat 5 (4 * 2 ^ (w.toNat % 3)) }

/-- What the self-test and the training find (R62, R235, R282, R409): units may be set FAILED, slowdowns only grow, and a pair forms when
both halves passed. -/
def State.selfTest (s : State) (o : StartObs) : State :=
  let s : State := { s with
    clusters := s.clusters.mapFinIdx fun i k _ =>
      { k with slow := max k.slow (o.slow.getD i 0), health := if o.failedClusters.any (fun c => c.val = i) then .failed else k.health }
    cells := s.cells.mapFinIdx fun i c _ => { c with health := if o.failedCells.any (fun x => x.val = i) then .failed else c.health } }
  let s := s.upTiers fun t =>
    { t with
      stkUnits := t.stkUnits.mapFinIdx fun i u _ => { u with health := if o.failedStacks.any (fun x => x.val = i) then .failed else u.health }
      devUnits := t.devUnits.mapFinIdx fun i u _ => { u with health := if o.failedDevices.any (fun x => x.val = i) then .failed else u.health } }
  let ok := fun (i : Nat) => !(o.failedClusters.any fun c => c.val / 2 = i)
  s.upTime fun t => { t with pairFormed := BitVec.ofNat 32 (sumNat ((List.range 32).map fun i => if t.pairEn.getLsbD i && ok i then 2 ^ i else 0)) }

/-- The version of the training code that a start runs: that of the selected slot, or of the recovery image (R510). -/
def State.trainVer (s : State) (slot recovery : Bool) : Word := if recovery then Config.recoveryTrain else (s.quince.slot slot).trainVer

/-- Two temperatures within 10 °C. -/
def near (a b : Nat) : Bool := decide (a ≤ b + 10) && decide (b ≤ a + 10)

/-- The stored values of a unit fit (R510): a valid digest, the training code's version, the temperature and the identity. -/
def State.unitFits (s : State) (o : StartObs) (ver : Word) (u : StartUnit) : Bool :=
  let x := getV s.quince.storedFor u.index { version := 0, temp := 0, ident := 0 }
  s.quince.storedValid && !o.coldUnits.contains u && decide (x.version = ver) && near x.temp (o.unitTemps.getD u.index 0) &&
    decide (x.ident = Config.unitIdent u.index)

/-- Every unit of steps 4 to 6. -/
def allUnits : List StartUnit :=
  (List.finRange 64).map StartUnit.cluster ++ (List.finRange 12).map .stack ++ (List.finRange 24).map .device ++ (List.finRange 8).map .optical

/-- Steps 4 to 6 (R54, R352, R495, R509, R510): the clock taps, the trained values and the optical calibrations of a unit that takes the warm column
are loaded from the persistent record; the others are measured, trained and calibrated afresh, and what that gives is stored.
(DESIGN CHOICE, log entry 139) -/
def State.trainUnits (s : State) (o : StartObs) (ver : Word) (warm : Bool) : State :=
  let n := s.free
  let ok := fun (u : StartUnit) => warm && s.unitFits o ver u
  let fits := allUnits.map ok
  let s : State := { s with free := s.free + 1068 }
  let s := s.upQuince fun q =>
    { q with
      tapStored := q.tapStored.mapFinIdx fun i v h => if ok (.cluster ⟨i / 16, by omega⟩) then v else Config.freeValue 16 (n + i)
      trainStored := q.trainStored.mapFinIdx fun i v h =>
        if (if k : i < 12 then ok (.stack ⟨i, k⟩) else ok (.device ⟨i - 12, by omega⟩)) then v else Config.freeValue 64 (n + 1024 + i)
      opticStored := q.opticStored.mapFinIdx fun i v h => if ok (.optical ⟨i, h⟩) then v else Config.freeValue 64 (n + 1060 + i)
      storedFor := q.storedFor.mapFinIdx fun i v _ =>
        if fits.getD i false then v else { version := ver, temp := o.unitTemps.getD i 0, ident := Config.unitIdent i }
      storedValid := true }
  let s : State := { s with cells := s.cells.mapFinIdx fun i c h => { c with tap := s.quince.tapStored[i] } }
  (s.upTiers fun t => { t with trained := s.quince.trainStored }).upFab fun b => { b with optics := s.quince.opticStored }

/-- Clusters that remain eligible under R234. -/
def State.eligibleN (s : State) : Nat :=
  ((List.finRange 64).filter fun c => decide (s.clusters[c].health ≠ .failed) && decide (s.effMax c ≥ 500)).length

/-- Step 7 (R276, R278, R279, R280): thirteen new tier keys, and every tier, cell store and staging buffer wiped.
(DESIGN CHOICE, log entry 61) -/
def State.wipeAll (s : State) : State :=
  let (keys, s) := (List.range 13).foldl (fun (acc : List (BitVec 512) × State) _ =>
    let (k, s) := acc.2.fresh 512
    (acc.1 ++ [k], s)) ([], s)
  let s := s.upTiers fun t =>
    { t with tierKeys := keys, keysSet := true, wipeStk := true, wipeCap := true, wipeCell := true, stackMem := [], capMem := [], partnerMem := [] }
  { s with cells := s.cells.map fun c => { c with store := [], marks := [] } }

/-- The slot that runs becomes active at the end of its trial, and the fused floor follows RAISE_SVN (R512, R518). -/
def Quince.started (q : Quince) (slot recovery : Bool) : Quince :=
  let p := if slot then q.slotB else q.slotA
  let trial := !recovery && q.pending && decide (slot ≠ q.activeSlot)
  { q with
    start := none
    failCount := 0
    recoveryRuns := recovery
    runSlot := slot
    activeSlot := if trial then slot else q.activeSlot
    pending := q.pending && !trial
    svnFloor := if trial && p.raiseSvn then p.svn else q.svnFloor }

/-- Step 9 (R352, R417, R420, R467, R513): the runtime runs, ports come up but on the recovery image, and DEVICE_READY is set. -/
def State.startDone (s : State) (slot recovery warm : Bool) : State :=
  let s := s.upQuince fun q => q.started slot recovery
  let s := s.bringUpPorts
  let s := s.upPwr fun p => { p with st := .active, pinCode := s.pins.envCode, ceilNow := 250, ceilAt := s.now }
  (s.armWatchdog).deviceReady (if recovery then 2 else if warm then 1 else 0)

/-- A start runs out of its time (R511): 120 s, or 15 s for a warm start in which every unit takes the warm column. -/
def State.startLate (s : State) (st : StartS) (allWarm : Bool) : State :=
  (s.advanceTo (after st.since ((if allWarm then 15000 else 120000) * msU))).failStart

/-- The slot that step 2 of a start selects, or the recovery image (R513, R515, R517): none where nothing verifies. -/
def State.pickSlot (s : State) (o : StartObs) (recovery : Bool) : Option Bool :=
  if recovery then (if o.recoveryOk then some s.quince.activeSlot else none) else s.quince.selectSlot o.slotA o.slotB

/-- Every unit takes the warm column of a warm start (R511). -/
def State.allWarm (s : State) (o : StartObs) (st : StartS) : Bool :=
  match s.pickSlot o st.recovery with
  | none => false
  | some slot => st.warm && allUnits.all (s.unitFits o (s.trainVer slot st.recovery))

/-- START_BEGIN (R61, R62, R276, R279, R352, R506, R509 to R513, R515, R517 to R519, R529): the steps of a start, with what its checks find; PWR_GOOD rises when step
3 has enabled the last rail. A start that no request asked for is warm when some unit takes the warm column. -/
def execStartBegin (o : StartObs) (s : State) : Res :=
  match s.quince.start with
  | none => .next s
  | some st =>
    let s := s.trainLink
    match s.pickSlot o st.recovery with
    | none => .next s.failStart
    | some slot =>
      if s.quince.life = .retired then .next ((s.answerSpdm slot st.recovery).upQuince fun q => { q with start := none })
      else
        let ver := s.trainVer slot st.recovery
        let allWarm := s.allWarm o st
        let warm := st.warm && (st.asked || allUnits.any (s.unitFits o ver))
        let s := s.upQuince fun q => { q with start := some { st with trial := !st.recovery && q.pending && decide (slot ≠ q.activeSlot) } }
        let s := s.answerSpdm slot st.recovery
        if !o.railsOk then .next s.failStart
        else
          let s := (s.powerUp.selfTest o).trainUnits o ver warm
          if s.eligibleN < 32 then .next s.failStart
          else
            let s := s.wipeAll
            if o.readyInTime then .next (s.startDone slot st.recovery warm) else .next (s.startLate st allWarm)

/-- Every unit may take the warm column: the start is warm, and there are stored values of the units that are built in (R510). -/
def State.mayWarm (s : State) (st : StartS) : Bool :=
  st.warm && s.quince.storedValid &&
    allUnits.all fun u => decide ((getV s.quince.storedFor u.index { version := 0, temp := 0, ident := 0 }).ident = Config.unitIdent u.index)

/-- START_TIMEOUT (R511, R518): DEVICE_READY is not set within 120 s of the trigger, or within 15 s on the warm path with every unit in the warm
column. What the tests of an unfinished start found is a free value, where every unit may take that column. -/
def execStartTimeout (s : State) : Res :=
  match s.quince.start with
  | none => .next s
  | some st =>
    let (v, s) := s.fresh 1
    .next (s.startLate st (s.mayWarm st && decide (v = 1)))

/-- START_RETRY (R512): a second after a failed start Quince starts again by the cold path, the third time from the recovery image. -/
def execStartRetry (s : State) : Res :=
  match s.quince.retryDue with
  | some t =>
    let s := s.advanceTo (after t (1000 * msU))
    let rec_ := decide (s.quince.failCount.toNat ≥ 3)
    .next (s.beginStart false false
      { warm := false, asked := true, recovery := rec_, trial := s.quince.pending && !rec_, since := s.now })
  | none => .next s

end Sys2Proof.Machine
end

