-- ==== Sys2Proof/Machine/JobRows.lean ====
section
/-! DEFINITION. Meanings of the descriptors of a job: its set-up, its steps, and what the host does with it (R230, R306, R439, R440, R444, R445,
R454 to R463, R474 to R477, R485, R486, R503). -/
namespace Sys2Proof.Machine

/-! ### Descriptors that need a job (R474, R475) -/

/-- A ring is bound to the job of which the module is a member. -/
def State.ringJob (s : State) (r : Fin 64) : Bool := s.inJob && decide (s.host.rings[r].jobId = some s.job.p.jobId)

/-- Begins a descriptor of a job: without a bound job it completes with DETAIL 0x13, and after a teardown with JOB_TORN_DOWN (R475, R486). -/
def State.beginJob (s : State) (r : Fin 64) (op : Nat) (k : Desc → State → State) : State :=
  s.beginDesc r op fun d s =>
    if s.ringJob r then k d s
    else match s.host.rings[r].jobId with
    | none => s.complete r d.index stVersion 0x13 0
    | some id => if s.job.torn.contains id then s.complete r d.index stTornDown 0 0 else s.complete r d.index stVersion 0x13 0

/-- The lowest step whose decision has not been reached (R305). -/
def State.openStep (s : State) : DWord := if s.decided then s.job.step + 1 else s.job.step

/-- The next step whose input the module lacks (R486). -/
def State.nextInput (s : State) : DWord :=
  BitVec.ofNat 64 (max s.openStep.toNat (maxList ((s.tiers.retention ++ s.tiers.retWait).map fun r => r.step.toNat + 1)))

/-- STEP (R215, R474, R486): the input of the next step waits for a retention slot; the descriptor completes with the step record. -/
def execStepDesc (r : Fin 64) (input : Option Bytes) (s : State) : Res :=
  .next (s.beginJob r 0x11 fun d s =>
    let len := leNat d.bytes 0x18 8
    if decide (d.stepOf ≠ s.nextInput) || decide (s.job.p.retSize.toNat < len) then s.complete r d.index stVersion 0x18 0
    else match input with
    | none => s.complete r d.index stBusy 0x10 0
    | some b => s.upTiers fun t => { t with retWait := t.retWait ++ [{ step := d.stepOf, input := b.take len, bad := false }] })

/-- A step-size record that R306 accepts: every ETA finite and not negative, 0 for a group that is not VALID, and no reserved bit set. -/
def etaOk (groups : List Group) (b : Bytes) : Bool :=
  zeros b 8 0x40 && (List.range 64).all fun g =>
    let e := BitVec.ofNat 32 (leNat b (0x40 + 4 * g) 4)
    isFin32 e && !lt32 e 0 && (eq32 e 0 || (groups[g]?).any (·.valid))

/-- Medlar waits for the record of the step whose update was decided (R306). -/
def State.awaitsSize (s : State) (step : DWord) : Bool :=
  decide (s.job.stage = .stage5) && !s.medlar.passOn && s.medlar.inUse.isNone && decide (step = s.job.step)

/-- Takes an accepted record: the one that Medlar waits for ends the wait, which the step record counts; another is held, in place of one for
the same step (R306, R349). -/
def State.takeSize (s : State) (x : StepSizeRec) : State :=
  if s.awaitsSize x.step then
    (s.upMedlar fun m => { m with inUse := some x }).upJob fun j =>
      { j with record := { j.record with waitStepSize := (s.now.toNat - j.record.tDecision.toNat) / usU } }
  else s.upMedlar fun m => { m with sizes := m.sizes.filter (fun y => y.step ≠ x.step) ++ [x] }

/-- STEP_SIZE (R304 to R306, R349, R474): held, replaced, taken by Medlar that waits for it, or refused.
(DEDUCED, log entry 128) -/
def execStepSize (r : Fin 64) (rec : Option Bytes) (s : State) : Res :=
  .next (s.beginJob r 0x12 fun d s => match rec with
    | none => s.complete r d.index stBusy 0x10 0
    | some b =>
      let step : DWord := BitVec.ofNat 64 (leNat b 0 8)
      let lo := s.openStep.toNat
      if !s.awaitsSize step && (decide (step.toNat < lo) || decide (lo + 3 < step.toNat)) then s.complete r d.index stBusy 0x15 step
      else if !etaOk ((s.rt.image.map (·.groups)).getD []) b then s.complete r d.index stVersion 0 step
      else
        let x : StepSizeRec := { step := step, eta := (List.range 64).map fun g => BitVec.ofNat 32 (leNat b (0x40 + 4 * g) 4) }
        (s.takeSize x).complete r d.index stOk 0 step)

/-- HOLD (R461, R474): stage 1 of the step after k is not begun; the descriptor completes when the boundary is reached.
(DEDUCED, log entry 99) -/
def execHold (r : Fin 64) (s : State) : Res :=
  .next (s.beginJob r 0x13 fun d s =>
    if decide (s.job.phase = .held) && decide (s.job.step = d.stepOf) then s.complete r d.index stOk 0 d.stepOf
    else (s.upJob fun j => { j with holdStep := some d.stepOf }).holdCheck)

/-- Exports bytes of an image in flash, as the image of the shared store (R444, R449): the slot is held from the first EXPORT until one reaches the end of the image.
(DEDUCED, log entry 98) -/
def State.exportBytes (s : State) (step : DWord) (i : FlashImg) (off len : Nat) (addr : DWord) : State :=
  let last := decide (i.image.length ≤ off + len)
  let s := s.hostWrite addr (slice (relayer i.image layerShared) off len)
  let s := s.upSec fun c => { c with flash := c.flash.map fun x => if x.step = step then { x with held := !last } else x
                                     exportStep := if last then step else c.exportStep }
  s.upSec fun c => { c with exporting := c.flash.any (·.held) }

/-- EXPORT (R444, R464, R474, R485, R491): bytes of a complete flash image go to the host, or ABANDON releases its slot. While the link is
down the export pauses. -/
def execExportData (r : Fin 64) (s : State) : Res :=
  if !s.host.linkUp then .next s
  else .next (s.beginDesc r 0x14 fun d s =>
    if s.host.rings[r].jobId.isNone then s.complete r d.index stVersion 0x13 0
    else match s.sec.flash.find? fun i => decide (i.step = d.stepOf) && i.complete with
    | none => s.complete r d.index stVersion 0x1C 0
    | some i =>
      let s := if bit (byteAt d.bytes 0x28) 0 then
          (s.upSec fun c => { c with flash := c.flash.map fun x => if x.step = d.stepOf then { x with held := false } else x }).upSec fun c =>
            { c with exporting := c.flash.any (·.held) }
        else s.exportBytes d.stepOf i (leNat d.bytes 0x10 8) (leNat d.bytes 0x18 8) (BitVec.ofNat 64 (leNat d.bytes 0x20 8))
      s.complete r d.index stOk 0 (arg i.image.length))

/-- FABRIC_OP (R363, R371, R374, R378, R474): a request of the host driver under the job, of an operation of the job protocol level or below; its payload comes from the descriptor for an atomic, and from the
host buffer for what writes.
(DEDUCED, log entry 109) -/
def execFabricOp (r : Fin 64) (data : Option Bytes) (s : State) : Res :=
  .next (s.beginJob r 0x15 fun d s =>
    let w := leNat d.bytes 0x10 4
    let op := field w 7 0
    let len := field w 28 16
    let payload := if op = 0x03 then some (slice d.bytes 0x20 24) else if op = 0x01 then some [] else data.map fun b => padTo (b.take len) len
    let addr := leNat d.bytes 8 8
    if op = 0x10 ∨ op = 0x80 then s.complete r d.index stVersion 0x11 0
    else if needLevel { pktBlank with op := BitVec.ofNat 8 op, payload := payload.getD [] } > s.job.p.level.toNat then s.complete r d.index stVersion 0 0
    else match payload with
    | none => s.complete r d.index stBusy 0x10 0
    | some pl => s.request { pktBlank with
        op := BitVec.ofNat 8 op
        cls := if op = 0x04 ∨ op = 0x05 then 1 else if bit w 31 then 0 else 2
        len := BitVec.ofNat 13 (if op = 0x03 then 24 else len)
        dst := BitVec.ofNat 17 (addr / 2 ^ 47)
        addr := BitVec.ofNat 64 addr
        key := BitVec.ofNat 32 (leNat d.bytes 0x14 4)
        job := s.job.p.jobId
        payload := pl } (some (r, d.index)))

/-- RELEASE (R474, R491): unbinds the ring. While its job is formed, the image still runs (R475). -/
def execRelease (r : Fin 64) (s : State) : Res :=
  .next (s.beginDesc r 0x16 fun d s =>
    if s.host.rings[r].jobId.isNone then s.complete r d.index stVersion 0x13 0
    else if s.ringJob r then s.complete r d.index stBusy 0x16 0
    else (s.upRing r fun g => { g with jobId := none }).complete r d.index stOk 0 0)

/-! ### The set-up block (R321, R439, R476) -/

/-- A 64-bit and a 32-bit field of the block. -/
def q64 (b : Bytes) (o : Nat) : DWord := BitVec.ofNat 64 (leNat b o 8)

/-- Entries of an array of the block. -/
def arr (b : Bytes) (at_ n size : Nat) : List Bytes := entriesOf (slice b (leNat b at_ 8) (n * size)) size

/-- An array begins at a multiple of 64 and lies in the block. -/
def arrBad (b : Bytes) (at_ bytes : Nat) : Bool := decide (leNat b at_ 8 % 64 ≠ 0) || decide (b.length < leNat b at_ 8 + bytes)

/-- The parameters of a set-up block. -/
def paramsOf (b : Bytes) : JobParams :=
  let f := w32At b 0x28
  let g := w32At b 0x2C
  let n := field (w32At b 0x40) 17 0
  { jobId := BitVec.ofNat 32 (w32At b 4), seed := q64 b 0x08, startTime := q64 b 0x10, firstStep := q64 b 0x18, restoreStep := q64 b 0x20,
    restoreValid := bit f 0, shift := bit f 1, replayEn := bit f 2, defer := bit f 3, recompute := bit f 4, level := BitVec.ofNat 2 (field f 6 5),
    fanIn := field f 10 7, staleLog2 := field f 14 11, lateLimit := field f 22 15, hopMargin := field g 9 0, secFmt := field g 23 16,
    flashSlots := field g 27 24, deferLimit := q64 b 0x30, retSize := q64 b 0x38, partner := field (w32At b 0x44) 16 0,
    pInt := field (w32At b 0x48) 7 0, rebaseInt := field (w32At b 0x48) 26 16, fInt := field (w32At b 0x4C) 15 0, sInt := w32At b 0x50,
    members := (arr b 0x60 n 4).map fun e => BitVec.ofNat 17 (w32At e 0),
    shardMap := (arr b 0x68 (w32At b 0x58) 16).map fun e => (BitVec.ofNat 32 (w32At e 0), w32At e 4, w32At e 8, field (w32At e 12) 16 0),
    deadlines := (arr b 0x70 (field (w32At b 0x54) 10 0) 4).map fun e => w32At e 0 }

/-- The byte offset of the first field outside its range (R321, R439, R476). -/
def setupBad (b : Bytes) (p : JobParams) (modId : BitVec 17) : Option Nat :=
  let n := field (w32At b 0x40) 17 0
  let gib := 2 ^ 30
  ([(0x000, decide (b.length < 0x100) || decide (byteAt b 0 ≠ 1)),
    (0x028, decide (w32At b 0x28 ≥ 2 ^ 23) || decide (p.level = 0) || !inRange 2 p.fanIn 8 || decide (p.staleLog2 > 8) || decide (p.lateLimit = 0)),
    (0x02C, decide (field (w32At b 0x2C) 15 10 ≠ 0) || decide (w32At b 0x2C ≥ 2 ^ 28) || !inRange 1 p.hopMargin 1000 || !inRange 2 p.flashSlots 8),
    (0x030, decide (p.deferLimit.toNat > 16 * gib)),
    (0x038, decide (p.retSize.toNat > 16 * gib)),
    (0x040, !inRange 1 n 131072),
    (0x044, decide (1 < n) && decide (n ≤ p.partner)),
    (0x048, decide (p.pInt = 0) || !inRange 1 p.rebaseInt 1024),
    (0x04C, decide (p.fInt = 0) || decide (p.fInt % max 1 p.pInt ≠ 0)),
    (0x050, decide (p.sInt % max 1 p.fInt ≠ 0)),
    (0x054, decide (field (w32At b 0x54) 10 0 > 1024)),
    (0x060, arrBad b 0x60 (4 * n) || !p.members.contains modId),
    (0x068, arrBad b 0x68 (16 * w32At b 0x58) || p.shardMap.any fun x => decide (n ≤ x.2.2.2)),
    (0x070, arrBad b 0x70 (4 * field (w32At b 0x54) 10 0)),
    (0x078, arrBad b 0x78 (leNat b 0x80 8)),
    (0x088, !zeros b 0x88 0x100)].find? (·.2)).map (·.1)

/-! ### Sizes (R440, R445) -/

/-- The secured image area of flash is too small for the job (R445). -/
def flashShort (p : JobParams) (im : Image) (gb : Nat) : Bool :=
  decide (gb * 10 ^ 9 < p.flashSlots * denseSize im + 2 * rowSize im + 2 * p.rebaseInt * p.fInt * logSize im)

/-- The partner image area is too small for its four parts (R440, R444).
(DEDUCED, log entry 108) -/
def partnerShort (p : JobParams) (im : Image) (gib : Nat) : Bool :=
  decide (1 < p.n) && decide (gib * 2 ^ 30 < (areaParts p im).ring + ringNeed p im)

/-! ### Accepting a set-up (R230, R233, R454, R477) -/

/-- The job of a set-up is the one whose images the module holds: a re-formation (R454). -/
def State.sameJob (s : State) (p : JobParams) : Bool := decide (s.sec.jobKey = some (p.jobId, p.seed))

/-- The coefficient table in the images of that job (R454): as loaded, or after a start as flash holds it; none where the module holds no image. -/
def State.keptCoeff (s : State) : Option Bytes :=
  match s.rt.image with
  | some im => some (im.coeff.getD [])
  | none => s.sec.flash.getLast?.map fun i => imgSection i.image 8

/-- The level of that job (R460), by its parameters or after a start by the header of an image in flash. -/
def State.keptLevel (s : State) : Option (BitVec 2) :=
  if s.rt.image.isSome then some s.job.p.level else s.sec.flash.getLast?.map fun i => BitVec.ofNat 2 (leNat i.image 0x28 4)

/-- The job protocol level (R362, R460): KEEP takes the lower of the previous one and the one named. -/
def State.levelFor (s : State) (p : JobParams) : BitVec 2 :=
  match if s.sameJob p && !p.recompute then s.keptLevel else none with
  | none => p.level
  | some l => if l.toNat < p.level.toNat then l else p.level

/-- Highest IMG_MINOR that the running firmware accepts (R218). -/
def Quince.minorMax (q : Quince) : Nat :=
  if q.recoveryRuns then Config.recoveryMinor else if q.runSlot then q.slotB.minorMax.toNat else q.slotA.minorMax.toNat

/-- Binds the image and homes its objects (R233, R238, R253) beside retention slots of a size (R251); the index of the region or object that
cannot be bound where check 0x0B fails (R230). Nothing of the earlier job is running.
(DEDUCED, log entry 107) -/
def State.install (s : State) (im : Image) (retSize : DWord) : Except Nat State :=
  match s.bindTable im with
  | .error i => .error i
  | .ok b =>
    let (share, s) := s.fresh 32
    let s : State := { s with
      cells := s.cells.map CellS.unbind
      queues := Vector.replicate 7680 .reset
      joins := Vector.replicate 1792 .reset }
    let s := s.upRt fun t =>
      { Runtime.reset with image := some im, placementFaults := t.placementFaults, degradedClusters := t.degradedClusters, share := share.toNat
                           shareOrig := share.toNat }
    let s := s.upMover fun m =>
      { Mover.reset with pFloor := m.pFloor, dFloor := m.dFloor, mFloor := m.mFloor, floorP := m.floorP, floorD := m.floorD, floorM := m.floorM
                         floorErr := m.floorErr }
    let s := (s.upJob fun j => { j with p := { j.p with retSize := retSize } }).applyBinding b
    match s.placeTable im with
    | .error i => .error i
    | .ok os => .ok (s.upRt fun t => { t with objects := os })

/-- The step of the state with which a job begins (R439, R459). -/
def JobParams.stepBefore (p : JobParams) : DWord := if p.restoreValid then p.restoreStep else p.firstStep - 1

/-- The job's own blocks at its formation; a re-formation keeps the images that secure it, and new embedding bases begin (R439, R444, R447).
(DEDUCED, log entry 100) -/
def State.form (s : State) (p : JobParams) (old : State) : State := s.reEnv fun s =>
  let s := s.upJob fun j =>
    { Job.reset with phase := .formed, p := p, torn := j.torn.filter (· ≠ p.jobId), records := j.records, lastSample := j.lastSample
                     step := p.firstStep }
  let s := s.upMedlar fun m =>
    { Medlar.reset with l16Sat := m.l16Sat, scaleCount := m.scaleCount, kept := m.kept, stateStep := p.stepBefore }
  let s := s.upColl fun c => { Collectives.reset with refusedTiles := c.refusedTiles, collFault := c.collFault }
  let s := s.upFab fun b => { b with dead := b.dead.filter fun x => x.1 ≠ p.jobId }
  let s := s.upTiers fun t => { t with retention := [], retWait := [] }
  let same := old.sameJob p
  let moved := !same || decide (old.hostMod ≠ s.hostMod)
  let kept := !moved && decide (old.areaDir = s.areaDir)
  s.upSec fun c =>
    let c : Resilience := { c with
      units := [], bufferFree := true, bufferSince := none, restoring := false, restoreNeed := [], restoreScales := [], newHost := moved
      startStep := none, handoverTo := [], handover := [], handoverRead := [], handoverWait := false, handedOver := [], logsSince := []
      firstImage := true, copyStep := p.stepBefore, logPos := 0, slotNext := c.slotNext && kept, jobKey := some (p.jobId, p.seed), serves := none
      partnerValid := c.partnerValid && (moved || kept), flashLogs := []
      bases := s.rowObjs.map fun o => { obj := BitVec.ofNat 32 o.e.id, step := p.stepBefore, bytes := [], complete := false } }
    if same then c
    else { c with flash := [], flashStep := 0, exportStep := 0, exporting := false, flashPoints := 0, partnerStep := 0, partnerValid := false }

/-- The state that this module still holds for a restore point, as an image (R457): the buffer read, or the other one while no update has
begun to write it. -/
def State.ownImage (s : State) (p : JobParams) : Option Bytes :=
  if !s.sameJob p || s.rt.image.isNone then none
  else if s.medlar.stateStep = p.restoreStep then some (s.imageFor layerHandover p.restoreStep s.medlar.u.toNat [])
  else if s.medlar.prevStep = some p.restoreStep then some (s.imageFor layerPartner p.restoreStep (s.medlar.u.toNat - 1) [])
  else none

/-- The tile rows that this module does not hold at that step: those that an earlier restore has not placed, and those of KIND 5 objects that an update
has begun to change (R457, R464). -/
def State.rowsLost (s : State) : List (Word × Nat) :=
  s.sec.restoreNeed ++ if s.medlar.midUpdate then s.rowObjs.flatMap fun o => o.e.tileRows else []

/-- Begins a restore (R455 to R459): the rows that a state buffer holds, all but those lost, are used in place; the others wait for their sources.
Working tiles of the restore point are awaited from now on (R343, R344). -/
def State.beginRestore (s : State) (own : Option Bytes) (lost : List (Word × Nat)) (p : JobParams) : State :=
  let s := s.upColl fun c => { c with w2Armed := true, w2Got := [], lastUpdate := some p.restoreStep }
  let need := s.rowsNeeded
  let s := s.upSec fun c =>
    { c with restoring := true, restoreSource := 1, restoreStep := p.restoreStep, restoreNeed := need.filter fun t => !lost.contains t, restoreScales := [] }
  let s := match own with
    | none => s
    | some b => s.placeImage b []
  let s := s.upSec fun c => { c with restoreNeed := c.restoreNeed ++ need.filter lost.contains }
  if s.sec.restoreNeed.isEmpty then s.endRestore else s

/-- What stands against a set-up before its image is read: a status and a detail (R362, R440, R463, R476). -/
def State.paramsBad (s : State) (b : Bytes) (p : JobParams) : Option (Nat × Nat) :=
  match setupBad b p s.fab.modId with
  | some off => some (stVersion, 0x17 + 256 * off)
  | none =>
    if s.fab.offer.toNat < p.level.toNat then some (stVersion, 0x24)
    else if p.secFmt ≠ 1 then some (stVersion, 0x25)
    else if p.members.findIdx? (· = s.fab.modId) = some p.partner then some (stVersion, 0x23)
    else none

/-- What stands against a set-up once its image is read (R440, R445, R454). -/
def State.imageBad (s : State) (p : JobParams) (im : Image) : Option Nat :=
  if s.sameJob p && (s.keptCoeff.map fun c => decide (im.coeff.getD [] ≠ c)).getD false then some 0x22
  else if partnerShort p im s.sec.areaGib then some 0x23
  else if flashShort p im s.sec.imgGb then some 0x26
  else none

/-- The members that gain rows which this module gives up (R462). -/
def State.gainers (s : State) (p : JobParams) : List (BitVec 17) :=
  let me := s.fab.modId
  let mine := s.job.p.shardMap.filter fun x => s.job.p.moduleOf x.2.2.2 = me
  let rows := mine.flatMap fun x => (List.range x.2.2.1).map fun i => (x.1, x.2.1 + i)
  ((rows.filterMap fun t => (p.ownerOf t.1 t.2).map p.moduleOf).filter (· ≠ me)).dedup

/-- The handover of a step boundary (R462): whom it goes to, and the image of this module's state after the step. -/
def State.handoverOf (s : State) (p : JobParams) : List (BitVec 17) × Bytes :=
  let to_ := if s.job.phase = .held then s.gainers p else []
  (to_, if to_.isEmpty then [] else s.imageFor layerHandover s.medlar.stateStep s.medlar.u.toNat [])

/-- Holds a handover image for the members that read it. -/
def State.offerHandover (s : State) (h : List (BitVec 17) × Bytes) (wait : Bool) : State :=
  s.upSec fun c => { c with handoverTo := h.1, handover := h.2, handoverRead := [], handoverWait := wait }

/-- A member's set-up (R230, R454 to R460, R462, R477): its image is loaded, or refused with nothing changed. -/
def State.setupMember (s : State) (b : Bytes) (p : JobParams) : State :=
  let p := { p with level := s.levelFor p }
  match checkImage (slice b (leNat b 0x78 8) (leNat b 0x80 8)) p.level.toNat s.quince.minorMax with
  | .error detail => s.endSetup (if detail % 256 = 0x0A then stAlias else stVersion) detail 0
  | .ok im =>
    match s.install im p.retSize, s.imageBad p im with
    | .error i, _ => s.endSetup stVersion (0x0B + 256 * i) 0
    | .ok _, some detail => s.endSetup stVersion detail 0
    | .ok s', none =>
      let s'' := (s'.form p s).offerHandover (s.handoverOf p) false
      if p.restoreValid then s''.beginRestore (s.ownImage p) s.rowsLost p else s''.firstRun p.firstStep

/-- A departing member's set-up (R461, R462): it is released once every gaining member has read its handover image. -/
def State.setupDeparting (s : State) (p : JobParams) : State :=
  let h := s.handoverOf p
  let s := s.upJob fun j => { j with p := { j.p with firstStep := if p.restoreValid then p.restoreStep + 1 else p.firstStep } }
  let s := s.offerHandover h true
  if h.1.isEmpty then s.releaseMember else s

/-- What stands against any set-up now: the lifecycle state (R503), the recovery image (R513), a failed memory unit (R282).
(DEDUCED, log entry 106) -/
def State.setupBarred (s : State) : Option Nat :=
  if s.quince.life = .factory then some stApproval
  else if decide (s.quince.life ≠ .owned) || s.quince.recoveryRuns then some stBusy
  else if (s.tiers.stkUnits.toList.any fun u => u.health = .failed) || s.tiers.devUnits.toList.any fun u => u.health = .failed then some stBusy
  else none

/-- JOB_SETUP (R230 to R234, R439, R440, R445, R454 to R463, R470, R474 to R477, R485, R503): binds its ring, checks the parameters, loads the
image, binds and optionally restores. -/
def execJobSetup (r : Fin 64) (block : Option Bytes) (s : State) : Res :=
  .next (s.beginDesc r 0x10 fun d s => match block with
    | none => s.complete r d.index stBusy 0x10 0
    | some blk =>
      let b := blk.take (leNat d.bytes 0x10 8)
      let p := paramsOf b
      let departing := bit (byteAt d.bytes 0x18) 0
      if s.ringJob r && decide (s.job.phase = .formed) then s.complete r d.index stBusy 0x16 0
      else if s.boundRings r p.jobId ≥ 4 then s.complete r d.index stBusy 0x1D 0
      else
        let busy := decide (s.job.phase = .formed) || s.host.rings.toList.any (·.setupOn)
        let s := s.upRing r fun g => { g with jobId := some p.jobId }
        match busy, s.setupBarred, s.paramsBad b p with
        | true, _, _ => s.complete r d.index stBusy 0x16 0
        | false, some status, _ => s.complete r d.index status 0 0
        | false, none, some (status, detail) => s.complete r d.index status detail 0
        | false, none, none =>
          let s := s.upRing r fun g => { g with setupOn := true }
          if departing then s.setupDeparting p else s.setupMember b p)

end Sys2Proof.Machine
end

