-- ==== Sys2Proof/Machine/ReduceRows.lean ====
section
/-! DEFINITION. Meaning of the row of the reduce personality (R135 to R140, R147 to R152). -/
namespace Sys2Proof.Machine

/-- What one row of an input tile presents to a reduce operation: its elements of S0, S1 and S2 by column, whether an element
takes part, and the record of S3. -/
structure RowIn where
  x : Nat → Word
  y : Nat → Word
  g : Nat → Word
  part : Nat → Bool
  rc : Nat → Word

/-- The 64 columns. -/
def cols : List Nat := List.range 64

/-- Sum over the pairwise tree of the elements that take part (R138), added to a state. -/
def treeAdd (acc : Word) (r : RowIn) (v : Nat → Word) : Word :=
  match pairTree 6 (cols.map fun c => if r.part c then some (v c) else none) with
  | none => acc
  | some t => add32 acc t

/-- A NaN takes part among the values.
(DEDUCED, log entry 132) -/
def anyNan (r : RowIn) (v : Nat → Word) : Bool := cols.any fun c => r.part c && isNaN32 (v c)

/-- Word i of a state. -/
def RowState.at (s : RowState) (i : Nat) : Word := s.w.getD i 0

/-- The empty state of an operation. -/
def emptyRow (op : Nat) : RowState :=
  match op with
  | 2 => { w := [ninf32], nan := false, k := 0 }
  | 3 => { w := [pinf32], nan := false, k := 0 }
  | 7 => { w := [ninf32, 0], nan := false, k := 0 }
  | 9 => { w := [ninf32, ninf32, ninf32, 0xFFFFFFFF, 0xFFFFFFFF, 0xFFFFFFFF], nan := false, k := 0 }
  | _ => { w := [0, 0], nan := false, k := 0 }

/-- The state that a chained record carries (R139). -/
def chainedRow (rc : Nat → Word) : RowState := { w := [rc 0, rc 1], nan := (rc 7).getLsbD 0, k := (rc 3).toNat }

/-- The fold of SMAX (R138): a tile's maximum and its sum against that maximum. -/
def smaxFold (m s tm ts : Word) : Word × Word :=
  if tm = ninf32 then (m, s)
  else if m = ninf32 then (tm, ts)
  else if lt32 m tm then (tm, add32 (mul32 s (exp32 (sub32 m tm))) ts)
  else (m, add32 s (mul32 ts (exp32 (sub32 tm m))))

/-- Elements of an SMAX row that enter its maximum and its sum: those above −Inf that take part. -/
def smaxPart (r : RowIn) : RowIn := { r with part := fun c => r.part c && decide (r.x c ≠ ninf32) }

/-- ŷ of SMAXD for an element (R147, R148). -/
def smaxHat (r : RowIn) (c : Nat) : Word :=
  if r.rc 3 ≠ 0 then infShare (r.rc 3) (r.x c) else exp32 (sub32 (r.x c) (r.rc 2))

/-- Puts an element into the three greatest so far; an equal element of a higher column stays behind (R136).
(DEDUCED, log entry 43) -/
def topInsert (w : List Word) (v col : Word) : List Word :=
  let free := fun i => w.getD (3 + i) 0 = 0xFFFFFFFF
  let before := fun i => free i || lt32 (w.getD i 0) v
  if before 0 then [v, w.getD 0 0, w.getD 1 0, col, w.getD 3 0, w.getD 4 0]
  else if before 1 then [w.getD 0 0, v, w.getD 1 0, w.getD 3 0, col, w.getD 4 0]
  else if before 2 then [w.getD 0 0, w.getD 1 0, v, w.getD 3 0, w.getD 4 0, col]
  else w

/-- Folds one row of input tile t of its row block into the row's state (R136 to R138).
(DEDUCED, log entry 40) -/
def foldRow (op t : Nat) (r : RowIn) (s : RowState) : RowState :=
  match op with
  | 0 => { s with w := [treeAdd (s.at 0) r r.x], nan := s.nan || anyNan r r.x }
  | 1 => { s with w := [treeAdd (s.at 0) r fun c => mul32 (r.x c) (r.x c)], nan := s.nan || anyNan r r.x }
  | 2 => { s with w := [cols.foldl (fun m c => if r.part c then max32 m (r.x c) else m) (s.at 0)], nan := s.nan || anyNan r r.x }
  | 3 => { s with w := [cols.foldl (fun m c => if r.part c then min32 m (r.x c) else m) (s.at 0)], nan := s.nan || anyNan r r.x }
  | 4 => { s with w := [treeAdd (s.at 0) r fun c => mul32 (r.x c) (r.y c)], nan := s.nan || anyNan r r.x || anyNan r r.y }
  | 5 => { s with
      w := [treeAdd (s.at 0) r r.x, treeAdd (s.at 1) r fun c => mul32 (r.x c) (r.x c)]
      nan := s.nan || cols.any fun c => r.part c && !isFin32 (r.x c) }
  | 6 => { s with
      w := [treeAdd (s.at 0) r fun c => mul32 (mul32 (r.y c) (r.g c)) (mul32 (sub32 (r.x c) (r.rc 0)) (r.rc 1)),
            treeAdd (s.at 1) r fun c => mul32 (r.y c) (r.g c)]
      nan := s.nan || (r.rc 7).getLsbD 0 || anyNan r r.x || anyNan r r.y || anyNan r r.g }
  | 7 =>
    let p := smaxPart r
    let tm := cols.foldl (fun m c => if p.part c then max32 m (p.x c) else m) ninf32
    let ts := treeAdd 0 p fun c => exp32 (sub32 (p.x c) tm)
    let f := smaxFold (s.at 0) (s.at 1) tm ts
    { w := [f.1, f.2], nan := s.nan || anyNan r r.x,
      k := s.k + (cols.filter fun c => r.part c && decide (r.x c = pinf32)).length }
  | 8 =>
    let none' := decide (r.rc 3 = 0) && decide (r.rc 2 = ninf32)
    { s with
      w := [if none' then s.at 0 else treeAdd (s.at 0) r fun c => mul32 (r.y c) (smaxHat r c), if anyNan r r.x then nan32 else s.at 1]
      nan := s.nan || (r.rc 7).getLsbD 0 || (!none' && (anyNan r r.x || anyNan r r.y))
      k := (r.rc 3).toNat }
  | _ => { s with
      w := cols.foldl (fun w c => if r.part c && !isNaN32 (r.x c) then topInsert w (r.x c) (BitVec.ofNat 32 (64 * t + c)) else w) s.w }

/-- Flags of W7 (R137, R152).
(DEDUCED, log entry 45) -/
def rowFlags (op : Nat) (s : RowState) (allMasked chained : Bool) : Word :=
  let nonfinite := s.nan || (decide (op = 7 ∨ op = 8) && decide (s.k ≥ 1))
  BitVec.ofNat 32 (b2n s.nan + 2 * b2n allMasked + 4 * b2n nonfinite + 8 * b2n chained)

/-- The finished words W0 to W3 of NORM (R138, R149).
(DEDUCED, log entry 42) -/
def normWords (rms : Bool) (inv eps : Word) (s : RowState) : List Word :=
  if s.nan then [nan32, nan32, nan32]
  else
    let mu := if rms then 0 else mul32 (s.at 0) inv
    let sq := mul32 (s.at 1) inv
    let var := if rms then sq else max32 0 (sub32 sq (mul32 mu mu))
    [mu, rsqrt32 (add32 var eps), var]

/-- The finished words of a record (R136, R138, R148, R149). A NORM record with NAN set makes the whole NORMD record NaN; a NaN in dY or the gain
alone reaches only the sums that it enters. A NaN in the saved x of SMAXD makes its LSE NaN. -/
def finalWords (f : Bytes) (s : RowState) (rc : Nat → Word) : List Word :=
  match redop f with
  | 5 => normWords (normRms f) (rInvN f) (rEps f) s
  | 6 =>
    if (rc 7).getLsbD 0 then [nan32, nan32, nan32, nan32]
    else [canon32 (rc 0), canon32 (rc 1), mul32 (rInvN f) (s.at 0), if normRms f then 0 else mul32 (rInvN f) (s.at 1)]
  | 7 =>
    let k := BitVec.ofNat 32 s.k
    if s.nan then [nan32, nan32, nan32, k]
    else if s.k ≥ 1 then [canon32 (s.at 0), canon32 (s.at 1), pinf32, k]
    else [canon32 (s.at 0), canon32 (s.at 1), if s.at 0 = ninf32 then ninf32 else add32 (s.at 0) (ln32 (s.at 1)), k]
  | 8 => [if isNaN32 (s.at 1) then nan32 else canon32 (rc 2), if s.nan then nan32 else s.at 0, 0, BitVec.ofNat 32 s.k]
  | 9 => (List.range 3).map (fun i => if i < topkK f then s.at i else 0) ++ (List.range 3).map fun i => if i < topkK f then s.at (3 + i) else 0
  | _ => [canon32 (s.at 0)]

/-- The words of an unfinished state (R139).
(DEDUCED, log entry 147) -/
def chainWords (op : Nat) (s : RowState) : List Word :=
  match op with
  | 5 => [canon32 (s.at 0), canon32 (s.at 1)]
  | 7 => [canon32 (s.at 0), canon32 (s.at 1), 0, BitVec.ofNat 32 s.k]
  | _ => [canon32 (s.at 0)]

/-- An SMAX row with no element above −Inf (R137). -/
def rowAllMasked (f : Bytes) (s : RowState) : Bool := decide (redop f = 7) && !s.nan && decide (s.k = 0) && decide (s.at 0 = ninf32)

/-- The record of a row (R136, R137, R139).
(DEDUCED, log entry 133) -/
def rowRecord (f : Bytes) (s : RowState) (rc : Nat → Word) : RowOut :=
  let ws := if chainOut f then chainWords (redop f) s else finalWords f s rc
  let fl := rowFlags (redop f) s (!chainOut f && rowAllMasked f s) (chainOut f)
  { data := (List.range 7).flatMap (fun i => toLE (ws.getD i 0).toNat 4) ++ toLE fl.toNat 4, scales := [],
    flags := nonfiniteIf (fl.getLsbD 2) }

/-- What row r of the input tile of step pos presents (R125, R135, R136). -/
def CellS.rowIn (k : CellS) (f : Bytes) (a : StartArgs) (pos r : Nat) : RowIn :=
  { x := k.lane f a pos 0 r, y := k.lane f a pos 1 r, g := k.lane f a pos 2 r,
    part := fun c => !maskS2 f || !isZero32 (k.lane f a pos 2 r c), rc := k.laneRec f a pos 3 r }

/-- The row states after an input tile: a row block starts from the empty state or from the chained one (R138, R139). -/
def CellS.foldTile (k : CellS) (f : Bytes) (n : Nest) : List RowState :=
  let t := n.pos % rowTiles f
  (List.range 64).map fun r =>
    let i := k.rowIn f n.args n.pos r
    let s0 := if t = 0 then (if chainIn f then chainedRow i.rc else emptyRow (redop f)) else n.rows.getD r (emptyRow (redop f))
    foldRow (redop f) t i s0

/-- The MASK1 tile of TOPK that marks the selected elements among the first 64 columns (R130, R136). -/
def topMask (k : Nat) (rows : List RowState) : Bytes :=
  (List.range 512).map fun b =>
    let s := rows.getD (b / 8) (emptyRow 9)
    BitVec.ofNat 8 (sumNat ((List.range 8).map fun j =>
      if (List.range k).any fun i => s.at (3 + i) = BitVec.ofNat 32 (b % 8 * 8 + j) then 2 ^ j else 0))

/-- Word of the mask output of row block m. -/
def topMaskWord (f : Bytes) (m : Nat) : Nat := maskOutBase f + m * 8

/-- One element of an ADDT tile: the inputs in stream order (R136, R140).
(DEDUCED, log entry 134) -/
def CellS.addtElem (k : CellS) (f : Bytes) (n : Nest) (r c : Nat) : Word :=
  if maskS2 f && isZero32 (k.lane f n.args n.pos 2 r c) then 0
  else (List.range (nInputs f - 1)).foldl (fun acc i => add32 acc (k.lane f n.args n.pos (i + 1) r c)) (k.lane f n.args n.pos 0 r c)

/-- The records of the row block whose last tile has been folded.
(DEDUCED, log entry 44) -/
def CellS.blockRows (k : CellS) (f : Bytes) (n : Nest) (rows : List RowState) : List RowOut :=
  (List.range 64).map fun r => rowRecord f (rows.getD r (emptyRow (redop f))) (k.laneRec f n.args n.pos 3 r)

/-- REDUCE_INPUT_TILE (R122, R125, R128, R135 to R140, R147 to R152): the next input tile of S0, or the next ADDT tile. -/
def execReduceInputTile (c : Fin 1024) (s : State) : Res :=
  match s.cells[c].running 2 with
  | none => .next s
  | some n =>
    let k := s.cells[c]
    let f := k.active.bytes
    .next (s.laneStep c n
      (if isAddt f then
        let vals := (List.range 64).flatMap fun r => cols.map fun q => k.addtElem f n r q
        s.laneOut c n n.pos (convTile f (s.keyOf n f) (outFmt f) 0 0 (n.args.m0 + tileM f n.pos) (n.args.n0 + tileN f n.pos) vals) id
      else
        let rows := k.foldTile f n
        if n.pos % rowTiles f + 1 < rowTiles f then
          let bad := k.spoils f n.args n.pos
          (s.upCell c fun k => k.stepped f n fun n => { n with rows := rows }).reportSpoil c bad
        else
          let o := ordinalOf f n.pos
          let w := topMaskWord f (tileM f o)
          if decide (redop f = 9) && !wordsInside w 8 then s.nestFault c
          else
            let s := s.laneOut c n o (k.blockRows f n rows) fun n => { n with rows := [] }
            s.when (decide (redop f = 9)) fun s => s.upCell c fun k => (k.put w (topMask (topkK f) rows)).setMark w 8 false))

end Sys2Proof.Machine
end

