-- ==== Sys2Proof/Machine/RegOps.lean ====
section
/-! DEFINITION. The register map: which register stands at an offset of BAR0, what it reads, and which of its bits a write sets (R9, R541 to
R548, and the field tables of every chapter). -/
namespace Sys2Proof.Machine

/-- The registers of BAR0. -/
inductive Reg where
  -- identification and versions
  | id
  | fwVersion
  | fmtVer
  | fmtVer2
  | serial (i : Nat)
  | setupLock
  | discardCount
  | discardLast
  -- host interface
  | hifReady
  | hifLink
  | hifStatus
  | evLost
  | descCap
  | sqBase (r : Fin 64) (hi : Bool)
  | cqBase (r : Fin 64) (hi : Bool)
  | ringCfg (r : Fin 64)
  | ringMod (r : Fin 64)
  | ringCtl (r : Fin 64)
  | ringStatus (r : Fin 64)
  | ringJob (r : Fin 64)
  | ringCq (r : Fin 64)
  | msix (v : Fin 65) (word : Nat)
  | msixPba (word : Nat)
  -- power
  | envPreset (i : Fin 8)
  | envCtl
  | envRamp
  | envStatus
  | freqStatus
  | pwrState
  | railLimit (n : Fin 8)
  | vrbStatus
  | balStatus
  | balCredit
  | thermCfg
  -- clocks and timebase
  | pairCfg
  | pairStatus
  | timeCtl
  | timeStatus
  | sbCfg
  | sbStatus
  -- fabric ports
  | portCfg
  | levelCfg
  | moduleId
  | fmRelay
  | classWrr
  | c0Meter
  | rktStatus
  | portStatus (p : Fin 32)
  | portDelay (p : Fin 32)
  -- memory tiers
  | tierStatus
  | stageFloors
  | eccCfg
  | stackHealth
  | capHealth (hi : Bool)
  | errCount
  | ueCount
  -- resilience
  | resArea
  | flashImg
  | secStatus
  | partnerStep (hi : Bool)
  | flashStep (hi : Bool)
  | exportStep (hi : Bool)
  | hostedSrc
  | hostedStep (hi : Bool)
  | departAdvice
  -- Quince mailbox
  | mbxReq (hi : Bool)
  | mbxRsp (hi : Bool)
  | mbxLen
  | mbxCmd
  | mbxStatus
  | lifecycle
  | approval
  | approvalNonce (i : Nat)
  | startInfo
  | wdogHist
  -- telemetry
  | mtime (hi : Bool)
  | tlmIndex
  | tlmValue (hi : Bool)
  deriving DecidableEq, Repr

/-- The register of a ring at an offset within its 64 B. -/
def ringReg (r : Fin 64) (o : Nat) : Option Reg :=
  match o with
  | 0x00 => some (.sqBase r false)
  | 0x04 => some (.sqBase r true)
  | 0x08 => some (.cqBase r false)
  | 0x0C => some (.cqBase r true)
  | 0x10 => some (.ringCfg r)
  | 0x14 => some (.ringMod r)
  | 0x18 => some (.ringCtl r)
  | 0x1C => some (.ringStatus r)
  | 0x20 => some (.ringJob r)
  | 0x24 => some (.ringCq r)
  | _ => none

/-- The register at an offset of a block (R541, index of BAR0). -/
def blockReg (block o : Nat) : Option Reg :=
  match block with
  | 0 => match o with
    | 0x00 => some .id
    | 0x04 => some .fwVersion
    | 0x08 => some .fmtVer
    | 0x0C => some .fmtVer2
    | 0x10 => some (.serial 0)
    | 0x14 => some (.serial 1)
    | 0x18 => some (.serial 2)
    | 0x20 => some .setupLock
    | 0x24 => some .discardCount
    | 0x28 => some .discardLast
    | _ => none
  | 1 =>
    if 0x1000 ≤ o ∧ o < 0x2000 then ringReg (Fin.ofNat _ ((o - 0x1000) / 64)) ((o - 0x1000) % 64)
    else if 0x8000 ≤ o ∧ o < 0x8410 then some (.msix (Fin.ofNat _ ((o - 0x8000) / 16)) ((o - 0x8000) % 16 / 4))
    else if 0xC000 ≤ o ∧ o < 0xC010 then some (.msixPba ((o - 0xC000) / 4))
    else match o with
    | 0x00 => some .hifReady
    | 0x04 => some .hifLink
    | 0x08 => some .hifStatus
    | 0x0C => some .evLost
    | 0x10 => some .descCap
    | _ => none
  | 2 =>
    if o < 0x20 then some (.envPreset (Fin.ofNat _ (o / 4)))
    else if 0x40 ≤ o ∧ o < 0x60 then some (.railLimit (Fin.ofNat _ ((o - 0x40) / 4)))
    else match o with
    | 0x20 => some .envCtl
    | 0x24 => some .envRamp
    | 0x28 => some .envStatus
    | 0x2C => some .freqStatus
    | 0x30 => some .pwrState
    | 0x60 => some .vrbStatus
    | 0x70 => some .balStatus
    | 0x74 => some .balCredit
    | 0x80 => some .thermCfg
    | _ => none
  | 3 => match o with
    | 0x10 => some .pairCfg
    | 0x14 => some .pairStatus
    | 0x20 => some .timeCtl
    | 0x24 => some .timeStatus
    | 0x40 => some .sbCfg
    | 0x44 => some .sbStatus
    | _ => none
  | 4 =>
    if 0x100 ≤ o ∧ o < 0x180 then some (.portStatus (Fin.ofNat _ ((o - 0x100) / 4)))
    else if 0x180 ≤ o ∧ o < 0x200 then some (.portDelay (Fin.ofNat _ ((o - 0x180) / 4)))
    else match o with
    | 0x00 => some .portCfg
    | 0x04 => some .levelCfg
    | 0x08 => some .moduleId
    | 0x0C => some .fmRelay
    | 0x10 => some .classWrr
    | 0x14 => some .c0Meter
    | 0x18 => some .rktStatus
    | _ => none
  | 5 => match o with
    | 0x00 => some .tierStatus
    | 0x10 => some .stageFloors
    | 0x20 => some .eccCfg
    | 0x30 => some .stackHealth
    | 0x34 => some (.capHealth false)
    | 0x38 => some (.capHealth true)
    | 0x40 => some .errCount
    | 0x44 => some .ueCount
    | _ => none
  | 6 => match o with
    | 0x00 => some .resArea
    | 0x04 => some .flashImg
    | 0x10 => some .secStatus
    | 0x18 => some (.partnerStep false)
    | 0x1C => some (.partnerStep true)
    | 0x20 => some (.flashStep false)
    | 0x24 => some (.flashStep true)
    | 0x28 => some (.exportStep false)
    | 0x2C => some (.exportStep true)
    | 0x30 => some .hostedSrc
    | 0x38 => some (.hostedStep false)
    | 0x3C => some (.hostedStep true)
    | 0x40 => some .departAdvice
    | _ => none
  | 7 => match o with
    | 0x00 => some (.mbxReq false)
    | 0x04 => some (.mbxReq true)
    | 0x08 => some (.mbxRsp false)
    | 0x0C => some (.mbxRsp true)
    | 0x10 => some .mbxLen
    | 0x14 => some .mbxCmd
    | 0x18 => some .mbxStatus
    | 0x20 => some .lifecycle
    | 0x24 => some .approval
    | 0x30 => some (.approvalNonce 0)
    | 0x34 => some (.approvalNonce 1)
    | 0x38 => some (.approvalNonce 2)
    | 0x3C => some (.approvalNonce 3)
    | 0x40 => some .startInfo
    | 0x48 => some .wdogHist
    | _ => none
  | 8 => match o with
    | 0x00 => some (.mtime false)
    | 0x04 => some (.mtime true)
    | 0x10 => some .tlmIndex
    | 0x18 => some (.tlmValue false)
    | 0x1C => some (.tlmValue true)
    | _ => none
  | _ => none

/-- The register at an offset of BAR0; none at an offset that the index does not name (R545). -/
def regOf (off : Nat) : Option Reg := if off % 4 = 0 then blockReg (off / 0x10000) (off % 0x10000) else none

/-- Before DEVICE_READY only the first block and the two readiness registers decode; before CFG_READY nothing does (R466). -/
def State.decodes (s : State) (off : Nat) : Bool :=
  s.host.cfgReady && (s.host.deviceReady || decide (off < 0x10000) || decide (off = 0x10000) || decide (off = 0x10004))

/-! ### Reading -/

/-- The two words of a 64-bit value. -/
def half64 (v : Nat) (hi : Bool) : Nat := if hi then v / 2 ^ 32 % 2 ^ 32 else v % 2 ^ 32

/-- Two bits of health for each unit. -/
def healthCode (h : Health) : Nat :=
  match h with
  | .good => 0
  | .degraded => 1
  | .failed => 2
def healthWord (l : List UnitHealth) : Nat := l.foldr (fun u n => healthCode u.health + 4 * n) 0

/-- The indexed counter (R548): 0 outside the table.
(DEDUCED, log entry 140; DEDUCED, log entry 151) -/
def State.counter (s : State) (group inst : Nat) : Nat :=
  let cl := fun (f : Fin 64 → Nat) => if h : inst < 64 then f ⟨inst, h⟩ else 0
  let cell := fun (f : CellS → Nat) => if h : inst < 1024 then f s.cells[inst] else 0
  let stk := fun (v : Vector Word 12) => if h : inst < 12 then (v[inst]).toNat else 0
  let port := fun (f : Port → Nat) => if h : inst < 32 then f s.fab.ports[inst] else 0
  match group with
  | 0 => cl fun c => s.clusters[c].stretched.toNat
  | 1 => cl fun c => s.clusters[c].overLong.toNat
  | 2 => cl fun c => s.clusters[c].govStretched.toNat
  | 3 => cl fun c => s.clusters[c].cycles.toNat
  | 4 => cl fun c => min s.clusters[c].slow (2 ^ 32 - 1)
  | 5 => cl fun c => min (s.effMax c) (2 ^ 32 - 1)
  | 6 => cell (·.ceCount.toNat)
  | 7 => cell (·.waitCycles.toNat)
  | 8 => cell (·.bpCycles.toNat)
  | 9 => ((s.regionIndex inst).map fun i => (s.regionS i).beyond.toNat).getD 0
  | 10 => stk s.medlar.l16Sat
  | 11 => stk s.medlar.scaleCount
  | 12 => stk s.medlar.kept
  | 13 => port (·.discards.toNat)
  | 14 => port (·.aged.toNat)
  | 15 => if inst = 0 then s.coll.refusedTiles.toNat else 0
  | 16 => if inst = 0 then s.job.lastSample.toNat else 0
  | _ => 0

/-- The latched HI word of a LO register at an offset (R544).
(DEDUCED, log entry 127) -/
def State.latched (s : State) (lo : Nat) : Nat := ((getKV lo s.regs.latches).getD 0).toNat

/-- ENV_STATUS. -/
def State.envStatusWord (s : State) : Nat :=
  let p := s.pwr
  let bound := (p.dies.toList.any fun d => decide (d.level > 0)) || p.hubThrottle || p.stkThrottle
  p.pinCode.toNat + 2 ^ 3 * b2n p.msgCeil.isSome + 2 ^ 4 * b2n s.thermSetsE + 2 ^ 5 * b2n bound +
    2 ^ 6 * b2n (decide (s.rawCeiling < 250)) + 2 ^ 16 * (if p.st = .active then p.ceilNow else 0)

/-- RING_STATUS. -/
def Ring.statusWord (g : Ring) : Nat := g.st.code + 2 ^ 8 * g.faultCause.toNat + 2 ^ 16 * g.sqHead.toNat

/-- PORT_STATUS. -/
def Port.statusWord (q : Port) : Nat :=
  q.st.code + 2 ^ 3 * q.level.toNat + 2 ^ 5 * b2n q.lost + 2 ^ 6 * q.partnerMod.toNat + 2 ^ 23 * q.partnerPort.toNat + 2 ^ 28 * q.reason.toNat

/-- TIME_STATUS. -/
def TimeBase.statusWord (b : TimeBase) : Nat :=
  b2n b.holdover + 2 * b2n b.refLost + 4 * b2n b.locked + 8 * b2n b.upLost + 16 * b2n b.onBackup + 2 ^ 16 * b.lastOffset.toNat

/-- APPROVAL: zero while no record is open. -/
def State.approvalWord (s : State) : Nat :=
  match s.quince.approval with
  | none => 0
  | some r =>
    r.op.code + 2 ^ 4 + 2 ^ 5 * b2n r.hostDone + 2 ^ 6 * b2n r.boardDone +
      2 ^ 8 * (ceilDiv (r.openedAt.toNat + 60000 * msU - s.now.toNat) (1000 * msU) % 256)

/-- The words of an MSI-X table entry (R465). -/
def MsixE.word (e : MsixE) (k : Nat) : Nat :=
  match k with
  | 0 => half64 e.addr.toNat false
  | 1 => half64 e.addr.toNat true
  | 2 => e.data.toNat
  | _ => b2n e.masked

/-- Selections of SB_CFG: function of a pin, as written (R525). -/
def sbFn (v pin : Nat) : Nat := field v (2 * pin + 1) (2 * pin)

/-- SB[7:4] all select trace, and no other pin does (R526). -/
def Pins.traceWhole (p : Pins) : Bool :=
  let v := p.sbSel.toNat
  ((List.range 4).all fun i => decide (sbFn v (i + 4) = 3)) && (List.range 4).all fun i => decide (sbFn v i ≠ 3)

/-- What a pin carries, by the codes of SB_SEL: a selection that R526 refuses leaves it off. -/
def State.sbCarries (s : State) (i : Nat) : Nat :=
  match sbFn s.pins.sbSel.toNat i with
  | 1 => if i < 2 then 1 else 0
  | 2 => 2
  | 3 => if s.pins.traceWhole && decide (s.quince.life = .service) then 3 else 0
  | _ => 0

/-- A fault of a pin's class holds FAULT# low (R524, R525): any cause, T_TRIP, overcurrent, or watchdog expiry and a failed recovery start. -/
def Pins.mirrors (p : Pins) (i : Nat) : Bool :=
  p.faultLow && p.causes.any fun c => match i % 4 with
    | 0 => true
    | 1 => decide (c = .trip)
    | 2 => decide (c = .overcurrent)
    | _ => decide (c = .watchdog ∨ c = .failedRecovery)

/-- The level that the module drives on a pin (R525, R526): none on a pin that is off, with MOD_RST# low or without VAUX. What the trace port sends
the spec does not say; while it is stopped, in STANDBY, its pins are low. -/
def State.sbOut (s : State) (i : Nat) : Option Bool :=
  if !s.pins.modRst || !s.pins.vaux then none
  else match s.sbCarries i with
  | 1 => some s.pins.tpHigh
  | 2 => some (!s.pins.mirrors i)
  | 3 => some (s.pins.traceOn && (Config.sbLevel s.now.toNat).getLsbD i)
  | _ => none

/-- SB_IN (R525): the level of each pin that is off, which the model does not know, and 0 for the others. -/
def State.sbIn (s : State) : Nat :=
  sumNat ((List.range 8).map fun i => if s.sbCarries i = 0 then 2 ^ i * b2n ((Config.sbLevel s.now.toNat).getLsbD i) else 0)

/-- What a register reads now. -/
def State.regRead (s : State) (g : Reg) : Nat :=
  let h := s.host
  let q := s.quince
  let p := s.pwr
  let c := s.sec
  match g with
  | .id => 0x4816 + 2 ^ 16 + 2 ^ 20 * b2n Config.variantE
  | .fwVersion => q.fwVersion.toNat
  | .fmtVer => 0x02 + 2 ^ 8 * (q.minorMax % 256) + 2 ^ 16 + 2 ^ 24
  | .fmtVer2 => 0x01 + 2 ^ 8 + 2 ^ 16 * 3
  | .serial i => (Config.serial i).toNat
  | .setupLock => b2n s.regs.lock
  | .discardCount => s.regs.discards.toNat
  | .discardLast => s.regs.discardLast.toNat
  | .hifReady => b2n h.cfgReady + 2 * b2n h.deviceReady + 4 * h.startPath.toNat
  | .hifLink => h.gen.toNat + 2 ^ 4 * h.width.toNat
  | .hifStatus => b2n h.mgmtBusy + 2 ^ 4 * h.longOp.toNat + 2 ^ 8 * h.longResult.toNat
  | .evLost => h.evLost.toNat
  | .descCap => 1
  | .sqBase r hi => half64 h.rings[r].sqBase.toNat hi
  | .cqBase r hi => half64 h.rings[r].cqBase.toNat hi
  | .ringCfg r =>
    let g := h.rings[r]
    g.sqLog2.toNat + 2 ^ 4 * g.cqLog2.toNat + 2 ^ 8 * g.kind.toNat + 2 ^ 10 * g.vec.toNat
  | .ringMod r => h.rings[r].modCount.toNat + 2 ^ 8 * h.rings[r].modUsec.toNat
  | .ringCtl r => b2n h.rings[r].enable
  | .ringStatus r => h.rings[r].statusWord
  | .ringJob r => (h.rings[r].jobId.getD 0).toNat
  | .ringCq r => h.rings[r].cqTail.toNat
  | .msix v k => h.msix[v].word k
  | .msixPba k => sumNat ((List.range 32).map fun i => if h' : 32 * k + i < 65 then 2 ^ i * b2n h.msix[32 * k + i].pend else 0)
  | .envPreset i => p.preset[i].toNat
  | .envCtl => b2n p.pinEn + 2 * b2n p.msgEn + 2 ^ 16 * p.hostCap.toNat
  | .envRamp => p.rampUp.toNat + 2 ^ 16 * p.shiftCap.toNat
  | .envStatus => s.envStatusWord
  | .freqStatus => p.fMod.toNat
  | .pwrState => p.st.code + 4 * b2n p.goal.isSome
  | .railLimit n => p.rails[n].iLim.toNat + 2 ^ 16 * p.rails[n].window.toNat
  | .vrbStatus => b2n p.busUp + 2 * b2n p.busFault + 4 * p.faultRail.toNat + 2 ^ 16 * p.nakCount.toNat
  | .balStatus => b2n (s.inJob && s.job.p.shift) + 2 * b2n p.borrower
  | .balCredit => p.lend.toNat + 2 ^ 16 * p.grant.toNat
  | .thermCfg => p.softC.toNat
  | .pairCfg => s.time.pairEn.toNat
  | .pairStatus => s.time.pairFormed.toNat
  | .timeCtl =>
    let b := s.time
    b.upPort.toNat + 2 ^ 8 * b.backupPort.toNat + 2 ^ 16 * b2n b.timeEn + 2 ^ 17 * b2n b.backupEn + 2 ^ 18 * b2n b.timeRoot
  | .timeStatus => s.time.statusWord
  | .sbCfg => s.pins.sbSel.toNat + 2 ^ 16 * s.pins.tpLog2.toNat + 2 ^ 22 * b2n s.pins.tpLockedOnly
  | .sbStatus => s.sbIn + 2 ^ 8 * b2n s.pins.sbErr + 2 ^ 9 * b2n s.pins.traceRefused + 2 ^ 10 * b2n s.pins.traceOn
  | .portCfg => s.fab.portEn.toNat
  | .levelCfg => s.fab.maxLevel.toNat
  | .moduleId => s.fab.modId.toNat
  | .fmRelay => s.fab.relayMod.toNat + 2 ^ 17 * b2n s.fab.relayEn
  | .classWrr => s.fab.w1.toNat + 2 ^ 8 * s.fab.w2.toNat + 2 ^ 16 * s.fab.w3.toNat
  | .c0Meter => s.fab.c0Limit.toNat
  | .rktStatus =>
    b2n s.fab.rktActive.isSome + 2 * b2n s.fab.rktStaged.isSome + 4 * b2n s.fab.rktAwait + 2 ^ 16 * ((s.fab.rktActive.getD []).length % 65536)
  | .portStatus i => s.fab.ports[i].statusWord
  | .portDelay i => s.fab.ports[i].delay.toNat
  | .tierStatus => b2n s.tiers.keysSet + 2 * b2n s.tiers.wipeStk + 4 * b2n s.tiers.wipeCap + 8 * b2n s.tiers.wipeCell
  | .stageFloors => s.mover.pFloor.toNat + 2 ^ 8 * s.mover.dFloor.toNat + 2 ^ 16 * s.mover.mFloor.toNat + 2 ^ 24 * b2n s.mover.floorErr
  | .eccCfg => s.tiers.ceLimit.toNat
  | .stackHealth => healthWord s.tiers.stkUnits.toList
  | .capHealth hi => half64 (healthWord s.tiers.devUnits.toList) hi
  | .errCount => s.tiers.ceTotal.toNat
  | .ueCount => s.tiers.ueTotal.toNat
  | .resArea => c.partnerGib.toNat
  | .flashImg => c.flashGb.toNat
  | .secStatus =>
    b2n (!c.units.isEmpty) + 2 * b2n c.exporting + 4 * b2n c.restoring + 8 * b2n c.flashSkipped + 16 * b2n c.imageFault +
      2 ^ 8 * ((c.flash.filter (·.complete)).length % 256)
  | .partnerStep hi => if hi then s.latched 0x60018 else half64 c.partnerStep.toNat false
  | .flashStep hi => if hi then s.latched 0x60020 else half64 c.flashStep.toNat false
  | .exportStep hi => if hi then s.latched 0x60028 else half64 c.exportStep.toNat false
  | .hostedSrc => c.hostedMod.toNat + 2 ^ 31 * b2n c.hostedValid
  | .hostedStep hi => if hi then s.latched 0x60038 else half64 c.hostedStep.toNat false
  | .departAdvice => c.departAdvice.toNat
  | .mbxReq hi => half64 q.reqAddr.toNat hi
  | .mbxRsp hi => half64 q.rspAddr.toNat hi
  | .mbxLen => q.reqLen.toNat + 2 ^ 16 * q.rspLen.toNat
  | .mbxCmd => 0
  | .mbxStatus => b2n q.mbxBusy + 2 * b2n q.mbxDone + 2 ^ 8 * q.mbxStatus.toNat + 2 ^ 16 * q.mbxDetail.toNat
  | .lifecycle => q.life.code + 4 * b2n q.keysEnrolled
  | .approval => s.approvalWord
  | .approvalNonce i => field ((q.approval.map (·.nonce.toNat)).getD 0) (32 * i + 31) (32 * i)
  | .startInfo =>
    q.failCount.toNat + 4 * b2n q.activeSlot + 8 * b2n q.pending + 16 * b2n q.commitRejected + 32 * b2n q.defaultCold + 2 ^ 16 * q.svnFloor.toNat
  | .wdogHist => (within s.now dayU q.wdTimes).length % 256
  | .mtime hi => if hi then s.latched 0x80000 else half64 s.now.toNat false
  | .tlmIndex => s.regs.tlmInstance.toNat + 2 ^ 16 * s.regs.tlmGroup.toNat
  | .tlmValue hi => if hi then s.latched 0x80018 else half64 (s.counter s.regs.tlmGroup.toNat s.regs.tlmInstance.toNat) false

/-- The whole 64-bit value behind a LO register whose HI word is latched (R544). -/
def State.wide (s : State) (g : Reg) : Option Nat :=
  match g with
  | .partnerStep false => some s.sec.partnerStep.toNat
  | .flashStep false => some s.sec.flashStep.toNat
  | .exportStep false => some s.sec.exportStep.toNat
  | .hostedStep false => some s.sec.hostedStep.toNat
  | .mtime false => some s.now.toNat
  | .tlmValue false => some (s.counter s.regs.tlmGroup.toNat s.regs.tlmInstance.toNat)
  | _ => none

/-! ### Access codes (R9) -/

/-- Masks of a register's RW, RWL, W1C and WO bits; every other bit is RO or reserved. -/
structure Access where
  rw : Nat
  rwl : Nat
  w1c : Nat
  wo : Nat
  deriving DecidableEq, Repr

/-- The access codes of a register's field table. -/
def Reg.access (g : Reg) : Access :=
  let rw := fun (m : Nat) => ({ rw := m, rwl := 0, w1c := 0, wo := 0 } : Access)
  let rwl := fun (m : Nat) => ({ rw := 0, rwl := m, w1c := 0, wo := 0 } : Access)
  let w1c := fun (m : Nat) => ({ rw := 0, rwl := 0, w1c := m, wo := 0 } : Access)
  match g with
  | .setupLock => rwl 1
  | .discardCount => w1c 0xFFFFFFFF
  | .evLost => w1c 0xFFFFFFFF
  | .sqBase _ hi => rw (if hi then 0xFFFFFFFF else 0xFFFFF000)
  | .cqBase _ hi => rw (if hi then 0xFFFFFFFF else 0xFFFFF000)
  | .ringCfg _ => rw 0x1FFFF
  | .ringMod _ => rw 0x3FFFF
  | .ringCtl _ => rw 1
  | .msix _ k => rw (if k = 3 then 1 else 0xFFFFFFFF)
  | .envPreset _ => rwl 0xFFFF
  | .envCtl => { rw := 0xFFFF0000, rwl := 3, w1c := 0, wo := 0 }
  | .envRamp => rwl 0xFFFFFFFF
  | .railLimit _ => rwl 0xFFFF
  | .vrbStatus => w1c 2
  | .thermCfg => rwl 0xFF
  | .pairCfg => rwl 0xFFFFFFFF
  | .timeCtl => rw 0x71F1F
  | .timeStatus => w1c 0xA
  | .sbCfg => rwl 0x7FFFFF
  | .sbStatus => w1c 0x300
  | .portCfg => rwl 0xFFFFFFFF
  | .levelCfg => rwl 3
  | .moduleId => rwl 0x1FFFF
  | .fmRelay => rwl 0x3FFFF
  | .classWrr => rw 0xFFFFFF
  | .c0Meter => rwl 0xFF
  | .portStatus _ => w1c 0x20
  | .stageFloors => rwl 0xFFFFFF
  | .eccCfg => rwl 0xFFFF
  | .errCount => w1c 0xFFFFFFFF
  | .ueCount => w1c 0xFFFFFFFF
  | .resArea => rwl 0xFFF
  | .flashImg => rwl 0xFFFF
  | .secStatus => w1c 0x18
  | .departAdvice => w1c 0x3F
  | .mbxReq hi => rw (if hi then 0xFFFFFFFF else 0xFFFFFFC0)
  | .mbxRsp hi => rw (if hi then 0xFFFFFFFF else 0xFFFFFFC0)
  | .mbxLen => rw 0xFFFFFFFF
  | .mbxCmd => { rw := 0, rwl := 0, w1c := 0, wo := 0xFF }
  | .mbxStatus => w1c 2
  | .startInfo => { rw := 0x20, rwl := 0, w1c := 0x10, wo := 0 }
  | .tlmIndex => rw 0x1F0FFF
  | _ => rw 0

/-- The bits that a write sets while the lock is set or clear (R9). -/
def Access.open_ (a : Access) (lock : Bool) : Nat := a.rw ||| (if lock then 0 else a.rwl)

/-- The bits of a mask within 32 bits. -/
def notMask (m : Nat) : Nat := 0xFFFFFFFF ^^^ (m % 2 ^ 32)

/-- The value of a register after a write of w where it reads cur (R9). -/
def Access.merge (a : Access) (lock : Bool) (cur w : Nat) : Nat :=
  let o := a.open_ lock
  (((cur &&& notMask o) &&& notMask (a.w1c &&& w)) ||| (w &&& o)) % 2 ^ 32

/-- The write is discarded in whole or in part: an RO or reserved bit, or a locked field, with another value than it reads (R543). -/
def Access.drops (a : Access) (lock : Bool) (cur w : Nat) : Bool :=
  decide ((cur ^^^ w) &&& notMask (a.open_ lock ||| a.w1c ||| a.wo) ≠ 0)

end Sys2Proof.Machine
end

