-- ==== Sys2Proof/Machine/RegRows.lean ====
section
/-! DEFINITION. Meanings of the rows of the register map: writes and their access codes, the set-up lock, PORT_CFG, latched reads, and the loss
and return of the host link (R9, R11, R12, R491, R526, R541 to R549). -/
namespace Sys2Proof.Machine

/-- Replaces one word of a 64-bit register pair. -/
def setHalf (cur : DWord) (hi : Bool) (v : Nat) : DWord :=
  BitVec.ofNat 64 (if hi then cur.toNat % 2 ^ 32 + 2 ^ 32 * v else cur.toNat / 2 ^ 32 * 2 ^ 32 + v)

/-! ### Registers whose write does more than store (R526, R547) -/

/-- PORT_EN is written: a bit that clears sends DEPART blocks where the port is up and disables it; a bit that sets begins bring-up, where
the transmitters may be lit and the device does not run on the recovery image (R352, R353, R360, R513). -/
def State.setPortEn (s : State) (v : Word) : State :=
  let old := s.fab.portEn
  let s := s.upFab fun b => { b with portEn := v }
  (List.finRange 32).foldl (fun (s : State) (p : Fin 32) =>
    match old.getLsbD p.val, v.getLsbD p.val with
    | true, false =>
      let up := decide (s.fab.ports[p].st = .up)
      (s.upPort p fun q => { q with st := .disabled, level := 0, departSent := up }).vacate p
    | false, true =>
      if s.lit && !s.quince.recoveryRuns then s.upPort p fun q => { q with st := .training, trainSince := s.now }
      else if s.quince.recoveryRuns then s
      else s.upPort p fun q => { q with st := .dark }
    | _, _ => s) s

/-- The floors of STAGE_FLOORS that the lock takes up: refused when they sum to more than 128 or one is below 4 (R274).
(DEDUCED, log entry 125) -/
def Mover.lockFloors (m : Mover) : Mover :=
  let p := m.pFloor.toNat
  let d := m.dFloor.toNat
  let k := m.mFloor.toNat
  if p + d + k > 128 ∨ p < 4 ∨ d < 4 ∨ k < 4 then { m with floorP := 64, floorD := 16, floorM := 8, floorErr := true }
  else { m with floorP := p, floorD := d, floorM := k }

/-- The lock is set (R274, R547): floors, image areas, then a retrain of every port that is up and exchanged other values.
(DEDUCED, log entry 120) -/
def State.setLock (s : State) : State :=
  let s := s.upRegs fun g => { g with lock := true }
  let s := s.upMover (·.lockFloors)
  let s := s.upSec fun c => { c with areaGib := min 2048 c.partnerGib.toNat, imgGb := c.flashGb.toNat }
  (List.finRange 32).foldl (fun (s : State) (p : Fin 32) =>
    let q := s.fab.ports[p]
    s.when (decide (q.st = .up) && (decide (q.sentId ≠ s.fab.modId) || decide (q.sentLevel ≠ s.fab.offer))) fun s => s.retrain p) s

/-- TIME_CTL is written (R80, R82, R83): setting TIME_ROOT locks and clearing it unlocks; another upstream begins anew. Where clearing TIME_ROOT
unlocks, no upstream was lost, and ARG0 of TIME_UNLOCKED, "port of the lost upstream" (R488), is the upstream port that the same write sets:
the model's choice.
(DEDUCED, log entry 22; DEDUCED, log entry 144) -/
def State.setTimeCtl (s : State) (v : Nat) : State :=
  let b := s.time
  let s := s.upTime fun b =>
    { b with upPort := BitVec.ofNat 5 (field v 4 0), backupPort := BitVec.ofNat 5 (field v 12 8), timeEn := bit v 16, backupEn := bit v 17
             timeRoot := bit v 18 }
  let s := s.when (decide (s.time.upstream ≠ b.upstream) || (s.time.timeEn && !b.timeEn)) fun s =>
    s.upTime fun b => { b with delayReq := none, msgsSinceDelay := 1024, goodMsgs := 0, lastMsgAt := s.now }
  let s := s.when (s.time.timeRoot || !s.time.timeEn) fun s => s.upTime fun b => { b with corr := .none }
  let s := s.when (s.time.timeRoot && !b.timeRoot) fun s =>
    (s.upTime fun b => { b with locked := true, unlockedAt := none }).when (!b.locked) State.pulseSkip
  s.when (b.timeRoot && !s.time.timeRoot) fun s => s.unlock s.time.upstream s.time.onBackup

/-- SB_CFG is written: the conflicts of R526 decide what the pins carry.
(DEDUCED, log entry 122) -/
def State.setSb (s : State) (v : Nat) : State :=
  let service := decide (s.quince.life = .service)
  s.upPins fun p =>
    let q : Pins := { p with sbSel := BitVec.ofNat 16 (field v 15 0), tpLog2 := BitVec.ofNat 6 (field v 21 16), tpLockedOnly := bit v 22 }
    let strayPulse := (List.range 6).any fun i => decide (sbFn v (i + 2) = 1)
    let traces := (List.range 4).map fun i => decide (sbFn v (i + 4) = 3)
    let strayTrace := ((List.range 4).any fun i => decide (sbFn v i = 3)) || (traces.any id && !traces.all id)
    let whole := traces.all id && !strayTrace
    let same := decide (q.tpPeriod = p.tpPeriod) && decide (q.pulseOn 0 = p.pulseOn 0) && decide (q.pulseOn 1 = p.pulseOn 1)
    { q with
      sbErr := q.sbErr || strayPulse || strayTrace
      traceRefused := q.traceRefused || (whole && !service)
      traceOn := whole && service
      tpHigh := q.tpHigh && same && (!q.tpLockedOnly || s.time.locked)
      tpLast := if same then q.tpLast else BitVec.ofNat 64 (s.now.toNat / q.tpPeriod) }

/-- C0_LIMIT is written: the bucket of each port keeps its level (R380, R547). -/
def Fabric.setC0 (b : Fabric) (now : DWord) (v : Byte) : Fabric :=
  { b with ports := b.ports.map fun q => { q with c0Level := b.c0Now q now, c0At := now }, c0Limit := v }

/-- A word of an MSI-X table entry is written: unmasking a vector whose pending bit is set sends it (R465).
(DEDUCED, log entry 112) -/
def HostIf.setMsix (h : HostIf) (v : Fin 65) (k w : Nat) : HostIf :=
  let e := h.msix[v]
  match k with
  | 0 => { h with msix := updV h.msix v fun e => { e with addr := setHalf e.addr false w } }
  | 1 => { h with msix := updV h.msix v fun e => { e with addr := setHalf e.addr true w } }
  | 2 => { h with msix := updV h.msix v fun e => { e with data := BitVec.ofNat 32 w } }
  | _ =>
    if !bit w 0 && e.pend then
      ({ h with msix := updV h.msix v fun e => { e with masked := false, pend := false } } : HostIf).sendVector v.val
    else { h with msix := updV h.msix v fun e => { e with masked := bit w 0 } }

/-- MBX_CMD is written (R366, R490, R498): codes 0x01 and 0x03 read the request buffer, which their own commands carry.
(DEDUCED, log entry 124) -/
def State.setMbxCmd (s : State) (v : Nat) : State :=
  match v % 256 with
  | 0x01 => s
  | 0x02 => s.mbxActivate
  | 0x03 => s
  | 0x04 => s.mbxCancel
  | _ => s.mailbox fun s => s.mbxDone stVersion 0

/-! ### One register (R9, R492, R543, R547) -/

/-- Changes the set-up of a ring that is DISABLED; the flag says that the write is discarded and counted (R492). -/
def State.ringSetup (s : State) (r : Fin 64) (drop : Bool) (f : Ring → Ring) : State × Bool :=
  if s.host.rings[r].st = .disabled then (s.upRing r f, drop) else (s, true)

/-- What a write does once its access codes have made the value v of the word w written: the fields take v. -/
def State.store (s : State) (g : Reg) (v w : Nat) : State :=
  match g with
  | .setupLock => s.when (bit v 0 && !s.regs.lock) State.setLock
  | .discardCount => s.upRegs fun g => { g with discards := BitVec.ofNat 32 v }
  | .evLost => s.upHost fun h => { h with evLost := BitVec.ofNat 32 v }
  | .ringCtl r => if bit v 0 then s.ringOn r else s.ringOff r
  | .msix i k => s.upHost fun h => h.setMsix i k v
  | .envPreset i => s.changeEnv fun p => { p with preset := setV p.preset i (BitVec.ofNat 16 v) }
  | .envCtl => s.changeEnv fun p => { p with pinEn := bit v 0, msgEn := bit v 1, hostCap := BitVec.ofNat 16 (v / 2 ^ 16) }
  | .envRamp => s.changeEnv fun p => { p with rampUp := BitVec.ofNat 16 (v % 2 ^ 16), shiftCap := BitVec.ofNat 16 (v / 2 ^ 16) }
  | .railLimit n => s.upPwr fun p => { p with rails := updV p.rails n fun r => { r with iLim := BitVec.ofNat 16 (v % 2 ^ 16) } }
  | .vrbStatus => s.upPwr fun p => { p with busFault := bit v 1 }
  | .thermCfg => s.upPwr fun p => { p with softC := BitVec.ofNat 8 v }
  | .pairCfg => s.upTime fun b => { b with pairEn := BitVec.ofNat 32 v }
  | .timeCtl => s.setTimeCtl v
  | .timeStatus => s.upTime fun b => { b with refLost := bit v 1, upLost := bit v 3 }
  | .sbCfg => s.setSb v
  | .sbStatus => s.upPins fun p => { p with sbErr := bit v 8, traceRefused := bit v 9 }
  | .portCfg => s.setPortEn (BitVec.ofNat 32 v)
  | .levelCfg => s.upFab fun b => { b with maxLevel := BitVec.ofNat 2 v }
  | .moduleId => s.upFab fun b => { b with modId := BitVec.ofNat 17 v }
  | .fmRelay => s.upFab fun b => { b with relayMod := BitVec.ofNat 17 v, relayEn := bit v 17 }
  | .classWrr => s.upFab fun b => { b with w1 := BitVec.ofNat 8 v, w2 := BitVec.ofNat 8 (v / 2 ^ 8), w3 := BitVec.ofNat 8 (v / 2 ^ 16) }
  | .c0Meter => s.upFab fun b => b.setC0 s.now (BitVec.ofNat 8 v)
  | .portStatus p => s.upPort p fun q => { q with lost := bit v 5 }
  | .stageFloors =>
    s.upMover fun m => { m with pFloor := BitVec.ofNat 8 v, dFloor := BitVec.ofNat 8 (v / 2 ^ 8), mFloor := BitVec.ofNat 8 (v / 2 ^ 16) }
  | .eccCfg => s.upTiers fun t => { t with ceLimit := BitVec.ofNat 16 v }
  | .errCount => s.upTiers fun t => { t with ceTotal := BitVec.ofNat 32 v }
  | .ueCount => s.upTiers fun t => { t with ueTotal := BitVec.ofNat 32 v }
  | .resArea => s.upSec fun c => { c with partnerGib := BitVec.ofNat 12 v }
  | .flashImg => s.upSec fun c => { c with flashGb := BitVec.ofNat 16 v }
  | .secStatus => s.upSec fun c => { c with flashSkipped := bit v 3, imageFault := bit v 4 }
  | .departAdvice => s.upSec fun c => { c with departAdvice := BitVec.ofNat 6 v }
  | .mbxReq hi => s.upQuince fun q => { q with reqAddr := setHalf q.reqAddr hi v }
  | .mbxRsp hi => s.upQuince fun q => { q with rspAddr := setHalf q.rspAddr hi v }
  | .mbxLen => s.upQuince fun q => { q with reqLen := BitVec.ofNat 16 v, rspLen := BitVec.ofNat 16 (v / 2 ^ 16) }
  | .mbxCmd => s.setMbxCmd w
  | .mbxStatus => s.upQuince fun q => { q with mbxDone := bit v 1 }
  | .startInfo => s.upQuince fun q => { q with commitRejected := bit v 4, defaultCold := bit v 5 }
  | .tlmIndex => s.upRegs fun g => { g with tlmInstance := BitVec.ofNat 12 v, tlmGroup := BitVec.ofNat 5 (v / 2 ^ 16) }
  | _ => s

/-- Writes one word to a register. The flag says that something of the write was discarded (R543); SETUP_LOCK waits for DEVICE_READY (R546). -/
def State.writeReg (s : State) (g : Reg) (w : Nat) : State × Bool :=
  let a := g.access
  let cur := s.regRead g
  let v := a.merge s.regs.lock cur w
  let drop := a.drops s.regs.lock cur w
  match g with
  | .sqBase r hi => s.ringSetup r drop fun x => { x with sqBase := setHalf x.sqBase hi v }
  | .cqBase r hi => s.ringSetup r drop fun x => { x with cqBase := setHalf x.cqBase hi v }
  | .ringCfg r => s.ringSetup r drop fun x =>
    { x with sqLog2 := BitVec.ofNat 4 v, cqLog2 := BitVec.ofNat 4 (v / 2 ^ 4), kind := BitVec.ofNat 2 (v / 2 ^ 8), vec := BitVec.ofNat 7 (v / 2 ^ 10) }
  | .ringMod r => s.ringSetup r drop fun x => { x with modCount := BitVec.ofNat 8 v, modUsec := BitVec.ofNat 10 (v / 2 ^ 8) }
  | .setupLock => if s.host.deviceReady then (s.store .setupLock v w, drop) else (s, true)
  | g => if a.open_ s.regs.lock ||| a.w1c ||| a.wo = 0 then (s, drop) else (s.store g v w, drop)

/-! ### Requests (R541 to R543, R545) -/

/-- Writes the words of a request to BAR0 in ascending address order (R542). The flag says that something was discarded. -/
def State.writeWords (off data : Nat) : Nat → State → State × Bool
  | 0, s => (s, false)
  | n + 1, s =>
    let (s, d) : State × Bool := match (if s.decodes off then regOf off else none) with
      | some g => s.writeReg g (data % 2 ^ 32)
      | none => (s, true)
    let (s, d') := State.writeWords (off + 4) (data / 2 ^ 32) n s
    (s, d || d')

/-- A write request to BAR0 of one or two words: counted once when something of it is discarded (R543). -/
def State.writeBar0 (s : State) (off data words : Nat) : State :=
  if !s.host.linkUp then s
  else
    let (s, d) := State.writeWords off data words s
    s.when d fun s => s.discard false off

/-- A write to BAR2: the doorbells of ring i stand at i × 0x1000, and nothing else decodes (R469, R478). -/
def State.writeBar2 (s : State) (off data : Nat) : State :=
  if off ≥ 0x40000 then s.hostWriteAt true off fun s => s.discard true off
  else
    let r : Fin 64 := Fin.ofNat _ (off / 0x1000)
    let v := BitVec.ofNat 32 data
    match off % 0x1000 with
    | 0 => s.doorbell r 0 v fun x g => { g with sqTail := x, tailNew := true }
    | 4 => s.doorbell r 4 v fun x g => { g with headWritten := x, headNew := true }
    | _ => s.hostWriteAt true off fun s => s.discard true off

/-- Words of a write that R541 allows: 4 B with its four byte enables, or 8 B aligned to 8 B with its eight; none for another. -/
def writeSize (off size be : Nat) : Option Nat :=
  if size = 4 ∧ be = 0xF ∧ off % 4 = 0 then some 1
  else if size = 8 ∧ be = 0xFF ∧ off % 8 = 0 then some 2
  else none

/-- REGISTER_WRITE (R9, R12, R541 to R543, R545): a write request of the host. While the link is down none arrives. An 8 B write to BAR2
writes both doorbells of a ring.
(DEDUCED, log entry 123) -/
def execRegisterWrite (bar2 : Bool) (offset : BitVec 24) (size : BitVec 4) (be : Byte) (data : DWord) (s : State) : Res :=
  let off := offset.toNat
  if !s.host.linkUp then .next s
  else match writeSize off size.toNat be.toNat with
  | none => .next (s.discard bar2 off)
  | some n =>
    if !bar2 then .next (s.writeBar0 off data.toNat n)
    else if n = 1 then .next (s.writeBar2 off (data.toNat % 2 ^ 32))
    else if s.host.deviceReady && decide (off < 0x40000) && decide (off % 0x1000 = 0) then
      let t := (s.writeBar2 off (data.toNat % 2 ^ 32)).writeBar2 (off + 4) (data.toNat / 2 ^ 32)
      .next (t.upRegs fun g => if g.discards = s.regs.discards then g else { s.regs with discards := satAdd s.regs.discards 1, discardLast := BitVec.ofNat 25 (off + 2 ^ 24) })
    else .next (s.discard true off)

/-- SETUP_LOCK (R11, R542, R546, R547). -/
def execSetupLock (v : Word) (s : State) : Res :=
  .next (if !s.host.linkUp then s else if s.host.deviceReady then s.writeBar0 0x20 v.toNat 1 else s.discard false 0x20)

/-- PORT_CFG (R352, R360, R547). -/
def execPortCfg (v : Word) (s : State) : Res := .next (s.writeBar0 0x40000 v.toNat 1)

/-- A 4 B read of BAR0 (R544, R545): a LO register latches its HI word at the same instant; an offset that does not decode, or that the index does not
name, reads 0. -/
def State.readWord (s : State) (off : Nat) : Nat × State :=
  match if s.decodes off then regOf off else none with
  | none => (0, s)
  | some r => match s.wide r with
    | some v => (v % 2 ^ 32, s.upRegs fun g => { g with latches := putKV off (BitVec.ofNat 32 (v / 2 ^ 32)) g.latches })
    | none => (s.regRead r, s)

/-- LO_REGISTER_READ (R466, R478, R541, R544, R545, R549): a read of 4 B, or of 8 B aligned to 8, whose two words are of one instant. A doorbell page
reads 0. While the link is down no read arrives. -/
def execLoRegisterRead (offset : BarRead) (s : State) : Res :=
  if !s.host.linkUp then .next s
  else if offset.bar2 then .next (s.upRegs fun g => { g with readData := 0 })
  else
    let (lo, s) := s.readWord offset.offset.toNat
    let (hi, s) := if offset.size = 8#4 then s.readWord (offset.offset.toNat + 4) else (0, s)
    .next (s.upRegs fun g => { g with readData := BitVec.ofNat 64 (lo + 2 ^ 32 * hi) })

/-! ### The host link (R491) -/

/-- HOST_LINK_DOWN (R444, R491): jobs run on; completion writes fail and are counted, and an export pauses with its slot held. -/
def execHostLinkDown (s : State) : Res := .next (s.upHost fun h => { h with linkUp := false })

/-- HOST_LINK_UP (R472, R491): the link returns, and every ring that lost a completion write is in FAULT. -/
def execHostLinkUp (s : State) : Res :=
  if s.host.linkUp || !s.host.cfgReady || decide (s.pwr.st = .standby) then .next s
  else
    let s := s.upHost fun h => { h with linkUp := true }
    .next ((List.finRange 64).foldl (fun s r =>
      s.when s.host.rings[r].lostWrite fun s => (s.upRing r fun g => { g with lostWrite := false }).ringFault r 5) s)

end Sys2Proof.Machine
end

