-- ==== Sys2Proof/Machine/Dispatch.lean ====
section
/-! DEFINITION. The one dispatch: an arm per command, each a direct call of its meaning. -/
namespace Sys2Proof.Machine

/-- What a command does to everything but the queue. -/
def exec (i : Instr) (s : State) : Host.Outcome State Fault Refusal :=
  match i with
  | .droopStretch c overLimit => Sys2Proof.Machine.execDroopStretch c overLimit s
  | .droopResponseEnd c => Sys2Proof.Machine.execDroopResponseEnd c s
  | .beacon obs => Sys2Proof.Machine.execBeacon obs s
  | .referenceLoss => Sys2Proof.Machine.execReferenceLoss s
  | .holdoverExit => Sys2Proof.Machine.execHoldoverExit s
  | .time p m tRx => Sys2Proof.Machine.execTime p m tRx s
  | .timeMsgSend => Sys2Proof.Machine.execTimeMsgSend s
  | .delayReqSend => Sys2Proof.Machine.execDelayReqSend s
  | .delayReq p tTx seqD tRx tTxResp => Sys2Proof.Machine.execDelayReq p tTx seqD tRx tTxResp s
  | .delayResp p tRxReq tTxResp seqD tRx => Sys2Proof.Machine.execDelayResp p tRxReq tTxResp seqD tRx s
  | .upstreamLost => Sys2Proof.Machine.execUpstreamLost s
  | .unlockTimeout => Sys2Proof.Machine.execUnlockTimeout s
  | .watchdogExpiry => Sys2Proof.Machine.execWatchdogExpiry s
  | .intervalCounterFault => Sys2Proof.Machine.execIntervalCounterFault s
  | .queueWrite q w => Sys2Proof.Machine.execQueueWrite q w s
  | .queueWordVisible q => Sys2Proof.Machine.execQueueWordVisible q s
  | .queueRead q => Sys2Proof.Machine.execQueueRead q s
  | .queueEntryReturn q => Sys2Proof.Machine.execQueueEntryReturn q s
  | .joinChannelTakeup ch => Sys2Proof.Machine.execJoinChannelTakeup ch s
  | .joinCreditReturn ch => Sys2Proof.Machine.execJoinCreditReturn ch s
  | .regionRunStart r => Sys2Proof.Machine.execRegionRunStart r s
  | .progEnd c => Sys2Proof.Machine.execProgEnd c s
  | .progLoad c => Sys2Proof.Machine.execProgLoad c s
  | .frameLoadDone c ue => Sys2Proof.Machine.execFrameLoadDone c ue s
  | .progSwitch c => Sys2Proof.Machine.execProgSwitch c s
  | .switchDone c => Sys2Proof.Machine.execSwitchDone c s
  | .progArgs c => Sys2Proof.Machine.execProgArgs c s
  | .progStart c => Sys2Proof.Machine.execProgStart c s
  | .progSignal c => Sys2Proof.Machine.execProgSignal c s
  | .progAwait c => Sys2Proof.Machine.execProgAwait c s
  | .awaitTokenReady c => Sys2Proof.Machine.execAwaitTokenReady c s
  | .progRebind c => Sys2Proof.Machine.execProgRebind c s
  | .progLoop c => Sys2Proof.Machine.execProgLoop c s
  | .progMark c => Sys2Proof.Machine.execProgMark c s
  | .regionRunComplete r => Sys2Proof.Machine.execRegionRunComplete r s
  | .frameFaultReload c => Sys2Proof.Machine.execFrameFaultReload c s
  | .matrixTileProduct c => Sys2Proof.Machine.execMatrixTileProduct c s
  | .partialLoad c => Sys2Proof.Machine.execPartialLoad c s
  | .tileDrainDone c => Sys2Proof.Machine.execTileDrainDone c s
  | .nestEnd c => Sys2Proof.Machine.execNestEnd c s
  | .nestResume c => Sys2Proof.Machine.execNestResume c s
  | .cellStoreUe c => Sys2Proof.Machine.execCellStoreUe c s
  | .ftqDeliver c k => Sys2Proof.Machine.execFtqDeliver c k s
  | .ringTileArrived c k => Sys2Proof.Machine.execRingTileArrived c k s
  | .ringSlotRelease c base => Sys2Proof.Machine.execRingSlotRelease c base s
  | .creditReturnArrival c k => Sys2Proof.Machine.execCreditReturnArrival c k s
  | .vectorTile c => Sys2Proof.Machine.execVectorTile c s
  | .indexMaskTile c => Sys2Proof.Machine.execIndexMaskTile c s
  | .compressRows c => Sys2Proof.Machine.execCompressRows c s
  | .expandRows c => Sys2Proof.Machine.execExpandRows c s
  | .reduceInputTile c => Sys2Proof.Machine.execReduceInputTile c s
  | .recordBlockOutput c => Sys2Proof.Machine.execRecordBlockOutput c s
  | .tableTile c => Sys2Proof.Machine.execTableTile c s
  | .transformTile c => Sys2Proof.Machine.execTransformTile c s
  | .outlierMacTile c => Sys2Proof.Machine.execOutlierMacTile c s
  | .ringSlotDrained c full => Sys2Proof.Machine.execRingSlotDrained c full s
  | .placementRebind => Sys2Proof.Machine.execPlacementRebind s
  | .moveAllocate obj cause => Sys2Proof.Machine.execMoveAllocate obj cause s
  | .moveCopyDone obj unreadable newHomeUe => Sys2Proof.Machine.execMoveCopyDone obj unreadable newHomeUe s
  | .flipNotice unit obj => Sys2Proof.Machine.execFlipNotice unit obj s
  | .stubArrival obj gen a => Sys2Proof.Machine.execStubArrival obj gen a s
  | .forwardAck obj => Sys2Proof.Machine.execForwardAck obj s
  | .drainedMsg unit obj => Sys2Proof.Machine.execDrainedMsg unit obj s
  | .retireConfirm obj => Sys2Proof.Machine.execRetireConfirm obj s
  | .shedReply p k r => Sys2Proof.Machine.execShedReply p k r s
  | .prefetchEntryBegin => Sys2Proof.Machine.execPrefetchEntryBegin s
  | .prefetchRecordWrite entry ue => Sys2Proof.Machine.execPrefetchRecordWrite entry ue s
  | .writeBackRead entry => Sys2Proof.Machine.execWriteBackRead entry s
  | .stagingGrant => Sys2Proof.Machine.execStagingGrant s
  | .stagingBufferReturn b => Sys2Proof.Machine.execStagingBufferReturn b s
  | .stagingBufferUe b => Sys2Proof.Machine.execStagingBufferUe b s
  | .patrolScrub l corrected => Sys2Proof.Machine.execPatrolScrub l corrected s
  | .correctedError l => Sys2Proof.Machine.execCorrectedError l s
  | .memoryUe l feeds => Sys2Proof.Machine.execMemoryUe l feeds s
  | .tierWipeDone t => Sys2Proof.Machine.execTierWipeDone t s
  | .retentionWrite => Sys2Proof.Machine.execRetentionWrite s
  | .stage4Begin => Sys2Proof.Machine.execStage4Begin s
  | .sumsqDone => Sys2Proof.Machine.execSumsqDone s
  | .updatePassStart => Sys2Proof.Machine.execUpdatePassStart s
  | .medlarUnit k => Sys2Proof.Machine.execMedlarUnit k s
  | .rowWindowBlock obj => Sys2Proof.Machine.execRowWindowBlock obj s
  | .outboxHandoff obj => Sys2Proof.Machine.execOutboxHandoff obj s
  | .outboxRelease obj => Sys2Proof.Machine.execOutboxRelease obj s
  | .stage5End => Sys2Proof.Machine.execStage5End s
  | .contributionSend h payload => Sys2Proof.Machine.execContributionSend h payload s
  | .tileCloseTimer owner tensor tile => Sys2Proof.Machine.execTileCloseTimer owner tensor tile s
  | .integritySend => Sys2Proof.Machine.execIntegritySend s
  | .integrity p k => Sys2Proof.Machine.execIntegrity p k s
  | .portUp p x => Sys2Proof.Machine.execPortUp p x s
  | .portBringupRetry p => Sys2Proof.Machine.execPortBringupRetry p s
  | .portRetrain p => Sys2Proof.Machine.execPortRetrain p s
  | .retrainTimeout p => Sys2Proof.Machine.execRetrainTimeout p s
  | .idleBlock p w => Sys2Proof.Machine.execIdleBlock p w s
  | .linkReplay p => Sys2Proof.Machine.execLinkReplay p s
  | .linkAck p => Sys2Proof.Machine.execLinkAck p s
  | .partnerLost p cause => Sys2Proof.Machine.execPartnerLost p cause s
  | .departBlocksReceived p => Sys2Proof.Machine.execDepartBlocksReceived p s
  | .egressSend p => Sys2Proof.Machine.execEgressSend p s
  | .packetForward p k => Sys2Proof.Machine.execPacketForward p k s
  | .load p k => Sys2Proof.Machine.execLoad p k s
  | .store p k => Sys2Proof.Machine.execStore p k s
  | .atomic p k => Sys2Proof.Machine.execAtomic p k s
  | .reduce p k => Sys2Proof.Machine.execReduce p k s
  | .mcastStore p k => Sys2Proof.Machine.execMcastStore p k s
  | .resp p k => Sys2Proof.Machine.execResp p k s
  | .lineUpdate line => Sys2Proof.Machine.execLineUpdate line s
  | .requestRetry dst seq => Sys2Proof.Machine.execRequestRetry dst seq s
  | .requestTimeout dst seq => Sys2Proof.Machine.execRequestTimeout dst seq s
  | .teardown p k => Sys2Proof.Machine.execTeardown p k s
  | .envelope p k => Sys2Proof.Machine.execEnvelope p k s
  | .envelopeEffective => Sys2Proof.Machine.execEnvelopeEffective s
  | .credit p k => Sys2Proof.Machine.execCredit p k s
  | .creditRoundStart pTarget pCore => Sys2Proof.Machine.execCreditRoundStart pTarget pCore s
  | .creditRoundVoid => Sys2Proof.Machine.execCreditRoundVoid s
  | .creditResultTimeout => Sys2Proof.Machine.execCreditResultTimeout s
  | .vrbFrame reply => Sys2Proof.Machine.execVrbFrame reply s
  | .currantEval means => Sys2Proof.Machine.execCurrantEval means s
  | .dieCapStep d => Sys2Proof.Machine.execDieCapStep d s
  | .railOvercurrent d => Sys2Proof.Machine.execRailOvercurrent d s
  | .monitorRingMeasure slow => Sys2Proof.Machine.execMonitorRingMeasure slow s
  | .freqStepStage c => Sys2Proof.Machine.execFreqStepStage c s
  | .clusterCapRelease c => Sys2Proof.Machine.execClusterCapRelease c s
  | .envStepChange code => Sys2Proof.Machine.execEnvStepChange code s
  | .fmodEval drawOver => Sys2Proof.Machine.execFmodEval drawOver s
  | .thermalSoft x temp draw => Sys2Proof.Machine.execThermalSoft x temp draw s
  | .thermalCeilingStep => Sys2Proof.Machine.execThermalCeilingStep s
  | .thermalHard x temp => Sys2Proof.Machine.execThermalHard x temp s
  | .thermalTrip x temp => Sys2Proof.Machine.execThermalTrip x temp s
  | .enterParked a => Sys2Proof.Machine.execEnterParked a s
  | .enterStandby a => Sys2Proof.Machine.execEnterStandby a s
  | .returnActive a => Sys2Proof.Machine.execReturnActive a s
  | .parkDone => Sys2Proof.Machine.execParkDone s
  | .unparkDone => Sys2Proof.Machine.execUnparkDone s
  | .standbyEntryDone => Sys2Proof.Machine.execStandbyEntryDone s
  | .standbyExitDone => Sys2Proof.Machine.execStandbyExitDone s
  | .partnerTransferDone => Sys2Proof.Machine.execPartnerTransferDone s
  | .flashTransferDone => Sys2Proof.Machine.execFlashTransferDone s
  | .embeddingBaseDone obj => Sys2Proof.Machine.execEmbeddingBaseDone obj s
  | .restoreReadDone sourceOk image => Sys2Proof.Machine.execRestoreReadDone sourceOk image s
  | .handoverImageDone member => Sys2Proof.Machine.execHandoverImageDone member s
  | .perstDeassert gen width => Sys2Proof.Machine.execPerstDeassert gen width s
  | .functionLevelReset => Sys2Proof.Machine.execFunctionLevelReset s
  | .sqTail r v => Sys2Proof.Machine.execSqTail r v s
  | .cqHead r v => Sys2Proof.Machine.execCqHead r v s
  | .descriptorFetch r desc => Sys2Proof.Machine.execDescriptorFetch r desc s
  | .msixModTimer r => Sys2Proof.Machine.execMsixModTimer r s
  | .nop r => Sys2Proof.Machine.execNop r s
  | .fabricTables r route sets => Sys2Proof.Machine.execFabricTables r route sets s
  | .warmRestart a => Sys2Proof.Machine.execWarmRestart a s
  | .coldRestart a => Sys2Proof.Machine.execColdRestart a s
  | .lifecycleChange a target => Sys2Proof.Machine.execLifecycleChange a target s
  | .sanitise a => Sys2Proof.Machine.execSanitise a s
  | .firmwareCommit a package => Sys2Proof.Machine.execFirmwareCommit a package s
  | .flashFormat a => Sys2Proof.Machine.execFlashFormat a s
  | .longOpDone => Sys2Proof.Machine.execLongOpDone s
  | .fmMsg r payload => Sys2Proof.Machine.execFmMsg r payload s
  | .jobSetup r block => Sys2Proof.Machine.execJobSetup r block s
  | .stepDesc r input => Sys2Proof.Machine.execStepDesc r input s
  | .stepSize r rcd => Sys2Proof.Machine.execStepSize r rcd s
  | .hold r => Sys2Proof.Machine.execHold r s
  | .exportData r => Sys2Proof.Machine.execExportData r s
  | .fabricOp r data => Sys2Proof.Machine.execFabricOp r data s
  | .release r => Sys2Proof.Machine.execRelease r s
  | .ringEnable r => Sys2Proof.Machine.execRingEnable r s
  | .ringDisable r => Sys2Proof.Machine.execRingDisable r s
  | .stageRkt table => Sys2Proof.Machine.execStageRkt table s
  | .activateRkt => Sys2Proof.Machine.execActivateRkt s
  | .approve board msg => Sys2Proof.Machine.execApprove board msg s
  | .cancelApproval => Sys2Proof.Machine.execCancelApproval s
  | .approvalTimeout => Sys2Proof.Machine.execApprovalTimeout s
  | .status => Sys2Proof.Machine.execStatus s
  | .faultLog index => Sys2Proof.Machine.execFaultLog index s
  | .enrol hostHash boardHash => Sys2Proof.Machine.execEnrol hostHash boardHash s
  | .pldmRequest => Sys2Proof.Machine.execPldmRequest s
  | .spdmRequest => Sys2Proof.Machine.execSpdmRequest s
  | .vauxApplied => Sys2Proof.Machine.execVauxApplied s
  | .vauxBrownout => Sys2Proof.Machine.execVauxBrownout s
  | .modRstAssert => Sys2Proof.Machine.execModRstAssert s
  | .modRstRelease => Sys2Proof.Machine.execModRstRelease s
  | .startBegin o => Sys2Proof.Machine.execStartBegin o s
  | .startTimeout => Sys2Proof.Machine.execStartTimeout s
  | .startRetry => Sys2Proof.Machine.execStartRetry s
  | .setupLock v => Sys2Proof.Machine.execSetupLock v s
  | .portCfg v => Sys2Proof.Machine.execPortCfg v s
  | .loRegisterRead offset => Sys2Proof.Machine.execLoRegisterRead offset s
  | .registerWrite bar2 offset size be data => Sys2Proof.Machine.execRegisterWrite bar2 offset size be data s
  | .hostLinkDown => Sys2Proof.Machine.execHostLinkDown s
  | .hostLinkUp => Sys2Proof.Machine.execHostLinkUp s
  | .thermalHardRelease x temp => Sys2Proof.Machine.execThermalHardRelease x temp s
  | .classCreditReturn p cls n => Sys2Proof.Machine.execClassCreditReturn p cls n s
  | .msg p k => Sys2Proof.Machine.execMsg p k s
  | .timePulse pin => Sys2Proof.Machine.execTimePulse pin s

end Sys2Proof.Machine
end

