-- ==== Sys2Proof/Machine/Step.lean ====
section
/-! DEFINITION. One step: the command at the front of the queue, or a step of an idle module. -/
namespace Sys2Proof.Machine

/-- With no command waiting the block idles: it stays as it is. What time brings about has rows of its own.
(DESIGN CHOICE, log entry 1) -/
def idle (s : State) : Host.Outcome State Fault Refusal := .next s

/-- Takes the command at the front of the queue and runs it on the state that holds the rest.
(DESIGN CHOICE, log entry 2) -/
def step (s : State) : Host.Outcome State Fault Refusal :=
  match s.pending with
  | [] => idle s
  | c :: rest => exec c { s with pending := rest }

/-- s with the command that a word spells in front of its queue; unchanged where the word spells none. -/
def State.withFetchWord (s : State) (nbits w : Nat) : State :=
  match decodeTableWord nbits w with
  | none => s
  | some c => { s with pending := c :: s.pending }

end Sys2Proof.Machine
end

