-- ==== Sys2Proof/Safety.lean ====
section
/-! DEFINITION. What counts as a safe outcome: the module goes on. -/
namespace Sys2Proof.Machine

/-- An outcome that is a next state. -/
def Completes (o : Host.Outcome State Fault Refusal) : Prop := ∃ t, o = .next t

/-- Of the whole state only one cell, the host interface (where an event may be written), the count of free values and the step's non-finite flag may
differ. -/
def OnlyCell (s t : State) (c : Fin 1024) : Prop :=
  t = { s with cells := t.cells, host := t.host, free := t.free, rt := { s.rt with nonfinite := t.rt.nonfinite } } ∧
    ∀ o : Fin 1024, o ≠ c → t.cells[o] = s.cells[o]

/-- Of the whole state only one cell differs. -/
def CellAlone (s t : State) (c : Fin 1024) : Prop := t = { s with cells := t.cells } ∧ ∀ o : Fin 1024, o ≠ c → t.cells[o] = s.cells[o]

/-- The cell store with an output's outlier block and full copy written into the next slots of their rings, under the SEQ of the output (R199, R200). -/
def CellS.ringsWritten (k : CellS) (o : OutTile) : Memory :=
  let m := match o.oblk with
    | none => k.store
    | some b => k.store.writeN (64 * k.oblkWord) (withSeq b (k.seqOf o))
  match o.full with
  | none => m
  | some b => m.writeN (64 * k.fullWord) (withSeq b (k.seqOf o))

/-- The nest of a cell waits on a mark (R108): it is marked so, and of the rest only the job's note of when its cells wait may differ (R345). -/
def WaitsNow (s t : State) (c : Fin 1024) (n : Nest) : Prop :=
  t.cells[c] = { s.cells[c] with nest := some { n with waiting := true } } ∧ (∀ o : Fin 1024, o ≠ c → t.cells[o] = s.cells[o]) ∧
    t = { s with cells := t.cells, job := t.job }

/-- The nest of a cell stops at an address outside the data area (R122): a CELL_FAULT event tells the host. -/
def StopsNow (s t : State) (c : Fin 1024) (n : Nest) : Prop :=
  t = ({ s with cells := setV s.cells c { s.cells[c] with nest := some { n with stopped := true } } } : State).cellFault c 0

/-- The oldest output of a cell has landed (R102, R106, R115, R116, R201): a queued tile has the next SEQ and its slot, one of the data area its words with
their marks, a partial its sum; an outlier block and a full copy take their slots; its accumulator set is free again, and a finished gradient tile waits
to be handed to Bramble. -/
def Landed (s t : State) (c : Fin 1024) (o : OutTile) (rest : List OutTile) : Prop :=
  t.cells[c].outs = rest ∧
    (o.dest = .queue → t.cells[c].seq = s.cells[c].seq + 1 ∧
      t.cells[c].store = (s.cells[c].ringsWritten o).writeN (64 * s.cells[c].slotWord) (withSeq o.hdr s.cells[c].seq ++ o.data) ∧
      (∃ q, t.cells[c].ftq = s.cells[c].ftq ++ [q] ∧ q.seq = s.cells[c].seq ∧ q.word = s.cells[c].slotWord)) ∧
    (∀ w : Nat, o.dest = .area w → t.cells[c].store = (s.cells[c].ringsWritten o).writeN (64 * w) o.data ∧ t.cells[c].present w = true ∧
      t.cells[c].outCount = s.cells[c].outCount + 1) ∧
    (∀ w n : Nat, o.dest = .partialArea w n → t.cells[c].store = (s.cells[c].ringsWritten o).writeN (64 * w) o.data ∧ n ∈ t.cells[c].partials) ∧
    t.cells[c].oblkFull = s.cells[c].oblkFull ++ (o.oblk.map fun _ => s.cells[c].oblkSlot).toList ∧
    t.cells[c].fullFull = s.cells[c].fullFull ++ (o.full.map fun _ => s.cells[c].fullSlot).toList ∧
    (o.set = some false → t.cells[c].set0 = .idle) ∧ (o.set = some true → t.cells[c].set1 = .idle) ∧
    (∀ d : Fin 1024, d ≠ c → t.cells[d].store = s.cells[d].store) ∧
    t.coll.toSend = s.coll.toSend ++ (s.producedBy s.cells[c].active.bytes o).toList ∧
    t = { s with cells := t.cells, coll := t.coll, free := t.free }

/-- The nest n of a lane personality may take its next step in a cell (R108, R122, R129). -/
def LaneReady (s : State) (c : Fin 1024) (pers : Nat) (n : Nest) : Prop :=
  s.cells[c].running pers = some n ∧ nestDone s.cells[c].active.bytes n = false ∧ s.cells[c].entered = true ∧
    s.cells[c].streamsInside s.cells[c].active.bytes n.args n.pos = true ∧
    (s.cells[c].stepWords s.cells[c].active.bytes n.args n.pos).all s.cells[c].present = true

/-- A packet reaches the module on a port (R363, R378, R393): not one of its own to itself, on a port that is up and has room for it, not too old, and
not above the level of the link. -/
def Arrives (s : State) (p : Fin 32) (k : Pkt) : Prop :=
  s.fab.loop.contains k = false ∧ s.fab.ports[p].st = .up ∧ s.fab.ports[p].rxRoom k = true ∧ s.aged k = false ∧
    needLevel k ≤ s.fab.ports[p].level.toNat

/-- A request passes checks 1 to 7 of R367 at its target. -/
def Passes (s : State) (k : Pkt) : Prop :=
  s.inJob = true ∧ k.job = s.job.p.jobId ∧ needLevel k ≤ s.job.p.level.toNat ∧ pktMalformed k = false ∧ s.pwr.st ≠ .parked ∧
    (pktModifies k = true → s.fab.cache.find? (fun e => e.src = k.src && e.seq = k.seq && e.live s.now) = none) ∧ s.fab.pendingReq.contains (k.src, k.seq) = false ∧
    s.fab.keyOk k = true ∧ s.servable k = true ∧ s.tierReady k = true

/-- A command is the arrival of a request packet: a LOAD, a STORE, an ATOMIC or a REDUCE. -/
def RequestCmd (c : Instr) (p : Fin 32) (k : Pkt) : Prop :=
  (c = .load p k ∧ k.op = 0x01) ∨ (c = .store p k ∧ k.op = 0x02) ∨ (c = .atomic p k ∧ k.op = 0x03) ∨ (c = .reduce p k ∧ k.op = 0x04)

/-- A request passes the checks of R367 on level, form and job. -/
def WellTaken (s : State) (k : Pkt) : Prop :=
  s.inJob = true ∧ k.job = s.job.p.jobId ∧ needLevel k ≤ s.job.p.level.toNat ∧ pktMalformed k = false

/-- No reply to a modifying request is kept. -/
def NotCached (s : State) (k : Pkt) : Prop :=
  pktModifies k = true → s.fab.cache.find? (fun e => e.src = k.src && e.seq = k.seq && e.live s.now) = none

/-- A request is pending no more and nothing that it gathered is kept. -/
def Fabric.ended (b : Fabric) (k : Pkt) : Fabric :=
  { b with
    pendingReq := b.pendingReq.filter (· ≠ (k.src, k.seq))
    gather := b.gather.filter fun x => !(x.1 = k.src && x.2.1 = k.seq) }

/-- Bramble takes a request at once (R378, R391): no copy of it and no other request waits in a receive buffer, and neither its ordering points nor
the scratch hold it back. -/
def TakenAtOnce (s : State) (k : Pkt) : Prop := s.fab.inRx k = false ∧ s.mustHold k = false ∧ s.fab.rxCount = 0

/-- A request for a power state of a code is taken up (R434, R490): the next descriptor of ring 0 is a SET_POWER for it and no long operation runs,
or the board asks while none runs; the mailbox carries no such request. -/
def Asks (s : State) (a : Asker) (code : Nat) : Prop :=
  match a with
  | .ring r => r.val = 0 ∧ s.host.mgmtBusy = false ∧
      ∃ d, s.host.rings[r].nextDesc = some d ∧ d.opcode = 0x02 ∧ field (byteAt d.bytes 8) 1 0 = code
  | .mctp => s.quinceServes = true ∧ s.host.mgmtBusy = false
  | .mailbox => False

/-- The number under which a request for a power state is answered: that of the ring's next descriptor; the board's has none. -/
def State.askIndex (s : State) (a : Asker) : DWord :=
  match a with
  | .ring r => ((s.host.rings[r].nextDesc).map (·.index)).getD 0
  | _ => 0

/-- The ring's next descriptor has an opcode and may begin (R473, R475, R490). -/
def Begins (s : State) (r : Fin 64) (op : Nat) (d : Desc) : Prop :=
  s.host.rings[r].nextDesc = some d ∧ d.opcode = op ∧ (r.val ≠ 0 ∨ s.host.mgmtBusy = false)

/-- The state in which that descriptor has begun. -/
def State.begun (s : State) (r : Fin 64) (d : Desc) : State :=
  s.upRing r fun g => { g with descs := g.descs.map fun e => if e.index = d.index && e.fin.isNone then { e with begun := true } else e }

/-- A request to Quince for an opcode is taken up (R490, R506): it is the next descriptor of ring 0 and meets a test, or the board controller makes
it; no long operation runs. -/
def AsksQuince (s : State) (a : Asker) (op : Nat) (p : Desc → Bool) : Prop :=
  match a with
  | .ring r => r.val = 0 ∧ s.host.mgmtBusy = false ∧ ∃ d, s.host.rings[r].nextDesc = some d ∧ d.opcode = op ∧ p d = true
  | .mctp => s.quinceServes = true ∧ s.host.mgmtBusy = false
  | .mailbox => False

/-- Every handshake queue holds at most 8 entries, written or on their way back, and shows its consumer no more words than it holds
(R63, R65, R66). -/
def HsQueue.Ok (q : HsQueue) : Prop := q.words.length + q.returning ≤ 8 ∧ q.visible ≤ q.words.length

/-- Every queue of the module is within its entries. -/
def State.QueuesOk (s : State) : Prop := ∀ i : Fin 7680, s.queues[i].Ok

/-- What can happen to one queue. -/
inductive QueueOp where
  | write (w : QWord)
  | show
  | read
  | giveBack
  deriving DecidableEq, Repr

/-- What happens to a queue in an order of events: the words read, the words written while its count showed a free entry, and the queue after. -/
def QueueOp.run : List QueueOp → HsQueue → List QWord × List QWord × HsQueue
  | [], q => ([], [], q)
  | .write w :: ops, q =>
    let r := QueueOp.run ops (q.write w)
    (r.1, (if q.canWrite then [w] else []) ++ r.2.1, r.2.2)
  | .show :: ops, q => QueueOp.run ops q.show
  | .read :: ops, q =>
    let r := QueueOp.run ops q.read
    (q.front.toList ++ r.1, r.2.1, r.2.2)
  | .giveBack :: ops, q => QueueOp.run ops q.giveBack

end Sys2Proof.Machine
end

