-- ==== Sys2Proof/Certificates/Slice0/Obligations.lean ====
section
/-! DEFINITION. The statements for the provers. -/
open Sys2Proof Sys2Proof.Machine

/-! ### Step, reset and the whole machine -/

/-- A step runs the command at the front of the queue on the state that holds the rest, and an idle module stays as it is.
Model's choice: log entries 1 and 2. -/
def Obligations.StepRunsTheFrontCommand : Prop :=
  (∀ (c : Instr) (rest : List Instr) (s : State), step { s with pending := c :: rest } = exec c { s with pending := rest }) ∧
  (∀ s : State, s.pending = [] → step s = .next s)

/-- The reset state holds the reset values that the spec gives PORT_EN, MAX_LEVEL, the C0 limit, the weights, the staging floors, CE_LIMIT, the partner
and flash areas, HOST_CAP, RAMP_UP, SHIFT_CAP, the soft limit, SB_SEL, the time pulse, the lock and the discard count; module time and the
beacon counter are 0 and no command waits. -/
def Obligations.ResetValuesOfTheFieldTables : Prop :=
  State.reset.fab.portEn = 0xFFFFFFFF ∧ State.reset.fab.maxLevel = 3 ∧ State.reset.fab.c0Limit = 0x0A ∧
  State.reset.fab.w1 = 8 ∧ State.reset.fab.w2 = 4 ∧ State.reset.fab.w3 = 2 ∧
  State.reset.mover.pFloor = 0x40 ∧ State.reset.mover.dFloor = 0x10 ∧ State.reset.mover.mFloor = 0x08 ∧
  State.reset.tiers.ceLimit = 0x03E8 ∧ State.reset.sec.partnerGib = 0 ∧ State.reset.sec.flashGb = 0x07D0 ∧
  State.reset.pwr.hostCap = 0x05DC ∧ State.reset.pwr.rampUp = 0x0032 ∧ State.reset.pwr.shiftCap = 0x05DC ∧ State.reset.pwr.softC = 0x5F ∧
  State.reset.pins.sbSel = 0 ∧ State.reset.pins.tpLog2 = 0x22 ∧ State.reset.regs.lock = false ∧ State.reset.regs.discards = 0 ∧
  State.reset.now = 0 ∧ State.reset.time.ctr = 0 ∧ State.reset.pending = []

/-- Every handshake queue of a state after reset is within its 8 entries. -/
def Obligations.ResetQueuesWithinEightEntries : Prop := State.reset.QueuesOk

/-- R63 and R66: from every state whose handshake queues hold at most 8 entries, with no more words shown to the consumer than written, every
step leaves them so. -/
def Obligations.EveryStepKeepsQueuesWithinEightEntries : Prop := ∀ s t : State, s.QueuesOk → step s = .next t → t.QueuesOk

/-- R11: whatever the command, a set lock stays set unless the command leaves a start in progress, and no register write clears it. -/
def Obligations.LockClearsOnlyAtAStart : Prop :=
  (∀ (c : Instr) (s t : State), s.regs.lock = true → exec c s = .next t → t.regs.lock = true ∨ t.quince.start.isSome = true) ∧
  (∀ (bar2 : Bool) (offset : BitVec 24) (size : BitVec 4) (be : Byte) (data : DWord) (s : State), s.regs.lock = true →
    ∃ t, exec (.registerWrite bar2 offset size be data) s = .next t ∧ t.regs.lock = true) ∧
  (∀ (v : Word) (s : State), s.regs.lock = true → (∃ t, exec (.setupLock v) s = .next t ∧ t.regs.lock = true) ∧
    ∃ t, exec (.portCfg v) s = .next t ∧ t.regs.lock = true)

/-! ### Cluster clocks and module time -/

/-- R48 to R52, R58 and R412: a stretch of a running oscillator is counted once in each cluster it clocks, is one cluster cycle there, and makes the
droop response active; one beyond the limit is counted there too. No other cluster's counts change. A stopped clock stretches nothing. The end of the
response clears it in each of those clusters and releases a held frequency step.
Model's choice: log entry 17. -/
def Obligations.DroopStretchCountedOnce : Prop :=
  (∀ (c : Fin 64) (ov : Bool) (s : State), s.clusters[s.oscOf c].running = true → ∃ t, exec (.droopStretch c ov) s = .next t ∧
    (∀ h : Fin 64, h ∈ s.halves c → t.clusters[h].stretched = satAdd s.clusters[h].stretched 1 ∧
      t.clusters[h].cycles = s.clusters[h].cycles + 1 ∧ t.clusters[h].droop = true ∧
      t.clusters[h].overLong = if ov then satAdd s.clusters[h].overLong 1 else s.clusters[h].overLong) ∧
    (∀ h : Fin 64, h ∉ s.halves c → t.clusters[h].stretched = s.clusters[h].stretched ∧ t.clusters[h].cycles = s.clusters[h].cycles ∧
      t.clusters[h].overLong = s.clusters[h].overLong) ∧
    t.cells = s.cells ∧ t.queues = s.queues ∧ t.time = s.time ∧ t.fab = s.fab ∧ t.job = s.job) ∧
  (∀ (c : Fin 64) (ov : Bool) (s : State), s.clusters[s.oscOf c].running = false → exec (.droopStretch c ov) s = .next s) ∧
  (∀ (c : Fin 64) (s : State), s.clusters[c].droop = true → ∃ t, exec (.droopResponseEnd c) s = .next t ∧
    (∀ h : Fin 64, h ∈ s.halves c → t.clusters[h].droop = false ∧ t.clusters[h].stepHeld = false ∧ t.clusters[h].cycles = s.clusters[h].cycles) ∧
    t = { s with clusters := t.clusters, pwr := t.pwr })

/-- R74 and R52: in a supplied module a beacon brings module time to its next multiple of 16,384 units, or stands for all multiples that time has
stepped across; the 14-bit counter follows, and the beacons since the last time message are counted. Each running cluster counts one
beacon and the cycles observed of its oscillator; a stopped cluster stays as it is. In OFF a beacon does nothing.
Model's choice: log entry 16. -/
def Obligations.BeaconAtEachMultiple : Prop :=
  (∀ (obs : List ClusterObs) (s : State), s.pins.vaux = true → ∃ t, exec (.beacon obs) s = .next t ∧
    (let k := max (s.now.toNat / 16384) (s.time.lastBeacon.toNat + 1)
     t.time.lastBeacon = BitVec.ofNat 64 k ∧ t.now = later s.now (BitVec.ofNat 64 (16384 * k)) ∧ t.time.ctr = BitVec.ofNat 14 t.now.toNat ∧
     t.time.beaconsSinceMsg = s.time.beaconsSinceMsg + (k - s.time.lastBeacon.toNat)) ∧
    (∀ c : Fin 64, s.clusters[c].running = true → t.clusters[c].beacons = s.clusters[c].beacons + 1 ∧
      t.clusters[c].cycles = s.clusters[c].cycles +
        BitVec.ofNat 64 (obs.getD (s.oscOf c).val { cycles := 0, droopFs := 0, diff := 0 }).cycles) ∧
    (∀ c : Fin 64, s.clusters[c].running = false → t.clusters[c] = s.clusters[c]) ∧
    t.cells = s.cells ∧ t.queues = s.queues ∧ t.fab = s.fab ∧ t.host = s.host ∧ t.quince = s.quince) ∧
  (∀ (obs : List ClusterObs) (s : State), s.pins.vaux = false → exec (.beacon obs) s = .next s)

/-- R76, R77, R79, R82 and R83: a loss of the reference puts Damson into holdover and is kept in REF_LOST; the end of holdover starts the slew back. A lost
upstream sets UPSTREAM_LOST; with BACKUP_EN the module goes over to its backup and stays locked as it was, and without it, or on the backup,
FABRIC_LOCKED clears. A module unlocked for 100 ms leaves its job. R72 and R80: a time message of the upstream in use sets LAST_OFFSET,
makes the single step when none was made, and locks with the third consecutive offset within 256 units; a message on another port, or at the time
root, does nothing.
Model's choice: log entries 19 and 21. -/
def Obligations.TimeIsHeldLockedAndLost : Prop :=
  ((∀ s : State, exec .referenceLoss s = .next (s.upTime fun b => { b with holdover := true, refLost := true, refSlew := false })) ∧
  (∀ s : State, s.time.holdover = true → exec .holdoverExit s = .next (s.upTime fun b => { b with holdover := false, refSlew := true })) ∧
  (∀ s : State, s.time.timeRoot = false → (s.time.locked = true ∨ s.time.timeEn = true) → s.time.backupEn = true → s.time.onBackup = false →
    ∃ t, exec .upstreamLost s = .next t ∧ t.time.upLost = true ∧ t.time.onBackup = true ∧ t.time.locked = s.time.locked ∧
      t.time.goodMsgs = 0 ∧ t = { s with time := t.time }) ∧
  (∀ s : State, s.time.timeRoot = false → s.time.locked = true → (s.time.backupEn = false ∨ s.time.onBackup = true) →
    ∃ t, exec .upstreamLost s = .next t ∧ t.time.upLost = true ∧ t.time.locked = false ∧ t.time.unlockedAt = (if s.inJob then some s.now else none) ∧ t.now = s.now ∧
      t = { s with time := t.time, pins := t.pins, host := t.host }) ∧
  (∀ (t0 : DWord) (s : State), s.time.unlockedAt = some t0 → s.time.locked = false → s.inJob = true →
    ∃ t, exec .unlockTimeout s = .next t ∧ t.now = (s.advanceTo (after t0 (100 * msU))).now ∧ t.job.phase = .tornDown ∧
      s.job.p.jobId ∈ t.job.torn ∧ t.pwr.st = s.pwr.st)) ∧
  ((∀ (p : Fin 32) (m : TimeMsg) (rx : DWord) (s : State),
    s.time.timeEn = true → s.time.timeRoot = false → s.time.upstream.toNat = p.val → ∃ t, exec (.time p m rx) s = .next t ∧
      (let off : Int := (rx.toNat : Int) - m.tTx.toNat - s.time.linkDelay.toNat
       t.time.lastOffset = satOffset off ∧
       t.time.goodMsgs = (if off.natAbs ≤ 256 then min 3 (s.time.goodMsgs + 1) else 0) ∧
       t.time.locked = (s.time.locked || decide (off.natAbs ≤ 256 ∧ 2 ≤ s.time.goodMsgs)) ∧
       t.now = (if s.time.stepped then (s.advanceTo rx).now else BitVec.ofInt 64 (((s.advanceTo rx).now.toNat : Int) - off)) ∧
       t.time.stepped = true ∧ t.time.rootId = m.root ∧ t.time.hops = m.hops) ∧
      t = { s with time := t.time, pins := { s.pins with tpLast := t.pins.tpLast } }) ∧
  (∀ (p : Fin 32) (m : TimeMsg) (rx : DWord) (s : State), s.time.upstream.toNat ≠ p.val → exec (.time p m rx) s = .next s) ∧
  (∀ (p : Fin 32) (m : TimeMsg) (rx : DWord) (s : State), s.time.timeRoot = true → exec (.time p m rx) s = .next s))

/-- R376 and R81: the link delay is half of what the round trip took without the upstream's own delay; the answer of an upstream carries the times of
receipt and of transmission and the sequence number of the request. A module that is not the time root asks its upstream for the delay when 1,024
messages have come since the last request. A locked module puts its time message in the C0 queue of every port that is up but its upstream,
with the hop count raised by one, or of its own at the root; T_TX is written over as the message leaves (O37).
Model's choice: log entry 20. -/
def Obligations.LinkDelayAndTimeMessages : Prop :=
  (∀ (p : Fin 32) (tTx : DWord) (q : Half) (rxReq txResp rx : DWord) (s : State),
    s.time.delayReq = some (tTx, q) → s.time.upstream.toNat = p.val → ∃ t, exec (.delayResp p rxReq txResp q rx) s = .next t ∧
      t.time.linkDelay = BitVec.ofNat 64 (((rx - tTx) - (txResp - rxReq)).toNat / 2) ∧ t.time.delayReq = none ∧
      t.now = (s.advanceTo rx).now ∧ t = { s with time := t.time }) ∧
  (∀ (p : Fin 32) (tTx : DWord) (q : Half) (rx txResp : DWord) (s : State), ∃ t, exec (.delayReq p tTx q rx txResp) s = .next t ∧
    (∃ k : Pkt, t.fab.ports[p].queues[0] = s.fab.ports[p].queues[0] ++ [(k, noBucket)] ∧ k.hops = 1 ∧
      k.payload = toLE 0x03 4 ++ toLE rx.toNat 8 ++ toLE txResp.toNat 8 ++ toLE q.toNat 4 ++ toLE 0 4) ∧
    (∀ o : Fin 32, o ≠ p → t.fab.ports[o] = s.fab.ports[o]) ∧ t = { s with time := t.time, fab := t.fab }) ∧
  (∀ (s : State), s.time.timeEn = true → s.time.timeRoot = false → s.time.msgsSinceDelay ≥ 1024 → s.fab.ports[portOf s.time.upstream].st = .up →
    ∃ t, exec .delayReqSend s = .next t ∧ t.time.delayReq = some (s.now, s.time.seqD + 1) ∧ t.time.seqD = s.time.seqD + 1 ∧
      t.time.msgsSinceDelay = 0 ∧
      (∃ k : Pkt, t.fab.ports[portOf s.time.upstream].queues[0] = s.fab.ports[portOf s.time.upstream].queues[0] ++ [(k, noBucket)] ∧ k.hops = 1 ∧
        k.payload = toLE 0x02 4 ++ (toLE s.now.toNat 8 ++ toLE (s.time.seqD + 1).toNat 4)) ∧
      t = { s with time := t.time, fab := t.fab }) ∧
  (∀ s : State, s.time.locked = true → s.time.beaconsSinceMsg ≥ 128 → ∃ t, exec .timeMsgSend s = .next t ∧
    t.time = { s.time with seqT := s.time.seqT + 1, beaconsSinceMsg := 0 } ∧ t = { s with time := t.time, fab := t.fab } ∧
    (∀ p : Fin 32, s.fab.ports[p].st = .up → (s.time.timeRoot = true ∨ s.time.upstream.toNat ≠ p.val) →
      ∃ k : Pkt, t.fab.ports[p].queues[0] = s.fab.ports[p].queues[0] ++ [(k, noBucket)] ∧
        k.payload = toLE 0x01 4 ++ toLE s.now.toNat 8 ++ toLE (if s.time.timeRoot then s.fab.modId else s.time.rootId).toNat 4 ++
          toLE (if s.time.timeRoot then (0 : Word) else s.time.hops + 1).toNat 4 ++ toLE (s.time.seqT + 1).toNat 4) ∧
    (∀ p : Fin 32, (s.fab.ports[p].st ≠ .up ∨ (s.time.timeRoot = false ∧ s.time.upstream.toNat = p.val)) → t.fab.ports[p] = s.fab.ports[p]))

/-- R86, R514 and R85: an expiry asserts FAULT#, is kept in the list of expiries and in FAULT_LOG, ends the job and arms the watchdog again; the third
within 24 h begins a warm start, and one during a start fails it. A fault of the interval counter hands the timeout to Quince and is kept
in FAULT_LOG; in OFF it does nothing. R525 and R526: a pulse that is high falls half a period after the multiple at which it rose.
Model's choice: log entries 14 and 122. -/
def Obligations.WatchdogAndTimePulse : Prop :=
  (∀ s : State, s.time.wdArmed = true → s.time.wdLeft = 0 → s.quince.start = none →
    (within s.now dayU s.quince.wdTimes).length < 2 → ∃ t, exec .watchdogExpiry s = .next t ∧
      t.pins.faultLow = true ∧ t.quince.wdTimes = s.now :: within s.now dayU s.quince.wdTimes ∧
      t.quince.faults.getLast? = some { kind := fkWatchdog, at_ := s.now, result := 0 } ∧ t.time.wdArmed = true ∧ t.time.wdLeft = t.time.wdTimeout ∧
      t.inJob = false) ∧
  (∀ s : State, s.time.wdArmed = true → s.time.wdLeft = 0 → s.quince.start = none →
    2 ≤ (within s.now dayU s.quince.wdTimes).length → ∃ t, exec .watchdogExpiry s = .next t ∧
      t.pins.faultLow = true ∧ t.quince.wdTimes = s.now :: within s.now dayU s.quince.wdTimes ∧
      t.quince.faults.getLast? = some { kind := fkWatchdog, at_ := s.now, result := 0 } ∧ (∃ st, t.quince.start = some st ∧ st.warm = true) ∧
      t.regs.lock = false) ∧
  (∀ (st : StartS) (s : State), s.time.wdArmed = true → s.time.wdLeft = 0 → s.quince.start = some st → ∃ t, exec .watchdogExpiry s = .next t ∧
      t.pins.faultLow = true ∧ t.quince.start = none ∧ t.quince.failCount = satAdd s.quince.failCount 1) ∧
  (∀ s : State, s.pins.vaux = true → ∃ t, exec .intervalCounterFault s = .next t ∧
    t.time = { s.time with quinceTimer := s.time.wdArmed, ctrFault := true } ∧
    t.quince.faults.getLast? = some { kind := fkCounter, at_ := s.now, result := 0 } ∧ t = { s with time := t.time, quince := t.quince }) ∧
  (∀ s : State, s.pins.vaux = false → exec .intervalCounterFault s = .next s) ∧
  ∀ (pin : Fin 2) (s : State), s.pins.tpHigh = true → s.pins.pulseOn pin.val = true → ∃ t, exec (.timePulse pin) s = .next t ∧
    t.pins = { s.pins with tpHigh := false } ∧
    t.now = (s.advanceTo (BitVec.ofNat 64 (s.pins.tpLast.toNat * s.pins.tpPeriod + s.pins.tpPeriod / 2))).now ∧
    t = { s with time := t.time, pins := t.pins }

/-! ### Handshake queues and joins -/

/-- R63 to R66: a queue with a free entry takes a word behind the words it holds, while a finished tile is due over it that tile's next word only; a full one
takes none. A word becomes readable, is read where its queue feeds no crossing and no relay, and its entry comes back, each leaving every other
queue alone. R70: the join channel takes the front word of its transmit end for a flight credit, a word arrives at its receive end in the
order taken up, and a freed entry gives the credit back.
Model's choice: log entry 24. -/
def Obligations.QueueAndJoinWordsMoveInOrder : Prop :=
  ((∀ (q : Fin 7680) (w : BitVec 512) (s : State), rxChannel q = none → s.tileDue q = none → s.queues[q].canWrite = true →
    ∃ t, exec (.queueWrite q w) s = .next t ∧
    t.queues[q] = { s.queues[q] with words := s.queues[q].words ++ [{ kind := .other, data := w }] } ∧
    (∀ o : Fin 7680, o ≠ q → t.queues[o] = s.queues[o]) ∧ t = { s with queues := t.queues }) ∧
  (∀ (q : Fin 7680) (c : Fin 1024) (k : Nat) (x : QTile) (s : State), rxChannel q = none → s.tileDue q = some (c, k, x) → s.queues[q].canWrite = true →
    ∃ t, exec (.queueWrite q (s.tileWord c k x)) s = .next t ∧
    t.queues[q] = { s.queues[q] with words := s.queues[q].words ++ [{ kind := .tile k x.seq x.word, data := s.tileWord c k x }] } ∧
    (∀ o : Fin 7680, o ≠ q → t.queues[o] = s.queues[o]) ∧ (∀ d : Fin 1024, d ≠ c → t.cells[d] = s.cells[d]) ∧
    t = { s with queues := t.queues, cells := t.cells }) ∧
  (∀ (q : Fin 7680) (c : Fin 1024) (k : Nat) (x : QTile) (w : BitVec 512) (s : State), rxChannel q = none → s.tileDue q = some (c, k, x) →
    w ≠ s.tileWord c k x → exec (.queueWrite q w) s = .next s) ∧
  (∀ (q : Fin 7680) (w : BitVec 512) (s : State), s.queues[q].canWrite = false → exec (.queueWrite q w) s = .next s) ∧
  (∀ (q : Fin 7680) (s : State), s.queues[q].visible < s.queues[q].words.length → ∃ t, exec (.queueWordVisible q) s = .next t ∧
    t.queues[q] = { s.queues[q] with visible := s.queues[q].visible + 1 } ∧ (∀ o : Fin 7680, o ≠ q → t.queues[o] = s.queues[o]) ∧
    t = { s with queues := t.queues }) ∧
  (∀ (q : Fin 7680) (s : State), rxChannel q = none → s.relayTo q = none → s.crossFrom q = none → 0 < s.queues[q].visible →
    s.queues[q].words ≠ [] → ∃ t, exec (.queueRead q) s = .next t ∧
    t.queues[q] = { words := s.queues[q].words.tail, visible := s.queues[q].visible - 1, returning := s.queues[q].returning + 1 } ∧
    (∀ o : Fin 7680, o ≠ q → t.queues[o] = s.queues[o]) ∧ t = { s with queues := t.queues }) ∧
  (∀ (q : Fin 7680) (s : State), s.queues[q].visible = 0 → exec (.queueRead q) s = .next s) ∧
  (∀ (q : Fin 7680) (s : State), ∃ t, exec (.queueEntryReturn q) s = .next t ∧
    t.queues[q] = { s.queues[q] with returning := s.queues[q].returning - 1 } ∧ (∀ o : Fin 7680, o ≠ q → t.queues[o] = s.queues[o]) ∧
    t = { s with queues := t.queues })) ∧
  ((∀ (ch : Fin 1792) (w : QWord) (s : State), s.queues[txQueue ch].front = some w → 0 < s.joins[ch].credits →
    ∃ t, exec (.joinChannelTakeup ch) s = .next t ∧ t.joins[ch].flight = s.joins[ch].flight ++ [w] ∧
      t.joins[ch].credits = s.joins[ch].credits - 1 ∧ t.queues[txQueue ch].words = s.queues[txQueue ch].words.tail ∧
      t = { s with queues := t.queues, joins := t.joins }) ∧
  (∀ (ch : Fin 1792) (s : State), 0 < s.joins[ch].freed → ∃ t, exec (.joinCreditReturn ch) s = .next t ∧
    t.joins[ch].credits = s.joins[ch].credits + 1 ∧ t.joins[ch].freed = s.joins[ch].freed - 1 ∧ t = { s with joins := t.joins }) ∧
  (∀ (ch : Fin 1792) (w : QWord) (rest : List QWord) (s : State),
    s.joins[ch].flight = w :: rest → s.queues[rxQueue ch].canWrite = true → ∃ t, exec (.queueWrite (rxQueue ch) w.data) s = .next t ∧
      t.queues[rxQueue ch].words = s.queues[rxQueue ch].words ++ [w] ∧ t.joins[ch].flight = rest ∧ t = { s with queues := t.queues, joins := t.joins }))

/-- R64: whatever the order in which a queue is written, shown, read and given back, the words read and then those still in it are the words that
were in it and then those written while its count showed a free entry, each once and in their order. -/
def Obligations.QueuePassesEachWordOnceInOrder : Prop :=
  ∀ (ops : List QueueOp) (q : HsQueue), (QueueOp.run ops q).1 ++ (QueueOp.run ops q).2.2.words = q.words ++ (QueueOp.run ops q).2.1

/-! ### Region programs, frames and nests -/

/-- R220 and R554: for the next instruction of a cell whose region runs, END ends the cell's part, ARGS sets the origin, MARK records its label with the
cluster's cycle count, and LOOP jumps until it has jumped as often as its count names and then falls through with its count cleared.
Nothing outside the cell changes. -/
def Obligations.ProgramInstructionsAdvanceTheCell : Prop :=
  (∀ (c : Fin 1024) (i l j : Nat) (p : PInstr) (s : State), s.nextInstr c = some (i, l, j, p) → p.op = 0 →
    ∃ t, exec (.progEnd c) s = .next t ∧ t.cells[c] = { s.cells[c] with pc := none, ended := true, issued := s.cells[c].issued + 1 } ∧ CellAlone s t c) ∧
  (∀ (c : Fin 1024) (i l j : Nat) (p : PInstr) (s : State), s.nextInstr c = some (i, l, j, p) → p.op = 3 →
    ∃ t, exec (.progArgs c) s = .next t ∧ t.cells[c].origin = (BitVec.ofNat 16 (p.operand % 65536), BitVec.ofNat 16 (p.operand / 65536 % 65536)) ∧
      t.cells[c].pc = nextOf (s.progOf i) l j ∧ CellAlone s t c) ∧
  (∀ (c : Fin 1024) (i l j : Nat) (p : PInstr) (s : State), s.nextInstr c = some (i, l, j, p) → p.op = 9 →
    ∃ t, exec (.progMark c) s = .next t ∧ t.cells[c].labels = s.cells[c].labels ++ [(BitVec.ofNat 32 p.operand, s.cyclesOf i)] ∧
      t.cells[c].pc = nextOf (s.progOf i) l j ∧ CellAlone s t c) ∧
  (∀ (c : Fin 1024) (i l j : Nat) (p : PInstr) (s : State), s.nextInstr c = some (i, l, j, p) → p.op = 8 →
    (getKV j s.cells[c].loops).getD 0 < p.operand / 65536 % 65536 → ∃ t, exec (.progLoop c) s = .next t ∧
      t.cells[c].pc = some (p.operand % 65536) ∧ getKV j t.cells[c].loops = some ((getKV j s.cells[c].loops).getD 0 + 1) ∧ CellAlone s t c) ∧
  (∀ (c : Fin 1024) (i l j : Nat) (p : PInstr) (s : State), s.nextInstr c = some (i, l, j, p) → p.op = 8 →
    p.operand / 65536 % 65536 ≤ (getKV j s.cells[c].loops).getD 0 → ∃ t, exec (.progLoop c) s = .next t ∧
      t.cells[c].pc = nextOf (s.progOf i) l j ∧ getKV j t.cells[c].loops = none ∧ CellAlone s t c)

/-- R94 and R97: LOAD begins, or waits for a LOAD or a SWITCH in progress. SWITCH begins when nothing stands in its way, else waits; with a loaded
shadow that is invalid it holds its cell for the frame fault, and with none loaded since the binding the module leaves its job. START begins a
nest with its operands and the origin, is held behind a running nest, or waits for a SWITCH or a START already held; with an invalid active
frame the module leaves its job. R96: a LOAD that ends fills the shadow frame, valid where the frame passes its checks and was read without
error, and makes the writes that waited. A SWITCH that ends exchanges the frames, and the active frame's counts begin anew. -/
def Obligations.LoadAndSwitchBeginAndEnd : Prop :=
  ((∀ (c : Fin 1024) (i l j : Nat) (p : PInstr) (s : State), s.nextInstr c = some (i, l, j, p) → p.op = 1 → (s.regionS i).placed = true →
    s.cells[c].loading = none → s.cells[c].switching = false → ∃ t, exec (.progLoad c) s = .next t ∧
      t.cells[c].loading = some (BitVec.ofNat 3 p.operand) ∧ t.cells[c].pc = nextOf (s.progOf i) l j ∧ OnlyCell s t c) ∧
  (∀ (c : Fin 1024) (i l j : Nat) (p : PInstr) (s : State), s.nextInstr c = some (i, l, j, p) → p.op = 1 → (s.regionS i).placed = true →
    (s.cells[c].loading.isSome = true ∨ s.cells[c].switching = true) → ∃ t, exec (.progLoad c) s = .next t ∧
      t.cells[c] = { s.cells[c] with held := some (.load (BitVec.ofNat 3 p.operand)) } ∧ OnlyCell s t c) ∧
  (∀ (c : Fin 1024) (i l j : Nat) (p : PInstr) (s : State), s.nextInstr c = some (i, l, j, p) → p.op = 2 →
    s.cells[c].switchWaits = false → s.cells[c].shadow.valid = true → ∃ t, exec (.progSwitch c) s = .next t ∧
      t.cells[c].switching = true ∧ t.cells[c].pc = nextOf (s.progOf i) l j ∧ OnlyCell s t c) ∧
  (∀ (c : Fin 1024) (i l j : Nat) (p : PInstr) (s : State), s.nextInstr c = some (i, l, j, p) → p.op = 2 →
    s.cells[c].switchWaits = true → ∃ t, exec (.progSwitch c) s = .next t ∧
      t.cells[c] = { s.cells[c] with held := some .switch } ∧ OnlyCell s t c) ∧
  (∀ (c : Fin 1024) (i l j : Nat) (p : PInstr) (s : State), s.nextInstr c = some (i, l, j, p) → p.op = 2 → s.cells[c].switchWaits = false →
    s.cells[c].shadow.valid = false → s.cells[c].shadow.loaded = true → ∃ t, exec (.progSwitch c) s = .next t ∧
      t.cells[c] = { s.cells[c] with held := some .switch, frameFault := true } ∧ OnlyCell s t c) ∧
  (∀ (c : Fin 1024) (i l j : Nat) (p : PInstr) (s : State), s.nextInstr c = some (i, l, j, p) → p.op = 2 → s.cells[c].switchWaits = false →
    s.cells[c].shadow.valid = false → s.cells[c].shadow.loaded = false → s.inJob = true →
    ∃ t, exec (.progSwitch c) s = .next t ∧ t.job.phase = .tornDown)) ∧
  ((∀ (c : Fin 1024) (i l j : Nat) (p : PInstr) (s : State), s.nextInstr c = some (i, l, j, p) → p.op = 4 →
    s.cells[c].switching = false → s.cells[c].heldStart = none → s.cells[c].active.valid = true → s.cells[c].nest = none →
    ∃ t, exec (.progStart c) s = .next t ∧ (∃ n, t.cells[c].nest = some n ∧ n.pos = 0 ∧ n.step = (s.regionS i).step ∧
      n.args = { aBase := p.operand % 32768, bBase := p.operand / 65536 % 32768, m0 := s.cells[c].origin.1.toNat,
                 n0 := s.cells[c].origin.2.toNat, gen := (s.regionS i).gen }) ∧
      t.cells[c].pc = nextOf (s.progOf i) l j ∧ t.cells[c].store = s.cells[c].store ∧ (∀ o : Fin 1024, o ≠ c → t.cells[o] = s.cells[o]) ∧
      t = { s with cells := t.cells, rt := t.rt, host := t.host }) ∧
  (∀ (c : Fin 1024) (i l j : Nat) (p : PInstr) (s : State), s.nextInstr c = some (i, l, j, p) → p.op = 4 →
    s.cells[c].switching = false → s.cells[c].heldStart = none → s.cells[c].active.valid = true → s.cells[c].nest.isSome = true →
    ∃ t, exec (.progStart c) s = .next t ∧ t.cells[c].heldStart =
      some { aBase := p.operand % 32768, bBase := p.operand / 65536 % 32768, m0 := s.cells[c].origin.1.toNat,
             n0 := s.cells[c].origin.2.toNat, gen := (s.regionS i).gen } ∧
      t.cells[c].nest = s.cells[c].nest ∧ t.cells[c].pc = nextOf (s.progOf i) l j ∧ OnlyCell s t c) ∧
  (∀ (c : Fin 1024) (i l j : Nat) (p : PInstr) (s : State), s.nextInstr c = some (i, l, j, p) → p.op = 4 →
    (s.cells[c].switching = true ∨ s.cells[c].heldStart.isSome = true) → ∃ t, exec (.progStart c) s = .next t ∧
      t.cells[c] = { s.cells[c] with held := some (.start (BitVec.ofNat 15 p.operand) (BitVec.ofNat 15 (p.operand / 65536))) } ∧ OnlyCell s t c) ∧
  (∀ (c : Fin 1024) (i l j : Nat) (p : PInstr) (s : State), s.nextInstr c = some (i, l, j, p) → p.op = 4 →
    s.cells[c].switching = false → s.cells[c].heldStart = none → s.cells[c].active.valid = false → s.inJob = true →
    ∃ t, exec (.progStart c) s = .next t ∧ t.job.phase = .tornDown)) ∧
  (∀ (c : Fin 1024) (ue : Bool) (slot : BitVec 3) (s : State), s.cells[c].loading = some slot → s.cells[c].held = none →
    ∃ t, exec (.frameLoadDone c ue) s = .next t ∧
    t.cells[c].shadow = { loaded := true, valid := !ue && frameValid (s.cells[c].slotFrame slot), bytes := s.cells[c].slotFrame slot } ∧
    t.cells[c].active = s.cells[c].active ∧ t.cells[c].loading = none ∧ t.cells[c].slotWrites = [] ∧
    t.cells[c].store = s.cells[c].slotWrites.foldl (fun m w => m.writeN (slotAddr w.1.toNat) w.2) s.cells[c].store ∧ OnlyCell s t c) ∧
  (∀ (c : Fin 1024) (s : State), s.cells[c].switching = true → s.cells[c].held = none → ∃ t, exec (.switchDone c) s = .next t ∧
    t.cells[c].active = s.cells[c].shadow ∧ t.cells[c].shadow = s.cells[c].active ∧ t.cells[c].seq = 0 ∧ t.cells[c].outCount = 0 ∧
    t.cells[c].ringPos = [] ∧ t.cells[c].switching = false ∧ t.cells[c].store = s.cells[c].store ∧
    t = { s with cells := t.cells, free := t.free })

/-- R236 and R263: once the tile mover has its buffer, an invalid frame is written again from the image and loaded once more; without one it claims a buffer.
A cell whose reload was invalid too is FAILED, and the command waits on where no cluster can take the region.
Model's choice: log entry 55. -/
def Obligations.FrameFaultReloadedOnce : Prop :=
  (∀ (c : Fin 1024) (i l : Nat) (b : Fin 128 × StageBuf) (s : State), s.cells[c].frameFault = true → s.cells[c].loading = none →
    s.ownerOf c = some (i, l) → s.cells[c].reloaded = false → s.mover.bufOf (.reload c) = some b → ∃ t, exec (.frameFaultReload c) s = .next t ∧
      t.cells[c].loading = some s.cells[c].lastSlot ∧ t.cells[c].reloaded = true ∧
      (∀ f : Bytes, s.imageFrame i l s.cells[c].lastSlot = some f → s.physCell i (fCell f) = some c →
        t.cells[c].store = s.cells[c].store.writeN (slotAddr (fSlot f)) (rewriteFrame f (s.bindEntry i (fCell f)))) ∧
      t.mover = s.mover.land (.reload c) ∧ t = { s with cells := t.cells, mover := t.mover }) ∧
  (∀ (c : Fin 1024) (i l : Nat) (s : State), s.cells[c].frameFault = true → s.cells[c].loading = none →
    s.ownerOf c = some (i, l) → s.cells[c].reloaded = false → s.mover.bufOf (.reload c) = none →
    exec (.frameFaultReload c) s = .next { s with mover := s.mover.claim (.reload c) }) ∧
  (∀ (c : Fin 1024) (i l : Nat) (s : State), s.cells[c].frameFault = true → s.cells[c].loading = none → s.ownerOf c = some (i, l) →
    s.cells[c].reloaded = true → (s.upCell c fun k => { k with health := .failed }).rebound i = none →
    exec (.frameFaultReload c) s = .next (s.upCell c fun k => { k with health := .failed })) ∧
  (∀ (c : Fin 1024) (i l : Nat) (s : State), s.cells[c].frameFault = true → s.cells[c].loading = none → s.ownerOf c = some (i, l) →
    s.cells[c].reloaded = true → ∃ t, exec (.frameFaultReload c) s = .next t ∧ t.cells[c].health = .failed)

/-- R65, R67 and R220: SIGNAL writes one token word for a free entry, and waits without one; AWAIT consumes a token kept over a move, or the token that is
readable, and its program goes on; it waits where none is readable, and goes on when one comes.
Model's choice: log entries 26 and 28. -/
def Obligations.TokensSignalledAndAwaited : Prop :=
  ((∀ (c : Fin 1024) (i l j x : Nat) (p : PInstr) (q q' : Fin 7680) (s : State), s.nextInstr c = some (i, l, j, p) → p.op = 5 →
    s.findCrossing true i l (p.operand % 64) = some x → s.crossQueues x = some (q, q') → s.queues[q].canWrite = true →
    ∃ t, exec (.progSignal c) s = .next t ∧ (∃ w : QWord, w.kind = .token ∧ t.queues[q].words = s.queues[q].words ++ [w]) ∧
      t.cells[c].pc = nextOf (s.progOf i) l j ∧
      (∀ o : Fin 7680, o ≠ q → t.queues[o] = s.queues[o]) ∧ t = { s with queues := t.queues, cells := t.cells, free := t.free }) ∧
  (∀ (c : Fin 1024) (i l j x : Nat) (p : PInstr) (q q' : Fin 7680) (s : State), s.nextInstr c = some (i, l, j, p) → p.op = 5 →
    s.findCrossing true i l (p.operand % 64) = some x → s.crossQueues x = some (q, q') → s.queues[q].canWrite = false →
    exec (.progSignal c) s = .next s)) ∧
  (∀ (c : Fin 1024) (i l j x : Nat) (p : PInstr) (s : State), s.nextInstr c = some (i, l, j, p) → p.op = 6 →
    s.awaitCross c (p.operand % 64) = some x → 0 < s.rt.tokens.getD x 0 → ∃ t, exec (.progAwait c) s = .next t ∧
      t.rt = { s.rt with tokens := s.rt.tokens.modify x (· - 1) } ∧ t.cells[c].awaiting = none ∧ t.cells[c].pc = nextOf (s.progOf i) l j ∧
      t = { s with rt := t.rt, cells := t.cells }) ∧
  (∀ (c : Fin 1024) (i l j x : Nat) (p : PInstr) (q q' : Fin 7680) (w : QWord) (s : State), s.nextInstr c = some (i, l, j, p) → p.op = 6 →
    s.awaitCross c (p.operand % 64) = some x → s.rt.tokens.getD x 0 = 0 → s.crossQueues x = some (q', q) → s.queues[q].front = some w →
    w.kind = .token → ∃ t, exec (.progAwait c) s = .next t ∧
      t.queues[q].words = s.queues[q].words.tail ∧ t.cells[c].awaiting = none ∧ t.cells[c].pc = nextOf (s.progOf i) l j ∧
      (∀ o : Fin 7680, o ≠ q → t.queues[o] = s.queues[o]) ∧ t = { s with queues := t.queues, joins := t.joins, cells := t.cells }) ∧
  (∀ (c : Fin 1024) (i l j x : Nat) (p : PInstr) (q q' : Fin 7680) (s : State), s.nextInstr c = some (i, l, j, p) → p.op = 6 →
    s.awaitCross c (p.operand % 64) = some x → s.rt.tokens.getD x 0 = 0 → s.crossQueues x = some (q', q) →
    (s.queues[q].front).map (·.kind) ≠ some .token → ∃ t, exec (.progAwait c) s = .next t ∧
      t.cells[c] = { s.cells[c] with awaiting := some (BitVec.ofNat 6 p.operand) } ∧ OnlyCell s t c) ∧
  (∀ (c : Fin 1024) (i l j x : Nat) (a : BitVec 6) (q q' : Fin 7680) (w : QWord) (s : State), s.cells[c].awaiting = some a →
    s.ownerOf c = some (i, l) → s.cells[c].pc = some j → s.awaitCross c a.toNat = some x → s.rt.tokens.getD x 0 = 0 →
    s.crossQueues x = some (q', q) → s.queues[q].front = some w → w.kind = .token →
    ∃ t, exec (.awaitTokenReady c) s = .next t ∧ t.queues[q].words = s.queues[q].words.tail ∧ t.cells[c].awaiting = none ∧
      t.cells[c].pc = nextOf (s.progOf i) l j ∧ t = { s with queues := t.queues, joins := t.joins, cells := t.cells })

/-- R219, R221, R263 and R554: a run begins, in the step that runs, on a bound region that has not run and whose frames are placed; where they are not
placed it claims the buffer for them; a region that may not run does nothing. A run is complete when every cell has ended. R237: a region
asked to move moves at REBIND or at the end of its run, once its new cells are free and its objects may move, and its generation goes up
by one.
Model's choice: log entries 30 and 50. -/
def Obligations.RegionRunsOnceAndMovesAtItsEnd : Prop :=
  (∀ (r : Fin 4096) (s : State), s.canRun r.val = true → (s.regionS r.val).placed = true → ∃ t, exec (.regionRunStart r) s = .next t ∧
    (t.regionS r.val).running = true ∧ (t.regionS r.val).step = s.job.step ∧ t = { s with rt := t.rt, cells := t.cells }) ∧
  (∀ (r : Fin 4096) (s : State), s.canRun r.val = true → (s.regionS r.val).placed = false → ∃ t, exec (.regionRunStart r) s = .next t ∧
    t.mover = s.mover.claim (.frames r.val) ∧ t = { s with rt := t.rt, mover := t.mover }) ∧
  (∀ (r : Fin 4096) (s : State), s.canRun r.val = false → exec (.regionRunStart r) s = .next s) ∧
  (∀ (r : Fin 4096) (s : State), s.runOver r.val = true → (s.regionS r.val).moveTo = none → ∃ t, exec (.regionRunComplete r) s = .next t ∧
    (t.regionS r.val).running = false ∧ (t.regionS r.val).doneRuns = (s.regionS r.val).doneRuns + 1 ∧
    t = { s with rt := t.rt, job := t.job, host := t.host }) ∧
  (∀ (r : Fin 4096) (cl : Fin 64) (sym : Nat) (s : State), s.runOver r.val = true → (s.regionS r.val).moveTo = some (cl, sym) →
    s.cellsFree r.val cl sym = true → s.mayMoveRegion r.val = true → ∃ t, exec (.regionRunComplete r) s = .next t ∧
    (t.regionS r.val).running = false ∧ (t.regionS r.val).cluster = some cl ∧ (t.regionS r.val).sym = sym ∧
    (t.regionS r.val).gen = (s.regionS r.val).gen + 1 ∧ (t.regionS r.val).moveTo = none) ∧
  (∀ (c : Fin 1024) (i l j : Nat) (p : PInstr) (s : State), s.nextInstr c = some (i, l, j, p) → p.op = 7 → (s.regionS i).moveTo = none →
    ∃ t, exec (.progRebind c) s = .next t ∧ t.cells[c].pc = nextOf (s.progOf i) l j ∧ OnlyCell s t c) ∧
  (∀ (c : Fin 1024) (i l j : Nat) (p : PInstr) (cl : Fin 64) (sym : Nat) (s : State), s.nextInstr c = some (i, l, j, p) → p.op = 7 →
    (s.regionS i).moveTo = some (cl, sym) → s.cellsFree i cl sym = true → s.mayMoveRegion i = true → ∃ t, exec (.progRebind c) s = .next t ∧
      (t.regionS i).cluster = some cl ∧ (t.regionS i).sym = sym ∧ (t.regionS i).gen = (s.regionS i).gen + 1 ∧ (t.regionS i).moveTo = none)

/-! ### The lattice and the lanes -/

/-- R98 to R103: a product whose operands are in the data area and present, and whose accumulator set is free, accumulates into the chunk; a chunk that ends
is added to the running accumulators of the set and leaves the chunk 0, and the last product of a visit hands the set to the drain with the
tile of the visit; the other set and the cell store stay. R108: a product that finds a mark clear waits, and one that finds its set busy is marked
so, which adds to the wait count when it goes on. R122: an operand outside the data area stops the nest.
Model's choice: log entry 31. -/
def Obligations.MatrixProductAdvancesItsNest : Prop :=
  (∀ (c : Fin 1024) (n : Nest) (s : State), s.cells[c].running 0 = some n → nestDone s.cells[c].active.bytes n = false →
    operandsInside s.cells[c].active.bytes n.args n.pos = true → (stepReads s.cells[c].active.bytes n.args n.pos).all s.cells[c].present = true →
    (kOf s.cells[c].active.bytes n.pos = 0 → s.cells[c].setFree (visitOf s.cells[c].active.bytes n.pos) = true) →
    (let k := s.cells[c]
     let f := k.active.bytes
     let v := visitOf f n.pos
     let o := ordinalOf f n.pos
     let sum := tileProduct f k.store (aWord f n.args n.pos) (bWord f n.args n.pos) k.chunk
     let ends := chunkEnds f (kOf f n.pos)
     let run := if kOf f n.pos = 0 && v = 0 then zeroAcc else k.acc
     let run := if ends then addChunk f (s.keyOf n f) (n.args.m0 + tileM f o) (n.args.n0 + tileN f o) (chunkOrdinal f v (kOf f n.pos)) run sum else run
     ∃ t, exec (.matrixTileProduct c) s = .next t ∧
      (∃ n', t.cells[c].nest = some n' ∧ n'.pos = n.pos + 1 ∧ n'.args = n.args ∧ n'.stalled = false ∧
        (n.stalled = false → t.cells[c].waitCycles = k.waitCycles) ∧
        (n.stalled = true → ∃ v : Word, t.cells[c].waitCycles = satAdd k.waitCycles v.toNat) ∧
        n'.spoiled = (if k.spoils f n.args n.pos then o :: n.spoiled else n.spoiled) ∧
        (kOf f n.pos + 1 = kTiles f → t.cells[c].outs = k.outs ++ [drainTile f (s.keyOf n f) n' v o k.setNow run])) ∧
      t.cells[c].chunk = (if ends then zeroAcc else sum) ∧
      (if k.setNow then t.cells[c].acc1 = run ∧ t.cells[c].acc0 = k.acc0 ∧ t.cells[c].set0 = k.set0
       else t.cells[c].acc0 = run ∧ t.cells[c].acc1 = k.acc1 ∧ t.cells[c].set1 = k.set1) ∧
      (kOf f n.pos + 1 = kTiles f → t.cells[c].setNow = !k.setNow ∧ (if k.setNow then t.cells[c].set1 else t.cells[c].set0) = .draining) ∧
      (kOf f n.pos + 1 ≠ kTiles f → t.cells[c].setNow = k.setNow ∧ t.cells[c].outs = k.outs ∧ (if k.setNow then t.cells[c].set1 else t.cells[c].set0) = .ready) ∧
      t.cells[c].store = k.store ∧ OnlyCell s t c)) ∧
  (∀ (c : Fin 1024) (n : Nest) (s : State), s.cells[c].running 0 = some n → nestDone s.cells[c].active.bytes n = false →
    operandsInside s.cells[c].active.bytes n.args n.pos = true → (stepReads s.cells[c].active.bytes n.args n.pos).all s.cells[c].present = false →
    ∃ t, exec (.matrixTileProduct c) s = .next t ∧ WaitsNow s t c n) ∧
  (∀ (c : Fin 1024) (n : Nest) (s : State), s.cells[c].running 0 = some n → nestDone s.cells[c].active.bytes n = false →
    operandsInside s.cells[c].active.bytes n.args n.pos = true → (stepReads s.cells[c].active.bytes n.args n.pos).all s.cells[c].present = true →
    kOf s.cells[c].active.bytes n.pos = 0 → s.cells[c].setFree (visitOf s.cells[c].active.bytes n.pos) = false →
    ∃ t, exec (.matrixTileProduct c) s = .next t ∧ t.cells[c] = { s.cells[c] with nest := some { n with stalled := true } } ∧ OnlyCell s t c) ∧
  (∀ (c : Fin 1024) (n : Nest) (s : State), s.cells[c].running 0 = some n → nestDone s.cells[c].active.bytes n = false →
    operandsInside s.cells[c].active.bytes n.args n.pos = false →
    ∃ t, exec (.matrixTileProduct c) s = .next t ∧ StopsNow s t c n)

/-- R103 and R105: the idle set loads the FP32 words of the partial whose later visit comes next, and that partial is no longer waiting. -/
def Obligations.PartialLoadsTheWrittenWords : Prop :=
  ∀ (c : Fin 1024) (n : Nest) (s : State), s.cells[c].running 0 = some n → nestDone s.cells[c].active.bytes n = false →
    kOf s.cells[c].active.bytes n.pos = 0 → visitOf s.cells[c].active.bytes n.pos ≠ 0 → s.cells[c].setSt = .idle →
    ordinalOf s.cells[c].active.bytes n.pos ∈ s.cells[c].partials → ∃ t, exec (.partialLoad c) s = .next t ∧ t.cells[c].setSt = .ready ∧
      (∀ e : Fin 4096, t.cells[c].acc[e] = BitVec.ofNat 32 (s.cells[c].store.readLE
        (64 * (partBase s.cells[c].active.bytes + ordinalOf s.cells[c].active.bytes n.pos * partStride s.cells[c].active.bytes) + 4 * e.val) 4)) ∧
      ordinalOf s.cells[c].active.bytes n.pos ∉ t.cells[c].partials ∧ t.cells[c].store = s.cells[c].store ∧ OnlyCell s t c

/-- R118 to R152: where a lane nest may take its step, its nest goes on by one input tile. A vector, table or outlier-MAC nest and an ADDT nest put out one
tile with the values of the personality's function; a reduce nest folds its input tile into its row states and puts out the records of a
row block with its last tile, with the mask of the selected elements for TOPK; a transform nest keeps the tiles of an open group of block
256, and else puts out the rotated tiles; an INDEX nest writes its lists. The rest of the cell store stays.
Model's choice: log entries 47, 134 and 135. -/
def Obligations.LaneTilesAdvanceTheirNests : Prop :=
  ((∀ (c : Fin 1024) (n : Nest) (s : State), LaneReady s c 1 n → vMode s.cells[c].active.bytes = 0 →
    (let f := s.cells[c].active.bytes
     let rows := withFlags (laneRows f (s.keyOf n f) n n.pos (s.cells[c].vecTile f n)) (nonfiniteIf (s.cells[c].recsNonfinite f n))
     destInside f (tileM f n.pos) (tileN f n.pos) (recordOf rows) = true → ∃ t, exec (.vectorTile c) s = .next t ∧
      (∃ n', t.cells[c].nest = some n' ∧ n'.pos = n.pos + 1) ∧ (∃ o, t.cells[c].outs = s.cells[c].outs ++ [o] ∧ o.data = recordOf rows) ∧
      t.cells[c].store = s.cells[c].store ∧ OnlyCell s t c)) ∧
  (∀ (c : Fin 1024) (n : Nest) (s : State), LaneReady s c 4 n →
    (let f := s.cells[c].active.bytes
     let vals := (List.range 64).flatMap fun r => (List.range 64).map fun q =>
       let y := tableEval f (s.cells[c].lane f n.args n.pos 0 r q)
       if postMul f then mul32 y (s.cells[c].lane f n.args n.pos 1 r q) else y
     let rows := laneRows f (s.keyOf n f) n n.pos vals
     destInside f (tileM f n.pos) (tileN f n.pos) (recordOf rows) = true → ∃ t, exec (.tableTile c) s = .next t ∧
      (∃ n', t.cells[c].nest = some n' ∧ n'.pos = n.pos + 1) ∧ (∃ o, t.cells[c].outs = s.cells[c].outs ++ [o] ∧ o.data = recordOf rows) ∧
      t.cells[c].store = s.cells[c].store ∧ OnlyCell s t c)) ∧
  (∀ (c : Fin 1024) (n : Nest) (s : State), LaneReady s c 1 n → vMode s.cells[c].active.bytes = 1 →
    (listsOf s.cells[c].active.bytes).all (headerInside s.cells[c].active.bytes) = true →
    (s.cells[c].indexTile s.cells[c].active.bytes n).lastEntriesInside s.cells[c].active.bytes = true →
    ∃ t, exec (.indexMaskTile c) s = .next t ∧ (∃ n', t.cells[c].nest = some n' ∧ n'.pos = n.pos + 1) ∧
      t.cells[c].store = (s.cells[c].indexTile s.cells[c].active.bytes n).store ∧ t.cells[c].outs = s.cells[c].outs ∧ OnlyCell s t c)) ∧
  ((∀ (c : Fin 1024) (n : Nest) (s : State), LaneReady s c 2 n → isAddt s.cells[c].active.bytes = true →
    (let f := s.cells[c].active.bytes
     let vals := (List.range 64).flatMap fun r => cols.map fun q => s.cells[c].addtElem f n r q
     let rows := convTile f (s.keyOf n f) (outFmt f) 0 0 (n.args.m0 + tileM f n.pos) (n.args.n0 + tileN f n.pos) vals
     destInside f (tileM f n.pos) (tileN f n.pos) (recordOf rows) = true → ∃ t, exec (.reduceInputTile c) s = .next t ∧
      (∃ n', t.cells[c].nest = some n' ∧ n'.pos = n.pos + 1) ∧ (∃ o, t.cells[c].outs = s.cells[c].outs ++ [o] ∧ o.data = recordOf rows) ∧
      t.cells[c].store = s.cells[c].store ∧ OnlyCell s t c)) ∧
  (∀ (c : Fin 1024) (n : Nest) (s : State), LaneReady s c 2 n → isAddt s.cells[c].active.bytes = false →
    n.pos % rowTiles s.cells[c].active.bytes + 1 < rowTiles s.cells[c].active.bytes → ∃ t, exec (.reduceInputTile c) s = .next t ∧
      (∃ n', t.cells[c].nest = some n' ∧ n'.pos = n.pos + 1 ∧ n'.rows = s.cells[c].foldTile s.cells[c].active.bytes n) ∧
      t.cells[c].outs = s.cells[c].outs ∧ t.cells[c].store = s.cells[c].store ∧ OnlyCell s t c) ∧
  (∀ (c : Fin 1024) (n : Nest) (s : State), LaneReady s c 2 n → isAddt s.cells[c].active.bytes = false →
    rowTiles s.cells[c].active.bytes ≤ n.pos % rowTiles s.cells[c].active.bytes + 1 →
    (let f := s.cells[c].active.bytes
     let o := ordinalOf f n.pos
     let rows := s.cells[c].blockRows f n (s.cells[c].foldTile f n)
     destInside f (tileM f o) (tileN f o) (recordOf rows) = true →
     (redop f = 9 → wordsInside (topMaskWord f (tileM f o)) 8 = true) → ∃ t, exec (.reduceInputTile c) s = .next t ∧
      (∃ n', t.cells[c].nest = some n' ∧ n'.pos = n.pos + 1 ∧ n'.rows = []) ∧ (∃ o, t.cells[c].outs = s.cells[c].outs ++ [o] ∧ o.data = recordOf rows) ∧
      t.cells[c].store = (if redop f = 9 then
        s.cells[c].store.writeN (64 * topMaskWord f (tileM f o)) (topMask (topkK f) (s.cells[c].foldTile f n)) else s.cells[c].store) ∧ OnlyCell s t c))) ∧
  ((∀ (c : Fin 1024) (n : Nest) (s : State), LaneReady s c 3 n → tMac s.cells[c].active.bytes = false → rotCode s.cells[c].active.bytes = 2 →
    n.ins.length < 3 → ∃ t, exec (.transformTile c) s = .next t ∧
      (∃ n', t.cells[c].nest = some n' ∧ n'.pos = n.pos + 1 ∧ n'.ins = n.ins ++ [s.cells[c].rotateIn s.cells[c].active.bytes n]) ∧
      t.cells[c].outs = s.cells[c].outs ∧ t.cells[c].store = s.cells[c].store ∧ OnlyCell s t c) ∧
  (∀ (c : Fin 1024) (n : Nest) (s : State), LaneReady s c 3 n → tMac s.cells[c].active.bytes = false →
    (rotCode s.cells[c].active.bytes = 2 → 3 ≤ n.ins.length) →
    (let f := s.cells[c].active.bytes
     let ts := n.ins ++ [s.cells[c].rotateIn f n]
     let o := n.pos + 1 - ts.length
     let marked := { n with spoiled := if s.cells[c].spoils f n.args n.pos then feeds f n.pos ++ n.spoiled else n.spoiled }
     let out := rotateOuts f (s.keyOf n f) (s.hEff n f) marked o (rotateTiles f (n.args.n0 + tileN f o) ts)
     groupInside f out.1 o = true → ∃ t, exec (.transformTile c) s = .next t ∧
      (∃ n', t.cells[c].nest = some n' ∧ n'.pos = n.pos + 1 ∧ n'.ins = []) ∧ t.cells[c].outs = s.cells[c].outs ++ out.1 ∧
      t.cells[c].store = s.cells[c].store ∧ OnlyCell s t c)) ∧
  (∀ (c : Fin 1024) (n : Nest) (s : State), LaneReady s c 3 n → tMac s.cells[c].active.bytes = true → macInside s.cells[c].active.bytes n.args n.pos = true →
    (let f := s.cells[c].active.bytes
     let rows := convTile f (s.keyOf n f) 0 0 0 (n.args.m0 + tileM f n.pos) (n.args.n0 + tileN f n.pos) (macTile f s.cells[c].store n.args n.pos)
     destInside f (tileM f n.pos) (tileN f n.pos) (recordOf rows) = true → ∃ t, exec (.outlierMacTile c) s = .next t ∧
      (∃ n', t.cells[c].nest = some n' ∧ n'.pos = n.pos + 1) ∧ (∃ o, t.cells[c].outs = s.cells[c].outs ++ [o] ∧ o.data = recordOf rows) ∧
      t.cells[c].store = s.cells[c].store ∧ OnlyCell s t c)))

/-- R130 to R133: the next group of at most four entries of COMPRESS or EXPAND, where the entries, what they read and what they write lie in the data area
and every tile they read is present: COMPRESS packs its rows, and puts out a tile where one is full or the list ends; EXPAND writes its rows
into their destinations in entry order; the nest passes over the group, and over the list where the group is its last.
Model's choice: log entry 46. -/
def Obligations.IndexListGroupsInListOrder : Prop :=
  (∀ (c : Fin 1024) (n : Nest) (s : State),
    (let k := s.cells[c]
     let f := k.active.bytes
     let rows := k.groupRows f n
     let words := (k.rowWords f n 0 rows).1
     let src := words.zip rows
     let r := packGroup f n (packRows f (s.keyOf n f) k.store n src) (decide (n.entryNo + rows.length ≥ k.listLen f n))
     k.running 1 = some n → vMode f = 2 → nestDone f n = false → k.entered = true → k.groupInside f n = true →
     src.all (fun x => rowInside f x.1 (x.2 % 64)) = true → words.all k.present = true → words.any k.poisoned = false →
     (∀ rs : List RowOut, r.2 = some rs → destInside f n.tileNo 0 (recordOf rs) = true) →
     ∃ t, exec (.compressRows c) s = .next t ∧ (∃ n', t.cells[c].nest = some n' ∧ n'.pos = n.pos + 1 ∧ n'.packed = r.1.packed ∧
       n'.listNo = r.1.listNo ∧ n'.entryNo = r.1.entryNo ∧ n'.tileNo = r.1.tileNo) ∧
       t.cells[c].outs = k.outs ++ (r.2.map (packTile f n n.tileNo)).toList ∧ t.cells[c].store = k.store ∧ OnlyCell s t c)) ∧
  (∀ (c : Fin 1024) (n : Nest) (s : State),
    (let k := s.cells[c]
     let f := k.active.bytes
     let g := k.expandGroup f n
     let ends := decide (n.entryNo + g.length ≥ k.listLen f n)
     k.running 1 = some n → 3 ≤ vMode f → nestDone f n = false → k.groupInside f n = true →
     (k.liveEntries f n).all (entryOk f n.args) = true → (k.expandNeeds f n).all k.present = true → (k.expandNeeds f n).any k.poisoned = false →
     ∃ t, exec (.expandRows c) s = .next t ∧ (∃ n', t.cells[c].nest = some n' ∧ n'.pos = n.pos + 1 ∧
       n'.listNo = (if ends then n.listNo + 1 else n.listNo) ∧ n'.entryNo = (if ends then 0 else n.entryNo + g.length)) ∧
       t.cells[c].store = ((k.liveEntries f n).foldl (fun k x => k.expandRow f (s.keyOf n f) n x) k).store ∧
       t.cells[c].outs = k.outs ∧ OnlyCell s t c))

/-- R104, R110 to R116, R140: the oldest output of a cell lands where there is room: in the finished-tile queue under the next SEQ, in the data area with
its mark set, or among the partials; it leaves the outputs and its accumulator set is idle; without room it stays, marked refused. With it land its outlier block
and its full copy, each in the next free slot of its ring, under the same SEQ (R199, R200). A gradient tile that it finishes is noted for Bramble (R339). The outputs of a reduce cell have a row of their own.
Model's choice: log entries 31, 131 and 142. -/
def Obligations.OutputsLandInOrder : Prop :=
  (∀ (c : Fin 1024) (o : OutTile) (rest : List OutTile) (s : State), fPers s.cells[c].active.bytes ≠ 2 → s.cells[c].outs = o :: rest →
    s.cells[c].held = none → s.cells[c].noRoom o = false → s.cells[c].landsInside o = true →
    ∃ t, exec (.tileDrainDone c) s = .next t ∧ Landed s t c o rest) ∧
  (∀ (c : Fin 1024) (o : OutTile) (rest : List OutTile) (s : State), fPers s.cells[c].active.bytes ≠ 2 → s.cells[c].outs = o :: rest →
    s.cells[c].noRoom o = true → ∃ t, exec (.tileDrainDone c) s = .next t ∧
      t.cells[c] = { s.cells[c] with outs := { o with refused := true } :: rest } ∧ OnlyCell s t c) ∧
  (∀ (c : Fin 1024) (o : OutTile) (rest : List OutTile) (s : State), fPers s.cells[c].active.bytes = 2 → s.cells[c].outs = o :: rest →
    s.cells[c].held = none → s.cells[c].noRoom o = false → s.cells[c].landsInside o = true →
    ∃ t, exec (.recordBlockOutput c) s = .next t ∧ Landed s t c o rest) ∧
  (∀ (c : Fin 1024) (o : OutTile) (rest : List OutTile) (s : State), fPers s.cells[c].active.bytes = 2 → s.cells[c].outs = o :: rest →
    s.cells[c].noRoom o = true → ∃ t, exec (.recordBlockOutput c) s = .next t ∧
      t.cells[c] = { s.cells[c] with outs := { o with refused := true } :: rest } ∧ OnlyCell s t c) ∧
  (∀ (c : Fin 1024) (s : State), fPers s.cells[c].active.bytes = 2 → exec (.tileDrainDone c) s = .next s) ∧
  (∀ (c : Fin 1024) (s : State), fPers s.cells[c].active.bytes ≠ 2 → exec (.recordBlockOutput c) s = .next s)

/-- R106, R107 and R265: a nest whose last step is done ends, its repeated records lose their marks, and a held START begins with its own operands. R108: a
nest that waits goes on once every mark it needs is set, and the cycles it waited are counted.
Model's choice: log entries 31 and 32. -/
def Obligations.NestsEndAndResume : Prop :=
  (∀ (c : Fin 1024) (n : Nest) (s : State), s.cells[c].nest = some n → n.stopped = false → n.waiting = false →
    nestDone s.cells[c].active.bytes n = true → s.cells[c].heldStart = none → s.cells[c].held = none →
    ∃ t, exec (.nestEnd c) s = .next t ∧ t.cells[c] = { s.cells[c].readRecords (s.cells[c].repeated s.cells[c].active.bytes n) with
        nest := none, heldStart := none } ∧
      (∀ o : Fin 1024, o ≠ c → t.cells[o] = s.cells[o]) ∧ t = { s with cells := t.cells, rt := t.rt }) ∧
  (∀ (c : Fin 1024) (n : Nest) (a : StartArgs) (i l : Nat) (s : State), s.cells[c].nest = some n → n.stopped = false → n.waiting = false →
    nestDone s.cells[c].active.bytes n = true → s.cells[c].heldStart = some a → s.cells[c].held = none → s.ownerOf c = some (i, l) →
    ∃ t, exec (.nestEnd c) s = .next t ∧ (∃ n', t.cells[c].nest = some n' ∧ n'.args = a ∧ n'.pos = 0) ∧ t.cells[c].heldStart = none ∧
      t.cells[c].store = s.cells[c].store ∧ t = { s with cells := t.cells, rt := t.rt, host := t.host }) ∧
  (∀ (c : Fin 1024) (n : Nest) (s : State), s.cells[c].nest = some n → n.waiting = true → n.stopped = false →
    (s.cells[c].needs s.cells[c].active.bytes n).all s.cells[c].present = true → ∃ t, exec (.nestResume c) s = .next t ∧
      t.cells[c].nest = some { n with waiting := false } ∧ (∃ v : Word, t.cells[c].waitCycles = satAdd s.cells[c].waitCycles v.toNat) ∧
      t.cells[c].store = s.cells[c].store ∧ (∀ o : Fin 1024, o ≠ c → t.cells[o] = s.cells[o]) ∧
      t = { s with cells := t.cells, job := t.job, free := t.free })

/-- R112 to R117: a tile sets out to a consumer for a credit, and without one it does not; at its consumer it stands in its ring slot, marked and held (a
tile of the mesh is written there whole, one of a handshake queue is there when its last word has come out); a slot read to its end is
released, unmarked, and its credit sets out to the producer, or is withheld under back-pressure or while its route is full; the oldest credit word of a route
that arrives is counted, and what was withheld for want of room follows. R200 and R201:
the oldest filled slot of an outlier ring is saved where the stack tier has its tile, and is free.
Model's choice: log entries 25 and 35. -/
def Obligations.TilesAndCreditsOfTheQueues : Prop :=
  ((∀ (c : Fin 1024) (k : Fin 4) (t0 : QTile) (n : Nat) (s : State), s.cells[c].nextSend k.val = some t0 →
    getKV (t0.cons.getD k.val 0) s.cells[c].credits = some (n + 1) →
    (s.cells[c].ftq.any fun x => x.dueTo (conQueue (t0.cons.getD k.val 0)) k.val) = false → ∃ t, exec (.ftqDeliver c k) s = .next t ∧
      getKV (t0.cons.getD k.val 0) t.cells[c].credits = some n ∧
      t.cells[c].ftq = upFirst (fun x => x.seq = t0.seq && x.word = t0.word) (fun x => { x with sent := setB x.sent k.val }) s.cells[c].ftq ∧
      OnlyCell s t c) ∧
  (∀ (c : Fin 1024) (k : Fin 4) (s : State), (∀ t0, s.cells[c].nextSend k.val = some t0 → (getKV (t0.cons.getD k.val 0) s.cells[c].credits).getD 0 = 0) →
    exec (.ftqDeliver c k) s = .next s)) ∧
  (∀ (c d : Fin 1024) (k : Fin 4) (t0 : QTile) (s : State), s.cells[c].nextArrival k.val = some t0 → s.cells[c].held = none →
    (let e := t0.cons.getD k.val 0
     s.consumerOf c e = some d → wordsInside (arrivalWord e t0) t0.words = true → (conQueued e = true → t0.words ≤ t0.got.getD k.val 0) →
     ∃ t, exec (.ringTileArrived c k) s = .next t ∧ t.cells[d].present (arrivalWord e t0) = true ∧
      t.cells[d].store = (if conQueued e then s.cells[d].store else
        s.cells[d].store.writeN (64 * arrivalWord e t0) (s.cells[c].store.readN (64 * t0.word) (64 * t0.words))) ∧
      (∃ r, t.cells[d].ringHeld = s.cells[d].ringHeld ++ [r] ∧ r.slot = arrivalWord e t0 ∧ r.read = false ∧ r.prod = c.val ∧ r.entry = e) ∧
      t = { s with cells := t.cells, free := t.free })) ∧
  (∀ (c : Fin 1024) (base : BitVec 15) (r : RingSlot) (s : State), s.cells[c].ringHeld.find? (fun x => decide (x.base = base.toNat) && x.read) = some r →
    s.cells[c].held = none → ∃ t, exec (.ringSlotRelease c base) s = .next t ∧ (∀ m ∈ t.cells[c].marks, m.word ≠ r.slot) ∧ r ∉ t.cells[c].ringHeld ∧
      (s.cells[c].backPressure = true → t.cells[c].withheld = s.cells[c].withheld ++ [(r.prod, r.entry)]) ∧
      (s.cells[c].backPressure = false → ∀ p : Fin 1024, p.val = r.prod → s.cells[p].creditRoom r.entry = true →
        t.cells[p].creditFlight = s.cells[p].creditFlight ++ [r.entry]) ∧
      (s.cells[c].backPressure = false → ∀ p : Fin 1024, p.val = r.prod → s.cells[p].creditRoom r.entry = false →
        t.cells[c].withheld = s.cells[c].withheld ++ [(r.prod, r.entry)]) ∧
      t = { s with cells := t.cells }) ∧
  (∀ (c : Fin 1024) (k : Fin 4) (e : Word) (s : State), s.cells[c].creditDue k.val = some e →
    ∃ t, exec (.creditReturnArrival c k) s = .next t ∧ (∃ l, t.cells[c].creditFlight = s.cells[c].creditFlight.erase e ++ l) ∧
      getKV e t.cells[c].credits = some ((getKV e s.cells[c].credits).getD 0 + 1) ∧
      (∀ d : Fin 1024, t.cells[d].store = s.cells[d].store ∧ (d ≠ c → t.cells[d].credits = s.cells[d].credits)) ∧ t = { s with cells := t.cells }) ∧
  (∀ (c : Fin 1024) (k : Fin 4) (e : Word) (s : State), s.cells[c].creditDue k.val = some e →
    (∀ d, s.consumerOf c e = some d → s.cells[d].backPressure = true ∨ s.cells[d].withheld = []) →
    exec (.creditReturnArrival c k) s = .next (s.upCell c fun p =>
      { p with creditFlight := p.creditFlight.erase e, credits := putKV e ((getKV e p.credits).getD 0 + 1) p.credits })) ∧
  (∀ (c : Fin 1024) (k : Fin 4) (s : State), s.cells[c].creditDue k.val = none → exec (.creditReturnArrival c k) s = .next s) ∧
  (∀ (c : Fin 1024) (full : Bool) (i : Nat) (rest : List Nat) (s : State), s.cells[c].held = none →
    (let f := s.cells[c].active.bytes
     let bs := if full then s.cells[c].store.readN (64 * (fullBase f + i * 67)) (64 * 67)
       else s.cells[c].store.readN (64 * (oblkBase f + i * oblkWords f)) (64 * oblkWords f)
     (if full then s.cells[c].fullFull else s.cells[c].oblkFull) = i :: rest → exec (.ringSlotDrained c full) s = .next ((s.saveSlot full bs).upCell c fun k =>
       if full then { k with fullFull := k.fullFull.drop 1 } else { k with oblkFull := k.oblkFull.drop 1 })))

/-- R92, R235, R282 and R338: an uncorrectable error under a nest flags the tiles that its next step feeds, sets the step's non-finite flag, is counted and
recorded, and a second within 24 h makes the cell FAILED; nothing else of the cell store or of another cell changes.
Model's choice: log entry 33. -/
def Obligations.CellStoreErrorFlagsItsTiles : Prop :=
  ∀ (c : Fin 1024) (n : Nest) (s : State), s.cells[c].nest = some n → ∃ t, exec (.cellStoreUe c) s = .next t ∧
    t.cells[c].nest = some { n with spoiled := n.feeds s.cells[c].active.bytes ++ n.spoiled } ∧ t.rt = { s.rt with nonfinite := true } ∧
    t.tiers.ueTotal = satAdd s.tiers.ueTotal 1 ∧
    (∃ e, t.tiers.errors = s.tiers.errors ++ [e] ∧ e.uncorrectable = true ∧ e.at_ = s.now ∧ e.loc.tier = .cell ∧ e.loc.unit = c.val) ∧
    ((∃ u ∈ s.cells[c].ueTimes, (s.now - u).toNat ≤ 24 * 3600000 * msU) → t.cells[c].health = .failed) ∧
    ((∀ u ∈ s.cells[c].ueTimes, 24 * 3600000 * msU < (s.now - u).toNat) → t.cells[c].health = s.cells[c].health) ∧
    t.cells[c].store = s.cells[c].store ∧ (∀ o : Fin 1024, o ≠ c → t.cells[o] = s.cells[o]) ∧
    t = { s with cells := t.cells, tiers := t.tiers, rt := t.rt, host := t.host, free := t.free }

/-! ### Placement and moves -/

/-- R237 and R246: a new binding asks each region that it would change to move, and no other; one that some region cannot have raises departure advice
for it, and without an image nothing is bound. R248, R249 and R377: a shed reply of the relay module answers a request that waits: a granted share
applies from the step named and holds back further requests for LATE_LIMIT steps, a refusal only ends the wait; with none waiting it does
nothing, and one from elsewhere is discarded and counted.
Model's choice: log entries 50 and 54. -/
def Obligations.RebindAndShedReply : Prop :=
  (∀ (im : Image) (b : Binding) (s : State), s.rt.image = some im → s.bindImage im = some b → ∃ t, exec .placementRebind s = .next t ∧
    (∀ i : Nat, i < s.rt.regions.length → (t.regionS i).cluster = (s.regionS i).cluster ∧
      (t.regionS i).moveTo = (if b.getD i none = (s.regionS i).cluster.map (fun c => (c, (s.regionS i).sym)) then none else b.getD i none)) ∧
    t = { s with rt := t.rt, sec := t.sec, host := t.host }) ∧
  (∀ (im : Image) (s : State), s.rt.image = some im → s.bindImage im = none → ∃ t, exec .placementRebind s = .next t ∧
    t.sec.departAdvice.getLsbD 1 = true ∧ t.rt.regions = s.rt.regions ∧ t = { s with rt := t.rt, sec := t.sec, host := t.host }) ∧
  (∀ s : State, s.rt.image = none → exec .placementRebind s = .next s) ∧
  (∀ (p : Fin 32) (k : Pkt) (r : ShedAns) (s : State), Arrives s p k → k.op = 0x10 → s.fab.mine p k = true → msgType k = 0x08 → msgKnown k = true →
    (s.fromRelay k = true → s.rt.shedWait = true → r.grant = true → exec (.shedReply p k r) s = .next (s.upRt fun x =>
      { x with shedWait := false, shareNext := some (r.firstStep, r.share.toNat), shedAgain := r.firstStep + BitVec.ofNat 64 s.job.p.lateLimit })) ∧
    (s.fromRelay k = true → s.rt.shedWait = true → r.grant = false → exec (.shedReply p k r) s = .next (s.upRt fun x => { x with shedWait := false })) ∧
    (s.fromRelay k = true → s.rt.shedWait = false → exec (.shedReply p k r) s = .next s) ∧
    (s.fromRelay k = false → ∃ t, exec (.shedReply p k r) s = .next t ∧ t.fab.ports[p] = { s.fab.ports[p] with discards := satAdd s.fab.ports[p].discards 1 } ∧
      (∀ q : Fin 32, q ≠ p → t.fab.ports[q] = s.fab.ports[q]) ∧ t = { s with fab := t.fab }))

/-- R240, R245, R263 and R273: a move asked for waits in order; the first that may begin claims a buffer of class M, and with it the stub of an object that
moves alone stands over both homes and the request is taken off. At the end of its copy the bytes stand at the new home, which the directory
names at the next generation, and tiles that could not be read are marked and set the step's non-finite flag; without its buffer the copy
waits. An error of the new home aborts the move and the object stays where it was.
Model's choice: log entries 51 and 52. -/
def Obligations.MoveStubAndFlip : Prop :=
  (∀ (obj : Word) (cause : MoveCause) (o : ObjS) (im : Image) (s : State), s.obj obj.toNat = some o → s.rt.image = some im → o.e.pin = false →
    o.home.inCell = false → s.rt.moveQueue.any (fun x => decide (x.1 = obj)) = false → s.moverPaused = true →
    exec (.moveAllocate obj cause) s = .next (s.upRt fun r => { r with moveQueue := r.moveQueue ++ [(obj, cause)] })) ∧
  (∀ (obj : Word) (cause : MoveCause) (o : ObjS) (im : Image) (s : State), s.obj obj.toNat = some o → s.rt.image = some im → o.e.pin = false →
    o.home.inCell = false → s.rt.moveQueue.any (fun x => decide (x.1 = obj)) = true → s.moverPaused = false → (s.moveGroup o).all s.mayMove = true →
    s.mover.bufOf (.move obj) = none → s.firstRequest.map (·.1) = some obj →
    exec (.moveAllocate obj cause) s = .next (s.upMover fun m => m.claim (.move obj))) ∧
  (∀ (obj : Word) (cause : MoveCause) (o : ObjS) (im : Image) (h : Home) (b : Fin 128 × StageBuf) (s : State), s.obj obj.toNat = some o →
    s.rt.image = some im → s.rt.moveQueue.any (fun x => decide (x.1 = obj)) = true → s.moverPaused = false → s.moveGroup o = [o] → s.mayMove o = true →
    s.mover.bufOf (.move obj) = some b → s.newHomes im [o] = some [(obj, h)] →
    ∃ t, exec (.moveAllocate obj cause) s = .next t ∧ t = { s with rt := t.rt } ∧
      t.obj obj.toNat = some { o with move := some { cause := cause, oldHome := o.home, newHome := h, flipped := false, log := [], unacked := [], count := 0,
                                                     told := [], drained := [], confirmed := false, heldNew := [], lost := [] } } ∧
      t.rt.moveQueue.any (fun x => decide (x.1 = obj)) = false) ∧
  (∀ (obj : Word) (un : List Nat) (o : ObjS) (m : MoveS) (s : State), s.obj obj.toNat = some o → o.move = some m → m.flipped = false →
    s.copyHeld o = true → ∃ t, exec (.moveCopyDone obj un false) s = .next t ∧ t = { s with rt := t.rt, tiers := t.tiers, mover := t.mover } ∧
      t.tiers = s.tiers.writeHome m.newHome 0 (s.tiers.readHome m.oldHome 0 o.size) ∧
      t.obj obj.toNat = some { o with home := m.newHome, gen := o.gen + 1, move := some { m.forward with flipped := true }
                                      bad := o.bad ++ (un ++ m.lost).filter fun x => decide (x < o.e.tiles) } ∧
      t.rt.nonfinite = (s.rt.nonfinite || !un.isEmpty)) ∧
  (∀ (obj : Word) (un : List Nat) (o : ObjS) (m : MoveS) (s : State), s.obj obj.toNat = some o → o.move = some m → m.flipped = false →
    s.copyHeld o = false → exec (.moveCopyDone obj un false) s = .next s) ∧
  (∀ (obj : Word) (un : List Nat) (o : ObjS) (m : MoveS) (s : State), s.obj obj.toNat = some o → o.move = some m → m.flipped = false →
    ∃ t, exec (.moveCopyDone obj un true) s = .next t ∧ t = { s with rt := t.rt, tiers := t.tiers, mover := t.mover } ∧
      (∃ o', t.obj obj.toNat = some o' ∧ o'.home = o.home ∧ o'.gen = o.gen ∧ o'.move = none))

/-- R240 to R242 and R245: a unit of the sender set is told once; once told, with nothing it tagged g unacknowledged, it is drained once; when every unit of the
set is drained the confirmation reaches the stub, which retires with its count at zero. An arrival of the stub's generation is logged, and
forwarded after the flip; one of the present generation reaches the home, or is held there while forwards are unacknowledged; one of another
is a placement fault that voids the step. The new home applies the forwards in their order, and after the last what it held.
Model's choice: log entry 51. -/
def Obligations.StubsServeUntilTheyRetire : Prop :=
  ((∀ (unit : SenderUnit) (obj : Word) (o : ObjS) (m : MoveS) (s : State), s.obj obj.toNat = some o → o.move = some m → m.flipped = true →
    unit ∈ s.senderSet o → unit ∉ m.told → ∃ t, exec (.flipNotice unit obj) s = .next t ∧ t = { s with rt := t.rt } ∧
      t.obj obj.toNat = some { o with move := some { m with told := m.told ++ [unit] } }) ∧
  (∀ (unit : SenderUnit) (obj : Word) (o : ObjS) (m : MoveS) (s : State), s.obj obj.toNat = some o → o.move = some m → m.flipped = true →
    unit ∈ s.senderSet o → unit ∈ m.told → unit ∉ m.drained → (∀ a ∈ m.log ++ m.unacked, senderOf a ≠ unit) →
    ∃ t, exec (.drainedMsg unit obj) s = .next t ∧ t = { s with rt := t.rt } ∧
      t.obj obj.toNat = some { o with move := some { m with drained := m.drained ++ [unit] } }) ∧
  (∀ (unit : SenderUnit) (obj : Word) (a : Arrival) (o : ObjS) (m : MoveS) (s : State), s.obj obj.toNat = some o → o.move = some m →
    a ∈ m.log ++ m.unacked → senderOf a = unit → ∃ t, exec (.drainedMsg unit obj) s = .next t ∧ t.obj obj.toNat = some o) ∧
  (∀ (obj : Word) (o : ObjS) (m : MoveS) (s : State), s.obj obj.toNat = some o → o.move = some m → s.allDrained o m = true →
    ∃ t, exec (.retireConfirm obj) s = .next t ∧ t = { s with rt := t.rt } ∧
      t.obj obj.toNat = some { o with move := if m.count = 0 then none else some { m with confirmed := true } }) ∧
  (∀ (obj : Word) (o : ObjS) (m : MoveS) (s : State), s.obj obj.toNat = some o → o.move = some m → s.allDrained o m = false → m.confirmed = false →
    ∃ t, exec (.retireConfirm obj) s = .next t ∧ t.obj obj.toNat = some o)) ∧
  ((∀ (obj : Word) (a : Arrival) (o : ObjS) (m : MoveS) (s : State), s.obj obj.toNat = some o → o.move = some m → senderOf a ∉ m.drained →
    ∃ t, exec (.stubArrival obj (if m.flipped then o.gen - 1 else o.gen) a) s = .next t ∧ t = { s with rt := t.rt } ∧
      t.obj obj.toNat = some { o with move := some (if m.flipped then { m with unacked := m.unacked ++ (m.log ++ [a]), log := [], count := m.count + 1 }
        else { m with log := m.log ++ [a], count := m.count + 1 }) }) ∧
  (∀ (obj : Word) (a : Arrival) (o : ObjS) (m : MoveS) (s : State), s.obj obj.toNat = some o → o.move = some m → m.flipped = true →
    (m.unacked = [] → exec (.stubArrival obj o.gen a) s = .next (s.applyArr o.e.id o.home a)) ∧
    (m.unacked ≠ [] → ∃ t, exec (.stubArrival obj o.gen a) s = .next t ∧ t = { s with rt := t.rt } ∧
      t.obj obj.toNat = some { o with move := some { m with heldNew := m.heldNew ++ [a] } })) ∧
  (∀ (obj : Word) (a : Arrival) (o : ObjS) (s : State), s.obj obj.toNat = some o → o.move = none →
    exec (.stubArrival obj o.gen a) s = .next (s.applyArr o.e.id o.home a)) ∧
  (∀ (obj : Word) (g : Half) (a : Arrival) (o : ObjS) (s : State), s.obj obj.toNat = some o → g ≠ o.gen → (o.move.isSome = true → g ≠ o.gen - 1) →
    ∃ t, exec (.stubArrival obj g a) s = .next t ∧ t.rt = { s.rt with placementFaults := s.rt.placementFaults + 1, nonfinite := true } ∧
      t = { s with rt := t.rt }) ∧
  (∀ (obj : Word) (a : Arrival) (rest : List Arrival) (o : ObjS) (m : MoveS) (s : State), s.obj obj.toNat = some o → o.move = some m →
    m.unacked = a :: rest → m.confirmed = false → ∃ t, exec (.forwardAck obj) s = .next t ∧
      t.tiers = (if rest = [] then (s.applyArr obj.toNat m.newHome a).applyAll obj.toNat m.newHome m.heldNew else s.applyArr obj.toNat m.newHome a).tiers ∧
      t = { s with rt := t.rt, tiers := t.tiers, mover := t.mover } ∧
      (∃ o', t.obj obj.toNat = some o' ∧ o'.home = o.home ∧ o'.gen = o.gen ∧
        o'.move = some { m with unacked := rest, count := m.count - 1, heldNew := if rest = [] then [] else m.heldNew })) ∧
  (∀ (obj : Word) (a : Arrival) (o : ObjS) (m : MoveS) (s : State), s.obj obj.toNat = some o → o.move = some m →
    m.unacked = [a] → m.confirmed = true → m.count = 1 → ∃ t, exec (.forwardAck obj) s = .next t ∧
      (∃ o', t.obj obj.toNat = some o' ∧ o'.home = o.home ∧ o'.move = none)))

/-! ### The tile mover and the tiers -/

/-- R268 and R269: the next entry of the schedule begins when it may. R263 and R265: the next record of an active entry, its object not moving, is written
into its cell and marked, poisoned where it could not be read; through the hub die it claims a buffer first. R242 and R270: from an object
that moves its spans are asked for, and nothing is delivered yet. R261: a write-back takes a marked record from its cell, clears its mark and
writes it to the object's home, through the hub die from its buffer, or marks the tile unreadable where its buffer lost it.
Model's choice: log entries 56, 57 and 58. -/
def Obligations.PrefetchEntriesAndRecords : Prop :=
  (∀ (im : Image) (i : Nat) (e : PfE) (s : State), s.rt.image = some im → (pfOrder im)[s.mover.begun]? = some i → im.prefetch[i]? = some e →
    s.mayBegin e = true → e.tileCount ≠ 0 → ∃ t, exec .prefetchEntryBegin s = .next t ∧ t = { s with mover := t.mover } ∧
      t.mover = { s.mover with begun := s.mover.begun + 1,
                               active := s.mover.active ++ [{ index := i, done := 0, obj := e.obj, reading := false, asked := [], data := [] }] }) ∧
  (∀ (entry : Word) (ue : Bool) (r : PfRun) (e : PfE) (o : ObjS) (c : Fin 1024) (s : State),
    s.mover.active.find? (fun x => decide (x.index = entry.toNat)) = some r → s.pfE entry.toNat = some e → s.obj e.obj = some o → s.pfCell e = some c →
    e.use ≠ 2 → s.rowsBusy o = false → s.earlierFirst entry.toNat c = false →
    s.cells[c].takes (pfWord e o.e r.done) (ceilDiv (tileBytes o.e) 64) = true →
    ((o.move = none → r.reading = false → s.job.replay = false → wordsInside (pfWord e o.e r.done) (ceilDiv (tileBytes o.e) 64) = true →
      ((o.e.kind = 6 ∨ viaHub o.home (tilePieces o.e s.medlar.u.toNat (pfTile e r.done)) c = true) → (s.mover.bufOf (.prefetch entry.toNat r.done)).isSome = true) →
      ∃ t, exec (.prefetchRecordWrite entry ue) s = .next t ∧
      t.cells[c].store = s.cells[c].store.writeN (64 * pfWord e o.e r.done) (s.readTile o (pfTile e r.done)) ∧
      t.cells[c].present (pfWord e o.e r.done) = true ∧ (ue = true → t.cells[c].poisoned (pfWord e o.e r.done) = true) ∧
      (∀ x : Fin 1024, x ≠ c → t.cells[x] = s.cells[x]) ∧
      t.mover = (s.mover.land (.prefetch entry.toNat r.done)).advance entry.toNat e.tileCount ∧ t = { s with cells := t.cells, mover := t.mover }) ∧
    ((o.e.kind = 6 ∨ viaHub o.home (tilePieces o.e s.medlar.u.toNat (pfTile e r.done)) c = true) → r.reading = false →
      s.mover.bufOf (.prefetch entry.toNat r.done) = none →
      exec (.prefetchRecordWrite entry ue) s = .next { s with mover := s.mover.claim (.prefetch entry.toNat r.done) }) ∧
    (∀ m : MoveS, o.move = some m → m.flipped = false → r.reading = false → r.obj = e.obj → o.e.kind ≠ 6 →
      tilePieces o.e s.medlar.u.toNat (pfTile e r.done) ≠ [] →
      (viaHub o.home (tilePieces o.e s.medlar.u.toNat (pfTile e r.done)) c = true → (s.mover.bufOf (.prefetch entry.toNat r.done)).isSome = true) →
      ∃ t, exec (.prefetchRecordWrite entry ue) s = .next t ∧
        (∃ r' ∈ t.mover.active, r'.index = entry.toNat ∧ r'.reading = true ∧ r'.asked = tilePieces o.e s.medlar.u.toNat (pfTile e r.done)) ∧
        t = { s with rt := t.rt, mover := t.mover }))) ∧
  (∀ (entry : Word) (r : PfRun) (e : PfE) (o : ObjS) (c : Fin 1024) (s : State),
    s.mover.active.find? (fun x => decide (x.index = entry.toNat)) = some r → s.pfE entry.toNat = some e → s.obj e.obj = some o → s.pfCell e = some c →
    e.use = 2 → s.cells[c].present (pfWord e o.e r.done) = true →
    (let ps := tilePieces o.e s.medlar.u.toNat (pfTile e r.done)
     let bs := s.cells[c].store.readN (64 * pfWord e o.e r.done) (tileBytes o.e)
     (viaHub o.home ps c = false → ∃ t, exec (.writeBackRead entry) s = .next t ∧ (∀ x ∈ t.cells[c].marks, x.word ≠ pfWord e o.e r.done) ∧
      t.tiers = (s.writeTile .mover e.obj ps bs).tiers ∧ t.rt = (s.writeTile .mover e.obj ps bs).rt ∧
      t = { s with cells := t.cells, mover := t.mover, tiers := t.tiers, rt := t.rt }) ∧
     (∀ b : Fin 128 × StageBuf, viaHub o.home ps c = true → s.mover.bufOf (.writeBack entry.toNat r.done) = some b → b.2.bad = false →
      ∃ t, exec (.writeBackRead entry) s = .next t ∧ (∀ x ∈ t.cells[c].marks, x.word ≠ pfWord e o.e r.done) ∧
      t.tiers = (s.writeTile .mover e.obj ps bs).tiers ∧ t.rt = (s.writeTile .mover e.obj ps bs).rt ∧
      t.mover = (s.mover.land (.writeBack entry.toNat r.done)).advance r.index e.tileCount ∧
      t = { s with cells := t.cells, mover := t.mover, tiers := t.tiers, rt := t.rt }) ∧
     (∀ b : Fin 128 × StageBuf, viaHub o.home ps c = true → s.mover.bufOf (.writeBack entry.toNat r.done) = some b → b.2.bad = true →
      ∃ t, exec (.writeBackRead entry) s = .next t ∧ (∀ x ∈ t.cells[c].marks, x.word ≠ pfWord e o.e r.done) ∧ t.rt.nonfinite = true ∧
      (∃ o', t.obj e.obj = some o' ∧ pfTile e r.done ∈ o'.bad) ∧ t = { s with cells := t.cells, mover := t.mover, rt := t.rt }) ∧
     (viaHub o.home ps c = true → s.mover.bufOf (.writeBack entry.toNat r.done) = none →
      exec (.writeBackRead entry) s = .next { s with mover := s.mover.claim (.writeBack entry.toNat r.done) })))

/-- R272 and R273: a grant gives a free buffer to the claim that is served next and uses that claim up; frames that waited for it are placed, and a drain that
waited for it goes on. A buffer whose record has landed returns, another stays. A buffer whose record fails once is freed and its record
claims another one; the second time it counts as an unreadable record of its source.
Model's choice: log entry 59. -/
def Obligations.StagingBuffersGrantedAndReturned : Prop :=
  (∀ (cl : StageClass) (q : Claim) (b : Fin 128) (s : State), s.grantClass = some cl → s.nextClaim cl = some q → s.mover.freeBuf q.failed = some b →
    ((∀ i : Nat, q.work ≠ .frames i) → (∀ u ∈ s.sec.units, q.work ≠ .drain u.step ∧ s.mover.bufOf (.drain u.step) = none) →
      ∃ t, exec .stagingGrant s = .next t ∧ t.mover.bufs[b] = some { work := q.work, again := q.failed.isSome, bad := false, landed := false } ∧
        t.mover.claims = s.mover.claims.erase q ∧ (∀ x : Fin 128, x ≠ b → t.mover.bufs[x] = s.mover.bufs[x]) ∧ t = { s with mover := t.mover }) ∧
    (∀ i : Nat, q.work = .frames i → s.sec.units = [] →
      exec .stagingGrant s = .next (((s.upMover fun m => m.give b q).placeFrames i).upMover fun m => m.land (.frames i))) ∧
    (∀ (u : SecUnit) (rest : List SecUnit), s.sec.units = u :: rest → q.work = .drain u.step →
      exec .stagingGrant s = .next (s.upMover fun m => m.give b q).drainOn)) ∧
  (∀ s : State, s.grantClass = none → s.sec.units = [] → exec .stagingGrant s = .next s) ∧
  (∀ (b : Fin 128) (x : StageBuf) (s : State), s.mover.bufs[b] = some x → x.landed = true →
    ∃ t, exec (.stagingBufferReturn b) s = .next t ∧ t.mover.bufs[b] = none ∧
    (∀ y : Fin 128, y ≠ b → t.mover.bufs[y] = s.mover.bufs[y]) ∧ t.mover.claims = s.mover.claims ∧ t = { s with mover := t.mover }) ∧
  (∀ (b : Fin 128) (x : StageBuf) (s : State), s.mover.bufs[b] = some x → x.landed = false → exec (.stagingBufferReturn b) s = .next s) ∧
  (∀ (b : Fin 128) (x : StageBuf) (s : State), s.mover.bufs[b] = some x → x.landed = false → x.again = false →
    ∃ t, exec (.stagingBufferUe b) s = .next t ∧ t.mover.bufs[b] = none ∧ t.mover.claims = s.mover.claims ++ [{ work := x.work, failed := some b }] ∧
      t.tiers.ueTotal = satAdd s.tiers.ueTotal 1 ∧ (∃ e, t.tiers.errors = s.tiers.errors ++ [e] ∧ e.loc.tier = .staging ∧ e.loc.unit = b.val) ∧
      t = { s with mover := t.mover, tiers := t.tiers }) ∧
  (∀ (b : Fin 128) (x : StageBuf) (s : State), s.mover.bufs[b] = some x → x.landed = false → x.again = true →
    ∃ t, exec (.stagingBufferUe b) s = .next t ∧ t.tiers.ueTotal = satAdd s.tiers.ueTotal 1 ∧
      ((∀ w : Word, x.work ≠ .rows w) → t.mover.bufs[b] = some { x with bad := true }) ∧
      (∀ (w : Word) (o : ObjS), x.work = .move w → s.obj w.toNat = some o →
        ((s.moveGroup o).any fun y => (y.move.map fun m => !m.flipped).getD false) = true → t.rt.nonfinite = true))

/-- R272: a buffer goes to a class at or above its floor only when no class that may take one is below its floor with a claim that a free buffer can serve. -/
def Obligations.FloorsAreServedFirst : Prop :=
  ∀ (c c' : StageClass) (s : State), s.grantClass = some c → s.mover.floor c ≤ s.mover.held c → (s.nextClaim c').isSome = true →
    (s.moverPaused = false ∨ c' = .m) → s.mover.floor c' ≤ s.mover.held c'

/-- R274: floors that sum to more than 128, or of which one is below 4, are refused when the lock is set: the reset floors come into force and
FLOOR_ERR is set; other floors come into force as written.
Model's choice: log entry 125. -/
def Obligations.StageFloorsTakenAtTheLock : Prop :=
  ∀ (s : State), s.host.linkUp = true → s.host.cfgReady = true → s.host.deviceReady = true → s.regs.lock = false →
    ∃ t, exec (.setupLock 1) s = .next t ∧ t.regs.lock = true ∧
      (let p := s.mover.pFloor.toNat
       let d := s.mover.dFloor.toNat
       let m := s.mover.mFloor.toNat
       if p + d + m > 128 ∨ p < 4 ∨ d < 4 ∨ m < 4 then t.mover.floorP = 64 ∧ t.mover.floorD = 16 ∧ t.mover.floorM = 8 ∧ t.mover.floorErr = true
       else t.mover.floorP = p ∧ t.mover.floorD = d ∧ t.mover.floorM = m ∧ t.mover.floorErr = s.mover.floorErr)

/-- R281 and R282: a corrected error of a location that exists is counted and recorded, and so is one that a patrol scrub corrects; a scrub without one changes
nothing. R283: an uncorrectable error is counted and recorded; it poisons the cell record that it feeds, and a stack or device whose channel does
not respond is FAILED. A location that no tier has stops the command by name. R280: a wipe that completes once the keys are loaded leaves
its tier without content and sets its bit. R214 and R215: the inputs of a waiting step take a free retention slot through a buffer of class P, and claim
one where they have none.
Model's choice: log entries 13, 62 and 137. -/
def Obligations.MemoryErrorsWipesAndRetention : Prop :=
  ((∀ (l : ErrLoc) (s : State), locValid l = true → ∃ t, exec (.correctedError l) s = .next t ∧ t.tiers.ceTotal = satAdd s.tiers.ceTotal 1 ∧
    t.tiers.errors = s.tiers.errors ++ [{ loc := l, uncorrectable := false, at_ := s.now }] ∧ t.tiers.stackMem = s.tiers.stackMem ∧
    t.tiers.ueTotal = s.tiers.ueTotal ∧ t.queues = s.queues) ∧
  (∀ (l : ErrLoc) (s : State), locValid l = true → (l.tier = .stack ∨ l.tier = .capacity ∨ l.tier = .flash) →
    ∃ t, exec (.patrolScrub l true) s = .next t ∧ t.tiers.ceTotal = satAdd s.tiers.ceTotal 1 ∧
    t.tiers.errors = s.tiers.errors ++ [{ loc := l, uncorrectable := false, at_ := s.now }] ∧ t.tiers.stackMem = s.tiers.stackMem ∧ t.queues = s.queues) ∧
  (∀ (l : ErrLoc) (s : State), locValid l = true → exec (.patrolScrub l false) s = .next s) ∧
  (∀ (l : ErrLoc) (f : UeFeeds) (s : State), locValid l = true → ∃ t, exec (.memoryUe l f) s = .next t ∧ t.tiers.ueTotal = satAdd s.tiers.ueTotal 1 ∧
    t.tiers.errors = s.tiers.errors ++ [{ loc := l, uncorrectable := true, at_ := s.now }] ∧ t.queues = s.queues ∧
    (∀ (c : Fin 1024) (pos : BitVec 15), f = .cellRecord c pos → s.job.replay = false →
      t.cells[c].marks = s.cells[c].marks.map fun m => if m.word = pos.toNat then { m with poison := true } else m) ∧
    (∀ k : Fin 12, f = .noResponse → l.tier = .stack → k.val = l.unit → t.tiers.stkUnits[k].health = .failed) ∧
    (∀ d : Fin 24, f = .noResponse → l.tier = .capacity → d.val = l.unit → t.tiers.devUnits[d].health = .failed)) ∧
  (∀ (l : ErrLoc) (f : UeFeeds) (b : Bool) (s : State), locValid l = false → exec (.correctedError l) s = .fault .noSuchLocation ∧
    exec (.patrolScrub l b) s = .fault .noSuchLocation ∧ exec (.memoryUe l f) s = .fault .noSuchLocation)) ∧
  ((∀ s : State, s.tiers.keysSet = true → s.tiers.wipeStk = false →
    exec (.tierWipeDone .stk) s = .next (s.upTiers fun x => { x with stackMem := [], wipeStk := true })) ∧
  (∀ s : State, s.tiers.keysSet = true → s.tiers.wipeCap = false →
    exec (.tierWipeDone .cap) s = .next (s.upTiers fun x => { x with capMem := [], partnerMem := [], wipeCap := true })) ∧
  (∀ s : State, s.tiers.keysSet = true → s.tiers.wipeCell = false → ∃ t, exec (.tierWipeDone .cell) s = .next t ∧ t.tiers.wipeCell = true ∧
    (∀ c : Fin 1024, t.cells[c].store = [] ∧ t.cells[c].marks = []) ∧ (∀ b : Fin 128, t.mover.bufs[b] = none) ∧
    t = { s with cells := t.cells, mover := t.mover, tiers := t.tiers }) ∧
  (∀ (w : WipeTier) (s : State), s.tiers.keysSet = false → exec (.tierWipeDone w) s = .next s)) ∧
  (∀ (r : RetSlot) (rest : List RetSlot) (s : State), s.tiers.retWait = r :: rest → s.tiers.retention.length < 2 →
    (∀ b : Fin 128 × StageBuf, s.mover.bufOf (.retention r.step) = some b → ∃ t, exec .retentionWrite s = .next t ∧
      t.tiers = { s.tiers with retention := s.tiers.retention ++ [{ r with bad := b.2.bad }], retWait := rest } ∧
      t.mover = s.mover.land (.retention r.step) ∧ t = { s with tiers := t.tiers, mover := t.mover }) ∧
    (s.mover.bufOf (.retention r.step) = none → exec .retentionWrite s = .next { s with mover := s.mover.claim (.retention r.step) })) ∧
  (∀ s : State, 2 ≤ s.tiers.retention.length → exec .retentionWrite s = .next s)

/-! ### The update engine -/

/-- R36, R37 and R306: the pass begins at a decision of update once the step sizes are there and the buffer is free, with the scalars of every group and the
objects to do; without the step sizes it waits. R287 and R299 to R302: a stack's Medlar does the next unit of its next object, which is counted on
the object and written into the object's own home; while the object's outbox is held it waits; a block of listed rows of the stack tier is done
likewise, and one of the capacity tier through a buffer of class P, which it claims where it has none.
Model's choice: log entry 66. -/
def Obligations.UpdatePassBeginsAndAdvances : Prop :=
  ((∀ (r : StepSizeRec) (s : State), s.medlar.inUse = some r → s.job.stage = .stage5 → s.medlar.passOn = false → s.sec.bufferFree = true →
    ∃ t, exec .updatePassStart s = .next t ∧ t.medlar.passOn = true ∧ t.medlar.u = s.medlar.u ∧ t.medlar.pass = s.passList ∧
      (∀ g : Fin 64, t.medlar.scalars[g.val]? = some (scalarsOf (s.groupOf g.val) (r.eta.getD g.val 0) s.medlar.clip s.medlar.u)) ∧
      t = { s with medlar := t.medlar }) ∧
  (∀ s : State, s.medlar.inUse = none → exec .updatePassStart s = .next s) ∧
  (∀ s : State, s.sec.bufferFree = false → exec .updatePassStart s = .next s)) ∧
  ((∀ (k : Fin 12) (p : PassObj) (o : ObjS) (s : State), s.nextPass k = some (p, o) → s.medlar.passOn = true → s.medlarStub o = false →
    s.windowed o = false → o.e.kind ≠ 5 → s.medlar.outboxHeld p.obj = false → ∃ t, exec (.medlarUnit k) s = .next t ∧
      t.medlar.pass = (s.medlar.unitDone (BitVec.ofNat 32 o.e.id) (s.unitsOf o) (childOf 1 s.objTable o.e.id).isSome).pass ∧
      t.tiers = (s.updateUnit k o p.done).tiers ∧ t.medlar.u = s.medlar.u ∧ t.medlar.outboxSince[k] = none ∧
      t = { s with tiers := t.tiers, medlar := t.medlar, job := t.job, host := t.host }) ∧
  (∀ (k : Fin 12) (p : PassObj) (o : ObjS) (s : State), s.nextPass k = some (p, o) → s.medlar.passOn = true → s.medlarStub o = false →
    s.windowed o = false → o.e.kind ≠ 5 → s.medlar.outboxHeld p.obj = true → ∃ t, exec (.medlarUnit k) s = .next t ∧
      t.medlar.outboxSince[k] = some (s.medlar.outboxSince[k].getD s.now) ∧ t.medlar.pass = s.medlar.pass ∧ t = { s with medlar := t.medlar }) ∧
  (∀ (k : Fin 12) (p : PassObj) (o g : ObjS) (s : State), s.nextPass k = some (p, o) → s.medlar.passOn = true → s.medlarStub o = false →
    s.windowed o = false → o.e.kind = 5 → s.gradFor o = some g → ∃ t, exec (.medlarUnit k) s = .next t ∧
      t.medlar.pass = (s.medlar.unitDone (BitVec.ofNat 32 o.e.id) (s.unitsOf o) false).pass ∧ t.tiers = (s.updateRows k o p.done).tiers ∧
      t = { s with tiers := t.tiers, medlar := t.medlar, host := t.host }) ∧
  (∀ (obj : Word) (k : Fin 12) (p : PassObj) (o o' g : ObjS) (s : State), s.obj obj.toNat = some o → s.medlarOf o = some k → s.nextPass k = some (p, o') →
    p.obj = obj → s.medlar.passOn = true → o.e.kind = 5 → s.windowed o = true → s.medlarStub o = false → s.gradFor o = some g →
    (∀ b : Fin 128 × StageBuf, s.mover.bufOf (.rows obj) = some b → b.2.bad = false → ∃ t, exec (.rowWindowBlock obj) s = .next t ∧
      t.medlar.pass = (s.medlar.unitDone (BitVec.ofNat 32 o.e.id) (s.unitsOf o) false).pass ∧ t.tiers = (s.updateRows k o p.done).tiers ∧
      t.mover = s.mover.land (.rows obj) ∧ t = { s with tiers := t.tiers, medlar := t.medlar, mover := t.mover, host := t.host }) ∧
    (s.mover.bufOf (.rows obj) = none → exec (.rowWindowBlock obj) s = .next { s with mover := s.mover.claim (.rows obj) })))

/-- R302, R342 and R343: the outbox of a finished object is handed off once: the object leaves the pass and its outbox is held; the release that follows when
both transfers have read it frees it.
Model's choice: log entry 67. -/
def Obligations.OutboxHandedOffAndReleased : Prop :=
  (∀ (obj : Word) (o w : ObjS) (s : State), s.obj obj.toNat = some o →
    s.rt.objects.find? (fun x => decide (x.e.kind = 1) && decide (x.e.parent = o.e.id)) = some w → s.medlar.passOn = true →
    s.medlar.pass.any (fun p => decide (p.obj = obj) && decide (p.done ≥ s.unitsOf o)) = true →
    ∃ t, exec (.outboxHandoff obj) s = .next t ∧ t.medlar = { s.medlar with pass := s.medlar.pass.filter fun p => decide (p.obj ≠ obj),
                                                                             outboxes := s.medlar.outboxes ++ [obj] } ∧
      t.cells = s.cells ∧ t.queues = s.queues ∧ t.pwr = s.pwr) ∧
  (∀ (obj : Word) (s : State), exec (.outboxRelease obj) s =
    .next (s.upMedlar fun m => { m with outboxes := m.outboxes.filter fun x => decide (x ≠ obj) }))


/-! ### Paline: ports and links -/

/-- R353, R354 and R358: a bring-up or retrain whose lanes are there, whose delay fits and whose partner offers a level ends with the port up, at the
lower level, with what the partner exchanged, its credits and what the module sent; on the upstream port the delay is measured anew. One that lacks
something leaves the port down with the reason. A port that is down tries again 100 ms after it last tried. A retrain is counted within an hour;
what waited at the port, or was sent and not acknowledged, is queued at the ports that its buckets now have; more than eight raise departure advice, and after 100 ms it fails.
Model's choice: log entries 79 and 80. -/
def Obligations.PortsComeUpAndRetrain : Prop :=
  (∀ (p : Fin 32) (x : PortXchg) (s : State), s.lit = true → (s.fab.ports[p].st = .training ∨ s.fab.ports[p].st = .retraining) → x.lanes = 0xFF →
    x.delay.toNat ≤ 4800 → x.partnerLevel ≠ 0 → ∃ t, exec (.portUp p x) s = .next t ∧ t.fab.ports[p].st = .up ∧
      t.fab.ports[p].level = s.fab.linkLevel x.partnerLevel ∧ t.fab.ports[p].partnerMod = x.partnerMod ∧
      t.fab.ports[p].partnerPort = x.partnerPort ∧ t.fab.ports[p].partnerFw = x.partnerFw ∧ t.fab.ports[p].delay = x.delay ∧
      t.fab.ports[p].sentId = s.fab.modId ∧ t.fab.ports[p].sentLevel = s.fab.offer ∧ t.fab.ports[p].sentFw = s.quince.fwVersion ∧
      t.fab.ports[p].credits = #v[x.credits.1, x.credits.2.1, x.credits.2.2.1, x.credits.2.2.2] ∧
      t.time.msgsSinceDelay = (if s.time.upstream.toNat = p.val then 1024 else s.time.msgsSinceDelay) ∧
      (∀ o : Fin 32, o ≠ p → t.fab.ports[o] = s.fab.ports[o]) ∧ t = { s with time := t.time, fab := t.fab }) ∧
  (∀ (p : Fin 32) (x : PortXchg) (s : State), s.lit = true → (s.fab.ports[p].st = .training ∨ s.fab.ports[p].st = .retraining) →
    (x.lanes ≠ 0xFF ∨ 4800 < x.delay.toNat ∨ x.partnerLevel = 0) → ∃ t, exec (.portUp p x) s = .next t ∧ t.fab.ports[p].st = .downLost ∧
      t.fab.ports[p].reason = (if x.lanes ≠ 0xFF then 4 else if 4800 < x.delay.toNat then 5 else 6) ∧ t.fab.ports[p].trainSince = s.now ∧
      (∀ o : Fin 32, o ≠ p → t.fab.ports[o] = s.fab.ports[o]) ∧ t = { s with fab := t.fab }) ∧
  (∀ (p : Fin 32) (s : State), s.lit = true → (s.fab.ports[p].st = .downLost ∨ s.fab.ports[p].st = .downPlanned) → s.fab.portEn.getLsbD p.val = true →
    ∃ t, exec (.portBringupRetry p) s = .next t ∧ t.fab.ports[p].st = .training ∧
      t.now = (s.advanceTo (after s.fab.ports[p].trainSince (100 * msU))).now ∧ t.fab.ports[p].trainSince = t.now ∧
      (∀ o : Fin 32, o ≠ p → t.fab.ports[o] = s.fab.ports[o]) ∧ t = { s with time := t.time, fab := t.fab }) ∧
  (∀ (p : Fin 32) (s : State), s.fab.ports[p].st = .up → ∃ t, exec (.portRetrain p) s = .next t ∧ t.fab.ports[p].st = .retraining ∧
    t.fab.ports[p].trainSince = s.now ∧
    t.fab.ports[p].retrains = s.now :: s.fab.ports[p].retrains.filter (fun u => decide ((s.now - u).toNat ≤ hourU)) ∧
    t.fab.ports[p].replay = [] ∧
    t.sec.departAdvice = (if 8 < t.fab.ports[p].retrains.length then s.sec.departAdvice ||| 8 else s.sec.departAdvice) ∧
    t = { s with fab := t.fab, sec := t.sec, host := t.host }) ∧
  (∀ (p : Fin 32) (s : State), s.fab.ports[p].st = .up →
    (let left := s.fab.leaveSets p
     let goesTo := fun (q : Fin 32) (c : Fin 4) (l : List (Pkt × Nat)) =>
       (l.filter fun x => decide (left.bucketPort (x.2 / 64) (x.2 % 64) = some q) && decide (x.1.cls = c)).map fun x =>
         (s.fab.named q (s.fab.unnamed p x.1), x.2)
     let waits := s.fab.ports[p].queues.toList.flatten
     (∀ x ∈ s.fab.ports[p].replay ++ waits, x.1.op ≠ 0x05 ∧ x.2 ≠ noBucket ∧ (left.bucketPort (x.2 / 64) (x.2 % 64)).isSome = true) →
     ∃ t, exec (.portRetrain p) s = .next t ∧ ∀ (q : Fin 32) (c : Fin 4), q ≠ p →
       t.fab.ports[q].queues[c] = goesTo q c s.fab.ports[p].replay ++ s.fab.ports[q].queues[c] ++ goesTo q c waits)) ∧
  (∀ (p : Fin 32) (s : State), s.fab.ports[p].st = .retraining → ∃ t, exec (.retrainTimeout p) s = .next t ∧ t.fab.ports[p].st = .downLost ∧
    t.fab.ports[p].reason = 4 ∧ t.now = (s.advanceTo (after s.fab.ports[p].trainSince (100 * msU))).now ∧ t.fab.ports[p].trainSince = t.now ∧
    (∀ o : Fin 32, o ≠ p → t.fab.ports[o] = s.fab.ports[o]) ∧ t = { s with time := t.time, fab := t.fab })

/-- R355 to R357, R360, R376 and R378 to R380: an idle block leaves at the latest 250 ns after the last. A replay changes nothing of what waits. An
acknowledgment takes the oldest packet out of the replay buffer, and its bucket back once none of it is there. A first C0 packet of another source
leaves before every other class, with its T_TX, and takes its bytes of credit; an own one takes its share of the meter, and waits while the meter
holds it. Returned credits are added to their class. A lost partner leaves its port down with the reason and an empty replay buffer, and the fabric
manager is told; after DEPART blocks the loss is a planned one; on the upstream port the upstream is lost too.
Model's choice: log entries 79 and 80. -/
def Obligations.LinksSendInOrderUntilTheirLoss : Prop :=
  (∀ (p : Fin 32) (w : Fin 8) (s : State), s.fab.ports[p].st = .up → ∃ t, exec (.idleBlock p w) s = .next t ∧
    (s.now.toNat ≤ s.fab.ports[p].idleAt[w].toNat + 4000 → t.fab.ports[p].idleAt[w] = s.now) ∧
    (s.fab.ports[p].idleAt[w].toNat + 4000 < s.now.toNat → t.fab.ports[p].idleAt[w] = after s.fab.ports[p].idleAt[w] 4000) ∧
    (∀ o : Fin 32, o ≠ p → t.fab.ports[o] = s.fab.ports[o]) ∧ t = { s with fab := t.fab }) ∧
  (∀ (p : Fin 32) (s : State), exec (.linkReplay p) s = .next s) ∧
  (∀ (p : Fin 32) (x : Pkt × Nat) (rest : List (Pkt × Nat)) (s : State), s.fab.ports[p].replay = x :: rest → ∃ t, exec (.linkAck p) s = .next t ∧
    t.fab.ports[p] = { s.fab.ports[p] with replay := rest } ∧ (∀ o : Fin 32, o ≠ p → t.fab.ports[o] = s.fab.ports[o]) ∧
    t.fab.backWait = (if t.fab.inReplay x.2 then s.fab.backWait else s.fab.backWait.erase x.2) ∧ t = { s with fab := t.fab }) ∧
  (∀ (p : Fin 32) (x : Pkt × Nat) (rest : List (Pkt × Nat)) (s : State), s.fab.ports[p].st = .up → s.fab.ports[p].queues[0] = x :: rest →
    x.1.cls = 0 → (∀ y ∈ x :: rest, y.1.src ≠ s.fab.ports[p].sentId) → s.fab.ports[p].fits x.1 = true → ∃ t, exec (.egressSend p) s = .next t ∧
      t.fab.ports[p].queues[0] = rest ∧ t.fab.ports[p].replay = s.fab.ports[p].replay ++ [(stampTx s.now x.1, x.2)] ∧
      t.fab.ports[p].credits[0] = s.fab.ports[p].credits[0] - pktBytes x.1 ∧
      (∀ c : Fin 4, c ≠ 0 → t.fab.ports[p].queues[c] = s.fab.ports[p].queues[c] ∧ t.fab.ports[p].credits[c] = s.fab.ports[p].credits[c]) ∧
      (∀ o : Fin 32, o ≠ p → t.fab.ports[o] = s.fab.ports[o]) ∧ t = { s with fab := t.fab }) ∧
  (∀ (p : Fin 32) (x : Pkt × Nat) (rest : List (Pkt × Nat)) (s : State), s.fab.ports[p].st = .up → s.fab.ports[p].queues[0] = x :: rest →
    x.1.cls = 0 → x.1.src = s.fab.ports[p].sentId → s.fab.c0Need s.fab.ports[p] x.1 ≤ s.fab.c0Now s.fab.ports[p] s.now →
    s.fab.ports[p].fits x.1 = true → ∃ t, exec (.egressSend p) s = .next t ∧ t.fab.ports[p].queues[0] = rest ∧
      t.fab.ports[p].replay = s.fab.ports[p].replay ++ [(stampTx s.now x.1, x.2)] ∧
      t.fab.ports[p].c0Level = s.fab.c0Now s.fab.ports[p] s.now - s.fab.c0Need s.fab.ports[p] x.1 ∧ t.fab.ports[p].c0At = s.now ∧
      (∀ o : Fin 32, o ≠ p → t.fab.ports[o] = s.fab.ports[o]) ∧ t = { s with time := t.time, fab := t.fab }) ∧
  (∀ (p : Fin 32) (x : Pkt × Nat) (s : State), s.fab.ports[p].st = .up → s.fab.ports[p].queues = #v[[x], [], [], []] → x.1.src = s.fab.ports[p].sentId →
    s.fab.c0Now s.fab.ports[p] s.now < s.fab.c0Need s.fab.ports[p] x.1 → exec (.egressSend p) s = .next s) ∧
  (∀ (p : Fin 32) (cls : Fin 4) (n : Nat) (s : State), s.fab.ports[p].st = .up → ∃ t, exec (.classCreditReturn p cls n) s = .next t ∧
    t.fab.ports[p].credits[cls] = s.fab.ports[p].credits[cls] + n ∧
    (∀ c : Fin 4, c ≠ cls → t.fab.ports[p].credits[c] = s.fab.ports[p].credits[c]) ∧ (∀ o : Fin 32, o ≠ p → t.fab.ports[o] = s.fab.ports[o]) ∧
    t = { s with fab := t.fab }) ∧
  (∀ (p : Fin 32) (cause : LossCause) (s : State), (s.fab.ports[p].st = .up ∨ s.fab.ports[p].st = .retraining) → s.fab.relayEn = false →
    (s.time.timeEn = false ∨ s.time.timeRoot = true ∨ s.time.upstream.toNat ≠ p.val) →
    ∃ t, exec (.partnerLost p cause) s = .next t ∧ t.fab.ports[p].st = .downLost ∧ t.fab.ports[p].lost = true ∧ t.fab.ports[p].level = 0 ∧
      t.fab.ports[p].reason = (match cause with
        | .signal => 1
        | .alignment => 2
        | .idle => 3) ∧
      t.fab.ports[p].replay = [] ∧ t.fab.ports[p].trainSince = s.now ∧ t.fab.fmOut.length = s.fab.fmOut.length + 1 ∧
      t = { s with fab := t.fab, host := t.host }) ∧
  (∀ (p : Fin 32) (s : State), (s.fab.ports[p].st = .up ∨ s.fab.ports[p].st = .retraining) →
    (s.time.timeEn = false ∨ s.time.timeRoot = true ∨ s.time.upstream.toNat ≠ p.val) →
    ∃ t, exec (.departBlocksReceived p) s = .next t ∧ t.fab.ports[p].st = .downPlanned ∧ t.fab.ports[p].lost = true ∧ t.fab.ports[p].level = 0 ∧
      t.fab.ports[p].replay = [] ∧ t = { s with fab := t.fab, host := t.host }) ∧
  (∀ (p : Fin 32) (s : State), (s.fab.ports[p].st = .up ∨ s.fab.ports[p].st = .retraining) → s.time.timeEn = true → s.time.timeRoot = false →
    s.time.upstream.toNat = p.val → ∃ t, exec (.departBlocksReceived p) s = .next t ∧ t.fab.ports[p].st = .downPlanned ∧ t.time.upLost = true) ∧
  (∀ (p : Fin 32) (s : State), s.fab.ports[p].st ≠ .up → s.fab.ports[p].st ≠ .retraining → exec (.departBlocksReceived p) s = .next s)

/-! ### Packets and requests -/

/-- R363, R367, R370, R372, R386, R390, R391 and R393: a packet for another module goes on with one hop less, or is answered with ROUTE where it may
not, and an unknown operation with LEVEL. A request that passes every check stands at the ordering points of its lines and is pending; while they are
full it stays in its receive buffer, where a copy of it is discarded. One too old is discarded and counted. Of R367's checks the first that
fails answers it: a level above the job's, a malformed packet, a job that the module is not in or has torn down, PARKED, a reply that is kept, which is
sent again, a copy of a pending request, which is discarded, the key, an address that is not served, a tier that is not ready. A partner image of a
job that was torn down is still read (R452).
Model's choice: log entries 82 and 85. -/
def Obligations.RequestsReachTheirOrderingPoints : Prop :=
  (∀ (p q : Fin 32) (k : Pkt) (tag : Nat) (s : State), Arrives s p k → s.fab.mine p k = false → k.op ≠ 0x05 → 1 < k.hops.toNat →
    s.fab.toSelf k = false → s.fab.portFor k.dst (pktBucket k) = some (q, tag) → ∃ t, exec (.packetForward p k) s = .next t ∧
      t.fab.ports[q].queues[k.cls] = s.fab.ports[q].queues[k.cls] ++ [(s.fab.named q { k with hops := k.hops - 1 }, tag)] ∧
      (∀ o : Fin 32, o ≠ q → t.fab.ports[o] = s.fab.ports[o]) ∧ t = { s with fab := t.fab }) ∧
  (∀ (p : Fin 32) (k : Pkt) (s : State), Arrives s p k → s.fab.mine p k = false → k.op ≠ 0x05 → (k.hops.toNat ≤ 1 ∨ s.fab.hasRoute k = false) →
    exec (.packetForward p k) s = .next (if pktIsReply k then s.countDiscard p else s.respond k 6 0 [])) ∧
  (∀ (p : Fin 32) (k : Pkt) (s : State), s.fab.loop.contains k = false → s.fab.ports[p].st = .up → s.fab.ports[p].rxRoom k = true →
    s.aged k = false → needLevel k = 4 → exec (.packetForward p k) s = .next (s.respond k 3 0 [])) ∧
  (∀ (p : Fin 32) (k : Pkt) (s : State), Arrives s p k → Passes s k → TakenAtOnce s k → s.fab.mine p k = true → k.op = 0x01 → k.tileMsg = none →
    ∃ t, exec (.load p k) s = .next t ∧ t.fab.pendingReq = s.fab.pendingReq ++ [(k.src, k.seq)] ∧ t = { s with fab := t.fab } ∧
      ∃ new : List LineUpd, t.fab.lines = s.fab.lines ++ new ∧ new.map (fun l => (l.start, l.len)) = linePieces (localOff k.addr) k.len.toNat ∧
        ∀ l ∈ new, l.pkt = k ∧ l.line = l.start / 64) ∧
  (∀ (p : Fin 32) (k : Pkt) (s : State), Arrives s p k → Passes s k → TakenAtOnce s k → s.fab.mine p k = true → k.op = 0x02 → k.rw = false →
    s.tileStale k = false → ∃ t, exec (.store p k) s = .next t ∧ t.fab.pendingReq = s.fab.pendingReq ++ [(k.src, k.seq)] ∧ t = { s with fab := t.fab } ∧
      ∃ new : List LineUpd, t.fab.lines = s.fab.lines ++ new ∧ new.map (fun l => (l.start, l.len)) = linePieces (localOff k.addr) k.payload.length ∧
        ∀ l ∈ new, l.pkt = k ∧ l.line = l.start / 64 ∧ l.data = slice k.payload (l.start - localOff k.addr) l.len) ∧
  (∀ (p : Fin 32) (k : Pkt) (s : State), Arrives s p k → Passes s k → TakenAtOnce s k → s.fab.mine p k = true → k.op = 0x03 → k.tileMsg = none →
    ∃ t, exec (.atomic p k) s = .next t ∧ t.fab.pendingReq = s.fab.pendingReq ++ [(k.src, k.seq)] ∧ t = { s with fab := t.fab } ∧
      ∃ new : List LineUpd, t.fab.lines = s.fab.lines ++ new ∧
        new.map (fun l => (l.start, l.len)) = linePieces (localOff k.addr) (atomicWidth k.payload) ∧ ∀ l ∈ new, l.pkt = k) ∧
  (∀ (p : Fin 32) (k : Pkt) (x : BitVec 17 × Word) (s : State), Arrives s p k → k.op = 0x05 → mcTargets k.payload = [x] → x.1 = s.fab.idAt p k →
    Passes s (mcOwn k x) → TakenAtOnce s (mcOwn k x) → s.tileStale (mcOwn k x) = false → ∃ t, exec (.mcastStore p k) s = .next t ∧
      t.fab.pendingReq = s.fab.pendingReq ++ [(k.src, x.2)] ∧ t = { s with fab := t.fab } ∧
      ∃ new : List LineUpd, t.fab.lines = s.fab.lines ++ new ∧
        new.map (fun l => (l.start, l.len)) = linePieces (localOff k.addr) (pktData k).length) ∧
  (∀ (p q : Fin 32) (k : Pkt) (x : BitVec 17 × Word) (tag : Nat) (s : State), Arrives s p k → k.op = 0x05 → mcTargets k.payload = [x] →
    x.1 ≠ s.fab.idAt p k → x.1 ≠ s.fab.modId → 1 < k.hops.toNat → s.fab.portFor x.1 (pathBucket x.1 k.addr) = some (q, tag) → ∃ t, exec (.mcastStore p k) s = .next t ∧
      t.fab.ports[q].queues[k.cls] = s.fab.ports[q].queues[k.cls] ++ [(s.fab.named q { mcCopy k [x] with hops := k.hops - 1 }, tag)] ∧
      (∀ o : Fin 32, o ≠ q → t.fab.ports[o] = s.fab.ports[o]) ∧ t = { s with fab := t.fab }) ∧
  (∀ (p : Fin 32) (k : Pkt) (s : State), Arrives s p k → s.fab.inRx k = false → s.mustHold k = true → s.fab.mine p k = true → k.op = 0x02 →
    exec (.store p k) s = .next (s.upPort p fun q => { q with rx := updV q.rx k.cls (· ++ [k]) })) ∧
  (∀ (p : Fin 32) (k : Pkt) (s : State), Arrives s p k → s.fab.inRx k = true → s.fab.mine p k = true → k.op = 0x02 → exec (.store p k) s = .next s) ∧
  (∀ (p : Fin 32) (k : Pkt) (s : State), s.fab.loop.contains k = false → s.fab.ports[p].st = .up → s.fab.ports[p].rxRoom k = true →
    s.aged k = true → s.fab.mine p k = true → k.op = 0x02 →
    exec (.store p k) s = .next (s.upPort p fun q => { q with aged := satAdd q.aged 1 })) ∧
  (∀ (c : Instr) (p : Fin 32) (k : Pkt) (s : State), RequestCmd c p k → Arrives s p k → TakenAtOnce s k → s.fab.mine p k = true →
    (s.inJob = true → k.job = s.job.p.jobId → s.job.p.level.toNat < needLevel k → exec c s = .next (s.respond k 3 0 [])) ∧
    ((s.inJob = true → k.job = s.job.p.jobId → needLevel k ≤ s.job.p.level.toNat) → s.servesRead k = false → pktMalformed k = true →
      exec c s = .next (s.respond k 7 0 [])) ∧
    ((s.inJob = false ∨ k.job ≠ s.job.p.jobId) → s.servesRead k = false → pktMalformed k = false →
      exec c s = .next (s.respond k (if k.job ∈ s.job.torn then 5 else 4) 0 [])) ∧
    (WellTaken s k → s.pwr.st = .parked → exec c s = .next (s.respond k 4 0 [])) ∧
    (∀ e : CachedReply, WellTaken s k → s.pwr.st ≠ .parked → pktModifies k = true →
      s.fab.cache.find? (fun e => e.src = k.src && e.seq = k.seq && e.live s.now) = some e → exec c s = .next (s.sendPkt
        { s.respPkt k k.dst k.seq e.rstatus.toNat true e.detail.toNat (if e.reqOp = 0x03 then toLE e.value.toNat 8 else []) with reqOp := e.reqOp })) ∧
    (WellTaken s k → s.pwr.st ≠ .parked → NotCached s k →
      (s.fab.pendingReq.contains (k.src, k.seq) = true → exec c s = .next s) ∧
      (s.fab.pendingReq.contains (k.src, k.seq) = false →
        (s.fab.keyOk k = false → exec c s = .next (s.respond k 1 1 [])) ∧
        (s.fab.keyOk k = true → s.servable k = false → exec c s = .next (s.respond k 1 2 [])) ∧
        (s.fab.keyOk k = true → s.servable k = true → s.tierReady k = false → exec c s = .next (s.respond k 4 0 []))))) ∧
  (∀ (p : Fin 32) (k : Pkt) (s : State), Arrives s p k → TakenAtOnce s k → s.fab.mine p k = true → s.servesRead k = true → needLevel k ≤ s.job.p.level.toNat →
    pktMalformed k = false → s.pwr.st ≠ .parked → s.fab.pendingReq.contains (k.src, k.seq) = false → s.fab.keyOk k = true → s.servable k = true →
    s.tierReady k = true → ∃ t, exec (.load p k) s = .next t ∧ t.fab.pendingReq = s.fab.pendingReq ++ [(k.src, k.seq)] ∧ t = { s with fab := t.fab })

/-- R344, R366, R371 and R390: the oldest update of a line is applied. A line of a store, or of a multicast store, writes its bytes and
nothing else, and the last ends it with OK; a load keeps what it has read, and its last line answers it with the bytes. An atomic writes the value that
its operation gives for the old one, which its answer and the reply kept for a copy carry. A line that waits for Medlar or for a move stays. A working tile of another step than the latest
update is refused and counted.
Model's choice: log entries 71 and 85. -/
def Obligations.LineUpdatesApplyInOrder : Prop :=
  (∀ (line : BitVec 41) (l : LineUpd) (s : State), s.fab.lines.find? (fun l => l.line = line.toNat) = some l →
    (l.pkt.op = 0x02 ∨ l.pkt.op = 0x05) → 2 ^ 46 ≤ l.start → (s.fab.lines.erase l).any (fun x => x.pkt.src = l.pkt.src && x.pkt.seq = l.pkt.seq) = true → s.fab.rxCount = 0 →
    ∃ t, exec (.lineUpdate line) s = .next t ∧ t.tiers = { s.tiers with partnerMem := s.tiers.partnerMem.writeN (l.start % 2 ^ 44) l.data } ∧
      t.fab = { s.fab with lines := s.fab.lines.erase l } ∧ t = { s with tiers := t.tiers, fab := t.fab }) ∧
  (∀ (line : BitVec 41) (l : LineUpd) (o : ObjS) (a : Nat) (s : State), s.fab.lines.find? (fun l => l.line = line.toNat) = some l →
    (l.pkt.op = 0x02 ∨ l.pkt.op = 0x05) → l.start < 2 ^ 46 → s.objAt l.start = some (o, a) →
    (s.fab.lines.erase l).any (fun x => x.pkt.src = l.pkt.src && x.pkt.seq = l.pkt.seq) = true →
    exec (.lineUpdate line) s = .next ((s.upFab fun b => { b with lines := b.lines.erase l }).writeObj .inbound o a l.data).pumpRx) ∧
  (∀ (line : BitVec 41) (l : LineUpd) (o : ObjS) (a : Nat) (s : State), s.fab.lines.find? (fun l => l.line = line.toNat) = some l →
    (l.pkt.op = 0x02 ∨ l.pkt.op = 0x05) → l.start < 2 ^ 46 → localOff l.pkt.addr < 2 ^ 46 → s.objAt l.start = some (o, a) → l.pkt.tileMsg = none →
    (s.fab.lines.erase l).any (fun x => x.pkt.src = l.pkt.src && x.pkt.seq = l.pkt.seq) = false →
    exec (.lineUpdate line) s = .next ((((s.upFab fun b => { b with lines := b.lines.erase l }).writeObj .inbound o a l.data).upFab
      (·.ended l.pkt)).applied l.pkt 0 []).pumpRx) ∧
  (∀ (line : BitVec 41) (l : LineUpd) (o : ObjS) (a : Nat) (s : State), s.fab.lines.find? (fun l => l.line = line.toNat) = some l →
    l.pkt.op = 0x03 → s.lineWaits l = false → l.start < 2 ^ 46 → s.objAt l.start = some (o, a) → l.pkt.tileMsg = none →
    (s.fab.lines.erase l).any (fun x => x.pkt.src = l.pkt.src && x.pkt.seq = l.pkt.seq) = false →
    (let w := atomicWidth l.pkt.payload
     let old := leNat (s.readLocal l.start l.len) 0 l.len
     let new := atomicNew (byteAt l.pkt.payload 0) w old (leNat l.pkt.payload 8 8) (leNat l.pkt.payload 16 8)
     exec (.lineUpdate line) s = .next ((((s.upFab fun b => { b with lines := b.lines.erase l }).writeObj .inbound o a (toLE new w)).upFab
       (·.ended l.pkt)).applied l.pkt (BitVec.ofNat 64 old) (toLE old 8)).pumpRx)) ∧
  (∀ (line : BitVec 41) (l : LineUpd) (s : State), s.fab.lines.find? (fun l => l.line = line.toNat) = some l → l.pkt.op = 0x03 → 2 ^ 46 ≤ l.start →
    l.pkt.tileMsg = none → (s.fab.lines.erase l).any (fun x => x.pkt.src = l.pkt.src && x.pkt.seq = l.pkt.seq) = false → s.fab.rxCount = 0 →
    ∃ t, exec (.lineUpdate line) s = .next t ∧
      (let w := atomicWidth l.pkt.payload
       let old := leNat (s.readLocal l.start l.len) 0 l.len
       t.tiers.partnerMem = s.tiers.partnerMem.writeN (l.start % 2 ^ 44)
         (toLE (atomicNew (byteAt l.pkt.payload 0) w old (leNat l.pkt.payload 8 8) (leNat l.pkt.payload 16 8)) w) ∧
       ∃ e ∈ t.fab.cache, e.src = l.pkt.src ∧ e.seq = l.pkt.seq ∧ e.value = BitVec.ofNat 64 old ∧ e.rstatus = 0) ∧
      (l.pkt.src, l.pkt.seq) ∉ t.fab.pendingReq) ∧
  (∀ (line : BitVec 41) (l : LineUpd) (s : State), s.fab.lines.find? (fun l => l.line = line.toNat) = some l → l.pkt.op = 0x01 →
    s.lineWaits l = false → (s.fab.lines.erase l).any (fun x => x.pkt.src = l.pkt.src && x.pkt.seq = l.pkt.seq) = true → s.fab.rxCount = 0 →
    ∃ t, exec (.lineUpdate line) s = .next t ∧
      t.fab = { s.fab with lines := s.fab.lines.erase l, gather := s.fab.gather ++ [(l.pkt.src, l.pkt.seq, l.start, s.readLocal l.start l.len)] } ∧
      t = { s with fab := t.fab }) ∧
  (∀ (line : BitVec 41) (l : LineUpd) (s : State), s.fab.lines.find? (fun l => l.line = line.toNat) = some l → l.pkt.op = 0x01 → l.pkt.tileMsg = none →
    s.lineWaits l = false → (s.fab.lines.erase l).any (fun x => x.pkt.src = l.pkt.src && x.pkt.seq = l.pkt.seq) = false →
    (s.fab.gather.all fun x => !(x.1 = l.pkt.src && x.2.1 = l.pkt.seq)) = true → s.fab.rxCount = 0 →
    exec (.lineUpdate line) s = .next ((s.upFab fun b => { b with
      lines := b.lines.erase l
      pendingReq := b.pendingReq.filter (· ≠ (l.pkt.src, l.pkt.seq)) }).respond l.pkt 0 0 (s.readLocal l.start l.len))) ∧
  (∀ (line : BitVec 41) (l : LineUpd) (s : State), s.fab.lines.find? (fun l => l.line = line.toNat) = some l → s.lineWaits l = true →
    exec (.lineUpdate line) s = .next s) ∧
  (∀ (p : Fin 32) (k : Pkt) (s : State), Arrives s p k → Passes s k → TakenAtOnce s k → s.fab.mine p k = true → k.op = 0x02 → k.rw = false →
    s.tileStale k = true → ∃ t, exec (.store p k) s = .next t ∧ t.coll = { s.coll with refusedTiles := satAdd s.coll.refusedTiles 1 } ∧
      t.fab.lines = s.fab.lines ∧ t.fab.pendingReq = s.fab.pendingReq ∧ t = { s with coll := t.coll, fab := t.fab, free := t.free })

/-- R248, R373, R374, R377, R387 and R392 to R394: a response ends the request that it answers; one that answers none does nothing. A request is put
again on the port of its bucket with its next retry number and the time of the retry, three times at most and not to a dead target; without a response its target is dead for the job and the fabric
manager is told. A message without a step of its own, or with one and not from the relay module, is discarded and counted.
Model's choice: log entries 84 and 87. -/
def Obligations.RequestsEndOnce : Prop :=
  (∀ (p : Fin 32) (k : Pkt) (o : OutReq) (s : State), Arrives s p k → k.op = 0x80 → s.fab.mine p k = true → s.answered k = some o → k.rstatus = 0 →
    o.op = 0x02 → o.ring = none → s.imageStore o.pkt = false → s.fab.waiting = [] → ∃ t, exec (.resp p k) s = .next t ∧
      t.fab = { s.fab with outstanding := s.fab.outstanding.erase o } ∧ t = { s with fab := t.fab }) ∧
  (∀ (p : Fin 32) (k : Pkt) (s : State), Arrives s p k → k.op = 0x80 → s.fab.mine p k = true → s.answered k = none → exec (.resp p k) s = .next s) ∧
  (∀ (dst : BitVec 17) (seq : Word) (o : OutReq) (s : State), s.fab.findOut dst seq = some o → o.retries < 3 → s.jobOpen = true →
    s.fab.deadFor o.pkt = false → ∃ t, exec (.requestRetry dst seq) s = .next t ∧
      t.now = (s.advanceTo (after o.issued (20 * usU * (o.retries + 1)))).now ∧
      t.fab.outstanding = s.fab.outstanding.map (fun x => if x = o then { x with retries := x.retries + 1 } else x) ∧
      (∀ (q : Fin 32) (tag : Nat), s.fab.toSelf o.pkt = false → s.fab.portFor o.pkt.dst (pktBucket o.pkt) = some (q, tag) →
        t.fab.ports[q].queues[o.pkt.cls] = s.fab.ports[q].queues[o.pkt.cls] ++
          [(s.fab.named q { o.pkt with retry := BitVec.ofNat 2 (o.retries + 1), ts := t.ts }, tag)] ∧
        (∀ p : Fin 32, p ≠ q → t.fab.ports[p] = s.fab.ports[p])) ∧
      t = { s with time := t.time, fab := t.fab }) ∧
  (∀ (dst : BitVec 17) (seq : Word) (o : OutReq) (s : State), s.fab.findOut dst seq = some o → (3 ≤ o.retries ∨ s.fab.deadFor o.pkt = true) →
    exec (.requestRetry dst seq) s = .next s) ∧
  (∀ (dst : BitVec 17) (seq : Word) (o : OutReq) (s : State), s.fab.findOut dst seq = some o → o.ring = none → s.fab.waiting = [] →
    s.imageStore o.pkt = false → s.fab.relayEn = false → ∃ t, exec (.requestTimeout dst seq) s = .next t ∧
      t.fab.outstanding = s.fab.outstanding.erase o ∧ (o.pkt.job, o.pkt.dst) ∈ t.fab.dead ∧
      t.now = (s.advanceTo (after o.issued (100 * usU))).now ∧
      t.fab.fmOut = s.fab.fmOut ++ [(o.pkt.job, toLE 0x0A 4 ++ (toLE o.pkt.job.toNat 4 ++ toLE o.pkt.dst.toNat 4 ++ toLE o.pkt.seq.toNat 4 ++
        toLE o.op.toNat 4 ++ toLE t.now.toNat 8))] ∧
      t = { s with time := t.time, fab := t.fab, host := t.host }) ∧
  (∀ (p : Fin 32) (k : Pkt) (s : State), Arrives s p k → k.op = 0x10 → s.fab.mine p k = true → (ownStep (msgType k) = false ∨ msgKnown k = false) →
    ∃ t, exec (.msg p k) s = .next t ∧ t.fab.ports[p] = { s.fab.ports[p] with discards := satAdd s.fab.ports[p].discards 1 } ∧
      (∀ o : Fin 32, o ≠ p → t.fab.ports[o] = s.fab.ports[o]) ∧ t = { s with fab := t.fab }) ∧
  (∀ (p : Fin 32) (k : Pkt) (r : ShedAns) (s : State), Arrives s p k → k.op = 0x10 → s.fab.mine p k = true → msgType k = 0x08 → msgKnown k = true →
    exec (.shedReply p k r) s = .next (if s.fromRelay k then s.shedAnswer r.grant r.firstStep r.share else s.countDiscard p)) ∧
  (∀ (p : Fin 32) (k : Pkt) (s : State), Arrives s p k → k.op = 0x10 → s.fab.mine p k = true → msgType k = 0x0B → msgKnown k = true →
    s.fromRelay k = false → exec (.teardown p k) s = .next (s.countDiscard p))

/-! ### Collectives and the end of a step -/

/-- R323 to R334, R338 and R348: a contribution of a child that passes every check joins its slot and is answered OK; one of the run to come is held;
one of a decided run is counted as dropped unless it is empty; one of a step beyond is refused and sets the fault. An own contribution of a leaf goes to
its parent's port in class C1, with COUNT 1, no STALE and the NONFINITE of its tile, and its send time is kept; at another node it joins slot 0. A tile closes at its close time once, with what is there.
Model's choice: log entries 68, 69 and 142. -/
def Obligations.ContributionsJoinTheirTiles : Prop :=
  (∀ (p : Fin 32) (k : Pkt) (slot : Nat) (s : State), Arrives s p k → Passes s k → s.fab.inRx k = false → s.mustHold k = false → s.fab.mine p k = true →
    k.op = 0x04 → s.slotOf (contribOf k.payload) = some slot → s.runPlace (contribOf k.payload) = 1 →
    exec (.reduce p k) s = .next ((s.place slot (contribOf k.payload) (k.payload.drop 64) s.now).applied k 0 []).pumpRx) ∧
  (∀ (p : Fin 32) (k : Pkt) (slot : Nat) (s : State), Arrives s p k → Passes s k → TakenAtOnce s k → s.fab.mine p k = true → k.op = 0x04 →
    s.slotOf (contribOf k.payload) = some slot → s.runPlace (contribOf k.payload) = 2 → ∃ t, exec (.reduce p k) s = .next t ∧
      t.coll = { s.coll with early := s.coll.early ++ [(contribOf k.payload, k.payload.drop 64, s.now)] } ∧ t = { s with coll := t.coll, fab := t.fab }) ∧
  (∀ (p : Fin 32) (k : Pkt) (slot : Nat) (s : State), Arrives s p k → Passes s k → TakenAtOnce s k → s.fab.mine p k = true → k.op = 0x04 →
    s.slotOf (contribOf k.payload) = some slot → s.runPlace (contribOf k.payload) = 0 → ∃ t, exec (.reduce p k) s = .next t ∧
      t.coll = (if isEmptyC (contribOf k.payload) = false ∧ countsOnce (contribOf k.payload) = true then { s.coll with droppedN := satAdd s.coll.droppedN 1 }
        else s.coll) ∧
      t = { s with coll := t.coll, fab := t.fab }) ∧
  (∀ (p : Fin 32) (k : Pkt) (slot : Nat) (s : State), Arrives s p k → Passes s k → TakenAtOnce s k → s.fab.mine p k = true → k.op = 0x04 →
    s.slotOf (contribOf k.payload) = some slot → s.runPlace (contribOf k.payload) = 3 → ∃ t, exec (.reduce p k) s = .next t ∧
      t.coll.collFault = true ∧ t.coll.droppedN = (if countsOnce (contribOf k.payload) then satAdd s.coll.droppedN 1 else s.coll.droppedN) ∧
      t.coll.tiles = s.coll.tiles ∧ t.coll.early = s.coll.early ∧
      t = { s with coll := t.coll, fab := t.fab, free := t.free }) ∧
  (∀ (p : Fin 32) (k : Pkt) (slot : Nat) (s : State), Arrives s p k → Passes s k → s.fab.inRx k = false → s.mustHold k = false → s.fab.mine p k = true →
    k.op = 0x02 → k.rw = true → s.slotOf (contribOf k.payload) = some slot → s.runPlace (contribOf k.payload) = 1 →
    exec (.store p k) s = .next ((s.place slot (contribOf k.payload) (k.payload.drop 64) s.now).applied k 0 []).pumpRx) ∧
  (∀ (h : ContribHdr) (payload : Bytes) (s : State), (let x := s.leafHdr h payload
    s.ownContrib x payload = true → s.treePos x.owner.toNat ≠ 0 → s.job.p.childPos (s.treePos x.owner.toNat) = [] →
    ∃ t, exec (.contributionSend h payload) s = .next t ∧ t.coll.lastContrib = s.now ∧
      t.coll.sentNonfinite = (s.coll.sentNonfinite || x.nonfinite) ∧ t.coll.tiles = s.coll.tiles ∧
      t.coll.toSend = (s.handed x).coll.toSend ∧ t = { s with coll := t.coll, fab := t.fab, sec := t.sec, host := t.host })) ∧
  (∀ (h : ContribHdr) (payload : Bytes) (q : Fin 32) (tag : Nat) (s : State), (let x := s.leafHdr h payload
    let pos := s.treePos x.owner.toNat
    let pl := contribBytes { x with srcPos := BitVec.ofNat 17 pos } ++ (if isEmptyC x then [] else payload)
    let dst := s.job.p.moduleOf (s.job.p.memberAt x.owner.toNat (s.job.p.parentPos pos))
    let k : Pkt := { pktBlank with
      op := if s.job.p.level.toNat ≥ 2 then 0x04 else 0x02, cls := 1, rw := decide (s.job.p.level.toNat < 2), dst := dst, addr := s.contribAddr x
      key := s.collKey s.job.p.jobId, job := s.job.p.jobId, len := BitVec.ofNat 13 pl.length, payload := pl }
    let sent : Pkt := { k with src := s.fab.modId, ts := s.ts, hops := 8, seq := s.fab.nextSeq dst }
    s.ownContrib x payload = true → pos ≠ 0 → s.job.p.childPos pos = [] → (isEmptyC x = true ∨ x.bf16 = false) → s.jobOpen = true →
    s.fab.waiting = [] → s.fab.deadFor k = false → s.fab.mayIssue [] k = true → s.fab.toSelf sent = false →
    s.fab.portFor dst (pathBucket dst (s.contribAddr x)) = some (q, tag) → ∃ t, exec (.contributionSend h payload) s = .next t ∧
      t.fab.ports[q].queues[(1 : Fin 4)] = s.fab.ports[q].queues[(1 : Fin 4)] ++ [(s.fab.named q sent, tag)] ∧
      (∃ o ∈ t.fab.outstanding, o.pkt = sent ∧ o.issued = s.now) ∧ x.count = (if isEmptyC h then 0 else 1) ∧ x.stale = false)) ∧
  (∀ (h : ContribHdr) (payload : Bytes) (s : State), (let x := s.leafHdr h payload
    s.ownContrib x payload = true → (s.treePos x.owner.toNat = 0 ∨ s.job.p.childPos (s.treePos x.owner.toNat) ≠ []) → s.scratchFull x payload = false →
    exec (.contributionSend h payload) s = .next (((s.handed x).upColl fun c => { c with
      lastContrib := s.now
      sentNonfinite := c.sentNonfinite || x.nonfinite
      lateOwn := c.lateOwn || ((s.coll.tile x.owner x.tensor (tileKey x)).map (·.closed)).getD false }).placeOwn x payload).pumpRx)) ∧
  (∀ (h : ContribHdr) (payload : Bytes) (s : State), s.ownContrib (s.leafHdr h payload) payload = false → exec (.contributionSend h payload) s = .next s) ∧
  (∀ (owner : BitVec 17) (tensor tile : Word) (x : TreeTile) (s : State), s.closes owner tensor tile = true → s.coll.tile owner tensor tile = some x →
    x.closed = false → exec (.tileCloseTimer owner tensor tile) s =
      .next ((s.advanceTo (BitVec.ofNat 64 (s.closeAt x.layer.toNat (s.treePos owner.toNat)).toNat)).closeTile x).pumpRx) ∧
  (∀ (owner : BitVec 17) (tensor tile : Word) (s : State), s.closes owner tensor tile = true →
    (∀ x : TreeTile, s.coll.tile owner tensor tile = some x → x.closed = false) → s.fab.rxCount = 0 →
    ∃ t, exec (.tileCloseTimer owner tensor tile) s = .next t ∧ (t.coll.tile owner tensor tile).map (·.closed) = some true ∧
      t.queues = s.queues ∧ t.pwr = s.pwr) ∧
  (∀ (owner : BitVec 17) (tensor tile : Word) (x : TreeTile) (s : State), s.coll.tile owner tensor tile = some x → x.closed = true →
    exec (.tileCloseTimer owner tensor tile) s = .next s)

/-- R35, R307, R309, R319, R337 to R340, R377 and R396: stage 4 begins once the shard is reduced and the transforms have reported. A member's record
waits for those of its children; a leaf's is queued to its parent at once. The result of update begins stage 5, and at the end of stage 5 the update
counter has risen by one, its step is that of the state and the step record is kept. A teardown from the relay module ends the job.
Model's choice: log entries 70 and 74. -/
def Obligations.StepEndsAtTheDecision : Prop :=
  (∀ s : State, s.inJob = true → s.job.stage = .running → s.shardReduced = true → s.transformsDone = true → ∃ t, exec .stage4Begin s = .next t ∧
    t.job.stage = .stage4 ∧ t.medlar = { s.medlar with sumStarted := true, sumsq := none } ∧ t = { s with job := t.job, medlar := t.medlar }) ∧
  (∀ s : State, s.medlar.sumStarted = true → s.medlar.sumsq = none → s.medlarGrads.any ObjS.readWaits = false →
    exec .sumsqDone s = .next (s.upMedlar fun m => { m with sumsq := some s.sumSquares })) ∧
  (∀ (c : Nat) (s : State), s.inJob = true → s.job.stage = .stage4 → s.allRunsDone = true → s.medlar.sumsq.isSome = true →
    s.rt.nestsStarted = s.rt.nestsReported → s.coll.ownRec = none → s.unsent = false → c ∈ s.kids → getKV c s.coll.children = none →
    s.fab.rxCount = 0 → ∃ t, exec .integritySend s = .next t ∧ t.coll = { s.coll with ownRec := some s.ownRecord, sentAt := s.now } ∧
      t = { s with job := t.job, coll := t.coll }) ∧
  (∀ s : State, s.inJob = true → s.job.stage = .stage4 → s.allRunsDone = true → s.medlar.sumsq.isSome = true →
    s.rt.nestsStarted = s.rt.nestsReported → s.coll.ownRec = none → s.unsent = false → s.kids = [] → s.coll.sentUp = false → s.treePos 0 ≠ 0 →
    s.fab.rxCount = 0 → ∃ t, exec .integritySend s = .next t ∧
      t.coll = { s.coll with ownRec := some s.ownRecord, sentAt := s.now, sentUp := true } ∧ t = { s with job := t.job, coll := t.coll, fab := t.fab } ∧
      (let k := s.msgPkt (s.job.p.moduleOf (s.job.p.memberAt 0 (s.job.p.parentPos (s.treePos 0)))) 0x06 s.job.p.jobId (s.collKey s.job.p.jobId) 8
         (intBytes s.ownRecord)
       ∀ (q : Fin 32) (tag : Nat), s.fab.toSelf k = false → s.fab.portFor k.dst 0 = some (q, tag) →
         t.fab.ports[q].queues[(0 : Fin 4)] = s.fab.ports[q].queues[(0 : Fin 4)] ++ [(s.fab.named q k, tag)])) ∧
  (∀ (p : Fin 32) (k : Pkt) (c : Nat) (s : State), Arrives s p k → k.op = 0x10 → s.fab.mine p k = true → msgType k = 0x06 → msgKnown k = true →
    s.inJob = true → k.job = s.job.p.jobId → (intOf (k.payload.drop 4)).jobId = s.job.p.jobId → s.fab.collOk k = true → s.posOf k.src = some c → c ∈ s.kids →
    (intOf (k.payload.drop 4)).result = false → (intOf (k.payload.drop 4)).step = s.job.step → (intOf (k.payload.drop 4)).run = s.job.replay →
    s.coll.result = none → s.coll.ownRec = none → s.fab.rxCount = 0 → ∃ t, exec (.integrity p k) s = .next t ∧
      t.coll = { s.coll with children := putKV c (intOf (k.payload.drop 4)) s.coll.children } ∧ t = { s with coll := t.coll }) ∧
  (∀ (p : Fin 32) (k : Pkt) (s : State), Arrives s p k → k.op = 0x10 → s.fab.mine p k = true → msgType k = 0x06 → msgKnown k = true →
    s.inJob = true → k.job = s.job.p.jobId → (intOf (k.payload.drop 4)).jobId = s.job.p.jobId → s.fab.collOk k = true → s.treePos 0 ≠ 0 →
    s.posOf k.src = some (s.job.p.parentPos (s.treePos 0)) → (intOf (k.payload.drop 4)).result = true → s.coll.sentUp = true → s.coll.result = none →
    (intOf (k.payload.drop 4)).step = s.job.step → (intOf (k.payload.drop 4)).run = s.job.replay → (intOf (k.payload.drop 4)).decision = 0 →
    s.fab.rxCount = 0 → ∃ t, exec (.integrity p k) s = .next t ∧ t.job.stage = .stage5 ∧ t.coll.result = some (intOf (k.payload.drop 4)) ∧
      t.coll.lastUpdate = some s.job.step ∧ t.job.step = s.job.step ∧ t.medlar.u = s.medlar.u ∧ t.cells = s.cells ∧ t.queues = s.queues) ∧
  (∀ s : State, s.job.stage = .stage5 → s.passOver = true → s.fab.rxCount = 0 → ∃ t, exec .stage5End s = .next t ∧ t.medlar.u = s.medlar.u + 1 ∧
    t.medlar.stateStep = s.job.step ∧ t.job.step = (if s.job.holdStep = some s.job.step then s.job.step else s.job.step + 1) ∧
    t.job.records.length = s.job.records.length + 1 ∧ t.queues = s.queues ∧ t.time = s.time) ∧
  (∀ (p : Fin 32) (k : Pkt) (s : State), Arrives s p k → k.op = 0x10 → s.fab.mine p k = true → msgType k = 0x0B → msgKnown k = true → s.fromRelay k = true →
    s.inJob = true → BitVec.ofNat 32 (leNat k.payload 4 4) = s.job.p.jobId → s.fab.rxCount = 0 → ∃ t, exec (.teardown p k) s = .next t ∧
      t.job.phase = .tornDown ∧ s.job.p.jobId ∈ t.job.torn ∧ t.coll.tiles = [] ∧ t.queues = s.queues ∧ t.tiers = s.tiers)


/-! ### Power -/

/-- R416 to R420: a newer message of the relay module from 250 W to 1,500 W is in force from its time; one that is not newer, is outside that range or
comes from elsewhere is discarded and counted. The pins select a preset while the module runs and no start is in progress. f_mod is chosen under the
released ceiling, and falls by one step while the draw exceeds it; outside ACTIVE it stays. The ceiling E is never below 250 W nor above 1,500 W.
Model's choice: log entries 88, 89 and 90. -/
def Obligations.EnvelopeMessagesMoveTheCeiling : Prop :=
  (∀ (p : Fin 32) (k : Pkt) (s : State), Arrives s p k → k.op = 0x10 → s.fab.mine p k = true → msgType k = 0x04 → msgKnown k = true → s.fromRelay k = true →
    (∀ last, s.pwr.msgSeq = some last → seqNewer (BitVec.ofNat 32 (leNat k.payload 4 4)) last = true) →
    250 ≤ leNat k.payload 16 2 → leNat k.payload 16 2 ≤ 1500 → ∃ t, exec (.envelope p k) s = .next t ∧
      t.pwr.msgSeq = some (BitVec.ofNat 32 (leNat k.payload 4 4)) ∧ t = { s with pwr := t.pwr, host := t.host } ∧
      ((BitVec.ofNat 64 (leNat k.payload 8 8)).toNat ≤ s.now.toNat → t.pwr.msgCeil = some (leNat k.payload 16 2) ∧ t.pwr.msgPend = none) ∧
      (s.now.toNat < (BitVec.ofNat 64 (leNat k.payload 8 8)).toNat → t.pwr.msgCeil = s.pwr.msgCeil ∧ t.pwr.msgPend =
        some { ceiling := leNat k.payload 16 2, rampDown := leNat k.payload 18 2, effective := BitVec.ofNat 64 (leNat k.payload 8 8) })) ∧
  (∀ (p : Fin 32) (k : Pkt) (s : State), Arrives s p k → k.op = 0x10 → s.fab.mine p k = true → msgType k = 0x04 → msgKnown k = true →
    (s.fromRelay k = false ∨ leNat k.payload 16 2 < 250 ∨ 1500 < leNat k.payload 16 2 ∨
      ∃ last, s.pwr.msgSeq = some last ∧ seqNewer (BitVec.ofNat 32 (leNat k.payload 4 4)) last = false) →
    exec (.envelope p k) s = .next (s.countDiscard p)) ∧
  (∀ (m : EnvMsg) (s : State), s.pwr.msgPend = some m → ∃ t, exec .envelopeEffective s = .next t ∧ t.now = (s.advanceTo m.effective).now ∧
    t.pwr.msgCeil = some m.ceiling ∧ t.pwr.msgPend = none ∧ t = { s with time := t.time, pwr := t.pwr, host := t.host }) ∧
  (∀ (code : BitVec 3) (s : State), s.quince.running = true → s.pins.vaux = true → s.pins.modRst = true → s.quince.start = none →
    ∃ t, exec (.envStepChange code) s = .next t ∧ t.pwr.pinCode = code ∧ t.pins = { s.pins with envCode := code } ∧
      t = { s with pwr := t.pwr, pins := t.pins, host := t.host }) ∧
  (∀ (code : BitVec 3) (s : State), (s.quince.start.isSome = true ∨ s.quince.running = false ∨ s.pins.vaux = false ∨ s.pins.modRst = false) →
    exec (.envStepChange code) s = .next (s.upPins fun p => { p with envCode := code })) ∧
  (∀ s : State, s.pwr.st = .active → ∃ t, exec (.fmodEval true) s = .next t ∧ t.pwr.fMod = BitVec.ofNat 11 (max 500 (s.pwr.fMod.toNat - 25)) ∧
    t = { s with clusters := t.clusters, pwr := t.pwr }) ∧
  (∀ s : State, s.pwr.st = .active → ∃ t, exec (.fmodEval false) s = .next t ∧ t.pwr.fMod = BitVec.ofNat 11 (fmodFor s.free t.pwr.ceilNow) ∧
    t.pwr.ceilNow = s.ceilingStep.pwr.ceilNow ∧ t.free = s.free + 1 ∧ t = { s with clusters := t.clusters, pwr := t.pwr, free := t.free }) ∧
  (∀ (b : Bool) (s : State), s.pwr.st ≠ .active → exec (.fmodEval b) s = .next s) ∧
  ∀ s : State, 250 ≤ s.ceilingE ∧ s.ceilingE ≤ 1500

/-- R83 and R424 to R429: a round starts at a multiple of 2^24, with an offer of 0 from a borrower and an ask of 0 from a lender; a child's message of
the next round is kept; the result gives each member its grant and its lend, and goes on to no child while the time is not locked; a round without a
result leaves a borrower without a grant.
Model's choice: log entry 91. -/
def Obligations.CreditRoundsShareTheOffers : Prop :=
  (∀ (pTarget pCore : Nat) (s : State), s.roundsRun = true → s.pwr.childCredits = [] → s.kids ≠ [] →
    ∃ t, exec (.creditRoundStart pTarget pCore) s = .next t ∧
      (let k := max (s.now.toNat / 2 ^ 24) (s.pwr.roundAt.toNat / 2 ^ 24 + 1)
       t.pwr.round = BitVec.ofNat 32 k ∧ t.pwr.roundAt = BitVec.ofNat 64 (k * 2 ^ 24) ∧ t.now = (s.advanceTo (BitVec.ofNat 64 (k * 2 ^ 24))).now) ∧
      t.pwr.roundOn = true ∧ t.pwr.upSent = false ∧ t.pwr.capNow = s.pwr.shiftCap ∧ (s.pwr.borrower = true → t.pwr.offer = 0) ∧
      (s.pwr.borrower = false → t.pwr.ask = 0) ∧ t = { s with time := t.time, pwr := t.pwr, host := t.host }) ∧
  (∀ s : State, s.pwr.roundOn = true → s.pwr.upSent = false → ∃ t, exec .creditRoundVoid s = .next t ∧ t.pwr.upSent = true ∧
    (s.pwr.borrower = true → t.pwr.grant = 0) ∧ t.now = (s.advanceTo (after s.pwr.roundAt (400 * usU))).now ∧
    t = { s with time := t.time, pwr := t.pwr, host := t.host }) ∧
  (∀ s : State, s.pwr.roundOn = true → ∃ t, exec .creditResultTimeout s = .next t ∧ (s.pwr.borrower = true → t.pwr.grant = 0) ∧
    t.now = (s.advanceTo (after s.pwr.roundAt msU)).now ∧ t = { s with time := t.time, pwr := t.pwr, host := t.host }) ∧
  (∀ (p : Fin 32) (k : Pkt) (c : Nat) (s : State), Arrives s p k → k.op = 0x10 → s.fab.mine p k = true → msgType k = 0x05 → msgKnown k = true →
    s.inJob = true → s.job.p.shift = true → k.job = s.job.p.jobId → leNat k.payload 4 4 = s.job.p.jobId.toNat → s.fab.collOk k = true →
    s.posOf k.src = some c → c ∈ s.kids → bit (byteAt k.payload 12) 0 = false → BitVec.ofNat 32 (leNat k.payload 8 4) = s.pwr.round + 1 →
    s.pwr.upSent = true → ∃ t, exec (.credit p k) s = .next t ∧ t = { s with pwr := t.pwr } ∧
      t.pwr = { s.pwr with childCredits := s.pwr.childCredits ++
        [(c, s.pwr.round + 1, leNat k.payload 16 8, leNat k.payload 24 8, leNat k.payload 32 4)] }) ∧
  (∀ (p : Fin 32) (k : Pkt) (s : State), Arrives s p k → k.op = 0x10 → s.fab.mine p k = true → msgType k = 0x05 → msgKnown k = true →
    s.inJob = true → s.job.p.shift = true → k.job = s.job.p.jobId → leNat k.payload 4 4 = s.job.p.jobId.toNat → s.fab.collOk k = true → s.treePos 0 ≠ 0 →
    s.posOf k.src = some (s.job.p.parentPos (s.treePos 0)) → bit (byteAt k.payload 12) 0 = true → s.pwr.roundOn = true →
    BitVec.ofNat 32 (leNat k.payload 8 4) = s.pwr.round → ∃ t, exec (.credit p k) s = .next t ∧
      (let o := leNat k.payload 16 8
       let a := leNat k.payload 24 8
       t.pwr.grant = BitVec.ofNat 16 (s.pwr.ask * min a o / a) ∧ t.pwr.lend = BitVec.ofNat 16 (ceilDiv (s.pwr.offer * min a o) o)) ∧
      t.pwr.roundOn = false ∧ (s.time.locked = false → t.fab = s.fab) ∧ t = { s with fab := t.fab, pwr := t.pwr, host := t.host })

/-- R46, R398 to R415 and R453: an acknowledged frame that carries a change puts its target into force; in the order of
switching on, one enables its rail at its first target and the next waits for its ramp, and in the order of switching off, the first frame lowers PWR_GOOD
and stops the rail's clocks. A frame without a reply counts against its
rail, and the third puts it in fault. Currant averages the estimates of each rail: above 0.95 of the limit it raises a die's governor level, sets the
hub's or the stacks' throttle, or tells the device runtime; a die's cap moves by 25 MHz; an overcurrent switches the die's rail off first and leaves
the job. The largest slowdown of a cluster is kept. A stage of a frequency step lowers the period by at most 1/16 or raises it by at most 1/4 in
both halves of a pair, never below the period of F_FUSE; a raise waits for its voltage. A cluster's own cap ends.
Model's choice: log entries 15, 88, 92 and 93. -/
def Obligations.RailsGovernorsAndFrequencySteps : Prop :=
  (∀ (i : Fin 8) (r : BitVec 22) (s : State), s.pins.vaux = true → s.pins.vrbClk = true → s.nextFrame = (i, .change) →
    s.pwr.rails[i].wantEnable = true → crc8 (field r.toNat 21 8) 14 0 = field r.toNat 7 0 → field r.toNat 21 20 = 0 → s.pwr.rails[i].fault = false →
    ∃ t, exec (.vrbFrame (some r)) s = .next t ∧ t.pwr.rails[i].target = s.pwr.rails[i].wantTarget ∧ t.pwr.rails[i].enabled = true ∧
      t.pwr.rails[i].pending = false ∧ t.pwr.rails[i].fails = 0 ∧ t.pwr.rails[i].iRead = field r.toNat 19 8 ∧ t.pwr.busUp = true ∧
      (∀ j : Fin 8, j ≠ i → t.pwr.rails[j] = s.pwr.rails[j]) ∧ t = { s with pwr := t.pwr, free := t.free }) ∧
  (∀ (i : Fin 8) (r : BitVec 22) (s : State), s.pins.vaux = true → s.pins.vrbClk = true → s.nextFrame = (i, .on) → s.pwr.rails[i].enabled = false →
    crc8 (field r.toNat 21 8) 14 0 = field r.toNat 7 0 → field r.toNat 21 20 = 0 → s.pwr.rails[i].fault = false →
    ∃ t, exec (.vrbFrame (some r)) s = .next t ∧ t.pwr.rails[i].enabled = true ∧ t.pwr.rails[i].target = firstTarget i.val ∧
      t.pwr.lastFrame = vrbHead i.val (firstTarget i.val) 1 true ∧ t.pwr.onSeq = s.pwr.onSeq.erase i ∧
      t.pwr.onAt = after s.now ((firstTarget i.val / 20 + 10) * usU) ∧ (∀ j : Fin 8, j ≠ i → t.pwr.rails[j] = s.pwr.rails[j]) ∧
      t = { s with pwr := t.pwr, free := t.free }) ∧
  (∀ (i : Fin 8) (r : BitVec 22) (s : State), s.pins.vaux = true → s.pins.vrbClk = true → s.nextFrame = (i, .off) → i.val ≠ 6 →
    crc8 (field r.toNat 21 8) 14 0 = field r.toNat 7 0 → field r.toNat 21 20 = 0 → s.pwr.rails[i].fault = false →
    ∃ t, exec (.vrbFrame (some r)) s = .next t ∧ t.pwr.rails[i].enabled = false ∧ t.pins = { s.pins with pwrGood := false } ∧
      t.pwr.offSeq = s.pwr.offSeq.drop 1 ∧ t.pwr.offAt = after s.now msU ∧ (∀ j : Fin 8, j ≠ i → t.pwr.rails[j] = s.pwr.rails[j]) ∧
      (s.pwr.rails[i].enabled = true → ∀ c : Fin 64, (dieOf c).val = i.val → t.clusters[c].running = false) ∧
      t = { s with clusters := t.clusters, pwr := t.pwr, pins := t.pins, free := t.free }) ∧
  (∀ (s : State), s.pins.vaux = true → s.pins.vrbClk = true → s.nextFrame.2 ≠ .off →
    s.pwr.rails[s.nextFrame.1].fails < 2 → ∃ t, exec (.vrbFrame none) s = .next t ∧
      t.pwr.rails[s.nextFrame.1].fails = s.pwr.rails[s.nextFrame.1].fails + 1 ∧ t.pwr.rails[s.nextFrame.1].acks = 0 ∧ t.pwr.busUp = false ∧
      (∀ j : Fin 8, j ≠ s.nextFrame.1 → t.pwr.rails[j] = s.pwr.rails[j]) ∧ t = { s with pwr := t.pwr, free := t.free }) ∧
  (∀ (s : State), s.pins.vaux = true → s.pins.vrbClk = true →
    2 ≤ s.pwr.rails[s.nextFrame.1].fails → s.pwr.rails[s.nextFrame.1].fault = false → ∃ t, exec (.vrbFrame none) s = .next t ∧
      t.pwr.rails[s.nextFrame.1].fault = true ∧ t.pwr.busFault = true ∧ t.pwr.faultRail = BitVec.ofNat 3 s.nextFrame.1.val) ∧
  (∀ (raw : List Nat) (d : Fin 4) (s : State), s.lit = true →
    95 * s.railLim (railOf d) < 100 * (s.pwr.rails[railOf d].noteEstimate (raw.getD d.val 0)).mean → s.pwr.dies[d].level < 8 →
    s.pwr.dies[d].levelAt.toNat + 4096 ≤ (s.advanceTo (BitVec.ofNat 64 ((s.now.toNat / 1024 + 1) * 1024))).now.toNat →
    ∃ t, exec (.currantEval raw) s = .next t ∧ t.now = (s.advanceTo (BitVec.ofNat 64 ((s.now.toNat / 1024 + 1) * 1024))).now ∧
      t.pwr.dies[d].level = s.pwr.dies[d].level + 1 ∧ t.pwr.dies[d].levelAt = t.now ∧ t.pwr.dies[d].cap = s.pwr.dies[d].cap ∧
      t.pwr.rails[railOf d].estimates = (s.pwr.rails[railOf d].noteEstimate (raw.getD d.val 0)).estimates ∧
      t = { s with time := t.time, clusters := t.clusters, pwr := t.pwr, rt := t.rt }) ∧
  (∀ (raw : List Nat) (s : State), s.lit = true → ∃ t, exec (.currantEval raw) s = .next t ∧
    (95 * s.railLim 4 < 100 * (s.pwr.rails[(4 : Fin 8)].noteEstimate (raw.getD 4 0)).mean → t.pwr.hubThrottle = true) ∧
    (95 * s.railLim 5 < 100 * (s.pwr.rails[(5 : Fin 8)].noteEstimate (raw.getD 5 0)).mean → t.pwr.stkThrottle = true) ∧
    (95 * s.railLim 6 < 100 * (s.pwr.rails[(6 : Fin 8)].noteEstimate (raw.getD 6 0)).mean → s.pwr.rails[(6 : Fin 8)].high = false →
      (6, t.now) ∈ t.rt.railEvents)) ∧
  (∀ (d : Fin 4) (t0 : DWord) (s : State), s.pwr.dies[d].aboveSince = some t0 → ∃ t, exec (.dieCapStep d) s = .next t ∧
    t.pwr.dies[d].cap = max 500 (s.pwr.dies[d].cap - 25) ∧ t.now = (s.advanceTo (after t0 (100 * usU))).now ∧
    (∀ o : Fin 4, o ≠ d → t.pwr.dies[o] = s.pwr.dies[o]) ∧ t = { s with time := t.time, clusters := t.clusters, pwr := t.pwr }) ∧
  (∀ (d : Fin 4) (t0 : DWord) (s : State), s.pwr.dies[d].aboveSince = none → s.pwr.dies[d].coolSince = some t0 → s.pwr.dies[d].cap < 1800 →
    ∃ t, exec (.dieCapStep d) s = .next t ∧ t.pwr.dies[d].cap = min 1800 (s.pwr.dies[d].cap + 25) ∧ t.now = (s.advanceTo (after t0 msU)).now ∧
      (∀ o : Fin 4, o ≠ d → t.pwr.dies[o] = s.pwr.dies[o]) ∧ t = { s with time := t.time, clusters := t.clusters, pwr := t.pwr }) ∧
  (∀ (d : Fin 4) (t0 : DWord) (s : State), s.pwr.dies[d].overSince = some t0 → ∃ t, exec (.railOvercurrent d) s = .next t ∧
    t.pins.faultLow = true ∧ t.pwr.offSeq.head? = some (railOf d) ∧ t.pwr.offAt = t.now ∧ t.pwr.dies[d].railOff = true ∧ t.inJob = false ∧
    t.now = (s.advanceTo (after t0 (100 * usU))).now) ∧
  (∀ (slow : List Nat) (s : State), s.pwr.st = .active → s.quince.running = true → ∃ t, exec (.monitorRingMeasure slow) s = .next t ∧
    (∀ c : Fin 64, t.clusters[c].slow = max s.clusters[c].slow (slow.getD c.val 0) ∧ t.clusters[c].cycles = s.clusters[c].cycles ∧
      t.clusters[c].periodFs = s.clusters[c].periodFs) ∧
    t = { s with clusters := t.clusters, sec := t.sec, pwr := t.pwr, host := t.host }) ∧
  (∀ (c : Fin 64) (f : Nat) (s : State), s.clusters[s.oscOf c].stepTo = some f → s.clusters[s.oscOf c].running = true →
    s.clusters[s.oscOf c].stepHeld = false → s.clusters[s.oscOf c].periodFs < periodOf f → ∃ t, exec (.freqStepStage c) s = .next t ∧
      (∀ h ∈ s.halves c, t.clusters[h].periodFs = min (periodOf f) (s.clusters[s.oscOf c].periodFs + s.clusters[s.oscOf c].periodFs / 4) ∧
        (periodOf (s.fuseMHz c) : Int) ≤ t.clusters[h].periodFs + t.clusters[h].trimFs) ∧
      (∀ h : Fin 64, h ∉ s.halves c → t.clusters[h] = s.clusters[h]) ∧ t = { s with clusters := t.clusters, pwr := t.pwr }) ∧
  (∀ (c : Fin 64) (f : Nat) (s : State), s.clusters[s.oscOf c].stepTo = some f → s.clusters[s.oscOf c].running = true →
    s.clusters[s.oscOf c].stepHeld = false → periodOf f < s.clusters[s.oscOf c].periodFs →
    s.pwr.rails[railOf (dieOf c)].wantTarget ≤ s.pwr.rails[railOf (dieOf c)].target → ∃ t, exec (.freqStepStage c) s = .next t ∧
      (∀ h ∈ s.halves c, t.clusters[h].periodFs = max (periodOf f) (s.clusters[s.oscOf c].periodFs - s.clusters[s.oscOf c].periodFs / 16) ∧
        (periodOf (s.fuseMHz c) : Int) ≤ t.clusters[h].periodFs + t.clusters[h].trimFs) ∧
      (∀ h : Fin 64, h ∉ s.halves c → t.clusters[h] = s.clusters[h]) ∧ t = { s with clusters := t.clusters, pwr := t.pwr }) ∧
  (∀ (c : Fin 64) (f : Nat) (s : State), s.clusters[s.oscOf c].stepTo = some f → periodOf f < s.clusters[s.oscOf c].periodFs →
    s.pwr.rails[railOf (dieOf c)].target < s.pwr.rails[railOf (dieOf c)].wantTarget → exec (.freqStepStage c) s = .next s) ∧
  (∀ (c : Fin 64) (s : State), s.clusters[c].ownCap ≠ 0 → ∃ t, exec (.clusterCapRelease c) s = .next t ∧ t.clusters[c].ownCap = 0 ∧
    t.now = (s.advanceTo s.clusters[c].capUntil).now ∧ t = { s with time := t.time, clusters := t.clusters, pwr := t.pwr })

/-- R52, R245 and R430 to R438: a sensor over T_SOFT sets the thermal ceiling, which moves by its steps; at T_HARD its throttle acts until it falls
back; at T_TRIP the module goes to STANDBY with FAULT# low and no DEPART blocks. A member of a running job parks at its boundary; parked clusters stand
still, and run again at 500 MHz with a count that begins anew. PARKED and STANDBY are not entered while a flipped move still has its stub. STANDBY is
entered outside jobs alone, disarms the watchdog before its rails go off, and is entered and left once every rail has had its frame; a request that may
not be met now is refused.
Model's choice: log entries 94 and 95. -/
def Obligations.ThermalLimitsAndPowerStates : Prop :=
  (∀ (x : Sensor) (temp draw : Nat) (s : State), softOf s.pwr x < temp → (s.pwr.thermCeil = none ∨ (getKV x s.pwr.temps).getD 0 ≤ softOf s.pwr x) →
    ∃ t, exec (.thermalSoft x temp draw) s = .next t ∧ t.pwr.thermCeil = some (max 250 (draw * 95 / 100)) ∧ t.pwr.thermBase = draw ∧ t.pwr.thermBy = x ∧
      t.pwr.temps = putKV x temp s.pwr.temps ∧ t = { s with pwr := t.pwr, host := t.host }) ∧
  (∀ (c : Nat) (s : State), s.pwr.thermCeil = some c → s.pwr.temps.any (fun x => decide (softOf s.pwr x.1 < x.2)) = true →
    ∃ t, exec .thermalCeilingStep s = .next t ∧ t.pwr.thermCeil = some (max 250 (c - s.pwr.thermBase * 2 / 100)) ∧
      t.now = (s.advanceTo (after s.pwr.thermAt msU)).now ∧ t = { s with time := t.time, pwr := t.pwr, host := t.host }) ∧
  (∀ (c : Nat) (s : State), s.pwr.thermCeil = some c → s.pwr.temps.any (fun x => decide (softOf s.pwr x.1 < x.2)) = false →
    s.pwr.temps.all (fun x => decide (x.2 + 3 ≤ softOf s.pwr x.1)) = true →
    ∃ t, exec .thermalCeilingStep s = .next t ∧ t.pwr.thermCeil = (if c + 15 ≥ 1500 then none else some (c + 15)) ∧
      t.now = (s.advanceTo (after s.pwr.thermAt (10 * msU))).now ∧ t = { s with time := t.time, pwr := t.pwr, host := t.host }) ∧
  (∀ (x : Sensor) (temp : Nat) (s : State), hardOf x ≤ temp → s.pwr.hard.contains x = false → ∃ t, exec (.thermalHard x temp) s = .next t ∧
    t.pwr.hard = s.pwr.hard ++ [x] ∧ (x = .hub → t.pwr.hubHot = true) ∧ (∀ k : Fin 12, x = .stack k → t.pwr.stkHot[k] = true) ∧
    t = { s with clusters := t.clusters, pwr := t.pwr, host := t.host }) ∧
  (∀ (x : Sensor) (temp : Nat) (s : State), temp < hardOf x → s.pwr.hard.contains x = true → ∃ t, exec (.thermalHardRelease x temp) s = .next t ∧
    t.pwr.hard = s.pwr.hard.erase x ∧ (x = .hub → t.pwr.hubHot = false) ∧ (∀ k : Fin 12, x = .stack k → t.pwr.stkHot[k] = false) ∧
    t = { s with clusters := t.clusters, pwr := t.pwr }) ∧
  (∀ (x : Sensor) (temp : Nat) (s : State), tripOf x ≤ temp → s.quince.running = true → ∃ t, exec (.thermalTrip x temp) s = .next t ∧
    t.pwr.st = .standby ∧ t.pins.faultLow = true ∧ (s.railsLit = true → t.pwr.offSeq = offOrder none ∧ t.pwr.onSeq = []) ∧ t.inJob = false ∧ t.tiers.stackMem = [] ∧
    (∀ p : Fin 32, t.fab.ports[p].departSent = false) ∧ (∀ c : Fin 64, t.clusters[c].running = false)) ∧
  (∀ (a : Asker) (s : State), Asks s a 1 → s.powerBusy = false → s.pwr.st = .active → ∃ t, exec (.enterParked a) s = .next t ∧
    (s.job.phase = .formed ∧ s.job.stage ≠ .idle → t.pwr.parkWait = true ∧ t.pwr.goal = none) ∧
    (s.job.phase ≠ .formed ∨ s.job.stage = .idle → t.pwr.parkWait = false ∧ t.pwr.goal = some .parked) ∧ t.pwr.st = .active ∧
    t.pwr.asker = some (a, s.askIndex a)) ∧
  (∀ s : State, Asks s .mctp 1 → s.powerBusy = true → exec (.enterParked .mctp) s = .next (s.mctp (.done stBusy 0x1B))) ∧
  (∀ s : State, s.pwr.goal = some .parked → s.stubsLive = false → ∃ t, exec .parkDone s = .next t ∧ t.pwr.st = .parked ∧ t.pwr.goal = none ∧
    (∀ c : Fin 64, t.clusters[c].running = false ∧ t.clusters[c].cycles = s.clusters[c].cycles) ∧
    (∀ i : Fin 8, i.val < 4 → t.pwr.rails[i].target = 800) ∧ t = { s with clusters := t.clusters, pwr := t.pwr, host := t.host, quince := t.quince }) ∧
  (∀ s : State, s.stubsLive = true → exec .parkDone s = .next s ∧ exec .standbyEntryDone s = .next s) ∧
  (∀ (a : Asker) (s : State), Asks s a 0 → s.powerBusy = false → s.pwr.st ≠ .active → ∃ t, exec (.returnActive a) s = .next t ∧
    t.pwr.goal = some .active ∧ t.pwr.asker = some (a, s.askIndex a) ∧ t = { s with pwr := t.pwr, host := t.host }) ∧
  (∀ s : State, s.pwr.st = .parked → s.pwr.goal = some .active → ∃ t, exec .unparkDone s = .next t ∧ t.pwr.st = .active ∧ t.pwr.goal = none ∧
    (∀ c : Fin 64, s.regionsOn c ≠ [] → t.clusters[c].running = true ∧ t.clusters[c].periodFs = periodOf 500 ∧ t.clusters[c].cycles = 0)) ∧
  (∀ (a : Asker) (s : State), Asks s a 2 → s.powerBusy = false → s.pwr.st ≠ .standby → s.inJob = false → (∀ r : Fin 64, s.host.rings[r].jobId = none) →
    ∃ t, exec (.enterStandby a) s = .next t ∧ t.pwr.goal = some .standby ∧ t.time.wdArmed = false ∧ t.pwr.st = s.pwr.st ∧
      (∀ p : Fin 32, t.fab.ports[p].st = .dark ∨ t.fab.ports[p].st = .disabled) ∧ t.pwr.offSeq = offOrder none ∧
      t.pwr.asker = some (a, s.askIndex a)) ∧
  (∀ s : State, Asks s .mctp 2 → s.inJob = true → exec (.enterStandby .mctp) s = .next (s.mctp (.done stBusy 0x1B))) ∧
  (∀ (a : Asker) (s : State), a = .mctp → s.quinceServes = false →
    exec (.enterParked a) s = .next s ∧ exec (.enterStandby a) s = .next s ∧ exec (.returnActive a) s = .next s) ∧
  (∀ s : State, (s.pwr.offSeq ≠ [] → exec .standbyEntryDone s = .next s) ∧ (s.pwr.onSeq ≠ [] → exec .standbyExitDone s = .next s)) ∧
  (∀ s : State, s.pwr.goal = some .standby → s.stubsLive = false → s.pwr.offSeq = [] → ∃ t, exec .standbyEntryDone s = .next t ∧ t.pwr.st = .standby ∧ t.pwr.goal = none ∧
    t.tiers.stackMem = [] ∧ t.host.linkUp = false ∧ t.time.wdArmed = false ∧ t.pwr.rails = s.pwr.rails ∧ t.now = (s.advanceTo s.pwr.offAt).now ∧
    (∀ c : Fin 64, t.clusters[c].running = false) ∧ t.fab.portEn = s.fab.portEn ∧ t.pins.pwrGood = !s.pins.goodHeld) ∧
  (∀ s : State, s.pwr.st = .standby → s.pwr.goal = some .active → s.pwr.onSeq = [] → ∃ t, exec .standbyExitDone s = .next t ∧ t.pwr.st = .active ∧ t.pwr.goal = none ∧
    t.host.deviceReady = true ∧ t.host.linkUp = true ∧ t.tiers.wipeStk = true ∧ t.pwr.pinCode = s.pins.envCode ∧
    t.sec.departAdvice = 0 ∧ (∀ p : Fin 32, t.fab.ports[p].lost = false) ∧ (∀ c : Fin 1024, t.cells[c].store = []))


/-! ### Securing and restore -/

/-- R37, R263, R273, R441 to R447 and R457 to R462: the transfers of a unit end in turn, each while the unit holds its buffer of class D, and release its buffer and its staging buffer; an update that
waited for the buffer records its wait. A flash point keeps an image. A base claims a staging buffer, and is complete with its bytes once it has one
that was read. A restore claims a staging buffer; a failed read moves it on to its next source, and an image that fits is placed. The last reader of a
handover image releases the departing member, or drops the image of another.
Model's choice: log entries 96 and 97. -/
def Obligations.UnitsAreSecuredInTurn : Prop :=
  (∀ (u : SecUnit) (rest : List SecUnit) (s : State), s.sec.units = u :: rest → s.partnerOver u = true → s.drainHeld u = true → s.pwr.st = .active →
    ∃ t, exec .partnerTransferDone s = .next t ∧ t.sec.units = { u with partnerDone := true, failed := false, header := none } :: rest ∧
      (u.needPartner = true → u.failed = false → 1 < s.job.p.n → s.copyGood u = true → t.sec.partnerStep = u.step ∧ t.sec.partnerValid = true ∧
        t.sec.slotNext = !s.sec.slotNext ∧ t.sec.firstImage = false) ∧
      (s.copyGood u = false ∨ u.failed = true → t.sec.partnerStep = s.sec.partnerStep ∧ t.sec.slotNext = s.sec.slotNext) ∧
      (u.needPartner = false → t.sec.partnerStep = s.sec.partnerStep ∧ t.sec.slotNext = s.sec.slotNext) ∧ t = { s with sec := t.sec }) ∧
  (∀ (u : SecUnit) (s : State), s.sec.units = [u] → u.partnerDone = true → s.drainHeld u = true → s.sec.startStep = none → s.pwr.st = .active → u.needFlash = false →
    ∃ t, exec .flashTransferDone s = .next t ∧ t.sec.units = [] ∧ t.sec.bufferFree = true ∧ t.sec.flash = s.sec.flash ∧
      t.sec.flashLogs = s.sec.flashLogs ++ u.logs.map (fun l => (u.step, l.1, l.2.1, l.2.2)) ∧ t.mover = s.mover.land (.drain u.step) ∧
      (∀ t0 : DWord, s.sec.bufferSince = some t0 → t.sec.bufferSince = none ∧ t.job.record.waitBuffer = (s.now.toNat - t0.toNat) / usU) ∧
      t = { s with job := t.job, sec := t.sec, mover := t.mover }) ∧
  (∀ (u : SecUnit) (s : State), s.sec.units = [u] → u.partnerDone = true → s.drainHeld u = true → s.sec.startStep = none → s.pwr.st = .active → u.needFlash = true → u.failed = false →
    s.regs.lock = true → s.baseMissing = false → s.sec.flash.length < s.job.p.flashSlots → ∃ t, exec .flashTransferDone s = .next t ∧
      t.sec.units = [] ∧ t.sec.bufferFree = true ∧ t.sec.flashStep = u.step ∧ (∃ i ∈ t.sec.flash, i.step = u.step ∧ i.complete = true ∧ i.held = false) ∧
      t = { s with job := t.job, sec := t.sec, host := t.host, mover := t.mover }) ∧
  (∀ (u : SecUnit) (rest : List SecUnit) (s : State), s.sec.units = u :: rest → s.drainHeld u = false →
    exec .partnerTransferDone s = .next s ∧ exec .flashTransferDone s = .next s) ∧
  (∀ (obj : Word) (o : ObjS) (s : State), s.obj obj.toNat = some o → o.e.kind = 5 → s.rowsBusy o = false → s.sec.restoring = false →
    s.mover.bufOf (.base obj) = none →
    exec (.embeddingBaseDone obj) s = .next (s.upMover fun m => m.claim (.base obj))) ∧
  (∀ (obj : Word) (o : ObjS) (b : EmbBase) (pre post : List EmbBase) (i : Fin 128) (x : StageBuf) (s : State), s.obj obj.toNat = some o → o.e.kind = 5 →
    s.rowsBusy o = false → s.sec.restoring = false → s.mover.bufOf (.base obj) = some (i, x) → x.bad = false → s.sec.bases = pre ++ b :: post → b.obj = obj → b.complete = false →
    (∀ y ∈ pre, y.obj ≠ obj ∨ y.complete = true) →
    ∃ t, exec (.embeddingBaseDone obj) s = .next t ∧ t = { s with sec := t.sec, mover := t.mover } ∧ t.mover = s.mover.land (.base obj) ∧
      t.sec.bases = pre ++ { b with bytes := s.readObj o 0 o.e.embBytes, complete := true } :: post) ∧
  (∀ (ok : Bool) (image copy : Bytes) (s : State), s.sec.restoring = true → s.mover.bufOf .restore = none →
    exec (.restoreReadDone ok ⟨image, copy⟩) s = .next (s.upMover fun m => m.claim .restore)) ∧
  (∀ (image copy : Bytes) (i : Fin 128) (x : StageBuf) (s : State), s.sec.restoring = true → s.mover.bufOf .restore = some (i, x) → s.sec.restoreSource = 2 →
    exec (.restoreReadDone false ⟨image, copy⟩) s = .next ((s.upMover fun m => m.land .restore).upSec fun c => { c with restoreSource := 3 })) ∧
  (∀ (image copy : Bytes) (i : Fin 128) (x : StageBuf) (s u : State), s.sec.restoring = true → s.mover.bufOf .restore = some (i, x) → x.bad = false →
    u = s.upMover (fun m => m.land .restore) → s.sec.restoreSource = 2 → u.imageFits image u.sec.restoreStep = true → digestOk image = true →
    imgSection image 8 = (u.rt.image.bind (·.coeff)).getD [] → (u.placeImage image copy).sec.restoreNeed ≠ [] →
    (u.placeImage image copy).sec.restoreNeed.length ≠ u.sec.restoreNeed.length → (u.placeImage image copy).sec.restoreSource = 2 →
    exec (.restoreReadDone true ⟨image, copy⟩) s = .next (u.placeImage image copy)) ∧
  (∀ (m : BitVec 17) (s : State), s.sec.handoverTo.contains m = true → s.sec.handoverRead.contains m = false →
    s.sec.handoverTo.all (s.sec.handoverRead ++ [m]).contains = false → exec (.handoverImageDone m) s =
      .next (s.upSec fun c => { c with handoverRead := c.handoverRead ++ [m], handedOver := putKV m c.handover c.handedOver })) ∧
  (∀ (m : BitVec 17) (s : State), s.sec.handoverWait = false → s.sec.handoverTo.contains m = true → s.sec.handoverRead.contains m = false →
    s.sec.handoverTo.all (s.sec.handoverRead ++ [m]).contains = true → exec (.handoverImageDone m) s =
      .next (s.upSec fun c => { c with handoverTo := [], handover := [], handoverRead := [], handedOver := putKV m c.handover c.handedOver })) ∧
  (∀ (m : BitVec 17) (s : State), s.sec.handoverWait = true → s.sec.handoverTo.contains m = true → s.sec.handoverRead.contains m = false →
    s.sec.handoverTo.all (s.sec.handoverRead ++ [m]).contains = true → ∃ t, exec (.handoverImageDone m) s = .next t ∧ t.job.phase = .none ∧
      t.sec.handoverWait = false ∧ t.sec.handoverTo = [] ∧ t.sec.handover = [] ∧ t = { s with job := t.job, sec := t.sec, host := t.host })

/-! ### The host interface -/

/-- R6, R480 and R482: while the link is up, ending the descriptor in progress of a ring other than ring 0 writes its completion, with its tag, opcode,
status, detail and result, into the completion ring, and its bytes to the host; a STEP descriptor's is written once every STEP before it, of an earlier
step, has ended. An entry has 32 bytes, with its fields at the places of the table, its PHASE the ring's; the
PHASE of a ring inverts with the last entry of a pass. -/
def Obligations.EndedDescriptorIsWritten : Prop :=
  (∀ (r : Fin 64) (d : Desc) (status detail : Nat) (result : DWord) (s : State), s.host.linkUp = true → r.val ≠ 0 → d ∈ s.host.rings[r].descs →
    d.fin = none → s.host.rings[r].stepTurn d = true →
    ∃ c ∈ (s.complete r d.index status detail result).host.rings[r].written, c.tag = d.tag ∧ c.opcode = BitVec.ofNat 8 d.opcode ∧
      c.status = BitVec.ofNat 8 status ∧ c.detail = BitVec.ofNat 32 detail ∧ c.result = result ∧
      (s.host.rings[r].descs.head? = some d → c.phase = s.host.rings[r].phase) ∧
      ∃ a, (a, c.bytes) ∈ (s.complete r d.index status detail result).host.dataOut) ∧
  (∀ c : Completion, c.bytes.length = 32 ∧ leNat c.bytes 0 2 = c.tag.toNat ∧ leNat c.bytes 2 2 = c.sqHead.toNat ∧ leNat c.bytes 4 1 = c.status.toNat ∧
    leNat c.bytes 5 1 = c.opcode.toNat ∧ leNat c.bytes 6 2 = (if c.phase then 1 else 0) ∧ leNat c.bytes 8 4 = c.detail.toNat ∧ leNat c.bytes 12 2 = c.sqIndex.toNat ∧
    leNat c.bytes 16 8 = c.result.toNat) ∧
  (∀ (g : Ring) (now : DWord), (g.cqTail.toNat + 1 < g.cqSize → (g.wrote now g.wraps).phase = g.phase ∧ (g.wrote now g.wraps).cqTail = g.cqTail + 1) ∧
    (g.cqSize ≤ g.cqTail.toNat + 1 → (g.wrote now g.wraps).phase = !g.phase ∧ (g.wrote now g.wraps).cqTail = 0))

/-- R465 to R468 and R470 to R479: PERST# brings the link up and resets the rings of a device already configured, as a Function Level Reset does; a running
ring takes its doorbells and a value out of range is a fault; a fetched descriptor joins the ring and a failed read is a fault; a ring is enabled and
disabled; its moderation timer sends its vector, or holds it pending under its
mask. A set-up binds its ring as it is fetched.
Model's choice: log entries 101, 102 and 111. -/
def Obligations.RingsFollowTheirDoorbells : Prop :=
  (∀ (gen : BitVec 4) (width : BitVec 5) (s : State), s.pins.vaux = true → s.pins.modRst = true → s.pwr.st ≠ .standby →
    ∃ t, exec (.perstDeassert (some gen) width) s = .next t ∧ t.host.linkUp = true ∧ t.host.cfgReady = true ∧ t.host.gen = gen ∧ t.host.width = width ∧
      t.host.drs = s.host.drs + 1 ∧ t.pins = { s.pins with perst := true } ∧
      (s.host.cfgReady = false → t = { s with host := t.host, pins := t.pins }) ∧
      (s.host.cfgReady = true → t.inJob = false ∧ ∀ r : Fin 64, t.host.rings[r] = .reset)) ∧
  (∀ s : State, s.host.cfgReady = true → ∃ t, exec .functionLevelReset s = .next t ∧ (∀ r : Fin 64, t.host.rings[r] = .reset) ∧
    (∀ v : Fin 65, t.host.msix[v].masked = true) ∧ t.inJob = false ∧ t.quince = s.quince ∧ t.time = s.time) ∧
  (∀ (width : BitVec 5) (s : State), ∃ t, exec (.perstDeassert none width) s = .next t ∧ t.pins.perst = false ∧ t.host.linkUp = false ∧ t.host.cfgReady = false ∧
    (s.host.cfgReady = true → (∀ r : Fin 64, t.host.rings[r] = .reset) ∧ t.inJob = false)) ∧
  (∀ (r : Fin 64) (v : Word) (s : State), s.hostReady = true → s.host.rings[r].st = .running → s.host.rings[r].kind ≠ 2 →
    v.toNat < s.host.rings[r].sqSize → s.host.rings[r].headWritten = s.host.rings[r].cqHead → s.host.rings[r].cqHead.toNat < s.host.rings[r].cqSize →
    ∃ t, exec (.sqTail r v) s = .next t ∧ t.host.rings[r] = { s.host.rings[r] with sqTail := BitVec.ofNat 16 v.toNat, tailNew := false, headNew := false } ∧
      (∀ o : Fin 64, o ≠ r → t.host.rings[o] = s.host.rings[o]) ∧ t = { s with host := t.host }) ∧
  (∀ (r : Fin 64) (v : Word) (s : State), s.hostReady = true → s.host.rings[r].st = .running → s.host.rings[r].kind ≠ 2 →
    s.host.rings[r].sqSize ≤ v.toNat → v.toNat < 65536 → ∃ t, exec (.sqTail r v) s = .next t ∧ t.host.rings[r].st = .fault ∧
      t.host.rings[r].faultCause = 2 ∧ (∀ o : Fin 64, o ≠ r → t.host.rings[o] = s.host.rings[o]) ∧ t = { s with host := t.host }) ∧
  (∀ (r : Fin 64) (v : Word) (s : State), s.hostReady = true → s.host.rings[r].st = .running →
    (s.host.rings[r].kind = 2 ∨ s.host.rings[r].sqTail.toNat < s.host.rings[r].sqSize) → v.toNat < s.host.rings[r].cqSize →
    (v.toNat + s.host.rings[r].cqSize - s.host.rings[r].cqHead.toNat) % s.host.rings[r].cqSize ≤ s.host.rings[r].used →
    ∃ t, exec (.cqHead r v) s = .next t ∧ t.host.rings[r].cqHead = BitVec.ofNat 16 v.toNat ∧ t.host.rings[r].used =
        s.host.rings[r].used - (v.toNat + s.host.rings[r].cqSize - s.host.rings[r].cqHead.toNat) % s.host.rings[r].cqSize ∧
      (∀ o : Fin 64, o ≠ r → t.host.rings[o] = s.host.rings[o]) ∧ t = { s with host := t.host }) ∧
  (∀ (r : Fin 64) (s : State), s.hostReady = true → s.host.rings[r].canFetch = true → ∃ t, exec (.descriptorFetch r none) s = .next t ∧
    t.host.rings[r].st = .fault ∧ t.host.rings[r].faultCause = 1 ∧ (∀ o : Fin 64, o ≠ r → t.host.rings[o] = s.host.rings[o]) ∧
    t = { s with host := t.host }) ∧
  (∀ (r : Fin 64) (b : Bytes) (s : State), s.hostReady = true → s.host.rings[r].canFetch = true → s.host.rings[r].descs = [] →
    ({ index := 0, bytes := padTo (b.take 64) 64, begun := false, fin := none } : Desc).malformed s.host.rings[r].kind.toNat = none →
    ∃ t, exec (.descriptorFetch r (some ⟨b, none⟩)) s = .next t ∧ t.host.rings[r].descs =
        [{ index := s.host.rings[r].fetched, bytes := padTo (b.take 64) 64, begun := false, fin := none }] ∧
      t.host.rings[r].fetched = s.host.rings[r].fetched + 1 ∧ t.host.rings[r].reserved = s.host.rings[r].reserved + 1 ∧
      (∀ o : Fin 64, o ≠ r → t.host.rings[o] = s.host.rings[o]) ∧ t = { s with host := t.host }) ∧
  (∀ (r : Fin 64) (s : State), s.host.rings[r].modUsec ≠ 0 → 0 < s.host.rings[r].unsignalled → ∃ t, exec (.msixModTimer r) s = .next t ∧
    t.host.rings[r] = { s.host.rings[r] with unsignalled := 0 } ∧
    t.now = (s.advanceTo (after s.host.rings[r].oldestAt (s.host.rings[r].modUsec.toNat * usU))).now ∧ t = { s with time := t.time, host := t.host } ∧
    (∀ (v : Fin 65), v.val = s.host.rings[r].vec.toNat →
      (s.host.msixEn = true → s.host.msix[v].masked = false → t.host.sent = s.host.sent ++ [v.val] ∧ t.host.msix = s.host.msix) ∧
      ((s.host.msixEn = false ∨ s.host.msix[v].masked = true) → t.host.sent = s.host.sent ∧ t.host.msix[v] = { s.host.msix[v] with pend := true }))) ∧
  (∀ (r : Fin 64) (id : Word) (b : Bytes) (s : State), s.hostReady = true → s.host.rings[r].canFetch = true → s.host.rings[r].descs = [] →
    ({ index := 0, bytes := padTo (b.take 64) 64, begun := false, fin := none } : Desc).malformed s.host.rings[r].kind.toNat = none →
    ({ index := 0, bytes := padTo (b.take 64) 64, begun := false, fin := none } : Desc).opcode = 0x10 → s.boundRings r id < 4 → s.job.phase ≠ .formed →
    ∃ t, exec (.descriptorFetch r (some ⟨b, some id⟩)) s = .next t ∧ t.host.rings[r].jobId = some id) ∧
  (∀ (r : Fin 64) (s : State), s.hostReady = true → s.host.rings[r].st = .disabled → s.cfgOk r = true → s.host.rings[r].kind ≠ 2 →
    s.host.rings[r].sqTail = 0 → s.host.rings[r].headWritten = 0 → s.host.rings[r].cqHead = 0 → ∃ t, exec (.ringEnable r) s = .next t ∧
      t.host.rings[r] = { s.host.rings[r] with
        enable := true
        st := if s.host.rings[r].kind = 1 ∧ s.quince.long.any (fun x => x.1.restarts) = true then .stopped else .running
        faultCause := 0
        lostWrite := false
        tailNew := false
        headNew := false } ∧
      (∀ o : Fin 64, o ≠ r → t.host.rings[o] = s.host.rings[o]) ∧ t = { s with host := t.host }) ∧
  (∀ (r : Fin 64) (s : State), s.hostReady = true → s.host.rings[r].st = .disabled → s.cfgOk r = false → ∃ t, exec (.ringEnable r) s = .next t ∧
    t.host.rings[r].st = .fault ∧ t.host.rings[r].faultCause = 4 ∧ t = { s with host := t.host }) ∧
  (∀ (r : Fin 64) (s : State), s.hostReady = true → s.host.rings[r].st = .running → ∃ t, exec (.ringDisable r) s = .next t ∧
    t.host.rings[r].st = (if s.host.rings[r].descs.isEmpty && !(s.curJob.isSome && decide (s.host.rings[r].jobId = s.curJob)) then .disabled else .draining) ∧
    t.host.rings[r].enable = false ∧ (∀ o : Fin 64, o ≠ r → t.host.rings[o] = s.host.rings[o]) ∧ t = { s with host := t.host })

/-- R382, R383, R377 and R474: a NOP ends at once with OK; tables from host memory come into force with every bucket dealt anew; a message of the fabric
manager is acted on, and another is counted and refused.
Model's choice: log entry 110. -/
def Obligations.DescriptorsWithoutAJobComplete : Prop :=
  (∀ (r : Fin 64) (d : Desc) (s : State), Begins s r 0x01 d → exec (.nop r) s = .next ((s.begun r d).complete r d.index stOk 0 0)) ∧
  (∀ (r : Fin 64) (d : Desc) (a b : Bytes) (s : State), Begins s r 0x03 d → ∃ t, exec (.fabricTables r (some a) (some b)) s = .next t ∧
    t.fab.route = padTo (a.take 131072) 131072 ∧ t.fab.sets = (List.range 256).map (fun i => BitVec.ofNat 32 (leNat b (4 * i) 4)) ∧
    t.fab.buckets = t.fab.dealAll ∧ t.fab.backWait = [] ∧ t.host = ((s.begun r d).complete r d.index stOk 0 0).host ∧ t = { s with fab := t.fab, host := t.host }) ∧
  (∀ (r : Fin 64) (d : Desc) (b : Option Bytes) (s : State), Begins s r 0x03 d →
    exec (.fabricTables r none b) s = .next ((s.begun r d).complete r d.index stBusy 0x10 0)) ∧
  (∀ (r : Fin 64) (d : Desc) (b : Bytes) (t : State) (s : State), Begins s r 0x06 d →
    (s.begun r d).hostMsg (padTo (b.take (leNat d.bytes 16 2 % 512)) (leNat d.bytes 16 2 % 512)) = some t →
    exec (.fmMsg r (some b)) s = .next (t.complete r d.index stOk 0 0)) ∧
  (∀ (r : Fin 64) (d : Desc) (b : Bytes) (s : State), Begins s r 0x06 d →
    (s.begun r d).hostMsg (padTo (b.take (leNat d.bytes 16 2 % 512)) (leNat d.bytes 16 2 % 512)) = none →
    ∃ t, exec (.fmMsg r (some b)) s = .next t ∧ t.fab = { s.fab with msgDiscards := satAdd s.fab.msgDiscards 1 } ∧
      t.host = ((s.begun r d).complete r d.index stVersion 0x19 0).host ∧ t = { s with fab := t.fab, host := t.host })

/-! ### Descriptors of a job -/

/-- R215, R305, R306, R349, R363, R444, R461, R474 and R486: the input of the next step waits for a slot and another step is refused. An accepted
step-size record is held, or ends the wait of Medlar for it, which the step record counts; one beyond the next steps is refused. A hold stays until
its boundary. An export holds its slot until the end of its image is reached, and ABANDON releases it. A request of the host goes to the fabric where
the job's level has its operation. A ring is released.
Model's choice: log entries 98, 99, 105, 109 and 128. -/
def Obligations.JobDescriptorsAct : Prop :=
  (∀ (r : Fin 64) (d : Desc) (b : Bytes) (s : State), Begins s r 0x11 d → s.ringJob r = true → d.stepOf = s.nextInput →
    leNat d.bytes 0x18 8 ≤ s.job.p.retSize.toNat → ∃ t, exec (.stepDesc r (some b)) s = .next t ∧
      t.tiers.retWait = s.tiers.retWait ++ [{ step := d.stepOf, input := b.take (leNat d.bytes 0x18 8), bad := false }] ∧
      t = { s with tiers := t.tiers, host := t.host }) ∧
  (∀ (r : Fin 64) (d : Desc) (b : Option Bytes) (s : State), Begins s r 0x11 d → s.ringJob r = true → d.stepOf ≠ s.nextInput →
    exec (.stepDesc r b) s = .next ((s.begun r d).complete r d.index stVersion 0x18 0)) ∧
  (∀ (r : Fin 64) (d : Desc) (b : Bytes) (s : State), Begins s r 0x12 d → s.ringJob r = true → s.awaitsSize (BitVec.ofNat 64 (leNat b 0 8)) = false →
    s.openStep.toNat ≤ (BitVec.ofNat 64 (leNat b 0 8)).toNat → (BitVec.ofNat 64 (leNat b 0 8)).toNat ≤ s.openStep.toNat + 3 →
    etaOk ((s.rt.image.map (·.groups)).getD []) b = true → ∃ t, exec (.stepSize r (some b)) s = .next t ∧
      (∃ x ∈ t.medlar.sizes, x.step = BitVec.ofNat 64 (leNat b 0 8) ∧ x.eta = (List.range 64).map (fun g => BitVec.ofNat 32 (leNat b (0x40 + 4 * g) 4))) ∧
      (∀ y ∈ s.medlar.sizes, y.step ≠ BitVec.ofNat 64 (leNat b 0 8) → y ∈ t.medlar.sizes) ∧ t = { s with medlar := t.medlar, host := t.host }) ∧
  (∀ (r : Fin 64) (d : Desc) (b : Bytes) (s : State), Begins s r 0x12 d → s.ringJob r = true → s.awaitsSize (BitVec.ofNat 64 (leNat b 0 8)) = true →
    etaOk ((s.rt.image.map (·.groups)).getD []) b = true → ∃ t, exec (.stepSize r (some b)) s = .next t ∧
      t.medlar = { s.medlar with inUse := some { step := BitVec.ofNat 64 (leNat b 0 8),
                                                 eta := (List.range 64).map fun g => BitVec.ofNat 32 (leNat b (0x40 + 4 * g) 4) } } ∧
      t.job.record.waitStepSize = (s.now.toNat - s.job.record.tDecision.toNat) / usU ∧
      t = { s with medlar := t.medlar, job := t.job, host := t.host }) ∧
  (∀ (r : Fin 64) (d : Desc) (b : Bytes) (s : State), Begins s r 0x12 d → s.ringJob r = true → s.awaitsSize (BitVec.ofNat 64 (leNat b 0 8)) = false →
    s.openStep.toNat + 3 < (BitVec.ofNat 64 (leNat b 0 8)).toNat →
    exec (.stepSize r (some b)) s = .next ((s.begun r d).complete r d.index stBusy 0x15 (BitVec.ofNat 64 (leNat b 0 8)))) ∧
  (∀ (r : Fin 64) (d : Desc) (s : State), Begins s r 0x13 d → s.ringJob r = true → s.job.phase = .formed → s.job.stage ≠ .idle →
    ∃ t, exec (.hold r) s = .next t ∧ t.job = { s.job with holdStep := some d.stepOf } ∧ t = { s with job := t.job, host := t.host }) ∧
  (∀ (r : Fin 64) (d : Desc) (i : FlashImg) (s : State), s.host.linkUp = true → Begins s r 0x14 d → s.host.rings[r].jobId.isSome = true →
    s.sec.flash.find? (fun i => decide (i.step = d.stepOf) && i.complete) = some i → bit (byteAt d.bytes 0x28) 0 = false →
    ∃ t, exec (.exportData r) s = .next t ∧ t = { s with sec := t.sec, host := t.host } ∧
      t.sec.flash = s.sec.flash.map (fun x => if x.step = d.stepOf
        then { x with held := !decide (i.image.length ≤ leNat d.bytes 0x10 8 + leNat d.bytes 0x18 8) } else x) ∧
      (i.image.length ≤ leNat d.bytes 0x10 8 + leNat d.bytes 0x18 8 → t.sec.exportStep = d.stepOf)) ∧
  (∀ (r : Fin 64) (d : Desc) (i : FlashImg) (s : State), s.host.linkUp = true → Begins s r 0x14 d → s.host.rings[r].jobId.isSome = true →
    s.sec.flash.find? (fun i => decide (i.step = d.stepOf) && i.complete) = some i → bit (byteAt d.bytes 0x28) 0 = true →
    ∃ t, exec (.exportData r) s = .next t ∧ t = { s with sec := t.sec, host := t.host } ∧ t.sec.exportStep = s.sec.exportStep ∧
      t.sec.flash = s.sec.flash.map (fun x => if x.step = d.stepOf then { x with held := false } else x)) ∧
  (∀ (r : Fin 64) (d : Desc) (b : Option Bytes) (s : State), Begins s r 0x15 d → s.ringJob r = true → field (leNat d.bytes 0x10 4) 7 0 = 0x01 →
    1 ≤ s.job.p.level.toNat → exec (.fabricOp r b) s = .next ((s.begun r d).request { pktBlank with
      op := 0x01, cls := if bit (leNat d.bytes 0x10 4) 31 then 0 else 2, len := BitVec.ofNat 13 (field (leNat d.bytes 0x10 4) 28 16)
      dst := BitVec.ofNat 17 (leNat d.bytes 8 8 / 2 ^ 47), addr := BitVec.ofNat 64 (leNat d.bytes 8 8)
      key := BitVec.ofNat 32 (leNat d.bytes 0x14 4), job := s.job.p.jobId } (some (r, d.index)))) ∧
  (∀ (r : Fin 64) (d : Desc) (b : Option Bytes) (s : State), Begins s r 0x15 d → s.ringJob r = true → field (leNat d.bytes 0x10 4) 7 0 = 0x05 →
    s.job.p.level.toNat < 2 → exec (.fabricOp r b) s = .next ((s.begun r d).complete r d.index stVersion 0 0)) ∧
  (∀ (r : Fin 64) (d : Desc) (s : State), Begins s r 0x16 d → s.host.rings[r].jobId.isSome = true → s.ringJob r = false →
    exec (.release r) s = .next (((s.begun r d).upRing r fun g => { g with jobId := none }).complete r d.index stOk 0 0)) ∧
  (∀ (r : Fin 64) (d : Desc) (s : State), Begins s r 0x16 d → s.host.rings[r].jobId = none →
    exec (.release r) s = .next ((s.begun r d).complete r d.index stVersion 0x13 0))

/-- R230, R440 and R475 to R477: a set-up whose parameters and image stand forms the job at its first step, with the lower level of a job that is kept.
One whose image cannot be bound is refused with the index of what cannot be bound. A block that cannot be read, or one that comes while a job is formed,
is refused as busy and forms nothing.
Model's choice: log entries 105, 106 and 107. -/
def Obligations.SetupFormsTheJob : Prop :=
  (∀ (r : Fin 64) (d : Desc) (blk b : Bytes) (p : JobParams) (im : Image) (s u v : State), Begins s r 0x10 d → s.job.phase ≠ .formed →
    b = blk.take (leNat d.bytes 0x10 8) → p = { paramsOf b with level := s.levelFor (paramsOf b) } →
    s.boundRings r (paramsOf b).jobId < 4 → (∀ x : Fin 64, s.host.rings[x].setupOn = false) → s.setupBarred = none →
    bit (byteAt d.bytes 0x18) 0 = false → s.paramsBad b (paramsOf b) = none →
    u = (s.begun r d).upRing r (fun g => { g with jobId := some p.jobId, setupOn := true }) →
    checkImage (slice b (leNat b 0x78 8) (leNat b 0x80 8)) p.level.toNat s.quince.minorMax = .ok im →
    u.install im p.retSize = .ok v → u.imageBad p im = none →
    p.restoreValid = false → ∃ t, exec (.jobSetup r (some blk)) s = .next t ∧ t.job.phase = .formed ∧
      t.job.step = p.firstStep ∧ t.job.stage = .running ∧ t.job.p.jobId = p.jobId ∧ t.job.p.level = p.level ∧ t.job.tStart = p.startTime ∧
      t.rt.image = some im) ∧
  (∀ (r : Fin 64) (d : Desc) (blk b : Bytes) (p : JobParams) (im : Image) (i : Nat) (s u : State), Begins s r 0x10 d → s.job.phase ≠ .formed →
    b = blk.take (leNat d.bytes 0x10 8) → p = { paramsOf b with level := s.levelFor (paramsOf b) } →
    s.boundRings r (paramsOf b).jobId < 4 → (∀ x : Fin 64, s.host.rings[x].setupOn = false) → s.setupBarred = none →
    bit (byteAt d.bytes 0x18) 0 = false → s.paramsBad b (paramsOf b) = none →
    u = (s.begun r d).upRing r (fun g => { g with jobId := some p.jobId, setupOn := true }) →
    checkImage (slice b (leNat b 0x78 8) (leNat b 0x80 8)) p.level.toNat s.quince.minorMax = .ok im →
    u.install im p.retSize = .error i → exec (.jobSetup r (some blk)) s = .next (u.endSetup stVersion (0x0B + 256 * i) 0)) ∧
  (∀ (r : Fin 64) (d : Desc) (s : State), Begins s r 0x10 d → exec (.jobSetup r none) s = .next ((s.begun r d).complete r d.index stBusy 0x10 0)) ∧
  (∀ (r : Fin 64) (d : Desc) (blk : Bytes) (s : State), Begins s r 0x10 d → s.ringJob r = true → s.job.phase = .formed →
    exec (.jobSetup r (some blk)) s = .next ((s.begun r d).complete r d.index stBusy 0x16 0))


/-! ### Quince -/

/-- R360, R489, R490, R499 to R508 and R517: a requested start begins by its path outside jobs, after DEPART blocks on the ports that were up. A long
operation that needs approval opens a record with the digest of its parameter block, and one whose block cannot be read is refused; a commit, and a change out of FACTORY by the board, are accepted, and the management interface is busy
until it is done. A done operation has its effect; a lifecycle change and a sanitise end in a cold start.
Model's choice: log entries 113 and 114. -/
def Obligations.LongOperationsAndRestarts : Prop :=
  (∀ (a : Asker) (s : State), AsksQuince s a 0x04 (fun d => bit (byteAt d.bytes 8) 0 == false) → s.inJob = false → s.quince.start = none →
    ∃ t, exec (.warmRestart a) s = .next t ∧ (∃ st, t.quince.start = some st ∧ st.warm = true ∧ st.asked = true ∧ st.recovery = false) ∧
      t.regs = .reset ∧ t.job.phase = .none ∧ t.quince.life = s.quince.life ∧ t.now = s.now ∧ t.sec.flash = s.sec.flash ∧
      ∀ p : Fin 32, t.fab.ports[p].departSent = decide (s.fab.ports[p].st = .up)) ∧
  (∀ (a : Asker) (s : State), AsksQuince s a 0x04 (fun d => bit (byteAt d.bytes 8) 0 == true) → s.inJob = false → s.quince.start = none →
    ∃ t, exec (.coldRestart a) s = .next t ∧ (∃ st, t.quince.start = some st ∧ st.warm = false ∧ st.asked = true ∧ st.recovery = false) ∧
      t.regs = .reset ∧ t.job.phase = .none ∧ t.quince.life = s.quince.life ∧ t.now = s.now ∧ t.sec.flash = s.sec.flash ∧
      ∀ p : Fin 32, t.fab.ports[p].departSent = decide (s.fab.ports[p].st = .up)) ∧
  (∀ (target : BitVec 2) (block : Bytes) (s : State), AsksQuince s .mctp 0x05 (longIs 1) → s.quince.life = .factory →
    s.quince.life.mayTurn (Life.ofCode target.toNat) = true → s.unbound = true → ∃ t, exec (.lifecycleChange ⟨.mctp, some block⟩ target) s = .next t ∧
      t.host.mgmtBusy = true ∧ t.quince.long = some (.lifecycle (Life.ofCode target.toNat), .mctp) ∧
      t.quince.changing = some (Life.ofCode target.toNat) ∧ t.quince.life = .factory ∧ t = { s with host := t.host, quince := t.quince }) ∧
  (∀ (a : Asker) (target : BitVec 2) (block : Bytes) (s : State), AsksQuince s a 0x05 (longIs 1) → s.quince.life ≠ .factory →
    s.quince.life.mayTurn (Life.ofCode target.toNat) = true → s.unbound = true → s.quince.keysEnrolled = true → s.quince.approval = none →
    ∃ t, exec (.lifecycleChange ⟨a, some block⟩ target) s = .next t ∧ (∃ x, t.quince.approval = some x ∧ x.op = .lifecycle (Life.ofCode target.toNat) ∧ x.asker = a ∧
      x.digest = sha384 block ∧ x.hostDone = false ∧ x.boardDone = false ∧ x.openedAt = s.now) ∧ t.quince.life = s.quince.life ∧
      t = { s with host := t.host, quince := t.quince, free := t.free }) ∧
  (∀ (a : Asker) (block : Bytes) (s : State), AsksQuince s a 0x05 (longIs 2) → s.unbound = true → s.quince.keysEnrolled = true → s.quince.approval = none →
    ∃ t, exec (.sanitise ⟨a, some block⟩) s = .next t ∧ (∃ x, t.quince.approval = some x ∧ x.op = .sanitise ∧ x.asker = a ∧ x.digest = sha384 block ∧ x.hostDone = false ∧ x.boardDone = false) ∧
      t = { s with host := t.host, quince := t.quince, free := t.free }) ∧
  (∀ (a : Asker) (block : Bytes) (s : State), AsksQuince s a 0x05 (longIs 4) → s.unbound = true → s.quince.keysEnrolled = true → s.quince.approval = none →
    ∃ t, exec (.flashFormat ⟨a, some block⟩) s = .next t ∧ (∃ x, t.quince.approval = some x ∧ x.op = .format ∧ x.asker = a ∧ x.digest = sha384 block ∧ x.hostDone = false ∧ x.boardDone = false) ∧
      t = { s with host := t.host, quince := t.quince, free := t.free }) ∧
  (∀ (a : Asker) (package : Bytes) (s : State), AsksQuince s a 0x05 (longIs 3) → ∃ t, exec (.firmwareCommit a (some package)) s = .next t ∧
    t.host.mgmtBusy = true ∧ t.host.longOp = 3 ∧ t.quince.long = some (.firmware package, a) ∧ t = { s with host := t.host, quince := t.quince }) ∧
  (∀ (r : Fin 64) (d : Desc) (s : State), r.val = 0 → Begins s r 0x05 d →
    (longIs 2 d = true → exec (.sanitise ⟨.ring r, none⟩) s = .next ((s.begun r d).complete r d.index stBusy 0x10 0)) ∧
    (longIs 3 d = true → exec (.firmwareCommit (.ring r) none) s = .next ((s.begun r d).complete r d.index stBusy 0x10 0)) ∧
    (longIs 4 d = true → exec (.flashFormat ⟨.ring r, none⟩) s = .next ((s.begun r d).complete r d.index stBusy 0x10 0))) ∧
  (∀ (package : Bytes) (a : Asker) (s : State), s.quince.long = some (.firmware package, a) → ∃ t, exec .longOpDone s = .next t ∧
    t.quince.long = none ∧ t.host.mgmtBusy = false ∧ t = { s with host := t.host, quince := t.quince } ∧
    (s.quince.verifies package = true → t.quince.pending = true ∧ t.host.longResult = 0 ∧
      (if s.quince.activeSlot then t.quince.slotA = pkgSlot package ∧ t.quince.slotB = s.quince.slotB
       else t.quince.slotB = pkgSlot package ∧ t.quince.slotA = s.quince.slotA)) ∧
    (s.quince.verifies package = false → t.quince.pending = s.quince.pending ∧ t.host.longResult = BitVec.ofNat 8 stVersion ∧
      t.quince.slotA = s.quince.slotA ∧ t.quince.slotB = s.quince.slotB)) ∧
  (∀ (a : Asker) (s : State), s.quince.long = some (.format, a) → ∃ t, exec .longOpDone s = .next t ∧ t.sec.flash = [] ∧ t.sec.bases = [] ∧
    t.quince.long = none ∧ t.host.mgmtBusy = false ∧ t = { s with sec := t.sec, host := t.host, quince := t.quince }) ∧
  (∀ (a : Asker) (l : Life) (s : State), s.quince.long = some (.lifecycle l, a) → s.quince.changing = some l → ∃ t, exec .longOpDone s = .next t ∧
    t.quince.life = l ∧ t.quince.changing = none ∧ (∃ st, t.quince.start = some st ∧ st.warm = false) ∧ t.sec.flash = [] ∧ t.regs.lock = false) ∧
  (∀ (a : Asker) (s : State), s.quince.long = some (.sanitise, a) → s.quince.erasing = true → s.quince.changing = none → ∃ t, exec .longOpDone s = .next t ∧
    t.quince.life = s.quince.life ∧ t.quince.erasing = false ∧ (∃ st, t.quince.start = some st ∧ st.warm = false) ∧ t.sec.flash = [] ∧
    t.sec.bases = [] ∧ t.fab.rktActive = none)

/-- R366, R368, R498 to R503 and R524: a table that keeps its rules is staged; its activation opens a record for its digest; a signature of the party over
that record counts once, and the second opens the way; a cancelled or expired record closes without effect. An enrolment makes a FACTORY module OWNED and is
followed by a cold start. The board is answered; during a start an SPDM request waits.
Model's choice: log entries 12, 114, 124 and 143. -/
def Obligations.TwoPartyApproval : Prop :=
  (∀ (table : Bytes) (s : State), s.hostReady = true → s.quinceServes = true → s.host.mgmtBusy = false → rktOk table = true → s.quince.approval = none →
    ∃ t, exec (.stageRkt table) s = .next t ∧ t.fab.rktStaged = some ((entriesOf table 32).map keyOf) ∧ t.fab.rktStagedBytes = table ∧
      t.fab.rktActive = s.fab.rktActive ∧ t.quince.mbxStatus = 0 ∧ t.quince.mbxDone = true ∧ t = { s with fab := t.fab, quince := t.quince }) ∧
  (∀ (table : Bytes) (s : State), s.hostReady = true → s.quinceServes = true → s.host.mgmtBusy = false → rktOk table = false →
    exec (.stageRkt table) s = .next (s.mbxDone stVersion 0)) ∧
  (∀ s : State, s.hostReady = true → s.quinceServes = true → s.host.mgmtBusy = false → s.fab.rktStaged.isSome = true → s.quince.keysEnrolled = true →
    s.quince.approval = none → ∃ t, exec .activateRkt s = .next t ∧ (∃ x, t.quince.approval = some x ∧ x.op = .rkt ∧ x.asker = .mailbox ∧
      x.digest = sha384 s.fab.rktStagedBytes ∧ x.hostDone = false ∧ x.boardDone = false ∧ x.openedAt = s.now) ∧ t.fab.rktAwait = true ∧
      t.fab.rktActive = s.fab.rktActive ∧ t = { s with fab := t.fab, quince := t.quince, free := t.free }) ∧
  (∀ (msg : Bytes) (x : Approval) (s : State), AsksQuince s .mctp 0 (fun _ => true) → s.quince.approval = some x → msg.length = 168 →
    msg.take 72 = x.message s.fab.modId → x.hostDone = false → ∃ t, exec (.approve true msg) s = .next t ∧
      t.quince.approval = some { x with
        boardDone := x.boardDone || Config.ecdsaVerify (toLE s.quince.boardHash.toNat 48) (msg.take 72) (msg.drop 72) } ∧
      t = { s with quince := t.quince }) ∧
  (∀ (msg : Bytes) (x : Approval) (s : State), s.hostReady = true → s.quinceServes = true → s.host.mgmtBusy = false → s.quince.approval = some x →
    x.op = .rkt → msg.length = 168 → msg.take 72 = x.message s.fab.modId → x.boardDone = true → ∃ t, exec (.approve false msg) s = .next t ∧
      t = { s with fab := t.fab, quince := t.quince } ∧
      (Config.ecdsaVerify (toLE s.quince.hostHash.toNat 48) (msg.take 72) (msg.drop 72) = true → t.quince.approval = none ∧
        t.fab.rktActive = s.fab.rktStaged ∧ t.fab.rktStaged = none) ∧
      (Config.ecdsaVerify (toLE s.quince.hostHash.toNat 48) (msg.take 72) (msg.drop 72) = false → t.quince.approval = some x ∧ t.fab = s.fab ∧
        t.quince.mbxStatus = BitVec.ofNat 8 stApproval)) ∧
  (∀ (msg : Bytes) (s : State), s.hostReady = true → s.quinceServes = true → s.host.mgmtBusy = false → msg.length ≠ 168 →
    ∃ t, exec (.approve false msg) s = .next t ∧ t.quince.approval = s.quince.approval ∧ t.quince.mbxStatus = BitVec.ofNat 8 stApproval ∧
      t.fab = s.fab ∧ t = { s with quince := t.quince }) ∧
  (∀ (x : Approval) (s : State), s.hostReady = true → s.quinceServes = true → s.host.mgmtBusy = false → s.quince.approval = some x → x.asker ≠ .mctp →
    ∃ t, exec .cancelApproval s = .next t ∧ t.quince.approval = none ∧ t.fab = { s.fab with rktAwait := false } ∧ t.quince.mbxStatus = 0 ∧
      t = { s with fab := t.fab, host := t.host, quince := t.quince }) ∧
  (∀ (x : Approval) (s : State), s.quince.approval = some x → ∃ t, exec .approvalTimeout s = .next t ∧ t.quince.approval = none ∧
    t.fab = { s.fab with rktAwait := false } ∧ t.now = (s.advanceTo (after x.openedAt (60000 * msU))).now ∧
    t = { s with time := t.time, fab := t.fab, host := t.host, quince := t.quince }) ∧
  (∀ (hh bh : BitVec 384) (s : State), AsksQuince s .mctp 0 (fun _ => true) → s.quince.life = .factory → ∃ t, exec (.enrol hh bh) s = .next t ∧
    t.quince.life = .owned ∧ t.quince.hostHash = hh ∧ t.quince.boardHash = bh ∧ t.quince.keysEnrolled = true ∧ t.quince.out = s.quince.out ++ [.done stOk 0] ∧
    (∃ st, t.quince.start = some st ∧ st.warm = false) ∧ t.sec.flash = [] ∧ t.fab.rktActive = none ∧ t.regs = .reset) ∧
  (∀ s : State, s.quinceUp = true → s.host.mgmtBusy = false → exec .status s = .next (s.mctp (.status s.pwr.st.code s.quince.life.code
    s.host.startPath.toNat s.quince.failCount.toNat s.quince.activeSlot false))) ∧
  (∀ (index : Fin 64) (e : FaultE) (s : State), s.quinceUp = true → s.host.mgmtBusy = false → s.quince.faults[index.val]? = some e →
    ∃ t, exec (.faultLog index) s = .next t ∧ t.quince.out = s.quince.out ++ [.fault e] ∧
      (index.val + 1 = s.quince.faults.length → t.pins.faultLow = false ∧ t.pins.causes = []) ∧
      (index.val + 1 ≠ s.quince.faults.length → t.pins = s.pins) ∧ t = { s with quince := t.quince, pins := t.pins }) ∧
  (∀ s : State, s.quinceUp = true → s.host.mgmtBusy = false → ∃ t, exec .pldmRequest s = .next t ∧ (∃ draw, t.quince.out = s.quince.out ++
    [.pldm s.senses.1 (s.pwr.rails.toList.map (·.iRead)) draw]) ∧ t = { s with quince := t.quince, free := t.free }) ∧
  (∀ s : State, s.senses.1.map Prod.fst = allSensors ∧ ∀ x ∈ allSensors, ∀ v, getKV x s.pwr.temps = some v → (x, v) ∈ s.senses.1) ∧
  (∀ s : State, s.quinceUp = true → s.host.mgmtBusy = false → s.quince.start = none →
    exec .spdmRequest s = .next (s.mctp (.spdm identity s.quince.runSlot s.quince.fwVersion))) ∧
  (∀ s : State, s.quinceUp = true → s.host.mgmtBusy = false → s.quince.start.isSome = true →
    exec .spdmRequest s = .next (s.upQuince fun q => { q with spdmWait := q.spdmWait + 1 }))

/-- R502: an APPROVE whose bytes differ from the open record, whose signature fails, or that arrives while no record is open, is refused and logged, and
leaves the record as it is; a second approval of the same party adds nothing. -/
def Obligations.RefusedApprovalsLeaveTheRecord : Prop :=
  (∀ (msg : Bytes) (s : State), s.hostReady = true → s.quinceServes = true → s.host.mgmtBusy = false →
    (∀ x, s.quince.approval = some x → msg.length ≠ 168 ∨ msg.take 72 ≠ x.message s.fab.modId ∨
      Config.ecdsaVerify (toLE s.quince.hostHash.toNat 48) (msg.take 72) (msg.drop 72) = false) →
    ∃ t, exec (.approve false msg) s = .next t ∧ t.quince.approval = s.quince.approval ∧
      t.quince.faults.getLast? = some { kind := fkApproval, at_ := s.now, result := 0 } ∧
      t = { s with quince := { s.quince with faults := t.quince.faults, mbxDone := t.quince.mbxDone, mbxStatus := t.quince.mbxStatus, mbxDetail := t.quince.mbxDetail,
                                               mbxOut := t.quince.mbxOut } }) ∧
  (∀ (msg : Bytes) (s : State), AsksQuince s .mctp 0 (fun _ => true) →
    (∀ x, s.quince.approval = some x → msg.length ≠ 168 ∨ msg.take 72 ≠ x.message s.fab.modId ∨
      Config.ecdsaVerify (toLE s.quince.boardHash.toNat 48) (msg.take 72) (msg.drop 72) = false) →
    ∃ t, exec (.approve true msg) s = .next t ∧ t.quince.approval = s.quince.approval ∧
      t.quince.faults.getLast? = some { kind := fkApproval, at_ := s.now, result := 0 } ∧
      t = { s with quince := { s.quince with faults := t.quince.faults, out := t.quince.out } }) ∧
  (∀ (msg : Bytes) (x : Approval) (s : State), s.hostReady = true → s.quinceServes = true → s.host.mgmtBusy = false → s.quince.approval = some x →
    x.hostDone = true → x.boardDone = false → ∃ t, exec (.approve false msg) s = .next t ∧ t.quince.approval = some x ∧ t = { s with quince := t.quince }) ∧
  (∀ (msg : Bytes) (x : Approval) (s : State), AsksQuince s .mctp 0 (fun _ => true) → s.quince.approval = some x →
    x.hostDone = false → x.boardDone = true → ∃ t, exec (.approve true msg) s = .next t ∧ t.quince.approval = some x ∧ t = { s with quince := t.quince })

/-- R505: a lifecycle change is recorded before the media key is replaced, and takes place when the operation is done; when VAUX is lost before that, the
record stays and the next power-on completes the change, before any start, and begins a cold start. -/
def Obligations.LifecycleChangeOutlivesTheSupply : Prop :=
  (∀ (l : Life) (a : Asker) (s : State), (s.acceptLong (.lifecycle l) a).quince.changing = some l ∧
    (s.acceptLong (.lifecycle l) a).quince.life = s.quince.life ∧ (s.acceptLong (.lifecycle l) a).tiers = s.tiers) ∧
  (∀ (l : Life) (s : State), s.quince.changing = some l → ∃ t, exec .vauxBrownout s = .next t ∧ t.pins.vaux = false ∧ t.quince.changing = some l ∧
    t.quince.life = s.quince.life ∧ t.tiers.mediaKey = s.tiers.mediaKey ∧ t.quince.start = none) ∧
  (∀ (l : Life) (s : State), s.quince.changing = some l → s.pins.modRst = true → ∃ t, exec .vauxApplied s = .next t ∧ t.quince.life = l ∧
    t.quince.changing = none ∧ (∃ st, t.quince.start = some st ∧ st.warm = false) ∧ t.sec.flash = [] ∧ (l = .retired → t.tiers.mediaKey = 0 ∧ t.quince.retiredFuse = true))

/-- R54, R276, R506, R508 to R513, R518, R519, R531 and R532: supply and the release of MOD_RST# begin a start; a brownout or MOD_RST# stops the module
and loses its job, and a brownout the tier keys and stores. A start whose checks hold ends with the tiers wiped, the stored clock taps loaded, the device
ready and the failure count 0; in the warm column the values stored for a unit that still fits them stay. One for which no slot verifies fails. A failed one counts, and is tried again a second later; a RETIRED module starts
nothing.
Model's choice: log entries 117, 118 and 139. -/
def Obligations.StartsRunAndFail : Prop :=
  (∀ s : State, s.pins.modRst = true → ∃ t, exec .vauxApplied s = .next t ∧ t.pins.vaux = true ∧
    (∃ st, t.quince.start = some st ∧ st.recovery = false ∧ st.asked = false ∧ st.warm = (!s.changeOpen && !s.quince.defaultCold)) ∧ t.regs = .reset ∧ t.job.phase = .none) ∧
  (∀ s : State, s.pins.modRst = false → exec .vauxApplied s = .next (s.upPins fun p => { p with vaux := true, vrbClk := true })) ∧
  (∀ s : State, s.pins.modRst = false → s.pins.vaux = true → ∃ t, exec .modRstRelease s = .next t ∧ t.pins.modRst = true ∧
    (∃ st, t.quince.start = some st ∧ st.recovery = false ∧ st.asked = false) ∧ t.regs = .reset ∧ t.job.phase = .none) ∧
  (∀ s : State, ∃ t, exec .vauxBrownout s = .next t ∧ t.pins.vaux = false ∧ t.pins.vrbClk = false ∧ t.pins.pwrGood = false ∧ t.quince.running = false ∧
    t.quince.start = none ∧ t.inJob = false ∧ (∀ c : Fin 64, t.clusters[c].running = false) ∧ t.host.linkUp = false ∧ t.tiers.keysSet = false ∧
    t.tiers.stackMem = [] ∧ t.tiers.capMem = [] ∧ (∀ c : Fin 1024, t.cells[c].store = [])) ∧
  (∀ s : State, ∃ t, exec .modRstAssert s = .next t ∧ t.pins.modRst = false ∧ t.pins.vaux = s.pins.vaux ∧ t.pins.pwrGood = false ∧
    t.quince.running = false ∧ t.quince.start = none ∧ t.inJob = false ∧ (∀ c : Fin 64, t.clusters[c].running = false) ∧ t.host.linkUp = false) ∧
  (∀ (o : StartObs) (st : StartS) (s : State), s.quince.start = some st → s.quince.life ≠ .retired → st.recovery = false → o.slotA = true →
    s.quince.slotVerifies s.quince.slotA = true → s.quince.activeSlot = false → s.quince.pending = false → o.railsOk = true → o.readyInTime = true →
    32 ≤ (s.trainLink.powerUp.selfTest o).eligibleN → (let ver := s.trainVer false false
    let ok := s.unitFits o ver
    let warm := st.warm && (st.asked || allUnits.any ok)
    ∃ t, exec (.startBegin o) s = .next t ∧ t.quince.start = none ∧
      t.quince.failCount = 0 ∧ t.quince.runSlot = false ∧ t.quince.spdmWait = 0 ∧ t.quince.storedValid = true ∧ t.host.deviceReady = true ∧
      t.host.startPath = (if warm then 1 else 0) ∧ t.tiers.wipeStk = true ∧
      t.tiers.wipeCap = true ∧ t.tiers.wipeCell = true ∧ t.tiers.keysSet = true ∧ t.tiers.stackMem = [] ∧
      (∀ c : Fin 1024, t.cells[c].store = [] ∧ t.cells[c].tap = t.quince.tapStored[c]) ∧ t.pwr.st = .active ∧
      t.pwr.ceilNow = 250 ∧ t.pins.faultLow = false ∧ t.pins.pwrGood = true ∧
      (∀ i : Fin 8, i.val < 7 → t.pwr.rails[i].enabled = true ∧ t.pwr.rails[i].target = firstTarget i.val) ∧
      (∀ c : Fin 1024, warm = true → ok (.cluster (clusterOf c)) = true → t.quince.tapStored[c] = s.quince.tapStored[c]) ∧
      (∀ k : Fin 12, warm = true → ok (.stack k) = true → ∃ i : Fin 36, i.val = k.val ∧ t.quince.trainStored[i] = s.quince.trainStored[i]) ∧
      (∀ p : Fin 8, warm = true → ok (.optical p) = true → t.quince.opticStored[p] = s.quince.opticStored[p]))) ∧
  (∀ (o : StartObs) (st : StartS) (s : State), s.quince.start = some st → (s.pickSlot o st.recovery).isSome = true → s.quince.life ≠ .retired → o.railsOk = false →
    ∃ t, exec (.startBegin o) s = .next t ∧ t.quince.start = none ∧ t.quince.failCount = satAdd s.quince.failCount 1 ∧ t.host.deviceReady = false) ∧
  (∀ (o : StartObs) (st : StartS) (s : State), s.quince.start = some st → st.recovery = false →
    (o.slotA = false ∨ s.quince.slotVerifies s.quince.slotA = false) → (o.slotB = false ∨ s.quince.slotVerifies s.quince.slotB = false) →
    ∃ t, exec (.startBegin o) s = .next t ∧ t.quince.start = none ∧ t.quince.failCount = satAdd s.quince.failCount 1) ∧
  (∀ (q : Quince) (x : Slot), x.svn.toNat < q.svnFloor.toNat ∨ x.present = false → q.slotVerifies x = false) ∧
  (∀ (o : StartObs) (st : StartS) (s : State), s.quince.start = some st → (s.pickSlot o st.recovery).isSome = true → s.quince.life = .retired →
    ∃ t, exec (.startBegin o) s = .next t ∧ t.quince.start = none ∧ t.pwr = s.pwr ∧ t.host.deviceReady = s.host.deviceReady) ∧
  (∀ (st : StartS) (s : State), s.quince.start = some st → ∃ t, exec .startTimeout s = .next t ∧ t.quince.start = none ∧
    t.quince.failCount = satAdd s.quince.failCount 1 ∧ t.quince.retryDue = (if st.recovery then none else some t.now) ∧
    t.quince.startWaits = st.recovery ∧
    ∃ w : Bool, (w = true → s.mayWarm st = true) ∧ t.now = (s.advanceTo (after st.since ((if w then 15000 else 120000) * msU))).now) ∧
  (∀ (t0 : DWord) (s : State), s.quince.retryDue = some t0 → ∃ t, exec .startRetry s = .next t ∧
    (∃ st, t.quince.start = some st ∧ st.warm = false ∧ st.recovery = decide (3 ≤ s.quince.failCount.toNat)) ∧ t.quince.retryDue = none ∧
    t.now = (s.advanceTo (after t0 (1000 * msU))).now ∧ t.regs = .reset)

/-! ### Registers and the host link -/

/-- R544, R546 and R549: a read of a LO register latches the upper half, which every read of its HI register returns, and leaves what
every other LO register has latched; an aligned read of 8 B gives both words of one instant, and a doorbell page reads as 0. No command but a read of a LO
register or a start changes what is latched, a write of TLM_INDEX as little as any other, and the next read of TLM_VALUE_LO takes the new index. A write of
SETUP_LOCK before DEVICE_READY is discarded and counted. -/
def Obligations.LatchedReadsAndTheEarlyLock : Prop :=
  (∀ (offset : BitVec 24) (x : Reg) (v : Nat) (s : State), s.host.linkUp = true → s.decodes offset.toNat = true → regOf offset.toNat = some x →
    s.wide x = some v → ∃ t, exec (.loRegisterRead ⟨false, 4, offset⟩) s = .next t ∧ t.regs.readData = BitVec.ofNat 64 (v % 2 ^ 32) ∧
      getKV offset.toNat t.regs.latches = some (BitVec.ofNat 32 (v / 2 ^ 32)) ∧ t = { s with regs := t.regs }) ∧
  (∀ (offset : BitVec 24) (x : Reg) (w : Word) (s : State), s.host.linkUp = true → s.decodes (offset + 4).toNat = true → regOf offset.toNat = some x →
    (s.wide x).isSome = true → getKV offset.toNat s.regs.latches = some w →
    exec (.loRegisterRead ⟨false, 4, offset + 4⟩) s = .next (s.upRegs fun g => { g with readData := BitVec.ofNat 64 w.toNat })) ∧
  (∀ (offset : BitVec 24) (k : Nat) (s t : State), exec (.loRegisterRead ⟨false, 4, offset⟩) s = .next t → k ≠ offset.toNat →
    getKV k t.regs.latches = getKV k s.regs.latches) ∧
  (∀ (offset : BitVec 24) (x : Reg) (v : Nat) (s : State), s.host.linkUp = true → s.decodes offset.toNat = true → s.decodes (offset.toNat + 4) = true →
    regOf offset.toNat = some x → s.wide x = some v → v < 2 ^ 64 → (regOf (offset.toNat + 4)).bind s.wide = none →
    exec (.loRegisterRead ⟨false, 8, offset⟩) s = .next (s.upRegs fun g =>
      { g with latches := putKV offset.toNat (BitVec.ofNat 32 (v / 2 ^ 32)) g.latches, readData := BitVec.ofNat 64 v })) ∧
  (∀ (size : BitVec 4) (offset : BitVec 24) (s : State), s.host.linkUp = true →
    exec (.loRegisterRead ⟨true, size, offset⟩) s = .next (s.upRegs fun g => { g with readData := 0 })) ∧
  (∀ (c : Instr) (s t : State), (∀ x, c ≠ .loRegisterRead x) → exec c s = .next t →
    t.regs.latches = s.regs.latches ∨ t.quince.start.isSome = true) ∧
  (∀ (v : Word) (s : State), s.host.linkUp = true → s.host.cfgReady = true → s.host.deviceReady = true → v &&& 0x1F0FFF = v →
    ∃ t, exec (.registerWrite false 0x80010 4 0xF (BitVec.ofNat 64 v.toNat)) s = .next t ∧ t.regs.latches = s.regs.latches ∧
      ∃ u, exec (.loRegisterRead ⟨false, 4, 0x80018⟩) t = .next u ∧
        u.regs.readData = BitVec.ofNat 64 (s.counter (v.toNat / 2 ^ 16) (v.toNat % 4096) % 2 ^ 32)) ∧
  (∀ (v : Word) (s : State), s.host.linkUp = true → s.host.deviceReady = false → exec (.setupLock v) s = .next (s.discard false 0x20)) ∧
  (∀ (data : DWord) (s : State), s.host.linkUp = true → s.host.deviceReady = false →
    exec (.registerWrite false 0x20 4 0xF data) s = .next (s.discard false 0x20))

/-- R9, R12, R491, R541 to R545: a write of a size or at an offset that is not allowed is discarded and counted once, and a doorbell is written through BAR2;
a read returns the register; the link is lost and comes back with the rings that lost a write in fault.
Model's choice: log entries 111 and 123. -/
def Obligations.RegistersAreReadAndWritten : Prop :=
  (∀ (bar2 : Bool) (offset : BitVec 24) (size : BitVec 4) (be : Byte) (data : DWord) (s : State), s.host.linkUp = true →
    writeSize offset.toNat size.toNat be.toNat = none → ∃ t, exec (.registerWrite bar2 offset size be data) s = .next t ∧
      t.regs.discards = satAdd s.regs.discards 1 ∧ t.regs.discardLast = BitVec.ofNat 25 (offset.toNat + 2 ^ 24 * b2n bar2) ∧ t = { s with regs := t.regs }) ∧
  (∀ (bar2 : Bool) (offset : BitVec 24) (size : BitVec 4) (be : Byte) (data : DWord) (s : State), s.host.linkUp = false →
    exec (.registerWrite bar2 offset size be data) s = .next s) ∧
  (∀ (v : Word) (s : State), s.host.linkUp = true → s.host.cfgReady = true → s.host.deviceReady = true → v.toNat < 2 ^ 24 →
    exec (.registerWrite false 0x40010 4 0xF (BitVec.ofNat 64 v.toNat)) s = .next (s.upFab fun b =>
      { b with w1 := BitVec.ofNat 8 v.toNat, w2 := BitVec.ofNat 8 (v.toNat / 2 ^ 8), w3 := BitVec.ofNat 8 (v.toNat / 2 ^ 16) })) ∧
  (∀ (v : Word) (s : State), s.host.linkUp = true → s.host.cfgReady = true → s.host.deviceReady = true → s.regs.lock = true → v ≠ s.fab.portEn →
    ∃ t, exec (.portCfg v) s = .next t ∧ t.fab.portEn = s.fab.portEn ∧ t.fab.ports = s.fab.ports ∧ t.regs.discards = satAdd s.regs.discards 1 ∧
      t.regs.discardLast = 0x40000) ∧
  (∀ (r : Fin 64) (v : Word) (s : State), s.host.linkUp = true → exec (.registerWrite true (BitVec.ofNat 24 (0x1000 * r.val)) 4 0xF (BitVec.ofNat 64 v.toNat)) s =
    exec (.sqTail r v) s) ∧
  (∀ (offset : BitVec 24) (x : Reg) (s : State), s.host.linkUp = true → s.decodes offset.toNat = true → regOf offset.toNat = some x → s.wide x = none →
    exec (.loRegisterRead ⟨false, 4, offset⟩) s = .next (s.upRegs fun g => { g with readData := BitVec.ofNat 64 (s.regRead x) })) ∧
  (∀ (offset : BitVec 24) (s : State), s.host.linkUp = true → (s.decodes offset.toNat = false ∨ regOf offset.toNat = none) →
    exec (.loRegisterRead ⟨false, 4, offset⟩) s = .next (s.upRegs fun g => { g with readData := 0 })) ∧
  (∀ (v : Word) (s : State), s.host.linkUp = true → s.host.cfgReady = true → s.host.deviceReady = true → s.regs.lock = false → ∃ t, exec (.portCfg v) s = .next t ∧
    t.fab.portEn = v ∧ (∀ p : Fin 32, s.fab.portEn.getLsbD p.val = true → v.getLsbD p.val = false → t.fab.ports[p].st = .disabled) ∧
    (∀ p : Fin 32, s.fab.portEn.getLsbD p.val = false → v.getLsbD p.val = true → s.lit = true → s.quince.recoveryRuns = false →
      t.fab.ports[p].st = .training) ∧ t.cells = s.cells ∧ t.queues = s.queues ∧ t.job = s.job) ∧
  (∀ s : State, exec .hostLinkDown s = .next (s.upHost fun h => { h with linkUp := false })) ∧
  (∀ s : State, s.host.linkUp = false → s.host.cfgReady = true → s.pwr.st ≠ .standby → ∃ t, exec .hostLinkUp s = .next t ∧ t.host.linkUp = true ∧
    (∀ r : Fin 64, s.host.rings[r].lostWrite = true → t.host.rings[r].st = .fault ∧ t.host.rings[r].faultCause = 5 ∧ t.host.rings[r].lostWrite = false) ∧
    (∀ r : Fin 64, s.host.rings[r].lostWrite = false → t.host.rings[r] = s.host.rings[r]) ∧ t = { s with host := t.host })


/-! ### Every command -/

/-- Every command completes on every state; only a memory error command at a location that no memory has (R250) stops.
Model's choice: log entry 13. -/
def Obligations.EveryCommandCompletes : Prop :=
  ∀ (c : Instr) (s : State), (∀ l b, c = .patrolScrub l b → locValid l = true) → (∀ l, c = .correctedError l → locValid l = true) →
    (∀ l f, c = .memoryUe l f → locValid l = true) → Completes (exec c s)
end

