-- ==== Sys2Proof/Laws/State.lean ====
section
/-! SUPPORT. One lemma for each field of State under each update of Ops, and the laws of an update of one entry of a vector: no later proof
unfolds a record update. -/
namespace Sys2Proof.Machine

/-! ### upTime -/

@[simp] theorem State.upTime_time (s : State) (f : TimeBase → TimeBase) : (s.upTime f).time = f s.time := rfl
@[simp] theorem State.upTime_clusters (s : State) (f : TimeBase → TimeBase) : (s.upTime f).clusters = s.clusters := rfl
@[simp] theorem State.upTime_queues (s : State) (f : TimeBase → TimeBase) : (s.upTime f).queues = s.queues := rfl
@[simp] theorem State.upTime_joins (s : State) (f : TimeBase → TimeBase) : (s.upTime f).joins = s.joins := rfl
@[simp] theorem State.upTime_cells (s : State) (f : TimeBase → TimeBase) : (s.upTime f).cells = s.cells := rfl
@[simp] theorem State.upTime_rt (s : State) (f : TimeBase → TimeBase) : (s.upTime f).rt = s.rt := rfl
@[simp] theorem State.upTime_mover (s : State) (f : TimeBase → TimeBase) : (s.upTime f).mover = s.mover := rfl
@[simp] theorem State.upTime_tiers (s : State) (f : TimeBase → TimeBase) : (s.upTime f).tiers = s.tiers := rfl
@[simp] theorem State.upTime_job (s : State) (f : TimeBase → TimeBase) : (s.upTime f).job = s.job := rfl
@[simp] theorem State.upTime_medlar (s : State) (f : TimeBase → TimeBase) : (s.upTime f).medlar = s.medlar := rfl
@[simp] theorem State.upTime_coll (s : State) (f : TimeBase → TimeBase) : (s.upTime f).coll = s.coll := rfl
@[simp] theorem State.upTime_sec (s : State) (f : TimeBase → TimeBase) : (s.upTime f).sec = s.sec := rfl
@[simp] theorem State.upTime_fab (s : State) (f : TimeBase → TimeBase) : (s.upTime f).fab = s.fab := rfl
@[simp] theorem State.upTime_pwr (s : State) (f : TimeBase → TimeBase) : (s.upTime f).pwr = s.pwr := rfl
@[simp] theorem State.upTime_host (s : State) (f : TimeBase → TimeBase) : (s.upTime f).host = s.host := rfl
@[simp] theorem State.upTime_quince (s : State) (f : TimeBase → TimeBase) : (s.upTime f).quince = s.quince := rfl
@[simp] theorem State.upTime_pins (s : State) (f : TimeBase → TimeBase) : (s.upTime f).pins = s.pins := rfl
@[simp] theorem State.upTime_regs (s : State) (f : TimeBase → TimeBase) : (s.upTime f).regs = s.regs := rfl
@[simp] theorem State.upTime_pending (s : State) (f : TimeBase → TimeBase) : (s.upTime f).pending = s.pending := rfl
@[simp] theorem State.upTime_free (s : State) (f : TimeBase → TimeBase) : (s.upTime f).free = s.free := rfl

/-! ### upRt -/

@[simp] theorem State.upRt_time (s : State) (f : Runtime → Runtime) : (s.upRt f).time = s.time := rfl
@[simp] theorem State.upRt_clusters (s : State) (f : Runtime → Runtime) : (s.upRt f).clusters = s.clusters := rfl
@[simp] theorem State.upRt_queues (s : State) (f : Runtime → Runtime) : (s.upRt f).queues = s.queues := rfl
@[simp] theorem State.upRt_joins (s : State) (f : Runtime → Runtime) : (s.upRt f).joins = s.joins := rfl
@[simp] theorem State.upRt_cells (s : State) (f : Runtime → Runtime) : (s.upRt f).cells = s.cells := rfl
@[simp] theorem State.upRt_rt (s : State) (f : Runtime → Runtime) : (s.upRt f).rt = f s.rt := rfl
@[simp] theorem State.upRt_mover (s : State) (f : Runtime → Runtime) : (s.upRt f).mover = s.mover := rfl
@[simp] theorem State.upRt_tiers (s : State) (f : Runtime → Runtime) : (s.upRt f).tiers = s.tiers := rfl
@[simp] theorem State.upRt_job (s : State) (f : Runtime → Runtime) : (s.upRt f).job = s.job := rfl
@[simp] theorem State.upRt_medlar (s : State) (f : Runtime → Runtime) : (s.upRt f).medlar = s.medlar := rfl
@[simp] theorem State.upRt_coll (s : State) (f : Runtime → Runtime) : (s.upRt f).coll = s.coll := rfl
@[simp] theorem State.upRt_sec (s : State) (f : Runtime → Runtime) : (s.upRt f).sec = s.sec := rfl
@[simp] theorem State.upRt_fab (s : State) (f : Runtime → Runtime) : (s.upRt f).fab = s.fab := rfl
@[simp] theorem State.upRt_pwr (s : State) (f : Runtime → Runtime) : (s.upRt f).pwr = s.pwr := rfl
@[simp] theorem State.upRt_host (s : State) (f : Runtime → Runtime) : (s.upRt f).host = s.host := rfl
@[simp] theorem State.upRt_quince (s : State) (f : Runtime → Runtime) : (s.upRt f).quince = s.quince := rfl
@[simp] theorem State.upRt_pins (s : State) (f : Runtime → Runtime) : (s.upRt f).pins = s.pins := rfl
@[simp] theorem State.upRt_regs (s : State) (f : Runtime → Runtime) : (s.upRt f).regs = s.regs := rfl
@[simp] theorem State.upRt_pending (s : State) (f : Runtime → Runtime) : (s.upRt f).pending = s.pending := rfl
@[simp] theorem State.upRt_free (s : State) (f : Runtime → Runtime) : (s.upRt f).free = s.free := rfl

/-! ### upMover -/

@[simp] theorem State.upMover_time (s : State) (f : Mover → Mover) : (s.upMover f).time = s.time := rfl
@[simp] theorem State.upMover_clusters (s : State) (f : Mover → Mover) : (s.upMover f).clusters = s.clusters := rfl
@[simp] theorem State.upMover_queues (s : State) (f : Mover → Mover) : (s.upMover f).queues = s.queues := rfl
@[simp] theorem State.upMover_joins (s : State) (f : Mover → Mover) : (s.upMover f).joins = s.joins := rfl
@[simp] theorem State.upMover_cells (s : State) (f : Mover → Mover) : (s.upMover f).cells = s.cells := rfl
@[simp] theorem State.upMover_rt (s : State) (f : Mover → Mover) : (s.upMover f).rt = s.rt := rfl
@[simp] theorem State.upMover_mover (s : State) (f : Mover → Mover) : (s.upMover f).mover = f s.mover := rfl
@[simp] theorem State.upMover_tiers (s : State) (f : Mover → Mover) : (s.upMover f).tiers = s.tiers := rfl
@[simp] theorem State.upMover_job (s : State) (f : Mover → Mover) : (s.upMover f).job = s.job := rfl
@[simp] theorem State.upMover_medlar (s : State) (f : Mover → Mover) : (s.upMover f).medlar = s.medlar := rfl
@[simp] theorem State.upMover_coll (s : State) (f : Mover → Mover) : (s.upMover f).coll = s.coll := rfl
@[simp] theorem State.upMover_sec (s : State) (f : Mover → Mover) : (s.upMover f).sec = s.sec := rfl
@[simp] theorem State.upMover_fab (s : State) (f : Mover → Mover) : (s.upMover f).fab = s.fab := rfl
@[simp] theorem State.upMover_pwr (s : State) (f : Mover → Mover) : (s.upMover f).pwr = s.pwr := rfl
@[simp] theorem State.upMover_host (s : State) (f : Mover → Mover) : (s.upMover f).host = s.host := rfl
@[simp] theorem State.upMover_quince (s : State) (f : Mover → Mover) : (s.upMover f).quince = s.quince := rfl
@[simp] theorem State.upMover_pins (s : State) (f : Mover → Mover) : (s.upMover f).pins = s.pins := rfl
@[simp] theorem State.upMover_regs (s : State) (f : Mover → Mover) : (s.upMover f).regs = s.regs := rfl
@[simp] theorem State.upMover_pending (s : State) (f : Mover → Mover) : (s.upMover f).pending = s.pending := rfl
@[simp] theorem State.upMover_free (s : State) (f : Mover → Mover) : (s.upMover f).free = s.free := rfl

/-! ### upTiers -/

@[simp] theorem State.upTiers_time (s : State) (f : Tiers → Tiers) : (s.upTiers f).time = s.time := rfl
@[simp] theorem State.upTiers_clusters (s : State) (f : Tiers → Tiers) : (s.upTiers f).clusters = s.clusters := rfl
@[simp] theorem State.upTiers_queues (s : State) (f : Tiers → Tiers) : (s.upTiers f).queues = s.queues := rfl
@[simp] theorem State.upTiers_joins (s : State) (f : Tiers → Tiers) : (s.upTiers f).joins = s.joins := rfl
@[simp] theorem State.upTiers_cells (s : State) (f : Tiers → Tiers) : (s.upTiers f).cells = s.cells := rfl
@[simp] theorem State.upTiers_rt (s : State) (f : Tiers → Tiers) : (s.upTiers f).rt = s.rt := rfl
@[simp] theorem State.upTiers_mover (s : State) (f : Tiers → Tiers) : (s.upTiers f).mover = s.mover := rfl
@[simp] theorem State.upTiers_tiers (s : State) (f : Tiers → Tiers) : (s.upTiers f).tiers = f s.tiers := rfl
@[simp] theorem State.upTiers_job (s : State) (f : Tiers → Tiers) : (s.upTiers f).job = s.job := rfl
@[simp] theorem State.upTiers_medlar (s : State) (f : Tiers → Tiers) : (s.upTiers f).medlar = s.medlar := rfl
@[simp] theorem State.upTiers_coll (s : State) (f : Tiers → Tiers) : (s.upTiers f).coll = s.coll := rfl
@[simp] theorem State.upTiers_sec (s : State) (f : Tiers → Tiers) : (s.upTiers f).sec = s.sec := rfl
@[simp] theorem State.upTiers_fab (s : State) (f : Tiers → Tiers) : (s.upTiers f).fab = s.fab := rfl
@[simp] theorem State.upTiers_pwr (s : State) (f : Tiers → Tiers) : (s.upTiers f).pwr = s.pwr := rfl
@[simp] theorem State.upTiers_host (s : State) (f : Tiers → Tiers) : (s.upTiers f).host = s.host := rfl
@[simp] theorem State.upTiers_quince (s : State) (f : Tiers → Tiers) : (s.upTiers f).quince = s.quince := rfl
@[simp] theorem State.upTiers_pins (s : State) (f : Tiers → Tiers) : (s.upTiers f).pins = s.pins := rfl
@[simp] theorem State.upTiers_regs (s : State) (f : Tiers → Tiers) : (s.upTiers f).regs = s.regs := rfl
@[simp] theorem State.upTiers_pending (s : State) (f : Tiers → Tiers) : (s.upTiers f).pending = s.pending := rfl
@[simp] theorem State.upTiers_free (s : State) (f : Tiers → Tiers) : (s.upTiers f).free = s.free := rfl

/-! ### upJob -/

@[simp] theorem State.upJob_time (s : State) (f : Job → Job) : (s.upJob f).time = s.time := rfl
@[simp] theorem State.upJob_clusters (s : State) (f : Job → Job) : (s.upJob f).clusters = s.clusters := rfl
@[simp] theorem State.upJob_queues (s : State) (f : Job → Job) : (s.upJob f).queues = s.queues := rfl
@[simp] theorem State.upJob_joins (s : State) (f : Job → Job) : (s.upJob f).joins = s.joins := rfl
@[simp] theorem State.upJob_cells (s : State) (f : Job → Job) : (s.upJob f).cells = s.cells := rfl
@[simp] theorem State.upJob_rt (s : State) (f : Job → Job) : (s.upJob f).rt = s.rt := rfl
@[simp] theorem State.upJob_mover (s : State) (f : Job → Job) : (s.upJob f).mover = s.mover := rfl
@[simp] theorem State.upJob_tiers (s : State) (f : Job → Job) : (s.upJob f).tiers = s.tiers := rfl
@[simp] theorem State.upJob_job (s : State) (f : Job → Job) : (s.upJob f).job = f s.job := rfl
@[simp] theorem State.upJob_medlar (s : State) (f : Job → Job) : (s.upJob f).medlar = s.medlar := rfl
@[simp] theorem State.upJob_coll (s : State) (f : Job → Job) : (s.upJob f).coll = s.coll := rfl
@[simp] theorem State.upJob_sec (s : State) (f : Job → Job) : (s.upJob f).sec = s.sec := rfl
@[simp] theorem State.upJob_fab (s : State) (f : Job → Job) : (s.upJob f).fab = s.fab := rfl
@[simp] theorem State.upJob_pwr (s : State) (f : Job → Job) : (s.upJob f).pwr = s.pwr := rfl
@[simp] theorem State.upJob_host (s : State) (f : Job → Job) : (s.upJob f).host = s.host := rfl
@[simp] theorem State.upJob_quince (s : State) (f : Job → Job) : (s.upJob f).quince = s.quince := rfl
@[simp] theorem State.upJob_pins (s : State) (f : Job → Job) : (s.upJob f).pins = s.pins := rfl
@[simp] theorem State.upJob_regs (s : State) (f : Job → Job) : (s.upJob f).regs = s.regs := rfl
@[simp] theorem State.upJob_pending (s : State) (f : Job → Job) : (s.upJob f).pending = s.pending := rfl
@[simp] theorem State.upJob_free (s : State) (f : Job → Job) : (s.upJob f).free = s.free := rfl

/-! ### upMedlar -/

@[simp] theorem State.upMedlar_time (s : State) (f : Medlar → Medlar) : (s.upMedlar f).time = s.time := rfl
@[simp] theorem State.upMedlar_clusters (s : State) (f : Medlar → Medlar) : (s.upMedlar f).clusters = s.clusters := rfl
@[simp] theorem State.upMedlar_queues (s : State) (f : Medlar → Medlar) : (s.upMedlar f).queues = s.queues := rfl
@[simp] theorem State.upMedlar_joins (s : State) (f : Medlar → Medlar) : (s.upMedlar f).joins = s.joins := rfl
@[simp] theorem State.upMedlar_cells (s : State) (f : Medlar → Medlar) : (s.upMedlar f).cells = s.cells := rfl
@[simp] theorem State.upMedlar_rt (s : State) (f : Medlar → Medlar) : (s.upMedlar f).rt = s.rt := rfl
@[simp] theorem State.upMedlar_mover (s : State) (f : Medlar → Medlar) : (s.upMedlar f).mover = s.mover := rfl
@[simp] theorem State.upMedlar_tiers (s : State) (f : Medlar → Medlar) : (s.upMedlar f).tiers = s.tiers := rfl
@[simp] theorem State.upMedlar_job (s : State) (f : Medlar → Medlar) : (s.upMedlar f).job = s.job := rfl
@[simp] theorem State.upMedlar_medlar (s : State) (f : Medlar → Medlar) : (s.upMedlar f).medlar = f s.medlar := rfl
@[simp] theorem State.upMedlar_coll (s : State) (f : Medlar → Medlar) : (s.upMedlar f).coll = s.coll := rfl
@[simp] theorem State.upMedlar_sec (s : State) (f : Medlar → Medlar) : (s.upMedlar f).sec = s.sec := rfl
@[simp] theorem State.upMedlar_fab (s : State) (f : Medlar → Medlar) : (s.upMedlar f).fab = s.fab := rfl
@[simp] theorem State.upMedlar_pwr (s : State) (f : Medlar → Medlar) : (s.upMedlar f).pwr = s.pwr := rfl
@[simp] theorem State.upMedlar_host (s : State) (f : Medlar → Medlar) : (s.upMedlar f).host = s.host := rfl
@[simp] theorem State.upMedlar_quince (s : State) (f : Medlar → Medlar) : (s.upMedlar f).quince = s.quince := rfl
@[simp] theorem State.upMedlar_pins (s : State) (f : Medlar → Medlar) : (s.upMedlar f).pins = s.pins := rfl
@[simp] theorem State.upMedlar_regs (s : State) (f : Medlar → Medlar) : (s.upMedlar f).regs = s.regs := rfl
@[simp] theorem State.upMedlar_pending (s : State) (f : Medlar → Medlar) : (s.upMedlar f).pending = s.pending := rfl
@[simp] theorem State.upMedlar_free (s : State) (f : Medlar → Medlar) : (s.upMedlar f).free = s.free := rfl

/-! ### upColl -/

@[simp] theorem State.upColl_time (s : State) (f : Collectives → Collectives) : (s.upColl f).time = s.time := rfl
@[simp] theorem State.upColl_clusters (s : State) (f : Collectives → Collectives) : (s.upColl f).clusters = s.clusters := rfl
@[simp] theorem State.upColl_queues (s : State) (f : Collectives → Collectives) : (s.upColl f).queues = s.queues := rfl
@[simp] theorem State.upColl_joins (s : State) (f : Collectives → Collectives) : (s.upColl f).joins = s.joins := rfl
@[simp] theorem State.upColl_cells (s : State) (f : Collectives → Collectives) : (s.upColl f).cells = s.cells := rfl
@[simp] theorem State.upColl_rt (s : State) (f : Collectives → Collectives) : (s.upColl f).rt = s.rt := rfl
@[simp] theorem State.upColl_mover (s : State) (f : Collectives → Collectives) : (s.upColl f).mover = s.mover := rfl
@[simp] theorem State.upColl_tiers (s : State) (f : Collectives → Collectives) : (s.upColl f).tiers = s.tiers := rfl
@[simp] theorem State.upColl_job (s : State) (f : Collectives → Collectives) : (s.upColl f).job = s.job := rfl
@[simp] theorem State.upColl_medlar (s : State) (f : Collectives → Collectives) : (s.upColl f).medlar = s.medlar := rfl
@[simp] theorem State.upColl_coll (s : State) (f : Collectives → Collectives) : (s.upColl f).coll = f s.coll := rfl
@[simp] theorem State.upColl_sec (s : State) (f : Collectives → Collectives) : (s.upColl f).sec = s.sec := rfl
@[simp] theorem State.upColl_fab (s : State) (f : Collectives → Collectives) : (s.upColl f).fab = s.fab := rfl
@[simp] theorem State.upColl_pwr (s : State) (f : Collectives → Collectives) : (s.upColl f).pwr = s.pwr := rfl
@[simp] theorem State.upColl_host (s : State) (f : Collectives → Collectives) : (s.upColl f).host = s.host := rfl
@[simp] theorem State.upColl_quince (s : State) (f : Collectives → Collectives) : (s.upColl f).quince = s.quince := rfl
@[simp] theorem State.upColl_pins (s : State) (f : Collectives → Collectives) : (s.upColl f).pins = s.pins := rfl
@[simp] theorem State.upColl_regs (s : State) (f : Collectives → Collectives) : (s.upColl f).regs = s.regs := rfl
@[simp] theorem State.upColl_pending (s : State) (f : Collectives → Collectives) : (s.upColl f).pending = s.pending := rfl
@[simp] theorem State.upColl_free (s : State) (f : Collectives → Collectives) : (s.upColl f).free = s.free := rfl

/-! ### upSec -/

@[simp] theorem State.upSec_time (s : State) (f : Resilience → Resilience) : (s.upSec f).time = s.time := rfl
@[simp] theorem State.upSec_clusters (s : State) (f : Resilience → Resilience) : (s.upSec f).clusters = s.clusters := rfl
@[simp] theorem State.upSec_queues (s : State) (f : Resilience → Resilience) : (s.upSec f).queues = s.queues := rfl
@[simp] theorem State.upSec_joins (s : State) (f : Resilience → Resilience) : (s.upSec f).joins = s.joins := rfl
@[simp] theorem State.upSec_cells (s : State) (f : Resilience → Resilience) : (s.upSec f).cells = s.cells := rfl
@[simp] theorem State.upSec_rt (s : State) (f : Resilience → Resilience) : (s.upSec f).rt = s.rt := rfl
@[simp] theorem State.upSec_mover (s : State) (f : Resilience → Resilience) : (s.upSec f).mover = s.mover := rfl
@[simp] theorem State.upSec_tiers (s : State) (f : Resilience → Resilience) : (s.upSec f).tiers = s.tiers := rfl
@[simp] theorem State.upSec_job (s : State) (f : Resilience → Resilience) : (s.upSec f).job = s.job := rfl
@[simp] theorem State.upSec_medlar (s : State) (f : Resilience → Resilience) : (s.upSec f).medlar = s.medlar := rfl
@[simp] theorem State.upSec_coll (s : State) (f : Resilience → Resilience) : (s.upSec f).coll = s.coll := rfl
@[simp] theorem State.upSec_sec (s : State) (f : Resilience → Resilience) : (s.upSec f).sec = f s.sec := rfl
@[simp] theorem State.upSec_fab (s : State) (f : Resilience → Resilience) : (s.upSec f).fab = s.fab := rfl
@[simp] theorem State.upSec_pwr (s : State) (f : Resilience → Resilience) : (s.upSec f).pwr = s.pwr := rfl
@[simp] theorem State.upSec_host (s : State) (f : Resilience → Resilience) : (s.upSec f).host = s.host := rfl
@[simp] theorem State.upSec_quince (s : State) (f : Resilience → Resilience) : (s.upSec f).quince = s.quince := rfl
@[simp] theorem State.upSec_pins (s : State) (f : Resilience → Resilience) : (s.upSec f).pins = s.pins := rfl
@[simp] theorem State.upSec_regs (s : State) (f : Resilience → Resilience) : (s.upSec f).regs = s.regs := rfl
@[simp] theorem State.upSec_pending (s : State) (f : Resilience → Resilience) : (s.upSec f).pending = s.pending := rfl
@[simp] theorem State.upSec_free (s : State) (f : Resilience → Resilience) : (s.upSec f).free = s.free := rfl

/-! ### upFab -/

@[simp] theorem State.upFab_time (s : State) (f : Fabric → Fabric) : (s.upFab f).time = s.time := rfl
@[simp] theorem State.upFab_clusters (s : State) (f : Fabric → Fabric) : (s.upFab f).clusters = s.clusters := rfl
@[simp] theorem State.upFab_queues (s : State) (f : Fabric → Fabric) : (s.upFab f).queues = s.queues := rfl
@[simp] theorem State.upFab_joins (s : State) (f : Fabric → Fabric) : (s.upFab f).joins = s.joins := rfl
@[simp] theorem State.upFab_cells (s : State) (f : Fabric → Fabric) : (s.upFab f).cells = s.cells := rfl
@[simp] theorem State.upFab_rt (s : State) (f : Fabric → Fabric) : (s.upFab f).rt = s.rt := rfl
@[simp] theorem State.upFab_mover (s : State) (f : Fabric → Fabric) : (s.upFab f).mover = s.mover := rfl
@[simp] theorem State.upFab_tiers (s : State) (f : Fabric → Fabric) : (s.upFab f).tiers = s.tiers := rfl
@[simp] theorem State.upFab_job (s : State) (f : Fabric → Fabric) : (s.upFab f).job = s.job := rfl
@[simp] theorem State.upFab_medlar (s : State) (f : Fabric → Fabric) : (s.upFab f).medlar = s.medlar := rfl
@[simp] theorem State.upFab_coll (s : State) (f : Fabric → Fabric) : (s.upFab f).coll = s.coll := rfl
@[simp] theorem State.upFab_sec (s : State) (f : Fabric → Fabric) : (s.upFab f).sec = s.sec := rfl
@[simp] theorem State.upFab_fab (s : State) (f : Fabric → Fabric) : (s.upFab f).fab = f s.fab := rfl
@[simp] theorem State.upFab_pwr (s : State) (f : Fabric → Fabric) : (s.upFab f).pwr = s.pwr := rfl
@[simp] theorem State.upFab_host (s : State) (f : Fabric → Fabric) : (s.upFab f).host = s.host := rfl
@[simp] theorem State.upFab_quince (s : State) (f : Fabric → Fabric) : (s.upFab f).quince = s.quince := rfl
@[simp] theorem State.upFab_pins (s : State) (f : Fabric → Fabric) : (s.upFab f).pins = s.pins := rfl
@[simp] theorem State.upFab_regs (s : State) (f : Fabric → Fabric) : (s.upFab f).regs = s.regs := rfl
@[simp] theorem State.upFab_pending (s : State) (f : Fabric → Fabric) : (s.upFab f).pending = s.pending := rfl
@[simp] theorem State.upFab_free (s : State) (f : Fabric → Fabric) : (s.upFab f).free = s.free := rfl

/-! ### upPwr -/

@[simp] theorem State.upPwr_time (s : State) (f : Power → Power) : (s.upPwr f).time = s.time := rfl
@[simp] theorem State.upPwr_clusters (s : State) (f : Power → Power) : (s.upPwr f).clusters = s.clusters := rfl
@[simp] theorem State.upPwr_queues (s : State) (f : Power → Power) : (s.upPwr f).queues = s.queues := rfl
@[simp] theorem State.upPwr_joins (s : State) (f : Power → Power) : (s.upPwr f).joins = s.joins := rfl
@[simp] theorem State.upPwr_cells (s : State) (f : Power → Power) : (s.upPwr f).cells = s.cells := rfl
@[simp] theorem State.upPwr_rt (s : State) (f : Power → Power) : (s.upPwr f).rt = s.rt := rfl
@[simp] theorem State.upPwr_mover (s : State) (f : Power → Power) : (s.upPwr f).mover = s.mover := rfl
@[simp] theorem State.upPwr_tiers (s : State) (f : Power → Power) : (s.upPwr f).tiers = s.tiers := rfl
@[simp] theorem State.upPwr_job (s : State) (f : Power → Power) : (s.upPwr f).job = s.job := rfl
@[simp] theorem State.upPwr_medlar (s : State) (f : Power → Power) : (s.upPwr f).medlar = s.medlar := rfl
@[simp] theorem State.upPwr_coll (s : State) (f : Power → Power) : (s.upPwr f).coll = s.coll := rfl
@[simp] theorem State.upPwr_sec (s : State) (f : Power → Power) : (s.upPwr f).sec = s.sec := rfl
@[simp] theorem State.upPwr_fab (s : State) (f : Power → Power) : (s.upPwr f).fab = s.fab := rfl
@[simp] theorem State.upPwr_pwr (s : State) (f : Power → Power) : (s.upPwr f).pwr = f s.pwr := rfl
@[simp] theorem State.upPwr_host (s : State) (f : Power → Power) : (s.upPwr f).host = s.host := rfl
@[simp] theorem State.upPwr_quince (s : State) (f : Power → Power) : (s.upPwr f).quince = s.quince := rfl
@[simp] theorem State.upPwr_pins (s : State) (f : Power → Power) : (s.upPwr f).pins = s.pins := rfl
@[simp] theorem State.upPwr_regs (s : State) (f : Power → Power) : (s.upPwr f).regs = s.regs := rfl
@[simp] theorem State.upPwr_pending (s : State) (f : Power → Power) : (s.upPwr f).pending = s.pending := rfl
@[simp] theorem State.upPwr_free (s : State) (f : Power → Power) : (s.upPwr f).free = s.free := rfl

/-! ### upHost -/

@[simp] theorem State.upHost_time (s : State) (f : HostIf → HostIf) : (s.upHost f).time = s.time := rfl
@[simp] theorem State.upHost_clusters (s : State) (f : HostIf → HostIf) : (s.upHost f).clusters = s.clusters := rfl
@[simp] theorem State.upHost_queues (s : State) (f : HostIf → HostIf) : (s.upHost f).queues = s.queues := rfl
@[simp] theorem State.upHost_joins (s : State) (f : HostIf → HostIf) : (s.upHost f).joins = s.joins := rfl
@[simp] theorem State.upHost_cells (s : State) (f : HostIf → HostIf) : (s.upHost f).cells = s.cells := rfl
@[simp] theorem State.upHost_rt (s : State) (f : HostIf → HostIf) : (s.upHost f).rt = s.rt := rfl
@[simp] theorem State.upHost_mover (s : State) (f : HostIf → HostIf) : (s.upHost f).mover = s.mover := rfl
@[simp] theorem State.upHost_tiers (s : State) (f : HostIf → HostIf) : (s.upHost f).tiers = s.tiers := rfl
@[simp] theorem State.upHost_job (s : State) (f : HostIf → HostIf) : (s.upHost f).job = s.job := rfl
@[simp] theorem State.upHost_medlar (s : State) (f : HostIf → HostIf) : (s.upHost f).medlar = s.medlar := rfl
@[simp] theorem State.upHost_coll (s : State) (f : HostIf → HostIf) : (s.upHost f).coll = s.coll := rfl
@[simp] theorem State.upHost_sec (s : State) (f : HostIf → HostIf) : (s.upHost f).sec = s.sec := rfl
@[simp] theorem State.upHost_fab (s : State) (f : HostIf → HostIf) : (s.upHost f).fab = s.fab := rfl
@[simp] theorem State.upHost_pwr (s : State) (f : HostIf → HostIf) : (s.upHost f).pwr = s.pwr := rfl
@[simp] theorem State.upHost_host (s : State) (f : HostIf → HostIf) : (s.upHost f).host = f s.host := rfl
@[simp] theorem State.upHost_quince (s : State) (f : HostIf → HostIf) : (s.upHost f).quince = s.quince := rfl
@[simp] theorem State.upHost_pins (s : State) (f : HostIf → HostIf) : (s.upHost f).pins = s.pins := rfl
@[simp] theorem State.upHost_regs (s : State) (f : HostIf → HostIf) : (s.upHost f).regs = s.regs := rfl
@[simp] theorem State.upHost_pending (s : State) (f : HostIf → HostIf) : (s.upHost f).pending = s.pending := rfl
@[simp] theorem State.upHost_free (s : State) (f : HostIf → HostIf) : (s.upHost f).free = s.free := rfl

/-! ### upQuince -/

@[simp] theorem State.upQuince_time (s : State) (f : Quince → Quince) : (s.upQuince f).time = s.time := rfl
@[simp] theorem State.upQuince_clusters (s : State) (f : Quince → Quince) : (s.upQuince f).clusters = s.clusters := rfl
@[simp] theorem State.upQuince_queues (s : State) (f : Quince → Quince) : (s.upQuince f).queues = s.queues := rfl
@[simp] theorem State.upQuince_joins (s : State) (f : Quince → Quince) : (s.upQuince f).joins = s.joins := rfl
@[simp] theorem State.upQuince_cells (s : State) (f : Quince → Quince) : (s.upQuince f).cells = s.cells := rfl
@[simp] theorem State.upQuince_rt (s : State) (f : Quince → Quince) : (s.upQuince f).rt = s.rt := rfl
@[simp] theorem State.upQuince_mover (s : State) (f : Quince → Quince) : (s.upQuince f).mover = s.mover := rfl
@[simp] theorem State.upQuince_tiers (s : State) (f : Quince → Quince) : (s.upQuince f).tiers = s.tiers := rfl
@[simp] theorem State.upQuince_job (s : State) (f : Quince → Quince) : (s.upQuince f).job = s.job := rfl
@[simp] theorem State.upQuince_medlar (s : State) (f : Quince → Quince) : (s.upQuince f).medlar = s.medlar := rfl
@[simp] theorem State.upQuince_coll (s : State) (f : Quince → Quince) : (s.upQuince f).coll = s.coll := rfl
@[simp] theorem State.upQuince_sec (s : State) (f : Quince → Quince) : (s.upQuince f).sec = s.sec := rfl
@[simp] theorem State.upQuince_fab (s : State) (f : Quince → Quince) : (s.upQuince f).fab = s.fab := rfl
@[simp] theorem State.upQuince_pwr (s : State) (f : Quince → Quince) : (s.upQuince f).pwr = s.pwr := rfl
@[simp] theorem State.upQuince_host (s : State) (f : Quince → Quince) : (s.upQuince f).host = s.host := rfl
@[simp] theorem State.upQuince_quince (s : State) (f : Quince → Quince) : (s.upQuince f).quince = f s.quince := rfl
@[simp] theorem State.upQuince_pins (s : State) (f : Quince → Quince) : (s.upQuince f).pins = s.pins := rfl
@[simp] theorem State.upQuince_regs (s : State) (f : Quince → Quince) : (s.upQuince f).regs = s.regs := rfl
@[simp] theorem State.upQuince_pending (s : State) (f : Quince → Quince) : (s.upQuince f).pending = s.pending := rfl
@[simp] theorem State.upQuince_free (s : State) (f : Quince → Quince) : (s.upQuince f).free = s.free := rfl

/-! ### upPins -/

@[simp] theorem State.upPins_time (s : State) (f : Pins → Pins) : (s.upPins f).time = s.time := rfl
@[simp] theorem State.upPins_clusters (s : State) (f : Pins → Pins) : (s.upPins f).clusters = s.clusters := rfl
@[simp] theorem State.upPins_queues (s : State) (f : Pins → Pins) : (s.upPins f).queues = s.queues := rfl
@[simp] theorem State.upPins_joins (s : State) (f : Pins → Pins) : (s.upPins f).joins = s.joins := rfl
@[simp] theorem State.upPins_cells (s : State) (f : Pins → Pins) : (s.upPins f).cells = s.cells := rfl
@[simp] theorem State.upPins_rt (s : State) (f : Pins → Pins) : (s.upPins f).rt = s.rt := rfl
@[simp] theorem State.upPins_mover (s : State) (f : Pins → Pins) : (s.upPins f).mover = s.mover := rfl
@[simp] theorem State.upPins_tiers (s : State) (f : Pins → Pins) : (s.upPins f).tiers = s.tiers := rfl
@[simp] theorem State.upPins_job (s : State) (f : Pins → Pins) : (s.upPins f).job = s.job := rfl
@[simp] theorem State.upPins_medlar (s : State) (f : Pins → Pins) : (s.upPins f).medlar = s.medlar := rfl
@[simp] theorem State.upPins_coll (s : State) (f : Pins → Pins) : (s.upPins f).coll = s.coll := rfl
@[simp] theorem State.upPins_sec (s : State) (f : Pins → Pins) : (s.upPins f).sec = s.sec := rfl
@[simp] theorem State.upPins_fab (s : State) (f : Pins → Pins) : (s.upPins f).fab = s.fab := rfl
@[simp] theorem State.upPins_pwr (s : State) (f : Pins → Pins) : (s.upPins f).pwr = s.pwr := rfl
@[simp] theorem State.upPins_host (s : State) (f : Pins → Pins) : (s.upPins f).host = s.host := rfl
@[simp] theorem State.upPins_quince (s : State) (f : Pins → Pins) : (s.upPins f).quince = s.quince := rfl
@[simp] theorem State.upPins_pins (s : State) (f : Pins → Pins) : (s.upPins f).pins = f s.pins := rfl
@[simp] theorem State.upPins_regs (s : State) (f : Pins → Pins) : (s.upPins f).regs = s.regs := rfl
@[simp] theorem State.upPins_pending (s : State) (f : Pins → Pins) : (s.upPins f).pending = s.pending := rfl
@[simp] theorem State.upPins_free (s : State) (f : Pins → Pins) : (s.upPins f).free = s.free := rfl

/-! ### upRegs -/

@[simp] theorem State.upRegs_time (s : State) (f : IdRegs → IdRegs) : (s.upRegs f).time = s.time := rfl
@[simp] theorem State.upRegs_clusters (s : State) (f : IdRegs → IdRegs) : (s.upRegs f).clusters = s.clusters := rfl
@[simp] theorem State.upRegs_queues (s : State) (f : IdRegs → IdRegs) : (s.upRegs f).queues = s.queues := rfl
@[simp] theorem State.upRegs_joins (s : State) (f : IdRegs → IdRegs) : (s.upRegs f).joins = s.joins := rfl
@[simp] theorem State.upRegs_cells (s : State) (f : IdRegs → IdRegs) : (s.upRegs f).cells = s.cells := rfl
@[simp] theorem State.upRegs_rt (s : State) (f : IdRegs → IdRegs) : (s.upRegs f).rt = s.rt := rfl
@[simp] theorem State.upRegs_mover (s : State) (f : IdRegs → IdRegs) : (s.upRegs f).mover = s.mover := rfl
@[simp] theorem State.upRegs_tiers (s : State) (f : IdRegs → IdRegs) : (s.upRegs f).tiers = s.tiers := rfl
@[simp] theorem State.upRegs_job (s : State) (f : IdRegs → IdRegs) : (s.upRegs f).job = s.job := rfl
@[simp] theorem State.upRegs_medlar (s : State) (f : IdRegs → IdRegs) : (s.upRegs f).medlar = s.medlar := rfl
@[simp] theorem State.upRegs_coll (s : State) (f : IdRegs → IdRegs) : (s.upRegs f).coll = s.coll := rfl
@[simp] theorem State.upRegs_sec (s : State) (f : IdRegs → IdRegs) : (s.upRegs f).sec = s.sec := rfl
@[simp] theorem State.upRegs_fab (s : State) (f : IdRegs → IdRegs) : (s.upRegs f).fab = s.fab := rfl
@[simp] theorem State.upRegs_pwr (s : State) (f : IdRegs → IdRegs) : (s.upRegs f).pwr = s.pwr := rfl
@[simp] theorem State.upRegs_host (s : State) (f : IdRegs → IdRegs) : (s.upRegs f).host = s.host := rfl
@[simp] theorem State.upRegs_quince (s : State) (f : IdRegs → IdRegs) : (s.upRegs f).quince = s.quince := rfl
@[simp] theorem State.upRegs_pins (s : State) (f : IdRegs → IdRegs) : (s.upRegs f).pins = s.pins := rfl
@[simp] theorem State.upRegs_regs (s : State) (f : IdRegs → IdRegs) : (s.upRegs f).regs = f s.regs := rfl
@[simp] theorem State.upRegs_pending (s : State) (f : IdRegs → IdRegs) : (s.upRegs f).pending = s.pending := rfl
@[simp] theorem State.upRegs_free (s : State) (f : IdRegs → IdRegs) : (s.upRegs f).free = s.free := rfl

/-! ### upCluster -/

@[simp] theorem State.upCluster_time (s : State) (i : Fin 64) (f : Cluster → Cluster) : (s.upCluster i f).time = s.time := rfl
@[simp] theorem State.upCluster_clusters (s : State) (i : Fin 64) (f : Cluster → Cluster) : (s.upCluster i f).clusters = updV s.clusters i f := rfl
@[simp] theorem State.upCluster_queues (s : State) (i : Fin 64) (f : Cluster → Cluster) : (s.upCluster i f).queues = s.queues := rfl
@[simp] theorem State.upCluster_joins (s : State) (i : Fin 64) (f : Cluster → Cluster) : (s.upCluster i f).joins = s.joins := rfl
@[simp] theorem State.upCluster_cells (s : State) (i : Fin 64) (f : Cluster → Cluster) : (s.upCluster i f).cells = s.cells := rfl
@[simp] theorem State.upCluster_rt (s : State) (i : Fin 64) (f : Cluster → Cluster) : (s.upCluster i f).rt = s.rt := rfl
@[simp] theorem State.upCluster_mover (s : State) (i : Fin 64) (f : Cluster → Cluster) : (s.upCluster i f).mover = s.mover := rfl
@[simp] theorem State.upCluster_tiers (s : State) (i : Fin 64) (f : Cluster → Cluster) : (s.upCluster i f).tiers = s.tiers := rfl
@[simp] theorem State.upCluster_job (s : State) (i : Fin 64) (f : Cluster → Cluster) : (s.upCluster i f).job = s.job := rfl
@[simp] theorem State.upCluster_medlar (s : State) (i : Fin 64) (f : Cluster → Cluster) : (s.upCluster i f).medlar = s.medlar := rfl
@[simp] theorem State.upCluster_coll (s : State) (i : Fin 64) (f : Cluster → Cluster) : (s.upCluster i f).coll = s.coll := rfl
@[simp] theorem State.upCluster_sec (s : State) (i : Fin 64) (f : Cluster → Cluster) : (s.upCluster i f).sec = s.sec := rfl
@[simp] theorem State.upCluster_fab (s : State) (i : Fin 64) (f : Cluster → Cluster) : (s.upCluster i f).fab = s.fab := rfl
@[simp] theorem State.upCluster_pwr (s : State) (i : Fin 64) (f : Cluster → Cluster) : (s.upCluster i f).pwr = s.pwr := rfl
@[simp] theorem State.upCluster_host (s : State) (i : Fin 64) (f : Cluster → Cluster) : (s.upCluster i f).host = s.host := rfl
@[simp] theorem State.upCluster_quince (s : State) (i : Fin 64) (f : Cluster → Cluster) : (s.upCluster i f).quince = s.quince := rfl
@[simp] theorem State.upCluster_pins (s : State) (i : Fin 64) (f : Cluster → Cluster) : (s.upCluster i f).pins = s.pins := rfl
@[simp] theorem State.upCluster_regs (s : State) (i : Fin 64) (f : Cluster → Cluster) : (s.upCluster i f).regs = s.regs := rfl
@[simp] theorem State.upCluster_pending (s : State) (i : Fin 64) (f : Cluster → Cluster) : (s.upCluster i f).pending = s.pending := rfl
@[simp] theorem State.upCluster_free (s : State) (i : Fin 64) (f : Cluster → Cluster) : (s.upCluster i f).free = s.free := rfl

/-! ### upQueue -/

@[simp] theorem State.upQueue_time (s : State) (i : Fin 7680) (f : HsQueue → HsQueue) : (s.upQueue i f).time = s.time := rfl
@[simp] theorem State.upQueue_clusters (s : State) (i : Fin 7680) (f : HsQueue → HsQueue) : (s.upQueue i f).clusters = s.clusters := rfl
@[simp] theorem State.upQueue_queues (s : State) (i : Fin 7680) (f : HsQueue → HsQueue) : (s.upQueue i f).queues = updV s.queues i f := rfl
@[simp] theorem State.upQueue_joins (s : State) (i : Fin 7680) (f : HsQueue → HsQueue) : (s.upQueue i f).joins = s.joins := rfl
@[simp] theorem State.upQueue_cells (s : State) (i : Fin 7680) (f : HsQueue → HsQueue) : (s.upQueue i f).cells = s.cells := rfl
@[simp] theorem State.upQueue_rt (s : State) (i : Fin 7680) (f : HsQueue → HsQueue) : (s.upQueue i f).rt = s.rt := rfl
@[simp] theorem State.upQueue_mover (s : State) (i : Fin 7680) (f : HsQueue → HsQueue) : (s.upQueue i f).mover = s.mover := rfl
@[simp] theorem State.upQueue_tiers (s : State) (i : Fin 7680) (f : HsQueue → HsQueue) : (s.upQueue i f).tiers = s.tiers := rfl
@[simp] theorem State.upQueue_job (s : State) (i : Fin 7680) (f : HsQueue → HsQueue) : (s.upQueue i f).job = s.job := rfl
@[simp] theorem State.upQueue_medlar (s : State) (i : Fin 7680) (f : HsQueue → HsQueue) : (s.upQueue i f).medlar = s.medlar := rfl
@[simp] theorem State.upQueue_coll (s : State) (i : Fin 7680) (f : HsQueue → HsQueue) : (s.upQueue i f).coll = s.coll := rfl
@[simp] theorem State.upQueue_sec (s : State) (i : Fin 7680) (f : HsQueue → HsQueue) : (s.upQueue i f).sec = s.sec := rfl
@[simp] theorem State.upQueue_fab (s : State) (i : Fin 7680) (f : HsQueue → HsQueue) : (s.upQueue i f).fab = s.fab := rfl
@[simp] theorem State.upQueue_pwr (s : State) (i : Fin 7680) (f : HsQueue → HsQueue) : (s.upQueue i f).pwr = s.pwr := rfl
@[simp] theorem State.upQueue_host (s : State) (i : Fin 7680) (f : HsQueue → HsQueue) : (s.upQueue i f).host = s.host := rfl
@[simp] theorem State.upQueue_quince (s : State) (i : Fin 7680) (f : HsQueue → HsQueue) : (s.upQueue i f).quince = s.quince := rfl
@[simp] theorem State.upQueue_pins (s : State) (i : Fin 7680) (f : HsQueue → HsQueue) : (s.upQueue i f).pins = s.pins := rfl
@[simp] theorem State.upQueue_regs (s : State) (i : Fin 7680) (f : HsQueue → HsQueue) : (s.upQueue i f).regs = s.regs := rfl
@[simp] theorem State.upQueue_pending (s : State) (i : Fin 7680) (f : HsQueue → HsQueue) : (s.upQueue i f).pending = s.pending := rfl
@[simp] theorem State.upQueue_free (s : State) (i : Fin 7680) (f : HsQueue → HsQueue) : (s.upQueue i f).free = s.free := rfl

/-! ### upJoin -/

@[simp] theorem State.upJoin_time (s : State) (i : Fin 1792) (f : JoinCh → JoinCh) : (s.upJoin i f).time = s.time := rfl
@[simp] theorem State.upJoin_clusters (s : State) (i : Fin 1792) (f : JoinCh → JoinCh) : (s.upJoin i f).clusters = s.clusters := rfl
@[simp] theorem State.upJoin_queues (s : State) (i : Fin 1792) (f : JoinCh → JoinCh) : (s.upJoin i f).queues = s.queues := rfl
@[simp] theorem State.upJoin_joins (s : State) (i : Fin 1792) (f : JoinCh → JoinCh) : (s.upJoin i f).joins = updV s.joins i f := rfl
@[simp] theorem State.upJoin_cells (s : State) (i : Fin 1792) (f : JoinCh → JoinCh) : (s.upJoin i f).cells = s.cells := rfl
@[simp] theorem State.upJoin_rt (s : State) (i : Fin 1792) (f : JoinCh → JoinCh) : (s.upJoin i f).rt = s.rt := rfl
@[simp] theorem State.upJoin_mover (s : State) (i : Fin 1792) (f : JoinCh → JoinCh) : (s.upJoin i f).mover = s.mover := rfl
@[simp] theorem State.upJoin_tiers (s : State) (i : Fin 1792) (f : JoinCh → JoinCh) : (s.upJoin i f).tiers = s.tiers := rfl
@[simp] theorem State.upJoin_job (s : State) (i : Fin 1792) (f : JoinCh → JoinCh) : (s.upJoin i f).job = s.job := rfl
@[simp] theorem State.upJoin_medlar (s : State) (i : Fin 1792) (f : JoinCh → JoinCh) : (s.upJoin i f).medlar = s.medlar := rfl
@[simp] theorem State.upJoin_coll (s : State) (i : Fin 1792) (f : JoinCh → JoinCh) : (s.upJoin i f).coll = s.coll := rfl
@[simp] theorem State.upJoin_sec (s : State) (i : Fin 1792) (f : JoinCh → JoinCh) : (s.upJoin i f).sec = s.sec := rfl
@[simp] theorem State.upJoin_fab (s : State) (i : Fin 1792) (f : JoinCh → JoinCh) : (s.upJoin i f).fab = s.fab := rfl
@[simp] theorem State.upJoin_pwr (s : State) (i : Fin 1792) (f : JoinCh → JoinCh) : (s.upJoin i f).pwr = s.pwr := rfl
@[simp] theorem State.upJoin_host (s : State) (i : Fin 1792) (f : JoinCh → JoinCh) : (s.upJoin i f).host = s.host := rfl
@[simp] theorem State.upJoin_quince (s : State) (i : Fin 1792) (f : JoinCh → JoinCh) : (s.upJoin i f).quince = s.quince := rfl
@[simp] theorem State.upJoin_pins (s : State) (i : Fin 1792) (f : JoinCh → JoinCh) : (s.upJoin i f).pins = s.pins := rfl
@[simp] theorem State.upJoin_regs (s : State) (i : Fin 1792) (f : JoinCh → JoinCh) : (s.upJoin i f).regs = s.regs := rfl
@[simp] theorem State.upJoin_pending (s : State) (i : Fin 1792) (f : JoinCh → JoinCh) : (s.upJoin i f).pending = s.pending := rfl
@[simp] theorem State.upJoin_free (s : State) (i : Fin 1792) (f : JoinCh → JoinCh) : (s.upJoin i f).free = s.free := rfl

/-! ### upCell -/

@[simp] theorem State.upCell_time (s : State) (i : Fin 1024) (f : CellS → CellS) : (s.upCell i f).time = s.time := rfl
@[simp] theorem State.upCell_clusters (s : State) (i : Fin 1024) (f : CellS → CellS) : (s.upCell i f).clusters = s.clusters := rfl
@[simp] theorem State.upCell_queues (s : State) (i : Fin 1024) (f : CellS → CellS) : (s.upCell i f).queues = s.queues := rfl
@[simp] theorem State.upCell_joins (s : State) (i : Fin 1024) (f : CellS → CellS) : (s.upCell i f).joins = s.joins := rfl
@[simp] theorem State.upCell_cells (s : State) (i : Fin 1024) (f : CellS → CellS) : (s.upCell i f).cells = updV s.cells i f := rfl
@[simp] theorem State.upCell_rt (s : State) (i : Fin 1024) (f : CellS → CellS) : (s.upCell i f).rt = s.rt := rfl
@[simp] theorem State.upCell_mover (s : State) (i : Fin 1024) (f : CellS → CellS) : (s.upCell i f).mover = s.mover := rfl
@[simp] theorem State.upCell_tiers (s : State) (i : Fin 1024) (f : CellS → CellS) : (s.upCell i f).tiers = s.tiers := rfl
@[simp] theorem State.upCell_job (s : State) (i : Fin 1024) (f : CellS → CellS) : (s.upCell i f).job = s.job := rfl
@[simp] theorem State.upCell_medlar (s : State) (i : Fin 1024) (f : CellS → CellS) : (s.upCell i f).medlar = s.medlar := rfl
@[simp] theorem State.upCell_coll (s : State) (i : Fin 1024) (f : CellS → CellS) : (s.upCell i f).coll = s.coll := rfl
@[simp] theorem State.upCell_sec (s : State) (i : Fin 1024) (f : CellS → CellS) : (s.upCell i f).sec = s.sec := rfl
@[simp] theorem State.upCell_fab (s : State) (i : Fin 1024) (f : CellS → CellS) : (s.upCell i f).fab = s.fab := rfl
@[simp] theorem State.upCell_pwr (s : State) (i : Fin 1024) (f : CellS → CellS) : (s.upCell i f).pwr = s.pwr := rfl
@[simp] theorem State.upCell_host (s : State) (i : Fin 1024) (f : CellS → CellS) : (s.upCell i f).host = s.host := rfl
@[simp] theorem State.upCell_quince (s : State) (i : Fin 1024) (f : CellS → CellS) : (s.upCell i f).quince = s.quince := rfl
@[simp] theorem State.upCell_pins (s : State) (i : Fin 1024) (f : CellS → CellS) : (s.upCell i f).pins = s.pins := rfl
@[simp] theorem State.upCell_regs (s : State) (i : Fin 1024) (f : CellS → CellS) : (s.upCell i f).regs = s.regs := rfl
@[simp] theorem State.upCell_pending (s : State) (i : Fin 1024) (f : CellS → CellS) : (s.upCell i f).pending = s.pending := rfl
@[simp] theorem State.upCell_free (s : State) (i : Fin 1024) (f : CellS → CellS) : (s.upCell i f).free = s.free := rfl

/-! ### upRing -/

@[simp] theorem State.upRing_time (s : State) (i : Fin 64) (f : Ring → Ring) : (s.upRing i f).time = s.time := rfl
@[simp] theorem State.upRing_clusters (s : State) (i : Fin 64) (f : Ring → Ring) : (s.upRing i f).clusters = s.clusters := rfl
@[simp] theorem State.upRing_queues (s : State) (i : Fin 64) (f : Ring → Ring) : (s.upRing i f).queues = s.queues := rfl
@[simp] theorem State.upRing_joins (s : State) (i : Fin 64) (f : Ring → Ring) : (s.upRing i f).joins = s.joins := rfl
@[simp] theorem State.upRing_cells (s : State) (i : Fin 64) (f : Ring → Ring) : (s.upRing i f).cells = s.cells := rfl
@[simp] theorem State.upRing_rt (s : State) (i : Fin 64) (f : Ring → Ring) : (s.upRing i f).rt = s.rt := rfl
@[simp] theorem State.upRing_mover (s : State) (i : Fin 64) (f : Ring → Ring) : (s.upRing i f).mover = s.mover := rfl
@[simp] theorem State.upRing_tiers (s : State) (i : Fin 64) (f : Ring → Ring) : (s.upRing i f).tiers = s.tiers := rfl
@[simp] theorem State.upRing_job (s : State) (i : Fin 64) (f : Ring → Ring) : (s.upRing i f).job = s.job := rfl
@[simp] theorem State.upRing_medlar (s : State) (i : Fin 64) (f : Ring → Ring) : (s.upRing i f).medlar = s.medlar := rfl
@[simp] theorem State.upRing_coll (s : State) (i : Fin 64) (f : Ring → Ring) : (s.upRing i f).coll = s.coll := rfl
@[simp] theorem State.upRing_sec (s : State) (i : Fin 64) (f : Ring → Ring) : (s.upRing i f).sec = s.sec := rfl
@[simp] theorem State.upRing_fab (s : State) (i : Fin 64) (f : Ring → Ring) : (s.upRing i f).fab = s.fab := rfl
@[simp] theorem State.upRing_pwr (s : State) (i : Fin 64) (f : Ring → Ring) : (s.upRing i f).pwr = s.pwr := rfl
@[simp] theorem State.upRing_host (s : State) (i : Fin 64) (f : Ring → Ring) : (s.upRing i f).host = { s.host with rings := updV s.host.rings i f } := rfl
@[simp] theorem State.upRing_quince (s : State) (i : Fin 64) (f : Ring → Ring) : (s.upRing i f).quince = s.quince := rfl
@[simp] theorem State.upRing_pins (s : State) (i : Fin 64) (f : Ring → Ring) : (s.upRing i f).pins = s.pins := rfl
@[simp] theorem State.upRing_regs (s : State) (i : Fin 64) (f : Ring → Ring) : (s.upRing i f).regs = s.regs := rfl
@[simp] theorem State.upRing_pending (s : State) (i : Fin 64) (f : Ring → Ring) : (s.upRing i f).pending = s.pending := rfl
@[simp] theorem State.upRing_free (s : State) (i : Fin 64) (f : Ring → Ring) : (s.upRing i f).free = s.free := rfl

/-! ### upPort -/

@[simp] theorem State.upPort_time (s : State) (i : Fin 32) (f : Port → Port) : (s.upPort i f).time = s.time := rfl
@[simp] theorem State.upPort_clusters (s : State) (i : Fin 32) (f : Port → Port) : (s.upPort i f).clusters = s.clusters := rfl
@[simp] theorem State.upPort_queues (s : State) (i : Fin 32) (f : Port → Port) : (s.upPort i f).queues = s.queues := rfl
@[simp] theorem State.upPort_joins (s : State) (i : Fin 32) (f : Port → Port) : (s.upPort i f).joins = s.joins := rfl
@[simp] theorem State.upPort_cells (s : State) (i : Fin 32) (f : Port → Port) : (s.upPort i f).cells = s.cells := rfl
@[simp] theorem State.upPort_rt (s : State) (i : Fin 32) (f : Port → Port) : (s.upPort i f).rt = s.rt := rfl
@[simp] theorem State.upPort_mover (s : State) (i : Fin 32) (f : Port → Port) : (s.upPort i f).mover = s.mover := rfl
@[simp] theorem State.upPort_tiers (s : State) (i : Fin 32) (f : Port → Port) : (s.upPort i f).tiers = s.tiers := rfl
@[simp] theorem State.upPort_job (s : State) (i : Fin 32) (f : Port → Port) : (s.upPort i f).job = s.job := rfl
@[simp] theorem State.upPort_medlar (s : State) (i : Fin 32) (f : Port → Port) : (s.upPort i f).medlar = s.medlar := rfl
@[simp] theorem State.upPort_coll (s : State) (i : Fin 32) (f : Port → Port) : (s.upPort i f).coll = s.coll := rfl
@[simp] theorem State.upPort_sec (s : State) (i : Fin 32) (f : Port → Port) : (s.upPort i f).sec = s.sec := rfl
@[simp] theorem State.upPort_fab (s : State) (i : Fin 32) (f : Port → Port) : (s.upPort i f).fab = { s.fab with ports := updV s.fab.ports i f } := rfl
@[simp] theorem State.upPort_pwr (s : State) (i : Fin 32) (f : Port → Port) : (s.upPort i f).pwr = s.pwr := rfl
@[simp] theorem State.upPort_host (s : State) (i : Fin 32) (f : Port → Port) : (s.upPort i f).host = s.host := rfl
@[simp] theorem State.upPort_quince (s : State) (i : Fin 32) (f : Port → Port) : (s.upPort i f).quince = s.quince := rfl
@[simp] theorem State.upPort_pins (s : State) (i : Fin 32) (f : Port → Port) : (s.upPort i f).pins = s.pins := rfl
@[simp] theorem State.upPort_regs (s : State) (i : Fin 32) (f : Port → Port) : (s.upPort i f).regs = s.regs := rfl
@[simp] theorem State.upPort_pending (s : State) (i : Fin 32) (f : Port → Port) : (s.upPort i f).pending = s.pending := rfl
@[simp] theorem State.upPort_free (s : State) (i : Fin 32) (f : Port → Port) : (s.upPort i f).free = s.free := rfl

/-! ### fresh -/

@[simp] theorem State.fresh_time (s : State) (w : Nat) : (s.fresh w).2.time = s.time := rfl
@[simp] theorem State.fresh_clusters (s : State) (w : Nat) : (s.fresh w).2.clusters = s.clusters := rfl
@[simp] theorem State.fresh_queues (s : State) (w : Nat) : (s.fresh w).2.queues = s.queues := rfl
@[simp] theorem State.fresh_joins (s : State) (w : Nat) : (s.fresh w).2.joins = s.joins := rfl
@[simp] theorem State.fresh_cells (s : State) (w : Nat) : (s.fresh w).2.cells = s.cells := rfl
@[simp] theorem State.fresh_rt (s : State) (w : Nat) : (s.fresh w).2.rt = s.rt := rfl
@[simp] theorem State.fresh_mover (s : State) (w : Nat) : (s.fresh w).2.mover = s.mover := rfl
@[simp] theorem State.fresh_tiers (s : State) (w : Nat) : (s.fresh w).2.tiers = s.tiers := rfl
@[simp] theorem State.fresh_job (s : State) (w : Nat) : (s.fresh w).2.job = s.job := rfl
@[simp] theorem State.fresh_medlar (s : State) (w : Nat) : (s.fresh w).2.medlar = s.medlar := rfl
@[simp] theorem State.fresh_coll (s : State) (w : Nat) : (s.fresh w).2.coll = s.coll := rfl
@[simp] theorem State.fresh_sec (s : State) (w : Nat) : (s.fresh w).2.sec = s.sec := rfl
@[simp] theorem State.fresh_fab (s : State) (w : Nat) : (s.fresh w).2.fab = s.fab := rfl
@[simp] theorem State.fresh_pwr (s : State) (w : Nat) : (s.fresh w).2.pwr = s.pwr := rfl
@[simp] theorem State.fresh_host (s : State) (w : Nat) : (s.fresh w).2.host = s.host := rfl
@[simp] theorem State.fresh_quince (s : State) (w : Nat) : (s.fresh w).2.quince = s.quince := rfl
@[simp] theorem State.fresh_pins (s : State) (w : Nat) : (s.fresh w).2.pins = s.pins := rfl
@[simp] theorem State.fresh_regs (s : State) (w : Nat) : (s.fresh w).2.regs = s.regs := rfl
@[simp] theorem State.fresh_pending (s : State) (w : Nat) : (s.fresh w).2.pending = s.pending := rfl
@[simp] theorem State.fresh_free (s : State) (w : Nat) : (s.fresh w).2.free = s.free + 1 := rfl

/-! ### Module time -/

@[simp] theorem State.advanceTo_clusters (s : State) (t : DWord) : (s.advanceTo t).clusters = s.clusters := rfl
@[simp] theorem State.advanceTo_queues (s : State) (t : DWord) : (s.advanceTo t).queues = s.queues := rfl
@[simp] theorem State.advanceTo_joins (s : State) (t : DWord) : (s.advanceTo t).joins = s.joins := rfl
@[simp] theorem State.advanceTo_cells (s : State) (t : DWord) : (s.advanceTo t).cells = s.cells := rfl
@[simp] theorem State.advanceTo_rt (s : State) (t : DWord) : (s.advanceTo t).rt = s.rt := rfl
@[simp] theorem State.advanceTo_mover (s : State) (t : DWord) : (s.advanceTo t).mover = s.mover := rfl
@[simp] theorem State.advanceTo_tiers (s : State) (t : DWord) : (s.advanceTo t).tiers = s.tiers := rfl
@[simp] theorem State.advanceTo_job (s : State) (t : DWord) : (s.advanceTo t).job = s.job := rfl
@[simp] theorem State.advanceTo_medlar (s : State) (t : DWord) : (s.advanceTo t).medlar = s.medlar := rfl
@[simp] theorem State.advanceTo_coll (s : State) (t : DWord) : (s.advanceTo t).coll = s.coll := rfl
@[simp] theorem State.advanceTo_sec (s : State) (t : DWord) : (s.advanceTo t).sec = s.sec := rfl
@[simp] theorem State.advanceTo_fab (s : State) (t : DWord) : (s.advanceTo t).fab = s.fab := rfl
@[simp] theorem State.advanceTo_pwr (s : State) (t : DWord) : (s.advanceTo t).pwr = s.pwr := rfl
@[simp] theorem State.advanceTo_host (s : State) (t : DWord) : (s.advanceTo t).host = s.host := rfl
@[simp] theorem State.advanceTo_quince (s : State) (t : DWord) : (s.advanceTo t).quince = s.quince := rfl
@[simp] theorem State.advanceTo_pins (s : State) (t : DWord) : (s.advanceTo t).pins = s.pins := rfl
@[simp] theorem State.advanceTo_regs (s : State) (t : DWord) : (s.advanceTo t).regs = s.regs := rfl
@[simp] theorem State.advanceTo_pending (s : State) (t : DWord) : (s.advanceTo t).pending = s.pending := rfl
@[simp] theorem State.advanceTo_free (s : State) (t : DWord) : (s.advanceTo t).free = s.free := rfl

/-- Module time after an advance is the later of the two times, while the module is supplied (R71). -/
theorem State.advanceTo_now (s : State) (t : DWord) : (s.advanceTo t).now = if s.pins.vaux then later s.now t else s.now := rfl

/-- An advance never puts module time back. -/
theorem State.advanceTo_le (s : State) (t : DWord) : s.now.toNat ≤ (s.advanceTo t).now.toNat := by
  rw [State.advanceTo_now]
  unfold later
  repeat' split
  all_goals omega

/-! ### when -/

@[simp] theorem State.when_true (s : State) (f : State → State) : s.when true f = f s := rfl
@[simp] theorem State.when_false (s : State) (f : State → State) : s.when false f = s := rfl

/-- A field that a change keeps is kept when the change is made under a test. -/
theorem State.when_keeps {α : Type} (g : State → α) (s : State) (b : Bool) (f : State → State) (h : g (f s) = g s) :
    g (s.when b f) = g s := by cases b <;> simp [h]

/-! ### Entries of vectors -/

@[simp] theorem updV_self {α : Type} {n : Nat} (v : Vector α n) (i : Fin n) (f : α → α) : (updV v i f)[i.val] = f v[i.val] := by
  simp [updV]

theorem updV_get {α : Type} {n : Nat} (v : Vector α n) (i j : Fin n) (f : α → α) :
    (updV v i f)[j] = if i = j then f v[j] else v[j] := by
  by_cases h : i = j
  · subst h; simp
  · have h' : i.val ≠ j.val := fun e => h (Fin.ext e)
    simp [h, h', updV]

theorem updV_other {α : Type} {n : Nat} (v : Vector α n) (i j : Fin n) (f : α → α) (h : i ≠ j) : (updV v i f)[j] = v[j] := by
  rw [updV_get, if_neg h]

@[simp] theorem setV_self {α : Type} {n : Nat} (v : Vector α n) (i : Fin n) (x : α) : (setV v i x)[i.val] = x := by
  simp [setV]

theorem setV_get {α : Type} {n : Nat} (v : Vector α n) (i j : Fin n) (x : α) : (setV v i x)[j] = if i = j then x else v[j] := by
  by_cases h : i = j
  · subst h; simp
  · have h' : i.val ≠ j.val := fun e => h (Fin.ext e)
    simp [h, h', setV]

end Sys2Proof.Machine
end

