-- ==== Sys2Proof/Laws/KeepQueues.lean ====
section
/-! SUPPORT. What leaves the handshake queues alone: one lemma for each shared operation but those that write, read or empty a queue (consume,
emptyQueue, flushCross, a moved region, a start, STANDBY, a new image); and the operations of one queue. -/
namespace Sys2Proof.Machine

set_option linter.unusedSimpArgs false
theorem foldl_queues {α : Type} (f : State → α → State) (l : List α) (s : State) (h : ∀ s a, (f s a).queues = s.queues) :
    (l.foldl f s).queues = s.queues := by
  induction l generalizing s with
  | nil => rfl
  | cons a l ih => rw [List.foldl_cons, ih, h]
theorem foldl_fst_queues {α β : Type} (f : State × β → α → State × β) (l : List α) (x : State × β) (h : ∀ x a, (f x a).1.queues = x.1.queues) :
    (l.foldl f x).1.queues = x.1.queues := by
  induction l generalizing x with
  | nil => rfl
  | cons a l ih => rw [List.foldl_cons, ih, h]
theorem foldl_snd_queues {α β : Type} (f : β × State → α → β × State) (l : List α) (x : β × State) (h : ∀ x a, (f x a).2.queues = x.2.queues) :
    (l.foldl f x).2.queues = x.2.queues := by
  induction l generalizing x with
  | nil => rfl
  | cons a l ih => rw [List.foldl_cons, ih, h]
theorem State.when_queues (s : State) (b : Bool) (f : State → State) : (s.when b f).queues = if b then (f s).queues else s.queues := by
  cases b <;> rfl

@[simp] theorem State.dropShares_queues (s : State) : (s.dropShares).queues = s.queues := by
  simp [State.dropShares, State.when_queues, apply_ite State.queues]
@[simp] theorem State.pulseSkip_queues (s : State) : (s.pulseSkip).queues = s.queues := by
  simp [State.pulseSkip, State.when_queues, apply_ite State.queues]
@[simp] theorem State.askMove_queues (s : State) (obj : Word) (cause : MoveCause) : (s.askMove obj cause).queues = s.queues := by
  unfold State.askMove
  repeat' first | intro _ | rw [foldl_queues] | rw [foldl_fst_queues] | rw [foldl_snd_queues] | split | simp [State.when_queues, apply_ite State.queues]
@[simp] theorem State.bindRing_queues (s : State) (r : Fin 64) (d : Desc) (jobId : Option Word) : (s.bindRing r d jobId).queues = s.queues := by
  unfold State.bindRing
  repeat' first | intro _ | rw [foldl_queues] | rw [foldl_fst_queues] | rw [foldl_snd_queues] | split | simp [State.when_queues, apply_ite State.queues]
@[simp] theorem State.holdRing_queues (s : State) (a : Asker) (on : Bool) : (s.holdRing a on).queues = s.queues := by
  unfold State.holdRing
  repeat' first | intro _ | rw [foldl_queues] | rw [foldl_fst_queues] | rw [foldl_snd_queues] | split | simp [State.when_queues, apply_ite State.queues]
@[simp] theorem State.shiftTimes_queues (s : State) : (s.shiftTimes).queues = s.queues := by
  simp [State.shiftTimes, State.when_queues, apply_ite State.queues]
@[simp] theorem State.complete_queues (s : State) (r : Fin 64) (index : DWord) (status : Nat) (detail : Nat) (result : DWord) : (s.complete r index status detail result).queues = s.queues := by
  simp [State.complete]
theorem State.beginDesc_queues (s : State) (r : Fin 64) (op : Nat) (k : Desc → State → State) (h : ∀ d s, (k d s).queues = s.queues) :
    (s.beginDesc r op k).queues = s.queues := by
  unfold State.beginDesc
  repeat' first | split | simp [h]
@[simp] theorem State.eventFor_queues (s : State) (job : Word) (code : Nat) (arg0 : DWord) (arg1 : DWord) : (s.eventFor job code arg0 arg1).queues = s.queues := by
  simp [State.eventFor]
@[simp] theorem State.event_queues (s : State) (code : Nat) (arg0 : DWord) (arg1 : DWord) : (s.event code arg0 arg1).queues = s.queues := by
  simp [State.event]
@[simp] theorem State.ringFault_queues (s : State) (r : Fin 64) (cause : Nat) : (s.ringFault r cause).queues = s.queues := by
  simp [State.ringFault]
@[simp] theorem State.discard_queues (s : State) (bar2 : Bool) (off : Nat) : (s.discard bar2 off).queues = s.queues := by
  simp [State.discard]
@[simp] theorem State.actDoorbells_queues (s : State) (r : Fin 64) : (s.actDoorbells r).queues = s.queues := by
  unfold State.actDoorbells
  repeat' first | intro _ | rw [foldl_queues] | rw [foldl_fst_queues] | rw [foldl_snd_queues] | split | simp
@[simp] theorem State.advise_queues (s : State) (cause : Nat) : (s.advise cause).queues = s.queues := by
  simp [State.advise]
@[simp] theorem State.sendPkt_queues (s : State) (k : Pkt) : (s.sendPkt k).queues = s.queues := by
  simp [State.sendPkt, apply_ite State.queues]
@[simp] theorem State.respond_queues (s : State) (k : Pkt) (status : Nat) (detail : Nat) (data : Bytes) : (s.respond k status detail data).queues = s.queues := by
  simp [State.respond]
@[simp] theorem State.jobMsg_queues (s : State) (dst : BitVec 17) (mtype : Nat) (body : Bytes) : (s.jobMsg dst mtype body).queues = s.queues := by
  simp [State.jobMsg]
@[simp] theorem State.fmMsgOut_queues (s : State) (mtype : Nat) (job : Word) (body : Bytes) : (s.fmMsgOut mtype job body).queues = s.queues := by
  simp [State.fmMsgOut, apply_ite State.queues]
@[simp] theorem State.linkMsg_queues (s : State) (p : Fin 32) (mtype : Nat) (body : Bytes) : (s.linkMsg p mtype body).queues = s.queues := by
  simp [State.linkMsg]
@[simp] theorem State.deadSuspect_queues (s : State) (job : Word) (target : BitVec 17) (seq : Word) (op : Nat) : (s.deadSuspect job target seq op).queues = s.queues := by
  simp [State.deadSuspect]
@[simp] theorem State.assertFault_queues (s : State) (c : FaultCause) : (s.assertFault c).queues = s.queues := by
  simp [State.assertFault]
@[simp] theorem State.logFault_queues (s : State) (kind : Nat) (result : Byte) : (s.logFault kind result).queues = s.queues := by
  simp [State.logFault, State.when_queues, apply_ite State.queues]
@[simp] theorem State.thermEvent_queues (s : State) (x : Sensor) (t : Nat) : (s.thermEvent x t).queues = s.queues := by
  simp [State.thermEvent]
@[simp] theorem State.noteBind_queues (s : State) : (s.noteBind).queues = s.queues := by
  simp [State.noteBind, State.when_queues]
@[simp] theorem State.ceilingStep_queues (s : State) : s.ceilingStep.queues = s.queues := by
  simp [State.ceilingStep, apply_ite State.queues]
theorem State.reEnv_queues (s : State) (f : State → State) (h : ∀ s, (f s).queues = s.queues) : (s.reEnv f).queues = s.queues := by
  simp [State.reEnv, h]
@[simp] theorem State.changeEnv_queues (s : State) (f : Power → Power) : (s.changeEnv f).queues = s.queues := by
  unfold State.changeEnv
  repeat' first | intro _ | rw [foldl_queues] | rw [foldl_fst_queues] | rw [foldl_snd_queues] | rw [State.reEnv_queues] | rw [State.checked_queues] | rw [State.when_queues] | split | simp [apply_ite State.queues]
@[simp] theorem State.grant_queues (s : State) : s.grant.2.queues = s.queues := by
  unfold State.grant
  repeat' first | split | simp
@[simp] theorem State.hostWrite_queues (s : State) (addr : DWord) (bs : Bytes) : (s.hostWrite addr bs).queues = s.queues := by
  simp [State.hostWrite, State.when_queues]
@[simp] theorem State.returnRecord_queues (s : State) (rc : StepRecord) : (s.returnRecord rc).queues = s.queues := by
  unfold State.returnRecord
  repeat' first | intro _ | rw [foldl_queues] | rw [foldl_fst_queues] | rw [foldl_snd_queues] | split | simp
@[simp] theorem State.noteWait_queues (s : State) : s.noteWait.queues = s.queues := by
  unfold State.noteWait
  repeat' first | intro _ | rw [foldl_queues] | rw [foldl_fst_queues] | rw [foldl_snd_queues] | split | simp
@[simp] theorem State.holdCheck_queues (s : State) : s.holdCheck.queues = s.queues := by
  unfold State.holdCheck
  repeat' first | intro _ | rw [foldl_queues] | rw [foldl_fst_queues] | rw [foldl_snd_queues] | split | simp
@[simp] theorem State.noteStep_queues (s : State) : s.noteStep.queues = s.queues := by
  simp [State.noteStep]
@[simp] theorem State.clearRun_queues (s : State) : s.clearRun.queues = s.queues := by
  simp [State.clearRun]
@[simp] theorem State.stopRegions_queues (s : State) : s.stopRegions.queues = s.queues := by
  simp [State.stopRegions]
@[simp] theorem State.endJobDescs_queues (s : State) : s.endJobDescs.queues = s.queues := by
  unfold State.endJobDescs
  repeat' first | intro _ | rw [foldl_queues] | rw [foldl_fst_queues] | rw [foldl_snd_queues] | split | simp
@[simp] theorem State.tearDown_queues (s : State) : (s.tearDown).queues = s.queues := by
  unfold State.tearDown
  repeat' first | intro _ | rw [foldl_queues] | rw [foldl_fst_queues] | rw [foldl_snd_queues] | rw [State.reEnv_queues] | rw [State.checked_queues] | rw [State.when_queues] | split | simp [apply_ite State.queues]
@[simp] theorem State.leaveJobs_queues (s : State) (dark : Bool) : (s.leaveJobs dark).queues = s.queues := by
  simp [State.leaveJobs, State.when_queues, apply_ite State.queues]
@[simp] theorem State.retarget_queues (s : State) (d : Fin 4) : (s.retarget d).queues = s.queues := by
  simp [State.retarget, apply_ite State.queues]
@[simp] theorem State.refreqCluster_queues (s : State) (c : Fin 64) : (s.refreqCluster c).queues = s.queues := by
  simp [State.refreqCluster, apply_ite State.queues]
@[simp] theorem State.refreq_queues (s : State) : s.refreq.queues = s.queues := by
  unfold State.refreq
  repeat' first | intro _ | rw [foldl_queues] | rw [foldl_fst_queues] | rw [foldl_snd_queues] | split | simp
@[simp] theorem State.settleGov_queues (s : State) : (s.settleGov).queues = s.queues := by
  rfl
@[simp] theorem State.raiseIbi_queues (s : State) : s.raiseIbi.queues = s.queues := by
  simp [State.raiseIbi]
@[simp] theorem State.mctp_queues (s : State) (m : MctpOut) : (s.mctp m).queues = s.queues := by
  simp [State.mctp]
@[simp] theorem State.cutLong_queues (s : State) : s.cutLong.queues = s.queues := by
  unfold State.cutLong
  repeat' first | intro _ | rw [foldl_queues] | rw [foldl_fst_queues] | rw [foldl_snd_queues] | split | simp
@[simp] theorem State.failStart_queues (s : State) : (s.failStart).queues = s.queues := by
  unfold State.failStart
  repeat' first | intro _ | rw [foldl_queues] | rw [foldl_fst_queues] | rw [foldl_snd_queues] | split | simp [State.when_queues, apply_ite State.queues]
@[simp] theorem State.bringUpPorts_queues (s : State) : s.bringUpPorts.queues = s.queues := by
  simp [State.bringUpPorts]
@[simp] theorem State.armWatchdog_queues (s : State) : s.armWatchdog.queues = s.queues := by
  simp [State.armWatchdog]
@[simp] theorem State.deviceReady_queues (s : State) (path : Nat) : (s.deviceReady path).queues = s.queues := by
  simp [State.deviceReady]
@[simp] theorem State.govBeacon_queues (s : State) : (s.govBeacon).queues = s.queues := by
  rfl
@[simp] theorem State.clusterBeacon_queues (s : State) (c : Fin 64) (obs : List ClusterObs) (whole : Bool) : (s.clusterBeacon c obs whole).queues = s.queues := by
  simp [State.clusterBeacon, apply_ite State.queues]
@[simp] theorem State.watchdogAdvance_queues (s : State) (beacons : Nat) : (s.watchdogAdvance beacons).queues = s.queues := by
  simp [State.watchdogAdvance, apply_ite State.queues]
@[simp] theorem State.pulseRise_queues (s : State) : (s.pulseRise).queues = s.queues := by
  simp [State.pulseRise, State.when_queues, apply_ite State.queues]
@[simp] theorem State.waitSample_queues (s : State) : s.waitSample.queues = s.queues := by
  simp [State.waitSample]
@[simp] theorem State.unlock_queues (s : State) (port : BitVec 5) (backup : Bool) : (s.unlock port backup).queues = s.queues := by
  simp [State.unlock, State.when_queues, apply_ite State.queues]
@[simp] theorem State.loseUpstream_queues (s : State) : s.loseUpstream.queues = s.queues := by
  simp [State.loseUpstream, apply_ite State.queues]
@[simp] theorem State.upRegion_queues (s : State) (i : Nat) (f : RegionS → RegionS) : (s.upRegion i f).queues = s.queues := by
  simp [State.upRegion]
@[simp] theorem State.attachOne_queues (s : State) (i : Nat) : (s.attachOne i).queues = s.queues := by
  simp [State.attachOne]
@[simp] theorem State.attachAll_queues (s : State) : s.attachAll.queues = s.queues := by
  unfold State.attachAll
  repeat' first | intro _ | rw [foldl_queues] | rw [foldl_fst_queues] | rw [foldl_snd_queues] | split | simp
@[simp] theorem State.upTile_queues (s : State) (c : Fin 1024) (seq : Word) (slot : Nat) (g : QTile → QTile) : (s.upTile c seq slot g).queues = s.queues := by
  rfl
@[simp] theorem State.takeWord_queues (s : State) (i : Nat) (w : QWord) : (s.takeWord i w).queues = s.queues := by
  unfold State.takeWord
  repeat' first | intro _ | rw [foldl_queues] | rw [foldl_fst_queues] | rw [foldl_snd_queues] | split | simp [State.when_queues, apply_ite State.queues]
@[simp] theorem State.clockBound_queues (s : State) : s.clockBound.queues = s.queues := by
  unfold State.clockBound
  repeat' first | intro _ | rw [foldl_queues] | rw [foldl_fst_queues] | rw [foldl_snd_queues] | split | simp
@[simp] theorem State.placeFrame_queues (s : State) (i : Nat) (f : Bytes) : (s.placeFrame i f).queues = s.queues := by
  unfold State.placeFrame
  repeat' first | intro _ | rw [foldl_queues] | rw [foldl_fst_queues] | rw [foldl_snd_queues] | split | simp
@[simp] theorem State.placeFrames_queues (s : State) (i : Nat) : (s.placeFrames i).queues = s.queues := by
  unfold State.placeFrames
  repeat' first | intro _ | rw [foldl_queues] | rw [foldl_fst_queues] | rw [foldl_snd_queues] | split | simp
@[simp] theorem State.askFrames_queues (s : State) (i : Nat) : (s.askFrames i).queues = s.queues := by
  rfl
@[simp] theorem State.grantOne_queues (s : State) : s.grantOne.queues = s.queues := by
  have g := State.grant_queues s
  unfold State.grantOne
  split
  · rename_i e
    rw [e] at g
    simpa using g
  · rename_i e
    rw [e] at g
    exact g
@[simp] theorem State.applyBinding_queues (s : State) (b : Binding) : (s.applyBinding b).queues = s.queues := by
  unfold State.applyBinding
  repeat' first | intro _ | rw [foldl_queues] | rw [foldl_fst_queues] | rw [foldl_snd_queues] | split | simp
@[simp] theorem State.renameAll_queues (b s : State) : (State.renameAll b s).queues = s.queues := by
  unfold State.renameAll
  repeat' first | intro _ | rw [foldl_queues] | split | simp
@[simp] theorem State.cellFault_queues (s : State) (c : Fin 1024) (cause : Nat) : (s.cellFault c cause).queues = s.queues := by
  simp [State.cellFault]
@[simp] theorem State.programFault_queues (s : State) (c : Fin 1024) : (s.programFault c).queues = s.queues := by
  simp [State.programFault]
@[simp] theorem State.nestFault_queues (s : State) (c : Fin 1024) : (s.nestFault c).queues = s.queues := by
  simp [State.nestFault]
@[simp] theorem State.spoilStep_queues (s : State) (c : Fin 1024) : (s.spoilStep c).queues = s.queues := by
  rfl
@[simp] theorem State.reportSpoil_queues (s : State) (c : Fin 1024) (bad : Bool) : (s.reportSpoil c bad).queues = s.queues := by
  simp [State.reportSpoil, State.when_queues]
@[simp] theorem State.nestWaits_queues (s : State) (c : Fin 1024) : (s.nestWaits c).queues = s.queues := by
  simp [State.nestWaits]
@[simp] theorem State.addWait_queues (s : State) (c : Fin 1024) : (s.addWait c).queues = s.queues := by
  simp [State.addWait]
@[simp] theorem State.returnCredit_queues (s : State) (c : Fin 1024) (x : Nat × Word) : (s.returnCredit c x).queues = s.queues := by
  unfold State.returnCredit
  repeat' first | intro _ | rw [foldl_queues] | rw [foldl_fst_queues] | rw [foldl_snd_queues] | split | simp [State.when_queues, apply_ite State.queues]
@[simp] theorem State.freeCredits_queues (s : State) (c : Fin 1024) : (s.freeCredits c).queues = s.queues := by
  unfold State.freeCredits
  repeat' first | intro _ | rw [foldl_queues] | rw [foldl_fst_queues] | rw [foldl_snd_queues] | split | simp
@[simp] theorem State.pressure_queues (s : State) (c : Fin 1024) : (s.pressure c).queues = s.queues := by
  simp [State.pressure, apply_ite State.queues]
@[simp] theorem State.releaseTiles_queues (s : State) (c : Fin 1024) : (s.releaseTiles c).queues = s.queues := by
  simp [State.releaseTiles]
@[simp] theorem State.releaseSlot_queues (s : State) (c : Fin 1024) (r : RingSlot) : (s.releaseSlot c r).queues = s.queues := by
  simp [State.releaseSlot, apply_ite State.queues]
@[simp] theorem State.beginNest_queues (s : State) (c : Fin 1024) (a : StartArgs) : (s.beginNest c a).queues = s.queues := by
  unfold State.beginNest
  repeat' first | intro _ | rw [foldl_queues] | rw [foldl_fst_queues] | rw [foldl_snd_queues] | split | simp [State.when_queues, apply_ite State.queues]
@[simp] theorem State.issued_queues (s : State) (c : Fin 1024) : (s.issued c).queues = s.queues := by
  unfold State.issued
  repeat' first | intro _ | rw [foldl_queues] | rw [foldl_fst_queues] | rw [foldl_snd_queues] | split | simp
@[simp] theorem State.doLoad_queues (s : State) (c : Fin 1024) (slot : BitVec 3) : (s.doLoad c slot).queues = s.queues := by
  simp [State.doLoad]
@[simp] theorem State.doSwitch_queues (s : State) (c : Fin 1024) : (s.doSwitch c).queues = s.queues := by
  simp [State.doSwitch, apply_ite State.queues]
@[simp] theorem State.doStart_queues (s : State) (c : Fin 1024) (a : BitVec 15) (b : BitVec 15) : (s.doStart c a b).queues = s.queues := by
  simp [State.doStart, apply_ite State.queues]
@[simp] theorem State.retry_queues (s : State) (c : Fin 1024) : (s.retry c).queues = s.queues := by
  unfold State.retry
  repeat' first | intro _ | rw [foldl_queues] | rw [foldl_fst_queues] | rw [foldl_snd_queues] | split | simp
@[simp] theorem State.noteProduced_queues (s : State) (f : Bytes) (o : OutTile) : (s.noteProduced f o).queues = s.queues := by
  unfold State.noteProduced
  repeat' first | intro _ | rw [foldl_queues] | rw [foldl_fst_queues] | rw [foldl_snd_queues] | split | simp
@[simp] theorem State.land_queues (s : State) (c : Fin 1024) : (s.land c).queues = s.queues := by
  unfold State.land
  repeat' first | intro _ | rw [foldl_queues] | rw [foldl_fst_queues] | rw [foldl_snd_queues] | split | simp [State.when_queues, apply_ite State.queues]
@[simp] theorem State.laneOut_queues (s : State) (c : Fin 1024) (n : Nest) (o : Nat) (rows : List RowOut) (g : Nest → Nest) : (s.laneOut c n o rows g).queues = s.queues := by
  simp [State.laneOut, apply_ite State.queues]
@[simp] theorem State.takeTile_queues (s : State) (c : Fin 1024) (d : Fin 1024) (e : Word) (t : QTile) : (s.takeTile c d e t).queues = s.queues := by
  simp [State.takeTile, apply_ite State.queues]
@[simp] theorem State.countDiscard_queues (s : State) (p : Fin 32) : (s.countDiscard p).queues = s.queues := by
  simp [State.countDiscard]
@[simp] theorem State.respondAll_queues (s : State) (k : Pkt) (status : Nat) (detail : Nat) : (s.respondAll k status detail).queues = s.queues := by
  unfold State.respondAll
  repeat' first | intro _ | rw [foldl_queues] | rw [foldl_fst_queues] | rw [foldl_snd_queues] | split | simp
@[simp] theorem State.putAt_queues (s : State) (q : Fin 32) (sent : Bool) (k : Pkt) (tag : Nat) : (s.putAt q sent k tag).queues = s.queues := by
  simp [State.putAt, apply_ite State.queues]
@[simp] theorem State.resend_queues (s : State) (p : Fin 32) (sent : Bool) (x : Pkt × Nat) : (s.resend p sent x).queues = s.queues := by
  unfold State.resend
  repeat' first | intro _ | rw [foldl_queues] | rw [foldl_fst_queues] | rw [foldl_snd_queues] | split | simp
@[simp] theorem State.vacate_queues (s : State) (p : Fin 32) : (s.vacate p).queues = s.queues := by
  unfold State.vacate
  repeat' first | intro _ | rw [foldl_queues] | rw [foldl_fst_queues] | rw [foldl_snd_queues] | split | simp
@[simp] theorem State.portDown_queues (s : State) (p : Fin 32) (reason : Nat) : (s.portDown p reason).queues = s.queues := by
  simp [State.portDown]
@[simp] theorem State.loseP_queues (s : State) (p : Fin 32) (planned : Bool) (reason : Nat) : (s.loseP p planned reason).queues = s.queues := by
  simp [State.loseP, State.when_queues]
@[simp] theorem State.departPorts_queues (s : State) (st : PortSt) : (s.departPorts st).queues = s.queues := by
  simp [State.departPorts]
@[simp] theorem State.retrain_queues (s : State) (p : Fin 32) : (s.retrain p).queues = s.queues := by
  simp [State.retrain]
@[simp] theorem State.sendMcast_queues (s : State) (k : Pkt) (ts : List (BitVec 17 × Word)) (data : Bytes) : (s.sendMcast k ts data).queues = s.queues := by
  unfold State.sendMcast
  repeat' first | intro _ | rw [foldl_queues] | rw [foldl_fst_queues] | rw [foldl_snd_queues] | split | simp [State.when_queues, apply_ite State.queues]
@[simp] theorem State.issue_queues (s : State) (o : OutReq) : (s.issue o).queues = s.queues := by
  unfold State.issue
  repeat' first | intro _ | rw [foldl_queues] | rw [foldl_fst_queues] | rw [foldl_snd_queues] | split | simp
@[simp] theorem State.endRing_queues (s : State) (ring : Option (Fin 64 × DWord)) (status : Nat) (result : DWord) : (s.endRing ring status result).queues = s.queues := by
  unfold State.endRing
  repeat' first | intro _ | rw [foldl_queues] | rw [foldl_fst_queues] | rw [foldl_snd_queues] | split | simp
@[simp] theorem State.drainLost_queues (s : State) : s.drainLost.queues = s.queues := by
  simp [State.drainLost]
@[simp] theorem State.pumpGo_queues (s : State) (b l : List OutReq) : (s.pumpGo b l).queues = s.queues := by
  induction l generalizing s b with
  | nil => rfl
  | cons o l ih =>
    unfold State.pumpGo
    repeat' first | split | simp [ih, State.when_queues]
@[simp] theorem State.pump_queues (s : State) : s.pump.queues = s.queues := by
  simp [State.pump, apply_ite State.queues]
@[simp] theorem State.request_queues (s : State) (k : Pkt) (ring : Option (Fin 64 × DWord)) : (s.request k ring).queues = s.queues := by
  simp [State.request]
@[simp] theorem State.dropOut_queues (s : State) (o : OutReq) : (s.dropOut o).queues = s.queues := by
  simp [State.dropOut]
@[simp] theorem State.targetDead_queues (s : State) (o : OutReq) : (s.targetDead o).queues = s.queues := by
  simp [State.targetDead]
theorem State.arrivePkt_queues (s : State) (p : Fin 32) (k : Pkt) (f : State → State) (h : ∀ s, (f s).queues = s.queues) :
    (s.arrivePkt p k f).queues = s.queues := by
  unfold State.arrivePkt
  repeat' first | split | simp [h]
@[simp] theorem State.endOk_queues (s : State) (o : OutReq) (k : Pkt) : (s.endOk o k).queues = s.queues := by
  unfold State.endOk
  repeat' first | intro _ | rw [foldl_queues] | rw [foldl_fst_queues] | rw [foldl_snd_queues] | split | simp [State.when_queues, apply_ite State.queues]
@[simp] theorem State.endBy_queues (s : State) (o : OutReq) (k : Pkt) : (s.endBy o k).queues = s.queues := by
  unfold State.endBy
  split <;> simp
@[simp] theorem State.imageAnswered_queues (s : State) (k : Pkt) (ok : Bool) : (s.imageAnswered k ok).queues = s.queues := by
  unfold State.imageAnswered
  repeat' first | intro _ | rw [foldl_queues] | rw [foldl_fst_queues] | rw [foldl_snd_queues] | split | simp [State.when_queues, apply_ite State.queues]
@[simp] theorem State.upObj_queues (s : State) (id : Nat) (f : ObjS → ObjS) : (s.upObj id f).queues = s.queues := by
  simp [State.upObj]
@[simp] theorem State.loseTiles_queues (s : State) (id : Nat) (f : ObjS → List Nat) : (s.loseTiles id f).queues = s.queues := by
  unfold State.loseTiles State.upObj
  repeat' first | intro _ | rw [foldl_queues] | rw [foldl_fst_queues] | rw [foldl_snd_queues] | split | simp [State.when_queues, apply_ite State.queues]
@[simp] theorem State.applyArr_queues (s : State) (id : Nat) (h : Home) (a : Arrival) : (s.applyArr id h a).queues = s.queues := by
  unfold State.applyArr
  repeat' first | intro _ | rw [foldl_queues] | rw [foldl_fst_queues] | rw [foldl_snd_queues] | split | simp
@[simp] theorem State.applyAll_queues (s : State) (id : Nat) (h : Home) (as : List Arrival) : (s.applyAll id h as).queues = s.queues := by
  unfold State.applyAll
  repeat' first | intro _ | rw [foldl_queues] | rw [foldl_fst_queues] | rw [foldl_snd_queues] | split | simp
@[simp] theorem State.arriveOld_queues (s : State) (id : Nat) (m : MoveS) (a : Arrival) : (s.arriveOld id m a).queues = s.queues := by
  simp [State.arriveOld]
@[simp] theorem State.arriveNew_queues (s : State) (o : ObjS) (a : Arrival) : (s.arriveNew o a).queues = s.queues := by
  unfold State.arriveNew
  repeat' first | intro _ | rw [foldl_queues] | rw [foldl_fst_queues] | rw [foldl_snd_queues] | split | simp
@[simp] theorem State.arriveNow_queues (s : State) (o : ObjS) (a : Arrival) : (s.arriveNow o a).queues = s.queues := by
  unfold State.arriveNow
  repeat' first | intro _ | rw [foldl_queues] | rw [foldl_fst_queues] | rw [foldl_snd_queues] | split | simp
@[simp] theorem State.writeObj_queues (s : State) (unit : SenderUnit) (o : ObjS) (off : Nat) (data : Bytes) : (s.writeObj unit o off data).queues = s.queues := by
  simp [State.writeObj]
@[simp] theorem State.sendContrib_queues (s : State) (h : ContribHdr) (index : Bytes) (record : Bytes) : (s.sendContrib h index record).queues = s.queues := by
  simp [State.sendContrib, apply_ite State.queues]
@[simp] theorem State.sendRows_queues (s : State) (h : ContribHdr) (rows : List (Nat × List Nat)) : (s.sendRows h rows).queues = s.queues := by
  unfold State.sendRows
  repeat' first | intro _ | rw [foldl_queues] | rw [foldl_fst_queues] | rw [foldl_snd_queues] | split | simp
@[simp] theorem State.writeRows_queues (s : State) (o : ObjS) (rows : List (Nat × List Nat)) : (s.writeRows o rows).queues = s.queues := by
  unfold State.writeRows
  repeat' first | intro _ | rw [foldl_queues] | rw [foldl_fst_queues] | rw [foldl_snd_queues] | split | simp [State.when_queues, apply_ite State.queues]
@[simp] theorem State.noteLate_queues (s : State) (owner : Nat) (layer : Nat) : (s.noteLate owner layer).queues = s.queues := by
  simp [State.noteLate, State.when_queues]
@[simp] theorem State.closeTile_queues (s : State) (t : TreeTile) : (s.closeTile t).queues = s.queues := by
  unfold State.closeTile
  extract_lets cs root sum rows bad h s1 s2
  have e1 : s1.queues = s.queues := rfl
  have e2 : s2.queues = s.queues := by simp only [s2, State.noteLate_queues, e1]
  clear_value s1 s2 h bad sum
  repeat' first
    | split
    | exact e1
    | simp only [State.writeRows_queues, State.writeObj_queues, State.sendRows_queues, State.sendContrib_queues, e1, e2]
@[simp] theorem State.lateSlot_queues (s : State) (t : TreeTile) (x : SlotC) : (s.lateSlot t x).queues = s.queues := by
  simp [State.lateSlot]
@[simp] theorem State.noteMargin_queues (s : State) (t : TreeTile) (u : DWord) : (s.noteMargin t u).queues = s.queues := by
  simp [State.noteMargin, State.when_queues, apply_ite State.queues]
@[simp] theorem State.place_queues (s : State) (slot : Nat) (h : ContribHdr) (d : Bytes) (u : DWord) : (s.place slot h d u).queues = s.queues := by
  unfold State.place
  repeat' first | intro _ | rw [foldl_queues] | rw [foldl_fst_queues] | rw [foldl_snd_queues] | split | simp [State.when_queues, apply_ite State.queues]
theorem State.contribIn_queues (s : State) (h : ContribHdr) (d : Bytes) (u : DWord) (t : State) (e : s.contribIn h d u = some t) : t.queues = s.queues := by
  unfold State.contribIn at e
  repeat' split at e
  all_goals first | (cases e; done) | (cases e; simp [State.when_queues, apply_ite State.queues])
@[simp] theorem State.openEarly_queues (s : State) : s.openEarly.queues = s.queues := by
  unfold State.openEarly
  dsimp only
  rw [foldl_queues]
  · rfl
  · intro s x
    cases e : s.contribIn x.1 x.2.1 x.2.2 with
    | none => rfl
    | some t => simp [State.contribIn_queues _ _ _ _ _ e]
@[simp] theorem State.copyOver_queues (s : State) (o : ObjS) : (s.copyOver o).queues = s.queues := by
  unfold State.copyOver
  repeat' first | intro _ | rw [foldl_queues] | rw [foldl_fst_queues] | rw [foldl_snd_queues] | split | simp
@[simp] theorem State.abortOne_queues (s : State) (o : ObjS) : (s.abortOne o).queues = s.queues := by
  unfold State.abortOne
  repeat' first | intro _ | rw [foldl_queues] | rw [foldl_fst_queues] | rw [foldl_snd_queues] | split | simp [State.when_queues, apply_ite State.queues]
@[simp] theorem State.abortMove_queues (s : State) (id : Nat) : (s.abortMove id).queues = s.queues := by
  unfold State.abortMove
  repeat' first | intro _ | rw [foldl_queues] | rw [foldl_fst_queues] | rw [foldl_snd_queues] | split | simp [State.when_queues, apply_ite State.queues]
@[simp] theorem State.abortMoves_queues (s : State) : s.abortMoves.queues = s.queues := by
  unfold State.abortMoves
  repeat' first | intro _ | rw [foldl_queues] | rw [foldl_fst_queues] | rw [foldl_snd_queues] | split | simp
@[simp] theorem State.askHealthMoves_queues (s : State) : s.askHealthMoves.queues = s.queues := by
  simp [State.askHealthMoves]
@[simp] theorem State.startRegion_queues (s : State) (r : Nat) : (s.startRegion r).queues = s.queues := by
  unfold State.startRegion
  repeat' first | intro _ | rw [foldl_queues] | rw [foldl_fst_queues] | rw [foldl_snd_queues] | split | simp [State.when_queues, apply_ite State.queues]
@[simp] theorem State.adviseNew_queues (s : State) (cause : Nat) : (s.adviseNew cause).queues = s.queues := by
  simp [State.adviseNew, apply_ite State.queues]
@[simp] theorem State.askBinding_queues (s : State) (b : Binding) : (s.askBinding b).queues = s.queues := by
  simp [State.askBinding]
@[simp] theorem State.flip_queues (s : State) (o : ObjS) (m : MoveS) (unreadable : List Nat) : (s.flip o m unreadable).queues = s.queues := by
  simp [State.flip]
@[simp] theorem State.arrive_queues (s : State) (o : ObjS) (gen : Half) (a : Arrival) : (s.arrive o gen a).queues = s.queues := by
  unfold State.arrive
  repeat' first | intro _ | rw [foldl_queues] | rw [foldl_fst_queues] | rw [foldl_snd_queues] | split | simp
@[simp] theorem State.shedAnswer_queues (s : State) (grant : Bool) (firstStep : DWord) (share : Word) : (s.shedAnswer grant firstStep share).queues = s.queues := by
  simp [State.shedAnswer, apply_ite State.queues]
@[simp] theorem State.reportNest_queues (s : State) (n : Nest) (f : Bytes) : (s.reportNest n f).queues = s.queues := by
  simp [State.reportNest]
@[simp] theorem State.askRecord_queues (s : State) (r : PfRun) (ps : List (Nat × Nat)) : (s.askRecord r ps).queues = s.queues := by
  unfold State.askRecord
  repeat' first | intro _ | rw [foldl_queues] | rw [foldl_fst_queues] | rw [foldl_snd_queues] | split | simp
@[simp] theorem State.deliver_queues (s : State) (e : PfE) (r : PfRun) (o : ObjS) (c : Fin 1024) (ue : Bool) : (s.deliver e r o c ue).queues = s.queues := by
  simp [State.deliver, apply_ite State.queues]
@[simp] theorem State.writeTile_queues (s : State) (unit : SenderUnit) (id : Nat) (ps : List (Nat × Nat)) (bs : Bytes) : (s.writeTile unit id ps bs).queues = s.queues := by
  unfold State.writeTile
  repeat' first | intro _ | rw [foldl_queues] | rw [foldl_fst_queues] | rw [foldl_snd_queues] | split | simp
@[simp] theorem State.writeBack_queues (s : State) (e : PfE) (r : PfRun) (o : ObjS) (c : Fin 1024) (bad : Bool) : (s.writeBack e r o c bad).queues = s.queues := by
  simp [State.writeBack, apply_ite State.queues]
@[simp] theorem State.loseRecord_queues (s : State) (obj : Word) : (s.loseRecord obj).queues = s.queues := by
  unfold State.loseRecord
  extract_lets os
  have g := State.fresh_queues s 64
  generalize s.fresh 64 = x at g
  obtain ⟨x, t⟩ := x
  dsimp only at g ⊢
  rw [← g]
  split <;> simp
@[simp] theorem State.sourceUe_queues (s : State) (w : Work) : (s.sourceUe w).queues = s.queues := by
  unfold State.sourceUe
  repeat' first | intro _ | rw [foldl_queues] | rw [foldl_fst_queues] | rw [foldl_snd_queues] | split | simp
@[simp] theorem State.errRecord_queues (s : State) (l : ErrLoc) (unc : Bool) : (s.errRecord l unc).queues = s.queues := by
  simp [State.errRecord]
@[simp] theorem State.unitFollows_queues (s : State) (h : Health) : (s.unitFollows h).queues = s.queues := by
  unfold State.unitFollows
  repeat' first | intro _ | rw [foldl_queues] | rw [foldl_fst_queues] | rw [foldl_snd_queues] | split | simp [State.when_queues, apply_ite State.queues]
@[simp] theorem State.correctedErr_queues (s : State) (l : ErrLoc) : (s.correctedErr l).queues = s.queues := by
  unfold State.correctedErr
  repeat' first | intro _ | rw [foldl_queues] | rw [foldl_fst_queues] | rw [foldl_snd_queues] | split | simp
@[simp] theorem State.poisonReq_queues (s : State) (src : BitVec 17) (seq : Word) : (s.poisonReq src seq).queues = s.queues := by
  unfold State.poisonReq
  repeat' first | intro _ | rw [foldl_queues] | rw [foldl_fst_queues] | rw [foldl_snd_queues] | split | simp
@[simp] theorem State.ueFeeds_queues (s : State) (l : ErrLoc) (feeds : UeFeeds) : (s.ueFeeds l feeds).queues = s.queues := by
  unfold State.ueFeeds
  repeat' first | intro _ | rw [foldl_queues] | rw [foldl_fst_queues] | rw [foldl_snd_queues] | split | simp
@[simp] theorem State.ueHealth_queues (s : State) (l : ErrLoc) (dead : Bool) : (s.ueHealth l dead).queues = s.queues := by
  unfold State.ueHealth
  repeat' first | intro _ | rw [foldl_queues] | rw [foldl_fst_queues] | rw [foldl_snd_queues] | split | simp
@[simp] theorem State.refuseFree_queues (s : State) (k : Pkt) : (s.refuseFree k).queues = s.queues := by
  simp [State.refuseFree]
theorem State.checked_queues (s : State) (k : Pkt) (f : State → State) (h : ∀ s, (f s).queues = s.queues) : (s.checked k f).queues = s.queues := by
  unfold State.checked
  repeat' first | split | simp [h]
@[simp] theorem State.cacheReply_queues (s : State) (k : Pkt) (value : DWord) : (s.cacheReply k value).queues = s.queues := by
  simp [State.cacheReply]
@[simp] theorem State.applied_queues (s : State) (k : Pkt) (value : DWord) (data : Bytes) : (s.applied k value data).queues = s.queues := by
  simp [State.applied, State.when_queues]
@[simp] theorem State.orderLines_queues (s : State) (p : Fin 32) (k : Pkt) : (s.orderLines p k).queues = s.queues := by
  simp [State.orderLines]
@[simp] theorem State.refuseTile_queues (s : State) (k : Pkt) : (s.refuseTile k).queues = s.queues := by
  simp [State.refuseTile]
@[simp] theorem State.sendDown_queues (s : State) (m : TileMsg) (off : Nat) (data : Bytes) : (s.sendDown m off data).queues = s.queues := by
  unfold State.sendDown
  repeat' first | intro _ | rw [foldl_queues] | rw [foldl_fst_queues] | rw [foldl_snd_queues] | split | simp
@[simp] theorem State.discardStaged_queues (s : State) (pos n : Nat) : (s.discardStaged pos n).queues = s.queues := by
  simp [State.discardStaged, State.when_queues, apply_ite State.queues]
@[simp] theorem State.copyLog_queues (s : State) (es : List ObjE) (n : Nat) (b : Bytes) : (s.copyLog es n b).queues = s.queues := by
  induction n generalizing s b with
  | zero => rfl
  | succ n ih =>
    unfold State.copyLog
    dsimp only
    split
    · rfl
    · rw [ih]
      split <;> simp
@[simp] theorem State.applyStaged_queues (s : State) (es : List ObjE) (step n : Nat) : (s.applyStaged es step n).queues = s.queues := by
  induction n generalizing s with
  | zero => rfl
  | succ n ih =>
    unfold State.applyStaged
    dsimp only
    split
    · rfl
    · rw [ih]
      simp
@[simp] theorem State.seeSlot_queues (s : State) (i : Nat) : (s.seeSlot i).queues = s.queues := by
  simp [State.seeSlot, State.when_queues, apply_ite State.queues]
@[simp] theorem State.partnerStored_queues (s : State) (off n : Nat) : (s.partnerStored off n).queues = s.queues := by
  simp [State.partnerStored, State.when_queues, apply_ite State.queues]
@[simp] theorem State.writeLocal_queues (s : State) (off : Nat) (data : Bytes) : (s.writeLocal off data).queues = s.queues := by
  unfold State.writeLocal
  repeat' first | intro _ | rw [foldl_queues] | rw [foldl_fst_queues] | rw [foldl_snd_queues] | split | simp
@[simp] theorem State.requestDone_queues (s : State) (k : Pkt) (value : DWord) : (s.requestDone k value).queues = s.queues := by
  unfold State.requestDone
  repeat' first | intro _ | rw [foldl_queues] | rw [foldl_fst_queues] | rw [foldl_snd_queues] | split | simp [State.when_queues, apply_ite State.queues]
@[simp] theorem State.applyLine_queues (s : State) (l : LineUpd) : (s.applyLine l).queues = s.queues := by
  unfold State.applyLine
  dsimp only
  repeat' first | split | simp
@[simp] theorem State.saveSlot_queues (s : State) (full : Bool) (bs : Bytes) : (s.saveSlot full bs).queues = s.queues := by
  unfold State.saveSlot
  repeat' first | intro _ | rw [foldl_queues] | rw [foldl_fst_queues] | rw [foldl_snd_queues] | split | simp
@[simp] theorem State.writeHome_queues (s : State) (o : ObjS) (off : Nat) (bs : Bytes) : (s.writeHome o off bs).queues = s.queues := by
  simp [State.writeHome]
@[simp] theorem State.writeTileOuts_queues (s : State) (o : ObjS) (tile : Nat) (outs : List ElemOut) : (s.writeTileOuts o tile outs).queues = s.queues := by
  simp [State.writeTileOuts]
@[simp] theorem State.countOuts_queues (s : State) (k : Fin 12) (o : ObjS) (outs : List ElemOut) (scales : Nat) : (s.countOuts k o outs scales).queues = s.queues := by
  simp [State.countOuts, State.when_queues]
@[simp] theorem State.updateUnit_queues (s : State) (k : Fin 12) (o : ObjS) (unit : Nat) : (s.updateUnit k o unit).queues = s.queues := by
  unfold State.updateUnit
  repeat' first | intro _ | rw [foldl_queues] | rw [foldl_fst_queues] | rw [foldl_snd_queues] | split | simp
@[simp] theorem State.updateRow_queues (s : State) (k : Fin 12) (o : ObjS) (g : ObjS) (pos : Nat) (row : Nat) : (s.updateRow k o g pos row).queues = s.queues := by
  simp [State.updateRow]
@[simp] theorem State.updateRows_queues (s : State) (k : Fin 12) (o : ObjS) (block : Nat) : (s.updateRows k o block).queues = s.queues := by
  unfold State.updateRows
  repeat' first | intro _ | rw [foldl_queues] | rw [foldl_fst_queues] | rw [foldl_snd_queues] | split | simp
@[simp] theorem State.outboxWait_queues (s : State) (k : Fin 12) : (s.outboxWait k).queues = s.queues := by
  simp [State.outboxWait, apply_ite State.queues]
@[simp] theorem State.outboxGo_queues (s : State) (k : Fin 12) : (s.outboxGo k).queues = s.queues := by
  unfold State.outboxGo
  repeat' first | intro _ | rw [foldl_queues] | rw [foldl_fst_queues] | rw [foldl_snd_queues] | split | simp
@[simp] theorem State.sendTile_queues (s : State) (m : TileMsg) (off : Nat) (bs : Bytes) : (s.sendTile m off bs).queues = s.queues := by
  unfold State.sendTile
  repeat' first | intro _ | rw [foldl_queues] | rw [foldl_fst_queues] | rw [foldl_snd_queues] | split | simp
@[simp] theorem State.handOff_queues (s : State) (o w : ObjS) : (s.handOff o w).queues = s.queues := by
  unfold State.handOff
  repeat' first | intro _ | rw [foldl_queues] | rw [foldl_fst_queues] | rw [foldl_snd_queues] | split | simp
@[simp] theorem State.takeContrib_queues (s : State) (k : Pkt) : (s.takeContrib k).queues = s.queues := by
  unfold State.takeContrib
  rw [State.checked_queues]
  intro s
  dsimp only
  split
  · rename_i e
    simp [State.contribIn_queues _ _ _ _ _ e]
  · simp [State.when_queues]
@[simp] theorem State.takeLines_queues (s : State) (p : Fin 32) (k : Pkt) : (s.takeLines p k).queues = s.queues := by
  unfold State.takeLines
  repeat' first | intro _ | rw [foldl_queues] | rw [foldl_fst_queues] | rw [foldl_snd_queues] | rw [State.reEnv_queues] | rw [State.checked_queues] | rw [State.when_queues] | split | simp [apply_ite State.queues]
@[simp] theorem State.take_queues (s : State) (p : Fin 32) (k : Pkt) : (s.take p k).queues = s.queues := by
  simp [State.take, apply_ite State.queues]
@[simp] theorem State.drainRx_queues (n : Nat) (s : State) : (State.drainRx n s).queues = s.queues := by
  induction n generalizing s with
  | zero => rfl
  | succ n ih =>
    unfold State.drainRx
    split
    · rfl
    · rw [ih]
      simp
@[simp] theorem State.pumpRx_queues (s : State) : (s.pumpRx).queues = s.queues := by
  simp [State.pumpRx]
@[simp] theorem State.receive_queues (s : State) (p : Fin 32) (k : Pkt) : (s.receive p k).queues = s.queues := by
  simp [State.receive, apply_ite State.queues]
@[simp] theorem State.passMcast_queues (s : State) (k : Pkt) (rest : List (BitVec 17 × Word)) : (s.passMcast k rest).queues = s.queues := by
  unfold State.passMcast
  repeat' first | intro _ | rw [foldl_queues] | rw [foldl_fst_queues] | rw [foldl_snd_queues] | split | simp
@[simp] theorem State.placeOwn_queues (s : State) (h : ContribHdr) (payload : Bytes) : (s.placeOwn h payload).queues = s.queues := by
  simp [State.placeOwn, apply_ite State.queues]
@[simp] theorem State.handed_queues (s : State) (h : ContribHdr) : (s.handed h).queues = s.queues := by
  unfold State.handed
  repeat' first | intro _ | rw [foldl_queues] | rw [foldl_fst_queues] | rw [foldl_snd_queues] | split | simp
@[simp] theorem State.applyShare_queues (s : State) (step : DWord) : (s.applyShare step).queues = s.queues := by
  unfold State.applyShare
  repeat' first | intro _ | rw [foldl_queues] | rw [foldl_fst_queues] | rw [foldl_snd_queues] | split | simp
@[simp] theorem State.beginRun_queues (s : State) (replay : Bool) (stamp : DWord) : (s.beginRun replay stamp).queues = s.queues := by
  simp [State.beginRun]
@[simp] theorem State.nextStep_queues (s : State) (stamp : DWord) : (s.nextStep stamp).queues = s.queues := by
  simp [State.nextStep, State.when_queues, apply_ite State.queues]
@[simp] theorem State.asBound_queues (s : State) (b : Binding) : (s.asBound b).queues = s.queues := by
  simp [State.asBound]
@[simp] theorem State.lateRebind_queues (s : State) : s.lateRebind.queues = s.queues := by
  unfold State.lateRebind
  repeat' first | intro _ | rw [foldl_queues] | rw [foldl_fst_queues] | rw [foldl_snd_queues] | split | simp
@[simp] theorem State.shareRequest_queues (s : State) (fraction : Word) (share : Nat) : (s.shareRequest fraction share).queues = s.queues := by
  simp [State.shareRequest]
@[simp] theorem State.countLate_queues (s : State) (late : Bool) (idle : Bool) : (s.countLate late idle).queues = s.queues := by
  simp [State.countLate]
@[simp] theorem State.lateness_queues (s : State) (r : IntRec) (ownTime : Nat) (fraction : Word) (idle : Bool) : (s.lateness r ownTime fraction idle).queues = s.queues := by
  simp [State.lateness, State.when_queues, apply_ite State.queues]
@[simp] theorem State.writeHistory_queues (s : State) : s.writeHistory.queues = s.queues := by
  simp [State.writeHistory]
@[simp] theorem State.fillRecord_queues (s : State) (r : IntRec) (clip : Word) (fraction : Word) (critical : Bool) : (s.fillRecord r clip fraction critical).queues = s.queues := by
  simp [State.fillRecord]
@[simp] theorem State.actUpdate_queues (s : State) (clip : Word) : (s.actUpdate clip).queues = s.queues := by
  simp [State.actUpdate]
@[simp] theorem State.actSkip_queues (s : State) (stamp : DWord) : (s.actSkip stamp).queues = s.queues := by
  simp [State.actSkip]
@[simp] theorem State.actReplay_queues (s : State) (stamp : DWord) : (s.actReplay stamp).queues = s.queues := by
  simp [State.actReplay]
@[simp] theorem State.act_queues (s : State) (r : IntRec) : (s.act r).queues = s.queues := by
  have e : ∀ s : State, s.fractionOf.2.2.2.queues = s.queues := by
    intro s
    unfold State.fractionOf
    dsimp only
    split <;> simp
  unfold State.act
  dsimp only
  split <;> simp [State.when_queues, apply_ite State.queues, e]
@[simp] theorem State.sendRec_queues (s : State) (pos : Nat) (r : IntRec) : (s.sendRec pos r).queues = s.queues := by
  simp [State.sendRec]
@[simp] theorem State.passDown_queues (s : State) (r : IntRec) : (s.passDown r).queues = s.queues := by
  unfold State.passDown
  repeat' first | intro _ | rw [foldl_queues] | rw [foldl_fst_queues] | rw [foldl_snd_queues] | split | simp
@[simp] theorem State.tryCombine_queues (s : State) : s.tryCombine.queues = s.queues := by
  unfold State.tryCombine
  repeat' first | intro _ | rw [foldl_queues] | rw [foldl_fst_queues] | rw [foldl_snd_queues] | split | simp
@[simp] theorem State.beginPartner_queues (s : State) : (s.beginPartner).queues = s.queues := by
  unfold State.beginPartner
  split
  · rfl
  · dsimp only
    repeat' split
    all_goals simp [State.when_queues, apply_ite State.queues, foldl_queues]
@[simp] theorem State.headerIfDue_queues (s : State) : s.headerIfDue.queues = s.queues := by
  unfold State.headerIfDue
  repeat' first | intro _ | rw [foldl_queues] | rw [foldl_fst_queues] | rw [foldl_snd_queues] | split | simp
@[simp] theorem State.drainOn_queues (s : State) : (s.drainOn).queues = s.queues := by
  unfold State.drainOn
  repeat' first | intro _ | rw [foldl_queues] | rw [foldl_fst_queues] | rw [foldl_snd_queues] | split | simp
@[simp] theorem State.placeRow_queues (s : State) (o : ObjS) (e : ObjE) (dense : Bytes) (row : Nat) (buf : Nat) : (s.placeRow o e dense row buf).queues = s.queues := by
  simp [State.placeRow]
@[simp] theorem State.placeRows_queues (s : State) (o : ObjS) (e : ObjE) (base : Bytes) (row : Nat) : (s.placeRows o e base row).queues = s.queues := by
  simp [State.placeRows]
@[simp] theorem State.applyLogs_queues (s : State) (o : ObjS) (x : ObjE) (l : List (Word × Nat)) (n : Nat) (b : Bytes) :
    (s.applyLogs o x l n b).queues = s.queues := by
  induction n generalizing s b with
  | zero => rfl
  | succ n ih =>
    unfold State.applyLogs
    dsimp only
    split
    · rfl
    · rw [ih]
      split <;> simp
@[simp] theorem State.placeObj_queues (s : State) (e : ObjE) (dense scales base logs : Bytes) (buf : Nat) :
    (s.placeObj e dense scales base logs buf).queues = s.queues := by
  unfold State.placeObj
  dsimp only
  rw [State.upSec_queues]
  split
  · rw [foldl_queues _ _ _ fun s o => State.applyLogs_queues s o e _ _ _, foldl_queues]
    intro s t
    repeat' first | split | simp
  · rw [foldl_queues]
    intro s t
    repeat' first | split | simp
@[simp] theorem State.placeImage_queues (s : State) (b copy : Bytes) : (s.placeImage b copy).queues = s.queues := by
  unfold State.placeImage
  repeat' first | intro _ | rw [foldl_queues] | rw [foldl_fst_queues] | rw [foldl_snd_queues] | split | simp [State.when_queues, apply_ite State.queues]
@[simp] theorem State.deriveAll_queues (s : State) : s.deriveAll.queues = s.queues := by
  unfold State.deriveAll
  repeat' first | intro _ | rw [foldl_queues] | rw [foldl_fst_queues] | rw [foldl_snd_queues] | split | simp
@[simp] theorem State.childRec_queues (s : State) (pos : Nat) (src : BitVec 17) (r : IntRec) : (s.childRec pos src r).queues = s.queues := by
  simp [State.childRec, apply_ite State.queues]
@[simp] theorem State.checkRatios_queues (s : State) : s.checkRatios.queues = s.queues := by
  unfold State.checkRatios
  repeat' first | intro _ | rw [foldl_queues] | rw [foldl_fst_queues] | rw [foldl_snd_queues] | split | simp
@[simp] theorem State.teardownFor_queues (s : State) (job : Word) : (s.teardownFor job).queues = s.queues := by
  simp [State.teardownFor, State.when_queues]
@[simp] theorem State.applyCeiling_queues (s : State) (m : EnvMsg) : (s.applyCeiling m).queues = s.queues := by
  simp [State.applyCeiling]
theorem State.envelopeMsg_queues (s : State) (b : Bytes) (t : State) (e : s.envelopeMsg b = some t) : t.queues = s.queues := by
  unfold State.envelopeMsg at e
  dsimp only at e
  repeat' split at e
  all_goals first | (cases e; done) | (cases e; simp)
@[simp] theorem State.applyCredit_queues (s : State) (o : Nat) (a : Nat) : (s.applyCredit o a).queues = s.queues := by
  simp [State.applyCredit]
@[simp] theorem State.creditDown_queues (s : State) (o a n : Nat) : (s.creditDown o a n).queues = s.queues := by
  unfold State.creditDown
  repeat' first | intro _ | rw [foldl_queues] | rw [foldl_fst_queues] | rw [foldl_snd_queues] | split | simp [State.when_queues, apply_ite State.queues]
@[simp] theorem State.tryCredit_queues (s : State) : s.tryCredit.queues = s.queues := by
  simp [State.tryCredit, apply_ite State.queues]
@[simp] theorem State.dropGrant_queues (s : State) : s.dropGrant.queues = s.queues := by
  simp [State.dropGrant, State.when_queues]
@[simp] theorem State.creditUp_queues (s : State) (pos : Nat) (round : Word) (o : Nat) (a : Nat) (n : Nat) : (s.creditUp pos round o a n).queues = s.queues := by
  simp [State.creditUp, apply_ite State.queues]
@[simp] theorem State.upRail_queues (s : State) (i : Fin 8) (f : Rail → Rail) : (s.upRail i f).queues = s.queues := by
  simp [State.upRail]
@[simp] theorem State.railOn_queues (s : State) (i : Fin 8) : (s.railOn i).queues = s.queues := by
  simp [State.railOn, State.when_queues, apply_ite State.queues]
@[simp] theorem State.powerUp_queues (s : State) : s.powerUp.queues = s.queues := by
  unfold State.powerUp
  rw [State.upPins_queues, foldl_queues]
  intro s i
  dsimp only
  rw [State.advanceTo_queues, State.railOn_queues, State.upPwr_queues]
@[simp] theorem State.sentOff_queues (s : State) (i : Fin 8) : (s.sentOff i).queues = s.queues := by
  simp [State.sentOff, State.when_queues, apply_ite State.queues]
@[simp] theorem State.railFault_queues (s : State) (i : Fin 8) (status : DWord) : (s.railFault i status).queues = s.queues := by
  simp [State.railFault, State.when_queues, apply_ite State.queues]
@[simp] theorem State.frameFailed_queues (s : State) (i : Fin 8) (counted : Bool) (status : DWord) : (s.frameFailed i counted status).queues = s.queues := by
  simp [State.frameFailed, apply_ite State.queues]
@[simp] theorem State.railDark_queues (s : State) (i : Fin 8) : (s.railDark i).queues = s.queues := by
  simp [State.railDark, apply_ite State.queues]
@[simp] theorem State.frameAcked_queues (s : State) (i : Fin 8) (k : Frame) (enable : Bool) (iRead : Nat) : (s.frameAcked i k enable iRead).queues = s.queues := by
  simp [State.frameAcked, State.when_queues, apply_ite State.queues]
@[simp] theorem State.frameReply_queues (s : State) (i : Fin 8) (k : Frame) (enable : Bool) (r : Option (BitVec 22)) : (s.frameReply i k enable r).queues = s.queues := by
  unfold State.frameReply
  split
  · simp
  · dsimp only
    split
    · simp
    · split <;> simp [State.when_queues, apply_ite State.queues]
@[simp] theorem State.requestOff_queues (s : State) (first : Option (Fin 8)) (fault : Bool) : (s.requestOff first fault).queues = s.queues := by
  simp [State.requestOff]
@[simp] theorem State.railWatch_queues (s : State) (i : Fin 8) : (s.railWatch i).queues = s.queues := by
  simp [State.railWatch, State.when_queues]
@[simp] theorem State.upDie_queues (s : State) (d : Fin 4) (f : DieP → DieP) : (s.upDie d f).queues = s.queues := by
  simp [State.upDie]
@[simp] theorem State.noteTemp_queues (s : State) (x : Sensor) (t : Nat) : (s.noteTemp x t).queues = s.queues := by
  simp [State.noteTemp]
@[simp] theorem State.hot_queues (s : State) (x : Sensor) (on : Bool) : (s.hot x on).queues = s.queues := by
  rfl
@[simp] theorem State.endPower_queues (s : State) (a : Asker) (index : DWord) (status detail : Nat) : (s.endPower a index status detail).queues = s.queues := by
  unfold State.endPower
  repeat' first | intro _ | rw [foldl_queues] | rw [foldl_fst_queues] | rw [foldl_snd_queues] | split | simp
@[simp] theorem State.refusePower_queues (s : State) (a : Asker) (index : DWord) : (s.refusePower a index).queues = s.queues := by
  simp [State.refusePower]
@[simp] theorem State.transitionDone_queues (s : State) : (s.transitionDone).queues = s.queues := by
  unfold State.transitionDone
  repeat' first | intro _ | rw [foldl_queues] | rw [foldl_fst_queues] | rw [foldl_snd_queues] | split | simp
theorem State.askPower_queues (s : State) (a : Asker) (c : Nat) (f : DWord → State → State) (h : ∀ i s, (f i s).queues = s.queues) :
    (s.askPower a c f).queues = s.queues := by
  unfold State.askPower
  repeat' first | split | rw [State.beginDesc_queues] | simp [h]
@[simp] theorem State.keepRunTimes_queues (s : State) : (s.keepRunTimes).queues = s.queues := by
  rfl
@[simp] theorem State.clearTelemetry_queues (s : State) : s.clearTelemetry.queues = s.queues := by
  simp [State.clearTelemetry]
@[simp] theorem State.trainStacks_queues (s : State) : (s.trainStacks).queues = s.queues := by
  rfl
@[simp] theorem State.rebaseIfDue_queues (s : State) : s.rebaseIfDue.queues = s.queues := by
  simp [State.rebaseIfDue, apply_ite State.queues]
@[simp] theorem State.toFlash_queues (s : State) (u : SecUnit) : (s.toFlash u).queues = s.queues := by
  unfold State.toFlash
  split
  · rfl
  · dsimp only
    split
    · rfl
    · simp [State.when_queues, apply_ite State.queues]
@[simp] theorem State.endBufferWait_queues (s : State) : (s.endBufferWait).queues = s.queues := by
  unfold State.endBufferWait
  repeat' first | intro _ | rw [foldl_queues] | rw [foldl_fst_queues] | rw [foldl_snd_queues] | split | simp
@[simp] theorem State.endSetup_queues (s : State) (status : Nat) (detail : Nat) (result : DWord) : (s.endSetup status detail result).queues = s.queues := by
  unfold State.endSetup
  repeat' first | intro _ | rw [foldl_queues] | rw [foldl_fst_queues] | rw [foldl_snd_queues] | split | simp
@[simp] theorem State.unbindRings_queues (s : State) : s.unbindRings.queues = s.queues := by
  simp [State.unbindRings]
@[simp] theorem State.failSetup_queues (s : State) (detail : Nat) : (s.failSetup detail).queues = s.queues := by
  unfold State.failSetup
  rw [State.upSec_queues, State.reEnv_queues] <;> simp
@[simp] theorem State.firstRun_queues (s : State) (step : DWord) : (s.firstRun step).queues = s.queues := by
  simp [State.firstRun]
@[simp] theorem State.startRestored_queues (s : State) : (s.startRestored).queues = s.queues := by
  unfold State.startRestored
  repeat' first | intro _ | rw [foldl_queues] | rw [foldl_fst_queues] | rw [foldl_snd_queues] | split | simp [State.when_queues, apply_ite State.queues]
@[simp] theorem State.releaseUnit_queues (s : State) : s.releaseUnit.queues = s.queues := by
  unfold State.releaseUnit
  dsimp only
  split <;> simp
@[simp] theorem State.endRestore_queues (s : State) : s.endRestore.queues = s.queues := by
  simp [State.endRestore, State.when_queues, apply_ite State.queues]
@[simp] theorem State.tryImage_queues (s : State) (b copy : Bytes) : (s.tryImage b copy).queues = s.queues := by
  simp [State.tryImage, State.when_queues, apply_ite State.queues]
@[simp] theorem State.releaseMember_queues (s : State) : s.releaseMember.queues = s.queues := by
  unfold State.releaseMember
  dsimp only
  simp [State.reEnv_queues, State.when_queues, apply_ite State.queues]
theorem State.hostWriteAt_queues (s : State) (b : Bool) (o : Nat) (f : State → State) (h : ∀ s, (f s).queues = s.queues) : (s.hostWriteAt b o f).queues = s.queues := by
  unfold State.hostWriteAt
  repeat' first | split | simp [h]
@[simp] theorem State.levelReset_queues (s : State) : s.levelReset.queues = s.queues := by
  simp [State.levelReset]
@[simp] theorem State.doorbell_queues (s : State) (r : Fin 64) (o : Nat) (v : Word) (f : Half → Ring → Ring) : (s.doorbell r o v f).queues = s.queues := by
  unfold State.doorbell
  rw [State.hostWriteAt_queues]
  intro s
  simp [State.when_queues, apply_ite State.queues]
@[simp] theorem State.ringOn_queues (s : State) (r : Fin 64) : (s.ringOn r).queues = s.queues := by
  simp [State.ringOn, apply_ite State.queues]
@[simp] theorem State.ringOff_queues (s : State) (r : Fin 64) : (s.ringOff r).queues = s.queues := by
  simp [State.ringOff]
theorem State.hostMsg_queues (s : State) (b : Bytes) (t : State) (e : s.hostMsg b = some t) : t.queues = s.queues := by
  unfold State.hostMsg at e
  dsimp only at e
  repeat' split at e
  all_goals first | exact State.envelopeMsg_queues _ _ _ e | (cases e; done) | (cases e; simp)
@[simp] theorem State.mbxDone_queues (s : State) (status : Nat) (detail : Nat) : (s.mbxDone status detail).queues = s.queues := by
  simp [State.mbxDone]
@[simp] theorem State.answer_queues (s : State) (a : Asker) (opcode : Nat) (status : Nat) (detail : Nat) : (s.answer a opcode status detail).queues = s.queues := by
  unfold State.answer
  repeat' first | intro _ | rw [foldl_queues] | rw [foldl_fst_queues] | rw [foldl_snd_queues] | split | simp
theorem State.askFrom_queues (s : State) (a : Asker) (o : Nat) (p : Desc → Bool) (f : State → State) (h : ∀ s, (f s).queues = s.queues) :
    (s.askFrom a o p f).queues = s.queues := by
  unfold State.askFrom
  repeat' first | split | rw [State.beginDesc_queues] | simp [h]
@[simp] theorem State.keepDeparts_queues (s : State) (b : Fabric) : (s.keepDeparts b).queues = s.queues := by
  simp [State.keepDeparts]
@[simp] theorem State.acceptLong_queues (s : State) (op : BigOp) (a : Asker) : (s.acceptLong op a).queues = s.queues := by
  unfold State.acceptLong
  repeat' first | intro _ | rw [foldl_queues] | rw [foldl_fst_queues] | rw [foldl_snd_queues] | split | simp
@[simp] theorem State.acceptUnbound_queues (s : State) (op : BigOp) (a : Asker) : (s.acceptUnbound op a).queues = s.queues := by
  simp [State.acceptUnbound, apply_ite State.queues]
@[simp] theorem State.openApproval_queues (s : State) (op : BigOp) (a : Asker) (digest : Bytes) : (s.openApproval op a digest).queues = s.queues := by
  simp [State.openApproval]
@[simp] theorem State.needApproval_queues (s : State) (op : BigOp) (a : Asker) (digest : Bytes) : (s.needApproval op a digest).queues = s.queues := by
  simp [State.needApproval, apply_ite State.queues]
@[simp] theorem State.approvedLong_queues (s : State) (op : BigOp) (a : Asker) (block : Option Bytes) : (s.approvedLong op a block).queues = s.queues := by
  unfold State.approvedLong
  repeat' first | intro _ | rw [foldl_queues] | rw [foldl_fst_queues] | rw [foldl_snd_queues] | split | simp [State.when_queues, apply_ite State.queues]
@[simp] theorem State.eraseFlash_queues (s : State) : s.eraseFlash.queues = s.queues := by
  simp [State.eraseFlash]
@[simp] theorem State.replaceMedia_queues (s : State) : s.replaceMedia.queues = s.queues := by
  simp [State.replaceMedia]
@[simp] theorem State.turnLife_queues (s : State) (t : Life) : (s.turnLife t).queues = s.queues := by
  simp [State.turnLife, State.when_queues]
@[simp] theorem State.finishChange_queues (s : State) : s.finishChange.queues = s.queues := by
  unfold State.finishChange
  repeat' first | intro _ | rw [foldl_queues] | rw [foldl_fst_queues] | rw [foldl_snd_queues] | split | simp [State.when_queues, apply_ite State.queues]
@[simp] theorem State.writeSlot_queues (s : State) (p : Bytes) : (s.writeSlot p).queues = s.queues := by
  simp [State.writeSlot]
@[simp] theorem State.endLong_queues (s : State) (a : Asker) (status : Nat) : (s.endLong a status).queues = s.queues := by
  unfold State.endLong
  repeat' first | intro _ | rw [foldl_queues] | rw [foldl_fst_queues] | rw [foldl_snd_queues] | split | simp [State.when_queues, apply_ite State.queues]
theorem State.mailbox_queues (s : State) (f : State → State) (h : ∀ s, (f s).queues = s.queues) : (s.mailbox f).queues = s.queues := by
  unfold State.mailbox
  repeat' first | split | simp [h]
@[simp] theorem State.closeMissing_queues (s : State) : s.closeMissing.queues = s.queues := by
  unfold State.closeMissing
  repeat' first | intro _ | rw [foldl_queues] | rw [foldl_fst_queues] | rw [foldl_snd_queues] | split | simp
@[simp] theorem State.mbxActivate_queues (s : State) : s.mbxActivate.queues = s.queues := by
  unfold State.mbxActivate
  rw [State.mailbox_queues]
  intro s
  dsimp only
  repeat' first | split | simp
@[simp] theorem State.mbxCancel_queues (s : State) : s.mbxCancel.queues = s.queues := by
  unfold State.mbxCancel
  rw [State.mailbox_queues]
  intro s
  repeat' first | split | simp
@[simp] theorem State.performOp_queues (s : State) (op : BigOp) (a : Asker) : (s.performOp op a).queues = s.queues := by
  unfold State.performOp
  repeat' first | intro _ | rw [foldl_queues] | rw [foldl_fst_queues] | rw [foldl_snd_queues] | split | simp
@[simp] theorem State.answerApprove_queues (s : State) (board : Bool) (status : Nat) : (s.answerApprove board status).queues = s.queues := by
  simp [State.answerApprove, apply_ite State.queues]
@[simp] theorem State.takeApproval_queues (s : State) (board : Bool) (msg : Bytes) : (s.takeApproval board msg).queues = s.queues := by
  unfold State.takeApproval
  repeat' first | intro _ | rw [foldl_queues] | rw [foldl_fst_queues] | rw [foldl_snd_queues] | split | simp [State.when_queues, apply_ite State.queues]
theorem State.askBoard_queues (s : State) (f : State → State) (h : ∀ s, (f s).queues = s.queues) : (s.askBoard f).queues = s.queues := by
  unfold State.askBoard
  repeat' first | split | simp [h]
@[simp] theorem State.answerSpdm_queues (s : State) (slot recovery : Bool) : (s.answerSpdm slot recovery).queues = s.queues := by
  rfl
@[simp] theorem State.goDown_queues (s : State) : s.goDown.queues = s.queues := by
  simp [State.goDown]
@[simp] theorem State.trainLink_queues (s : State) : s.trainLink.queues = s.queues := by
  simp [State.trainLink, apply_ite State.queues]
@[simp] theorem State.selfTest_queues (s : State) (o : StartObs) : (s.selfTest o).queues = s.queues := by
  simp [State.selfTest]
@[simp] theorem State.trainUnits_queues (s : State) (o : StartObs) (ver : Word) (warm : Bool) : (s.trainUnits o ver warm).queues = s.queues := by
  rfl
@[simp] theorem State.wipeAll_queues (s : State) : s.wipeAll.queues = s.queues := by
  unfold State.wipeAll
  dsimp only
  rw [State.upTiers_queues, foldl_snd_queues]
  intro x a
  rfl
@[simp] theorem State.startDone_queues (s : State) (slot : Bool) (recovery : Bool) (warm : Bool) : (s.startDone slot recovery warm).queues = s.queues := by
  simp [State.startDone, apply_ite State.queues]
@[simp] theorem State.startLate_queues (s : State) (st : StartS) (allWarm : Bool) : (s.startLate st allWarm).queues = s.queues := by
  simp [State.startLate]
theorem State.beginJob_queues (s : State) (r : Fin 64) (op : Nat) (k : Desc → State → State) (h : ∀ d s, (k d s).queues = s.queues) :
    (s.beginJob r op k).queues = s.queues := by
  unfold State.beginJob
  rw [State.beginDesc_queues]
  intro d s
  repeat' first | split | simp [h]
@[simp] theorem State.takeSize_queues (s : State) (x : StepSizeRec) : (s.takeSize x).queues = s.queues := by
  simp [State.takeSize, apply_ite State.queues]
@[simp] theorem State.exportBytes_queues (s : State) (step : DWord) (i : FlashImg) (off : Nat) (len : Nat) (addr : DWord) : (s.exportBytes step i off len addr).queues = s.queues := by
  simp [State.exportBytes]
@[simp] theorem State.form_queues (s : State) (p : JobParams) (old : State) : (s.form p old).queues = s.queues := by
  unfold State.form
  repeat' first | intro _ | rw [foldl_queues] | rw [foldl_fst_queues] | rw [foldl_snd_queues] | rw [State.reEnv_queues] | rw [State.checked_queues] | rw [State.when_queues] | split | simp [apply_ite State.queues]
@[simp] theorem State.beginRestore_queues (s : State) (own : Option Bytes) (lost : List (Word × Nat)) (p : JobParams) :
    (s.beginRestore own lost p).queues = s.queues := by
  unfold State.beginRestore
  dsimp only
  rw [apply_ite State.queues, State.endRestore_queues, ite_self]
  cases own <;> simp
@[simp] theorem State.offerHandover_queues (s : State) (h : List (BitVec 17) × Bytes) (wait : Bool) : (s.offerHandover h wait).queues = s.queues := by
  rfl
@[simp] theorem State.setupDeparting_queues (s : State) (p : JobParams) : (s.setupDeparting p).queues = s.queues := by
  simp [State.setupDeparting, apply_ite State.queues]
@[simp] theorem State.setPortEn_queues (s : State) (v : Word) : (s.setPortEn v).queues = s.queues := by
  unfold State.setPortEn
  repeat' first | intro _ | rw [foldl_queues] | rw [foldl_fst_queues] | rw [foldl_snd_queues] | split | simp
@[simp] theorem State.setLock_queues (s : State) : s.setLock.queues = s.queues := by
  unfold State.setLock
  repeat' first | intro _ | rw [foldl_queues] | rw [foldl_fst_queues] | rw [foldl_snd_queues] | split | simp [State.when_queues, apply_ite State.queues]
@[simp] theorem State.setTimeCtl_queues (s : State) (v : Nat) : (s.setTimeCtl v).queues = s.queues := by
  simp [State.setTimeCtl, State.when_queues]
@[simp] theorem State.setSb_queues (s : State) (v : Nat) : (s.setSb v).queues = s.queues := by
  simp [State.setSb]
@[simp] theorem State.setMbxCmd_queues (s : State) (v : Nat) : (s.setMbxCmd v).queues = s.queues := by
  unfold State.setMbxCmd
  repeat' first | split | rw [State.mailbox_queues] | intro _ | simp
@[simp] theorem State.ringSetup_queues (s : State) (r : Fin 64) (d : Bool) (f : Ring → Ring) : (s.ringSetup r d f).1.queues = s.queues := by
  unfold State.ringSetup
  split <;> simp
@[simp] theorem State.store_queues (s : State) (g : Reg) (v : Nat) (w : Nat) : (s.store g v w).queues = s.queues := by
  unfold State.store
  repeat' first | intro _ | rw [foldl_queues] | rw [foldl_fst_queues] | rw [foldl_snd_queues] | split | simp [State.when_queues, apply_ite State.queues]
@[simp] theorem State.writeReg_queues (s : State) (g : Reg) (w : Nat) : (s.writeReg g w).1.queues = s.queues := by
  unfold State.writeReg
  dsimp only
  repeat' first | split | simp
@[simp] theorem State.writeWords_queues (o d n : Nat) (s : State) : (State.writeWords o d n s).1.queues = s.queues := by
  induction n generalizing o d s with
  | zero => rfl
  | succ n ih =>
    unfold State.writeWords
    dsimp only
    rw [ih]
    repeat' first | split | simp
@[simp] theorem State.writeBar0_queues (s : State) (off : Nat) (data : Nat) (words : Nat) : (s.writeBar0 off data words).queues = s.queues := by
  simp [State.writeBar0, State.when_queues, apply_ite State.queues]
@[simp] theorem State.writeBar2_queues (s : State) (o d : Nat) : (s.writeBar2 o d).queues = s.queues := by
  unfold State.writeBar2
  dsimp only
  repeat' first | split | rw [State.hostWriteAt_queues] | intro _ | simp
@[simp] theorem State.withFetchWord_queues (s : State) (nbits : Nat) (w : Nat) : (s.withFetchWord nbits w).queues = s.queues := by
  unfold State.withFetchWord
  repeat' first | intro _ | rw [foldl_queues] | rw [foldl_fst_queues] | rw [foldl_snd_queues] | split | simp
/-! ### One queue (R63 to R66) -/

theorem HsQueue.write_ok (q : HsQueue) (w : QWord) (h : q.Ok) : (q.write w).Ok := by
  unfold HsQueue.Ok HsQueue.write at *
  split <;> simp_all [HsQueue.canWrite] <;> omega
theorem HsQueue.show_ok (q : HsQueue) (h : q.Ok) : q.show.Ok := by
  unfold HsQueue.Ok HsQueue.show at *
  split <;> simp_all
theorem HsQueue.read_ok (q : HsQueue) (h : q.Ok) : q.read.Ok := by
  unfold HsQueue.Ok HsQueue.read at *
  split <;> simp_all <;> omega
theorem HsQueue.giveBack_ok (q : HsQueue) (h : q.Ok) : q.giveBack.Ok := by
  unfold HsQueue.Ok HsQueue.giveBack at *
  simp_all
  omega
theorem HsQueue.reset_ok : HsQueue.reset.Ok := by simp [HsQueue.Ok, HsQueue.reset]

theorem State.upQueue_ok (s : State) (i : Fin 7680) (f : HsQueue → HsQueue) (h : s.QueuesOk) (hf : (f s.queues[i]).Ok) : (s.upQueue i f).QueuesOk := by
  intro j
  simp only [State.upQueue]
  by_cases e : j = i
  · subst e
    simpa [updV] using hf
  · simpa [updV, Vector.getElem_set, Fin.val_ne_of_ne (Ne.symm e)] using h j
theorem HsQueue.readRx_ok (q : HsQueue) (h : q.Ok) : q.readRx.Ok := by
  unfold HsQueue.Ok HsQueue.readRx at *
  split <;> simp_all <;> omega

/-- Taking the front word of a queue, or emptying it, keeps every queue within its entries. -/
theorem State.consume_ok (s : State) (i : Fin 7680) (h : s.QueuesOk) : (s.consume i).QueuesOk := by
  unfold State.consume
  split
  · exact s.upQueue_ok i _ h (HsQueue.read_ok _ (h i))
  · split
    · intro j
      simpa using s.upQueue_ok i _ h (HsQueue.readRx_ok _ (h i)) j
    · exact h
theorem State.emptyQueue_ok (s : State) (i : Fin 7680) (h : s.QueuesOk) : (s.emptyQueue i).QueuesOk := by
  unfold State.emptyQueue
  dsimp only
  split
  · exact s.upQueue_ok i _ h HsQueue.reset_ok
  · intro j
    simpa using s.upQueue_ok i _ h HsQueue.reset_ok j

end Sys2Proof.Machine
end

