-- ==== Sys2Proof/Laws/KeepRegs.lean ====
section
/-! SUPPORT. What leaves the identification registers and the set-up lock alone: one lemma for each shared operation but those that write a register or
begin a start. -/
namespace Sys2Proof.Machine

set_option linter.unusedSimpArgs false
theorem foldl_regs {α : Type} (f : State → α → State) (l : List α) (s : State) (h : ∀ s a, (f s a).regs = s.regs) :
    (l.foldl f s).regs = s.regs := by
  induction l generalizing s with
  | nil => rfl
  | cons a l ih => rw [List.foldl_cons, ih, h]
theorem foldl_fst_regs {α β : Type} (f : State × β → α → State × β) (l : List α) (x : State × β) (h : ∀ x a, (f x a).1.regs = x.1.regs) :
    (l.foldl f x).1.regs = x.1.regs := by
  induction l generalizing x with
  | nil => rfl
  | cons a l ih => rw [List.foldl_cons, ih, h]
theorem foldl_snd_regs {α β : Type} (f : β × State → α → β × State) (l : List α) (x : β × State) (h : ∀ x a, (f x a).2.regs = x.2.regs) :
    (l.foldl f x).2.regs = x.2.regs := by
  induction l generalizing x with
  | nil => rfl
  | cons a l ih => rw [List.foldl_cons, ih, h]
theorem State.when_regs (s : State) (b : Bool) (f : State → State) : (s.when b f).regs = if b then (f s).regs else s.regs := by
  cases b <;> rfl

@[simp] theorem State.dropShares_regs (s : State) : (s.dropShares).regs = s.regs := by
  simp [State.dropShares, State.when_regs, apply_ite State.regs]
@[simp] theorem State.pulseSkip_regs (s : State) : (s.pulseSkip).regs = s.regs := by
  simp [State.pulseSkip, State.when_regs, apply_ite State.regs]
@[simp] theorem State.askMove_regs (s : State) (obj : Word) (cause : MoveCause) : (s.askMove obj cause).regs = s.regs := by
  unfold State.askMove
  repeat' first | intro _ | rw [foldl_regs] | rw [foldl_fst_regs] | rw [foldl_snd_regs] | split | simp [State.when_regs, apply_ite State.regs]
@[simp] theorem State.bindRing_regs (s : State) (r : Fin 64) (d : Desc) (jobId : Option Word) : (s.bindRing r d jobId).regs = s.regs := by
  unfold State.bindRing
  repeat' first | intro _ | rw [foldl_regs] | rw [foldl_fst_regs] | rw [foldl_snd_regs] | split | simp [State.when_regs, apply_ite State.regs]
@[simp] theorem State.holdRing_regs (s : State) (a : Asker) (on : Bool) : (s.holdRing a on).regs = s.regs := by
  unfold State.holdRing
  repeat' first | intro _ | rw [foldl_regs] | rw [foldl_fst_regs] | rw [foldl_snd_regs] | split | simp [State.when_regs, apply_ite State.regs]
@[simp] theorem State.shiftTimes_regs (s : State) : (s.shiftTimes).regs = s.regs := by
  simp [State.shiftTimes, State.when_regs, apply_ite State.regs]
@[simp] theorem State.complete_regs (s : State) (r : Fin 64) (index : DWord) (status : Nat) (detail : Nat) (result : DWord) : (s.complete r index status detail result).regs = s.regs := by
  simp [State.complete]
theorem State.beginDesc_regs (s : State) (r : Fin 64) (op : Nat) (k : Desc → State → State) (h : ∀ d s, (k d s).regs = s.regs) :
    (s.beginDesc r op k).regs = s.regs := by
  unfold State.beginDesc
  repeat' first | split | simp [h]
@[simp] theorem State.eventFor_regs (s : State) (job : Word) (code : Nat) (arg0 : DWord) (arg1 : DWord) : (s.eventFor job code arg0 arg1).regs = s.regs := by
  simp [State.eventFor]
@[simp] theorem State.event_regs (s : State) (code : Nat) (arg0 : DWord) (arg1 : DWord) : (s.event code arg0 arg1).regs = s.regs := by
  simp [State.event]
@[simp] theorem State.ringFault_regs (s : State) (r : Fin 64) (cause : Nat) : (s.ringFault r cause).regs = s.regs := by
  simp [State.ringFault]
@[simp] theorem State.actDoorbells_regs (s : State) (r : Fin 64) : (s.actDoorbells r).regs = s.regs := by
  unfold State.actDoorbells
  repeat' first | intro _ | rw [foldl_regs] | rw [foldl_fst_regs] | rw [foldl_snd_regs] | split | simp
@[simp] theorem State.advise_regs (s : State) (cause : Nat) : (s.advise cause).regs = s.regs := by
  simp [State.advise]
@[simp] theorem State.sendPkt_regs (s : State) (k : Pkt) : (s.sendPkt k).regs = s.regs := by
  simp [State.sendPkt, apply_ite State.regs]
@[simp] theorem State.respond_regs (s : State) (k : Pkt) (status : Nat) (detail : Nat) (data : Bytes) : (s.respond k status detail data).regs = s.regs := by
  simp [State.respond]
@[simp] theorem State.jobMsg_regs (s : State) (dst : BitVec 17) (mtype : Nat) (body : Bytes) : (s.jobMsg dst mtype body).regs = s.regs := by
  simp [State.jobMsg]
@[simp] theorem State.fmMsgOut_regs (s : State) (mtype : Nat) (job : Word) (body : Bytes) : (s.fmMsgOut mtype job body).regs = s.regs := by
  simp [State.fmMsgOut, apply_ite State.regs]
@[simp] theorem State.linkMsg_regs (s : State) (p : Fin 32) (mtype : Nat) (body : Bytes) : (s.linkMsg p mtype body).regs = s.regs := by
  simp [State.linkMsg]
@[simp] theorem State.deadSuspect_regs (s : State) (job : Word) (target : BitVec 17) (seq : Word) (op : Nat) : (s.deadSuspect job target seq op).regs = s.regs := by
  simp [State.deadSuspect]
@[simp] theorem State.assertFault_regs (s : State) (c : FaultCause) : (s.assertFault c).regs = s.regs := by
  simp [State.assertFault]
@[simp] theorem State.logFault_regs (s : State) (kind : Nat) (result : Byte) : (s.logFault kind result).regs = s.regs := by
  simp [State.logFault, State.when_regs, apply_ite State.regs]
@[simp] theorem State.thermEvent_regs (s : State) (x : Sensor) (t : Nat) : (s.thermEvent x t).regs = s.regs := by
  simp [State.thermEvent]
@[simp] theorem State.noteBind_regs (s : State) : (s.noteBind).regs = s.regs := by
  simp [State.noteBind, State.when_regs]
@[simp] theorem State.ceilingStep_regs (s : State) : s.ceilingStep.regs = s.regs := by
  simp [State.ceilingStep, apply_ite State.regs]
theorem State.reEnv_regs (s : State) (f : State → State) (h : ∀ s, (f s).regs = s.regs) : (s.reEnv f).regs = s.regs := by
  simp [State.reEnv, h]
@[simp] theorem State.changeEnv_regs (s : State) (f : Power → Power) : (s.changeEnv f).regs = s.regs := by
  unfold State.changeEnv
  repeat' first | intro _ | rw [foldl_regs] | rw [foldl_fst_regs] | rw [foldl_snd_regs] | rw [State.reEnv_regs] | rw [State.checked_regs] | rw [State.when_regs] | split | simp [apply_ite State.regs]
@[simp] theorem State.grant_regs (s : State) : s.grant.2.regs = s.regs := by
  unfold State.grant
  repeat' first | split | simp
@[simp] theorem State.hostWrite_regs (s : State) (addr : DWord) (bs : Bytes) : (s.hostWrite addr bs).regs = s.regs := by
  simp [State.hostWrite, State.when_regs]
@[simp] theorem State.returnRecord_regs (s : State) (rc : StepRecord) : (s.returnRecord rc).regs = s.regs := by
  unfold State.returnRecord
  repeat' first | intro _ | rw [foldl_regs] | rw [foldl_fst_regs] | rw [foldl_snd_regs] | split | simp
@[simp] theorem State.noteWait_regs (s : State) : s.noteWait.regs = s.regs := by
  unfold State.noteWait
  repeat' first | intro _ | rw [foldl_regs] | rw [foldl_fst_regs] | rw [foldl_snd_regs] | split | simp
@[simp] theorem State.holdCheck_regs (s : State) : s.holdCheck.regs = s.regs := by
  unfold State.holdCheck
  repeat' first | intro _ | rw [foldl_regs] | rw [foldl_fst_regs] | rw [foldl_snd_regs] | split | simp
@[simp] theorem State.noteStep_regs (s : State) : s.noteStep.regs = s.regs := by
  simp [State.noteStep]
@[simp] theorem State.clearRun_regs (s : State) : s.clearRun.regs = s.regs := by
  simp [State.clearRun]
@[simp] theorem State.stopRegions_regs (s : State) : s.stopRegions.regs = s.regs := by
  simp [State.stopRegions]
@[simp] theorem State.endJobDescs_regs (s : State) : s.endJobDescs.regs = s.regs := by
  unfold State.endJobDescs
  repeat' first | intro _ | rw [foldl_regs] | rw [foldl_fst_regs] | rw [foldl_snd_regs] | split | simp
@[simp] theorem State.tearDown_regs (s : State) : (s.tearDown).regs = s.regs := by
  unfold State.tearDown
  repeat' first | intro _ | rw [foldl_regs] | rw [foldl_fst_regs] | rw [foldl_snd_regs] | rw [State.reEnv_regs] | rw [State.checked_regs] | rw [State.when_regs] | split | simp [apply_ite State.regs]
@[simp] theorem State.leaveJobs_regs (s : State) (dark : Bool) : (s.leaveJobs dark).regs = s.regs := by
  simp [State.leaveJobs, State.when_regs, apply_ite State.regs]
@[simp] theorem State.retarget_regs (s : State) (d : Fin 4) : (s.retarget d).regs = s.regs := by
  simp [State.retarget, apply_ite State.regs]
@[simp] theorem State.refreqCluster_regs (s : State) (c : Fin 64) : (s.refreqCluster c).regs = s.regs := by
  simp [State.refreqCluster, apply_ite State.regs]
@[simp] theorem State.refreq_regs (s : State) : s.refreq.regs = s.regs := by
  unfold State.refreq
  repeat' first | intro _ | rw [foldl_regs] | rw [foldl_fst_regs] | rw [foldl_snd_regs] | split | simp
@[simp] theorem State.settleGov_regs (s : State) : (s.settleGov).regs = s.regs := by
  rfl
@[simp] theorem State.raiseIbi_regs (s : State) : s.raiseIbi.regs = s.regs := by
  simp [State.raiseIbi]
@[simp] theorem State.mctp_regs (s : State) (m : MctpOut) : (s.mctp m).regs = s.regs := by
  simp [State.mctp]
@[simp] theorem State.cutLong_regs (s : State) : s.cutLong.regs = s.regs := by
  unfold State.cutLong
  repeat' first | intro _ | rw [foldl_regs] | rw [foldl_fst_regs] | rw [foldl_snd_regs] | split | simp
@[simp] theorem State.failStart_regs (s : State) : (s.failStart).regs = s.regs := by
  unfold State.failStart
  repeat' first | intro _ | rw [foldl_regs] | rw [foldl_fst_regs] | rw [foldl_snd_regs] | split | simp [State.when_regs, apply_ite State.regs]
@[simp] theorem State.bringUpPorts_regs (s : State) : s.bringUpPorts.regs = s.regs := by
  simp [State.bringUpPorts]
@[simp] theorem State.armWatchdog_regs (s : State) : s.armWatchdog.regs = s.regs := by
  simp [State.armWatchdog]
@[simp] theorem State.deviceReady_regs (s : State) (path : Nat) : (s.deviceReady path).regs = s.regs := by
  simp [State.deviceReady]
@[simp] theorem State.govBeacon_regs (s : State) : (s.govBeacon).regs = s.regs := by
  rfl
@[simp] theorem State.clusterBeacon_regs (s : State) (c : Fin 64) (obs : List ClusterObs) (whole : Bool) : (s.clusterBeacon c obs whole).regs = s.regs := by
  simp [State.clusterBeacon, apply_ite State.regs]
@[simp] theorem State.watchdogAdvance_regs (s : State) (beacons : Nat) : (s.watchdogAdvance beacons).regs = s.regs := by
  simp [State.watchdogAdvance, apply_ite State.regs]
@[simp] theorem State.pulseRise_regs (s : State) : (s.pulseRise).regs = s.regs := by
  simp [State.pulseRise, State.when_regs, apply_ite State.regs]
@[simp] theorem State.waitSample_regs (s : State) : s.waitSample.regs = s.regs := by
  simp [State.waitSample]
@[simp] theorem State.unlock_regs (s : State) (port : BitVec 5) (backup : Bool) : (s.unlock port backup).regs = s.regs := by
  simp [State.unlock, State.when_regs, apply_ite State.regs]
@[simp] theorem State.loseUpstream_regs (s : State) : s.loseUpstream.regs = s.regs := by
  simp [State.loseUpstream, apply_ite State.regs]
@[simp] theorem State.consume_regs (s : State) (q : Fin 7680) : (s.consume q).regs = s.regs := by
  unfold State.consume
  repeat' first | intro _ | rw [foldl_regs] | rw [foldl_fst_regs] | rw [foldl_snd_regs] | split | simp
@[simp] theorem State.emptyQueue_regs (s : State) (q : Fin 7680) : (s.emptyQueue q).regs = s.regs := by
  unfold State.emptyQueue
  repeat' first | intro _ | rw [foldl_regs] | rw [foldl_fst_regs] | rw [foldl_snd_regs] | split | simp
@[simp] theorem State.upRegion_regs (s : State) (i : Nat) (f : RegionS → RegionS) : (s.upRegion i f).regs = s.regs := by
  simp [State.upRegion]
@[simp] theorem State.attachOne_regs (s : State) (i : Nat) : (s.attachOne i).regs = s.regs := by
  simp [State.attachOne]
@[simp] theorem State.attachAll_regs (s : State) : s.attachAll.regs = s.regs := by
  unfold State.attachAll
  repeat' first | intro _ | rw [foldl_regs] | rw [foldl_fst_regs] | rw [foldl_snd_regs] | split | simp
@[simp] theorem State.upTile_regs (s : State) (c : Fin 1024) (seq : Word) (slot : Nat) (g : QTile → QTile) : (s.upTile c seq slot g).regs = s.regs := by
  rfl
@[simp] theorem State.takeWord_regs (s : State) (i : Nat) (w : QWord) : (s.takeWord i w).regs = s.regs := by
  unfold State.takeWord
  repeat' first | intro _ | rw [foldl_regs] | rw [foldl_fst_regs] | rw [foldl_snd_regs] | split | simp [State.when_regs, apply_ite State.regs]
@[simp] theorem State.flushCross_regs (s : State) (i : Nat) : (s.flushCross i).regs = s.regs := by
  unfold State.flushCross
  repeat' first | intro _ | rw [foldl_regs] | rw [foldl_fst_regs] | rw [foldl_snd_regs] | split | simp
@[simp] theorem State.clockBound_regs (s : State) : s.clockBound.regs = s.regs := by
  unfold State.clockBound
  repeat' first | intro _ | rw [foldl_regs] | rw [foldl_fst_regs] | rw [foldl_snd_regs] | split | simp
@[simp] theorem State.placeFrame_regs (s : State) (i : Nat) (f : Bytes) : (s.placeFrame i f).regs = s.regs := by
  unfold State.placeFrame
  repeat' first | intro _ | rw [foldl_regs] | rw [foldl_fst_regs] | rw [foldl_snd_regs] | split | simp
@[simp] theorem State.placeFrames_regs (s : State) (i : Nat) : (s.placeFrames i).regs = s.regs := by
  unfold State.placeFrames
  repeat' first | intro _ | rw [foldl_regs] | rw [foldl_fst_regs] | rw [foldl_snd_regs] | split | simp
@[simp] theorem State.askFrames_regs (s : State) (i : Nat) : (s.askFrames i).regs = s.regs := by
  rfl
@[simp] theorem State.grantOne_regs (s : State) : s.grantOne.regs = s.regs := by
  have g := State.grant_regs s
  unfold State.grantOne
  split
  · rename_i e
    rw [e] at g
    simpa using g
  · rename_i e
    rw [e] at g
    exact g
@[simp] theorem State.applyBinding_regs (s : State) (b : Binding) : (s.applyBinding b).regs = s.regs := by
  unfold State.applyBinding
  repeat' first | intro _ | rw [foldl_regs] | rw [foldl_fst_regs] | rw [foldl_snd_regs] | split | simp
@[simp] theorem State.renameAll_regs (b s : State) : (State.renameAll b s).regs = s.regs := by
  unfold State.renameAll
  repeat' first | intro _ | rw [foldl_regs] | split | simp
@[simp] theorem State.moveRegion_regs (s : State) (i : Nat) (cl : Fin 64) (sym : Nat) : (s.moveRegion i cl sym).regs = s.regs := by
  unfold State.moveRegion
  repeat' first | intro _ | rw [foldl_regs] | rw [foldl_fst_regs] | rw [foldl_snd_regs] | split | simp
@[simp] theorem State.cellFault_regs (s : State) (c : Fin 1024) (cause : Nat) : (s.cellFault c cause).regs = s.regs := by
  simp [State.cellFault]
@[simp] theorem State.programFault_regs (s : State) (c : Fin 1024) : (s.programFault c).regs = s.regs := by
  simp [State.programFault]
@[simp] theorem State.nestFault_regs (s : State) (c : Fin 1024) : (s.nestFault c).regs = s.regs := by
  simp [State.nestFault]
@[simp] theorem State.spoilStep_regs (s : State) (c : Fin 1024) : (s.spoilStep c).regs = s.regs := by
  rfl
@[simp] theorem State.reportSpoil_regs (s : State) (c : Fin 1024) (bad : Bool) : (s.reportSpoil c bad).regs = s.regs := by
  simp [State.reportSpoil, State.when_regs]
@[simp] theorem State.nestWaits_regs (s : State) (c : Fin 1024) : (s.nestWaits c).regs = s.regs := by
  simp [State.nestWaits]
@[simp] theorem State.addWait_regs (s : State) (c : Fin 1024) : (s.addWait c).regs = s.regs := by
  simp [State.addWait]
@[simp] theorem State.returnCredit_regs (s : State) (c : Fin 1024) (x : Nat × Word) : (s.returnCredit c x).regs = s.regs := by
  unfold State.returnCredit
  repeat' first | intro _ | rw [foldl_regs] | rw [foldl_fst_regs] | rw [foldl_snd_regs] | split | simp [State.when_regs, apply_ite State.regs]
@[simp] theorem State.freeCredits_regs (s : State) (c : Fin 1024) : (s.freeCredits c).regs = s.regs := by
  unfold State.freeCredits
  repeat' first | intro _ | rw [foldl_regs] | rw [foldl_fst_regs] | rw [foldl_snd_regs] | split | simp
@[simp] theorem State.pressure_regs (s : State) (c : Fin 1024) : (s.pressure c).regs = s.regs := by
  simp [State.pressure, apply_ite State.regs]
@[simp] theorem State.releaseTiles_regs (s : State) (c : Fin 1024) : (s.releaseTiles c).regs = s.regs := by
  simp [State.releaseTiles]
@[simp] theorem State.releaseSlot_regs (s : State) (c : Fin 1024) (r : RingSlot) : (s.releaseSlot c r).regs = s.regs := by
  simp [State.releaseSlot, apply_ite State.regs]
@[simp] theorem State.beginNest_regs (s : State) (c : Fin 1024) (a : StartArgs) : (s.beginNest c a).regs = s.regs := by
  unfold State.beginNest
  repeat' first | intro _ | rw [foldl_regs] | rw [foldl_fst_regs] | rw [foldl_snd_regs] | split | simp [State.when_regs, apply_ite State.regs]
@[simp] theorem State.issued_regs (s : State) (c : Fin 1024) : (s.issued c).regs = s.regs := by
  unfold State.issued
  repeat' first | intro _ | rw [foldl_regs] | rw [foldl_fst_regs] | rw [foldl_snd_regs] | split | simp
@[simp] theorem State.doLoad_regs (s : State) (c : Fin 1024) (slot : BitVec 3) : (s.doLoad c slot).regs = s.regs := by
  simp [State.doLoad]
@[simp] theorem State.doSwitch_regs (s : State) (c : Fin 1024) : (s.doSwitch c).regs = s.regs := by
  simp [State.doSwitch, apply_ite State.regs]
@[simp] theorem State.doStart_regs (s : State) (c : Fin 1024) (a : BitVec 15) (b : BitVec 15) : (s.doStart c a b).regs = s.regs := by
  simp [State.doStart, apply_ite State.regs]
@[simp] theorem State.retry_regs (s : State) (c : Fin 1024) : (s.retry c).regs = s.regs := by
  unfold State.retry
  repeat' first | intro _ | rw [foldl_regs] | rw [foldl_fst_regs] | rw [foldl_snd_regs] | split | simp
@[simp] theorem State.noteProduced_regs (s : State) (f : Bytes) (o : OutTile) : (s.noteProduced f o).regs = s.regs := by
  unfold State.noteProduced
  repeat' first | intro _ | rw [foldl_regs] | rw [foldl_fst_regs] | rw [foldl_snd_regs] | split | simp
@[simp] theorem State.land_regs (s : State) (c : Fin 1024) : (s.land c).regs = s.regs := by
  unfold State.land
  repeat' first | intro _ | rw [foldl_regs] | rw [foldl_fst_regs] | rw [foldl_snd_regs] | split | simp [State.when_regs, apply_ite State.regs]
@[simp] theorem State.laneOut_regs (s : State) (c : Fin 1024) (n : Nest) (o : Nat) (rows : List RowOut) (g : Nest → Nest) : (s.laneOut c n o rows g).regs = s.regs := by
  simp [State.laneOut, apply_ite State.regs]
@[simp] theorem State.takeTile_regs (s : State) (c : Fin 1024) (d : Fin 1024) (e : Word) (t : QTile) : (s.takeTile c d e t).regs = s.regs := by
  simp [State.takeTile, apply_ite State.regs]
@[simp] theorem State.countDiscard_regs (s : State) (p : Fin 32) : (s.countDiscard p).regs = s.regs := by
  simp [State.countDiscard]
@[simp] theorem State.respondAll_regs (s : State) (k : Pkt) (status : Nat) (detail : Nat) : (s.respondAll k status detail).regs = s.regs := by
  unfold State.respondAll
  repeat' first | intro _ | rw [foldl_regs] | rw [foldl_fst_regs] | rw [foldl_snd_regs] | split | simp
@[simp] theorem State.putAt_regs (s : State) (q : Fin 32) (sent : Bool) (k : Pkt) (tag : Nat) : (s.putAt q sent k tag).regs = s.regs := by
  simp [State.putAt, apply_ite State.regs]
@[simp] theorem State.resend_regs (s : State) (p : Fin 32) (sent : Bool) (x : Pkt × Nat) : (s.resend p sent x).regs = s.regs := by
  unfold State.resend
  repeat' first | intro _ | rw [foldl_regs] | rw [foldl_fst_regs] | rw [foldl_snd_regs] | split | simp
@[simp] theorem State.vacate_regs (s : State) (p : Fin 32) : (s.vacate p).regs = s.regs := by
  unfold State.vacate
  repeat' first | intro _ | rw [foldl_regs] | rw [foldl_fst_regs] | rw [foldl_snd_regs] | split | simp
@[simp] theorem State.portDown_regs (s : State) (p : Fin 32) (reason : Nat) : (s.portDown p reason).regs = s.regs := by
  simp [State.portDown]
@[simp] theorem State.loseP_regs (s : State) (p : Fin 32) (planned : Bool) (reason : Nat) : (s.loseP p planned reason).regs = s.regs := by
  simp [State.loseP, State.when_regs]
@[simp] theorem State.departPorts_regs (s : State) (st : PortSt) : (s.departPorts st).regs = s.regs := by
  simp [State.departPorts]
@[simp] theorem State.retrain_regs (s : State) (p : Fin 32) : (s.retrain p).regs = s.regs := by
  simp [State.retrain]
@[simp] theorem State.sendMcast_regs (s : State) (k : Pkt) (ts : List (BitVec 17 × Word)) (data : Bytes) : (s.sendMcast k ts data).regs = s.regs := by
  unfold State.sendMcast
  repeat' first | intro _ | rw [foldl_regs] | rw [foldl_fst_regs] | rw [foldl_snd_regs] | split | simp [State.when_regs, apply_ite State.regs]
@[simp] theorem State.issue_regs (s : State) (o : OutReq) : (s.issue o).regs = s.regs := by
  unfold State.issue
  repeat' first | intro _ | rw [foldl_regs] | rw [foldl_fst_regs] | rw [foldl_snd_regs] | split | simp
@[simp] theorem State.endRing_regs (s : State) (ring : Option (Fin 64 × DWord)) (status : Nat) (result : DWord) : (s.endRing ring status result).regs = s.regs := by
  unfold State.endRing
  repeat' first | intro _ | rw [foldl_regs] | rw [foldl_fst_regs] | rw [foldl_snd_regs] | split | simp
@[simp] theorem State.drainLost_regs (s : State) : s.drainLost.regs = s.regs := by
  simp [State.drainLost]
@[simp] theorem State.pumpGo_regs (s : State) (b l : List OutReq) : (s.pumpGo b l).regs = s.regs := by
  induction l generalizing s b with
  | nil => rfl
  | cons o l ih =>
    unfold State.pumpGo
    repeat' first | split | simp [ih, State.when_regs]
@[simp] theorem State.pump_regs (s : State) : s.pump.regs = s.regs := by
  simp [State.pump, apply_ite State.regs]
@[simp] theorem State.request_regs (s : State) (k : Pkt) (ring : Option (Fin 64 × DWord)) : (s.request k ring).regs = s.regs := by
  simp [State.request]
@[simp] theorem State.dropOut_regs (s : State) (o : OutReq) : (s.dropOut o).regs = s.regs := by
  simp [State.dropOut]
@[simp] theorem State.targetDead_regs (s : State) (o : OutReq) : (s.targetDead o).regs = s.regs := by
  simp [State.targetDead]
theorem State.arrivePkt_regs (s : State) (p : Fin 32) (k : Pkt) (f : State → State) (h : ∀ s, (f s).regs = s.regs) :
    (s.arrivePkt p k f).regs = s.regs := by
  unfold State.arrivePkt
  repeat' first | split | simp [h]
@[simp] theorem State.endOk_regs (s : State) (o : OutReq) (k : Pkt) : (s.endOk o k).regs = s.regs := by
  unfold State.endOk
  repeat' first | intro _ | rw [foldl_regs] | rw [foldl_fst_regs] | rw [foldl_snd_regs] | split | simp [State.when_regs, apply_ite State.regs]
@[simp] theorem State.endBy_regs (s : State) (o : OutReq) (k : Pkt) : (s.endBy o k).regs = s.regs := by
  unfold State.endBy
  split <;> simp
@[simp] theorem State.imageAnswered_regs (s : State) (k : Pkt) (ok : Bool) : (s.imageAnswered k ok).regs = s.regs := by
  unfold State.imageAnswered
  repeat' first | intro _ | rw [foldl_regs] | rw [foldl_fst_regs] | rw [foldl_snd_regs] | split | simp [State.when_regs, apply_ite State.regs]
@[simp] theorem State.upObj_regs (s : State) (id : Nat) (f : ObjS → ObjS) : (s.upObj id f).regs = s.regs := by
  simp [State.upObj]
@[simp] theorem State.loseTiles_regs (s : State) (id : Nat) (f : ObjS → List Nat) : (s.loseTiles id f).regs = s.regs := by
  unfold State.loseTiles State.upObj
  repeat' first | intro _ | rw [foldl_regs] | rw [foldl_fst_regs] | rw [foldl_snd_regs] | split | simp [State.when_regs, apply_ite State.regs]
@[simp] theorem State.applyArr_regs (s : State) (id : Nat) (h : Home) (a : Arrival) : (s.applyArr id h a).regs = s.regs := by
  unfold State.applyArr
  repeat' first | intro _ | rw [foldl_regs] | rw [foldl_fst_regs] | rw [foldl_snd_regs] | split | simp
@[simp] theorem State.applyAll_regs (s : State) (id : Nat) (h : Home) (as : List Arrival) : (s.applyAll id h as).regs = s.regs := by
  unfold State.applyAll
  repeat' first | intro _ | rw [foldl_regs] | rw [foldl_fst_regs] | rw [foldl_snd_regs] | split | simp
@[simp] theorem State.arriveOld_regs (s : State) (id : Nat) (m : MoveS) (a : Arrival) : (s.arriveOld id m a).regs = s.regs := by
  simp [State.arriveOld]
@[simp] theorem State.arriveNew_regs (s : State) (o : ObjS) (a : Arrival) : (s.arriveNew o a).regs = s.regs := by
  unfold State.arriveNew
  repeat' first | intro _ | rw [foldl_regs] | rw [foldl_fst_regs] | rw [foldl_snd_regs] | split | simp
@[simp] theorem State.arriveNow_regs (s : State) (o : ObjS) (a : Arrival) : (s.arriveNow o a).regs = s.regs := by
  unfold State.arriveNow
  repeat' first | intro _ | rw [foldl_regs] | rw [foldl_fst_regs] | rw [foldl_snd_regs] | split | simp
@[simp] theorem State.writeObj_regs (s : State) (unit : SenderUnit) (o : ObjS) (off : Nat) (data : Bytes) : (s.writeObj unit o off data).regs = s.regs := by
  simp [State.writeObj]
@[simp] theorem State.sendContrib_regs (s : State) (h : ContribHdr) (index : Bytes) (record : Bytes) : (s.sendContrib h index record).regs = s.regs := by
  simp [State.sendContrib, apply_ite State.regs]
@[simp] theorem State.sendRows_regs (s : State) (h : ContribHdr) (rows : List (Nat × List Nat)) : (s.sendRows h rows).regs = s.regs := by
  unfold State.sendRows
  repeat' first | intro _ | rw [foldl_regs] | rw [foldl_fst_regs] | rw [foldl_snd_regs] | split | simp
@[simp] theorem State.writeRows_regs (s : State) (o : ObjS) (rows : List (Nat × List Nat)) : (s.writeRows o rows).regs = s.regs := by
  unfold State.writeRows
  repeat' first | intro _ | rw [foldl_regs] | rw [foldl_fst_regs] | rw [foldl_snd_regs] | split | simp [State.when_regs, apply_ite State.regs]
@[simp] theorem State.noteLate_regs (s : State) (owner : Nat) (layer : Nat) : (s.noteLate owner layer).regs = s.regs := by
  simp [State.noteLate, State.when_regs]
@[simp] theorem State.closeTile_regs (s : State) (t : TreeTile) : (s.closeTile t).regs = s.regs := by
  unfold State.closeTile
  extract_lets cs root sum rows bad h s1 s2
  have e1 : s1.regs = s.regs := rfl
  have e2 : s2.regs = s.regs := by simp only [s2, State.noteLate_regs, e1]
  clear_value s1 s2 h bad sum
  repeat' first
    | split
    | exact e1
    | simp only [State.writeRows_regs, State.writeObj_regs, State.sendRows_regs, State.sendContrib_regs, e1, e2]
@[simp] theorem State.lateSlot_regs (s : State) (t : TreeTile) (x : SlotC) : (s.lateSlot t x).regs = s.regs := by
  simp [State.lateSlot]
@[simp] theorem State.noteMargin_regs (s : State) (t : TreeTile) (u : DWord) : (s.noteMargin t u).regs = s.regs := by
  simp [State.noteMargin, State.when_regs, apply_ite State.regs]
@[simp] theorem State.place_regs (s : State) (slot : Nat) (h : ContribHdr) (d : Bytes) (u : DWord) : (s.place slot h d u).regs = s.regs := by
  unfold State.place
  repeat' first | intro _ | rw [foldl_regs] | rw [foldl_fst_regs] | rw [foldl_snd_regs] | split | simp [State.when_regs, apply_ite State.regs]
theorem State.contribIn_regs (s : State) (h : ContribHdr) (d : Bytes) (u : DWord) (t : State) (e : s.contribIn h d u = some t) : t.regs = s.regs := by
  unfold State.contribIn at e
  repeat' split at e
  all_goals first | (cases e; done) | (cases e; simp [State.when_regs, apply_ite State.regs])
@[simp] theorem State.openEarly_regs (s : State) : s.openEarly.regs = s.regs := by
  unfold State.openEarly
  dsimp only
  rw [foldl_regs]
  · rfl
  · intro s x
    cases e : s.contribIn x.1 x.2.1 x.2.2 with
    | none => rfl
    | some t => simp [State.contribIn_regs _ _ _ _ _ e]
@[simp] theorem State.copyOver_regs (s : State) (o : ObjS) : (s.copyOver o).regs = s.regs := by
  unfold State.copyOver
  repeat' first | intro _ | rw [foldl_regs] | rw [foldl_fst_regs] | rw [foldl_snd_regs] | split | simp
@[simp] theorem State.abortOne_regs (s : State) (o : ObjS) : (s.abortOne o).regs = s.regs := by
  unfold State.abortOne
  repeat' first | intro _ | rw [foldl_regs] | rw [foldl_fst_regs] | rw [foldl_snd_regs] | split | simp [State.when_regs, apply_ite State.regs]
@[simp] theorem State.abortMove_regs (s : State) (id : Nat) : (s.abortMove id).regs = s.regs := by
  unfold State.abortMove
  repeat' first | intro _ | rw [foldl_regs] | rw [foldl_fst_regs] | rw [foldl_snd_regs] | split | simp [State.when_regs, apply_ite State.regs]
@[simp] theorem State.abortMoves_regs (s : State) : s.abortMoves.regs = s.regs := by
  unfold State.abortMoves
  repeat' first | intro _ | rw [foldl_regs] | rw [foldl_fst_regs] | rw [foldl_snd_regs] | split | simp
@[simp] theorem State.askHealthMoves_regs (s : State) : s.askHealthMoves.regs = s.regs := by
  simp [State.askHealthMoves]
@[simp] theorem State.moveIfAsked_regs (s : State) (i : Nat) : (s.moveIfAsked i).regs = s.regs := by
  unfold State.moveIfAsked
  repeat' first | intro _ | rw [foldl_regs] | rw [foldl_fst_regs] | rw [foldl_snd_regs] | split | simp
@[simp] theorem State.startRegion_regs (s : State) (r : Nat) : (s.startRegion r).regs = s.regs := by
  unfold State.startRegion
  repeat' first | intro _ | rw [foldl_regs] | rw [foldl_fst_regs] | rw [foldl_snd_regs] | split | simp [State.when_regs, apply_ite State.regs]
@[simp] theorem State.adviseNew_regs (s : State) (cause : Nat) : (s.adviseNew cause).regs = s.regs := by
  simp [State.adviseNew, apply_ite State.regs]
@[simp] theorem State.askBinding_regs (s : State) (b : Binding) : (s.askBinding b).regs = s.regs := by
  simp [State.askBinding]
@[simp] theorem State.flip_regs (s : State) (o : ObjS) (m : MoveS) (unreadable : List Nat) : (s.flip o m unreadable).regs = s.regs := by
  simp [State.flip]
@[simp] theorem State.arrive_regs (s : State) (o : ObjS) (gen : Half) (a : Arrival) : (s.arrive o gen a).regs = s.regs := by
  unfold State.arrive
  repeat' first | intro _ | rw [foldl_regs] | rw [foldl_fst_regs] | rw [foldl_snd_regs] | split | simp
@[simp] theorem State.shedAnswer_regs (s : State) (grant : Bool) (firstStep : DWord) (share : Word) : (s.shedAnswer grant firstStep share).regs = s.regs := by
  simp [State.shedAnswer, apply_ite State.regs]
@[simp] theorem State.reportNest_regs (s : State) (n : Nest) (f : Bytes) : (s.reportNest n f).regs = s.regs := by
  simp [State.reportNest]
@[simp] theorem State.askRecord_regs (s : State) (r : PfRun) (ps : List (Nat × Nat)) : (s.askRecord r ps).regs = s.regs := by
  unfold State.askRecord
  repeat' first | intro _ | rw [foldl_regs] | rw [foldl_fst_regs] | rw [foldl_snd_regs] | split | simp
@[simp] theorem State.deliver_regs (s : State) (e : PfE) (r : PfRun) (o : ObjS) (c : Fin 1024) (ue : Bool) : (s.deliver e r o c ue).regs = s.regs := by
  simp [State.deliver, apply_ite State.regs]
@[simp] theorem State.writeTile_regs (s : State) (unit : SenderUnit) (id : Nat) (ps : List (Nat × Nat)) (bs : Bytes) : (s.writeTile unit id ps bs).regs = s.regs := by
  unfold State.writeTile
  repeat' first | intro _ | rw [foldl_regs] | rw [foldl_fst_regs] | rw [foldl_snd_regs] | split | simp
@[simp] theorem State.writeBack_regs (s : State) (e : PfE) (r : PfRun) (o : ObjS) (c : Fin 1024) (bad : Bool) : (s.writeBack e r o c bad).regs = s.regs := by
  simp [State.writeBack, apply_ite State.regs]
@[simp] theorem State.loseRecord_regs (s : State) (obj : Word) : (s.loseRecord obj).regs = s.regs := by
  unfold State.loseRecord
  extract_lets os
  have g := State.fresh_regs s 64
  generalize s.fresh 64 = x at g
  obtain ⟨x, t⟩ := x
  dsimp only at g ⊢
  rw [← g]
  split <;> simp
@[simp] theorem State.sourceUe_regs (s : State) (w : Work) : (s.sourceUe w).regs = s.regs := by
  unfold State.sourceUe
  repeat' first | intro _ | rw [foldl_regs] | rw [foldl_fst_regs] | rw [foldl_snd_regs] | split | simp
@[simp] theorem State.errRecord_regs (s : State) (l : ErrLoc) (unc : Bool) : (s.errRecord l unc).regs = s.regs := by
  simp [State.errRecord]
@[simp] theorem State.unitFollows_regs (s : State) (h : Health) : (s.unitFollows h).regs = s.regs := by
  unfold State.unitFollows
  repeat' first | intro _ | rw [foldl_regs] | rw [foldl_fst_regs] | rw [foldl_snd_regs] | split | simp [State.when_regs, apply_ite State.regs]
@[simp] theorem State.correctedErr_regs (s : State) (l : ErrLoc) : (s.correctedErr l).regs = s.regs := by
  unfold State.correctedErr
  repeat' first | intro _ | rw [foldl_regs] | rw [foldl_fst_regs] | rw [foldl_snd_regs] | split | simp
@[simp] theorem State.poisonReq_regs (s : State) (src : BitVec 17) (seq : Word) : (s.poisonReq src seq).regs = s.regs := by
  unfold State.poisonReq
  repeat' first | intro _ | rw [foldl_regs] | rw [foldl_fst_regs] | rw [foldl_snd_regs] | split | simp
@[simp] theorem State.ueFeeds_regs (s : State) (l : ErrLoc) (feeds : UeFeeds) : (s.ueFeeds l feeds).regs = s.regs := by
  unfold State.ueFeeds
  repeat' first | intro _ | rw [foldl_regs] | rw [foldl_fst_regs] | rw [foldl_snd_regs] | split | simp
@[simp] theorem State.ueHealth_regs (s : State) (l : ErrLoc) (dead : Bool) : (s.ueHealth l dead).regs = s.regs := by
  unfold State.ueHealth
  repeat' first | intro _ | rw [foldl_regs] | rw [foldl_fst_regs] | rw [foldl_snd_regs] | split | simp
@[simp] theorem State.refuseFree_regs (s : State) (k : Pkt) : (s.refuseFree k).regs = s.regs := by
  simp [State.refuseFree]
theorem State.checked_regs (s : State) (k : Pkt) (f : State → State) (h : ∀ s, (f s).regs = s.regs) : (s.checked k f).regs = s.regs := by
  unfold State.checked
  repeat' first | split | simp [h]
@[simp] theorem State.cacheReply_regs (s : State) (k : Pkt) (value : DWord) : (s.cacheReply k value).regs = s.regs := by
  simp [State.cacheReply]
@[simp] theorem State.applied_regs (s : State) (k : Pkt) (value : DWord) (data : Bytes) : (s.applied k value data).regs = s.regs := by
  simp [State.applied, State.when_regs]
@[simp] theorem State.orderLines_regs (s : State) (p : Fin 32) (k : Pkt) : (s.orderLines p k).regs = s.regs := by
  simp [State.orderLines]
@[simp] theorem State.refuseTile_regs (s : State) (k : Pkt) : (s.refuseTile k).regs = s.regs := by
  simp [State.refuseTile]
@[simp] theorem State.sendDown_regs (s : State) (m : TileMsg) (off : Nat) (data : Bytes) : (s.sendDown m off data).regs = s.regs := by
  unfold State.sendDown
  repeat' first | intro _ | rw [foldl_regs] | rw [foldl_fst_regs] | rw [foldl_snd_regs] | split | simp
@[simp] theorem State.discardStaged_regs (s : State) (pos n : Nat) : (s.discardStaged pos n).regs = s.regs := by
  simp [State.discardStaged, State.when_regs, apply_ite State.regs]
@[simp] theorem State.copyLog_regs (s : State) (es : List ObjE) (n : Nat) (b : Bytes) : (s.copyLog es n b).regs = s.regs := by
  induction n generalizing s b with
  | zero => rfl
  | succ n ih =>
    unfold State.copyLog
    dsimp only
    split
    · rfl
    · rw [ih]
      split <;> simp
@[simp] theorem State.applyStaged_regs (s : State) (es : List ObjE) (step n : Nat) : (s.applyStaged es step n).regs = s.regs := by
  induction n generalizing s with
  | zero => rfl
  | succ n ih =>
    unfold State.applyStaged
    dsimp only
    split
    · rfl
    · rw [ih]
      simp
@[simp] theorem State.seeSlot_regs (s : State) (i : Nat) : (s.seeSlot i).regs = s.regs := by
  simp [State.seeSlot, State.when_regs, apply_ite State.regs]
@[simp] theorem State.partnerStored_regs (s : State) (off n : Nat) : (s.partnerStored off n).regs = s.regs := by
  simp [State.partnerStored, State.when_regs, apply_ite State.regs]
@[simp] theorem State.writeLocal_regs (s : State) (off : Nat) (data : Bytes) : (s.writeLocal off data).regs = s.regs := by
  unfold State.writeLocal
  repeat' first | intro _ | rw [foldl_regs] | rw [foldl_fst_regs] | rw [foldl_snd_regs] | split | simp
@[simp] theorem State.requestDone_regs (s : State) (k : Pkt) (value : DWord) : (s.requestDone k value).regs = s.regs := by
  unfold State.requestDone
  repeat' first | intro _ | rw [foldl_regs] | rw [foldl_fst_regs] | rw [foldl_snd_regs] | split | simp [State.when_regs, apply_ite State.regs]
@[simp] theorem State.applyLine_regs (s : State) (l : LineUpd) : (s.applyLine l).regs = s.regs := by
  unfold State.applyLine
  dsimp only
  repeat' first | split | simp
@[simp] theorem State.saveSlot_regs (s : State) (full : Bool) (bs : Bytes) : (s.saveSlot full bs).regs = s.regs := by
  unfold State.saveSlot
  repeat' first | intro _ | rw [foldl_regs] | rw [foldl_fst_regs] | rw [foldl_snd_regs] | split | simp
@[simp] theorem State.writeHome_regs (s : State) (o : ObjS) (off : Nat) (bs : Bytes) : (s.writeHome o off bs).regs = s.regs := by
  simp [State.writeHome]
@[simp] theorem State.writeTileOuts_regs (s : State) (o : ObjS) (tile : Nat) (outs : List ElemOut) : (s.writeTileOuts o tile outs).regs = s.regs := by
  simp [State.writeTileOuts]
@[simp] theorem State.countOuts_regs (s : State) (k : Fin 12) (o : ObjS) (outs : List ElemOut) (scales : Nat) : (s.countOuts k o outs scales).regs = s.regs := by
  simp [State.countOuts, State.when_regs]
@[simp] theorem State.updateUnit_regs (s : State) (k : Fin 12) (o : ObjS) (unit : Nat) : (s.updateUnit k o unit).regs = s.regs := by
  unfold State.updateUnit
  repeat' first | intro _ | rw [foldl_regs] | rw [foldl_fst_regs] | rw [foldl_snd_regs] | split | simp
@[simp] theorem State.updateRow_regs (s : State) (k : Fin 12) (o : ObjS) (g : ObjS) (pos : Nat) (row : Nat) : (s.updateRow k o g pos row).regs = s.regs := by
  simp [State.updateRow]
@[simp] theorem State.updateRows_regs (s : State) (k : Fin 12) (o : ObjS) (block : Nat) : (s.updateRows k o block).regs = s.regs := by
  unfold State.updateRows
  repeat' first | intro _ | rw [foldl_regs] | rw [foldl_fst_regs] | rw [foldl_snd_regs] | split | simp
@[simp] theorem State.outboxWait_regs (s : State) (k : Fin 12) : (s.outboxWait k).regs = s.regs := by
  simp [State.outboxWait, apply_ite State.regs]
@[simp] theorem State.outboxGo_regs (s : State) (k : Fin 12) : (s.outboxGo k).regs = s.regs := by
  unfold State.outboxGo
  repeat' first | intro _ | rw [foldl_regs] | rw [foldl_fst_regs] | rw [foldl_snd_regs] | split | simp
@[simp] theorem State.sendTile_regs (s : State) (m : TileMsg) (off : Nat) (bs : Bytes) : (s.sendTile m off bs).regs = s.regs := by
  unfold State.sendTile
  repeat' first | intro _ | rw [foldl_regs] | rw [foldl_fst_regs] | rw [foldl_snd_regs] | split | simp
@[simp] theorem State.handOff_regs (s : State) (o w : ObjS) : (s.handOff o w).regs = s.regs := by
  unfold State.handOff
  repeat' first | intro _ | rw [foldl_regs] | rw [foldl_fst_regs] | rw [foldl_snd_regs] | split | simp
@[simp] theorem State.takeContrib_regs (s : State) (k : Pkt) : (s.takeContrib k).regs = s.regs := by
  unfold State.takeContrib
  rw [State.checked_regs]
  intro s
  dsimp only
  split
  · rename_i e
    simp [State.contribIn_regs _ _ _ _ _ e]
  · simp [State.when_regs]
@[simp] theorem State.takeLines_regs (s : State) (p : Fin 32) (k : Pkt) : (s.takeLines p k).regs = s.regs := by
  unfold State.takeLines
  repeat' first | intro _ | rw [foldl_regs] | rw [foldl_fst_regs] | rw [foldl_snd_regs] | rw [State.reEnv_regs] | rw [State.checked_regs] | rw [State.when_regs] | split | simp [apply_ite State.regs]
@[simp] theorem State.take_regs (s : State) (p : Fin 32) (k : Pkt) : (s.take p k).regs = s.regs := by
  simp [State.take, apply_ite State.regs]
@[simp] theorem State.drainRx_regs (n : Nat) (s : State) : (State.drainRx n s).regs = s.regs := by
  induction n generalizing s with
  | zero => rfl
  | succ n ih =>
    unfold State.drainRx
    split
    · rfl
    · rw [ih]
      simp
@[simp] theorem State.pumpRx_regs (s : State) : (s.pumpRx).regs = s.regs := by
  simp [State.pumpRx]
@[simp] theorem State.receive_regs (s : State) (p : Fin 32) (k : Pkt) : (s.receive p k).regs = s.regs := by
  simp [State.receive, apply_ite State.regs]
@[simp] theorem State.passMcast_regs (s : State) (k : Pkt) (rest : List (BitVec 17 × Word)) : (s.passMcast k rest).regs = s.regs := by
  unfold State.passMcast
  repeat' first | intro _ | rw [foldl_regs] | rw [foldl_fst_regs] | rw [foldl_snd_regs] | split | simp
@[simp] theorem State.placeOwn_regs (s : State) (h : ContribHdr) (payload : Bytes) : (s.placeOwn h payload).regs = s.regs := by
  simp [State.placeOwn, apply_ite State.regs]
@[simp] theorem State.handed_regs (s : State) (h : ContribHdr) : (s.handed h).regs = s.regs := by
  unfold State.handed
  repeat' first | intro _ | rw [foldl_regs] | rw [foldl_fst_regs] | rw [foldl_snd_regs] | split | simp
@[simp] theorem State.applyShare_regs (s : State) (step : DWord) : (s.applyShare step).regs = s.regs := by
  unfold State.applyShare
  repeat' first | intro _ | rw [foldl_regs] | rw [foldl_fst_regs] | rw [foldl_snd_regs] | split | simp
@[simp] theorem State.beginRun_regs (s : State) (replay : Bool) (stamp : DWord) : (s.beginRun replay stamp).regs = s.regs := by
  simp [State.beginRun]
@[simp] theorem State.nextStep_regs (s : State) (stamp : DWord) : (s.nextStep stamp).regs = s.regs := by
  simp [State.nextStep, State.when_regs, apply_ite State.regs]
@[simp] theorem State.asBound_regs (s : State) (b : Binding) : (s.asBound b).regs = s.regs := by
  simp [State.asBound]
@[simp] theorem State.lateRebind_regs (s : State) : s.lateRebind.regs = s.regs := by
  unfold State.lateRebind
  repeat' first | intro _ | rw [foldl_regs] | rw [foldl_fst_regs] | rw [foldl_snd_regs] | split | simp
@[simp] theorem State.shareRequest_regs (s : State) (fraction : Word) (share : Nat) : (s.shareRequest fraction share).regs = s.regs := by
  simp [State.shareRequest]
@[simp] theorem State.countLate_regs (s : State) (late : Bool) (idle : Bool) : (s.countLate late idle).regs = s.regs := by
  simp [State.countLate]
@[simp] theorem State.lateness_regs (s : State) (r : IntRec) (ownTime : Nat) (fraction : Word) (idle : Bool) : (s.lateness r ownTime fraction idle).regs = s.regs := by
  simp [State.lateness, State.when_regs, apply_ite State.regs]
@[simp] theorem State.writeHistory_regs (s : State) : s.writeHistory.regs = s.regs := by
  simp [State.writeHistory]
@[simp] theorem State.fillRecord_regs (s : State) (r : IntRec) (clip : Word) (fraction : Word) (critical : Bool) : (s.fillRecord r clip fraction critical).regs = s.regs := by
  simp [State.fillRecord]
@[simp] theorem State.actUpdate_regs (s : State) (clip : Word) : (s.actUpdate clip).regs = s.regs := by
  simp [State.actUpdate]
@[simp] theorem State.actSkip_regs (s : State) (stamp : DWord) : (s.actSkip stamp).regs = s.regs := by
  simp [State.actSkip]
@[simp] theorem State.actReplay_regs (s : State) (stamp : DWord) : (s.actReplay stamp).regs = s.regs := by
  simp [State.actReplay]
@[simp] theorem State.act_regs (s : State) (r : IntRec) : (s.act r).regs = s.regs := by
  have e : ∀ s : State, s.fractionOf.2.2.2.regs = s.regs := by
    intro s
    unfold State.fractionOf
    dsimp only
    split <;> simp
  unfold State.act
  dsimp only
  split <;> simp [State.when_regs, apply_ite State.regs, e]
@[simp] theorem State.sendRec_regs (s : State) (pos : Nat) (r : IntRec) : (s.sendRec pos r).regs = s.regs := by
  simp [State.sendRec]
@[simp] theorem State.passDown_regs (s : State) (r : IntRec) : (s.passDown r).regs = s.regs := by
  unfold State.passDown
  repeat' first | intro _ | rw [foldl_regs] | rw [foldl_fst_regs] | rw [foldl_snd_regs] | split | simp
@[simp] theorem State.tryCombine_regs (s : State) : s.tryCombine.regs = s.regs := by
  unfold State.tryCombine
  repeat' first | intro _ | rw [foldl_regs] | rw [foldl_fst_regs] | rw [foldl_snd_regs] | split | simp
@[simp] theorem State.beginPartner_regs (s : State) : (s.beginPartner).regs = s.regs := by
  unfold State.beginPartner
  split
  · rfl
  · dsimp only
    repeat' split
    all_goals simp [State.when_regs, apply_ite State.regs, foldl_regs]
@[simp] theorem State.headerIfDue_regs (s : State) : s.headerIfDue.regs = s.regs := by
  unfold State.headerIfDue
  repeat' first | intro _ | rw [foldl_regs] | rw [foldl_fst_regs] | rw [foldl_snd_regs] | split | simp
@[simp] theorem State.drainOn_regs (s : State) : (s.drainOn).regs = s.regs := by
  unfold State.drainOn
  repeat' first | intro _ | rw [foldl_regs] | rw [foldl_fst_regs] | rw [foldl_snd_regs] | split | simp
@[simp] theorem State.placeRow_regs (s : State) (o : ObjS) (e : ObjE) (dense : Bytes) (row : Nat) (buf : Nat) : (s.placeRow o e dense row buf).regs = s.regs := by
  simp [State.placeRow]
@[simp] theorem State.placeRows_regs (s : State) (o : ObjS) (e : ObjE) (base : Bytes) (row : Nat) : (s.placeRows o e base row).regs = s.regs := by
  simp [State.placeRows]
@[simp] theorem State.applyLogs_regs (s : State) (o : ObjS) (x : ObjE) (l : List (Word × Nat)) (n : Nat) (b : Bytes) :
    (s.applyLogs o x l n b).regs = s.regs := by
  induction n generalizing s b with
  | zero => rfl
  | succ n ih =>
    unfold State.applyLogs
    dsimp only
    split
    · rfl
    · rw [ih]
      split <;> simp
@[simp] theorem State.placeObj_regs (s : State) (e : ObjE) (dense scales base logs : Bytes) (buf : Nat) :
    (s.placeObj e dense scales base logs buf).regs = s.regs := by
  unfold State.placeObj
  dsimp only
  rw [State.upSec_regs]
  split
  · rw [foldl_regs _ _ _ fun s o => State.applyLogs_regs s o e _ _ _, foldl_regs]
    intro s t
    repeat' first | split | simp
  · rw [foldl_regs]
    intro s t
    repeat' first | split | simp
@[simp] theorem State.placeImage_regs (s : State) (b copy : Bytes) : (s.placeImage b copy).regs = s.regs := by
  unfold State.placeImage
  repeat' first | intro _ | rw [foldl_regs] | rw [foldl_fst_regs] | rw [foldl_snd_regs] | split | simp [State.when_regs, apply_ite State.regs]
@[simp] theorem State.deriveAll_regs (s : State) : s.deriveAll.regs = s.regs := by
  unfold State.deriveAll
  repeat' first | intro _ | rw [foldl_regs] | rw [foldl_fst_regs] | rw [foldl_snd_regs] | split | simp
@[simp] theorem State.childRec_regs (s : State) (pos : Nat) (src : BitVec 17) (r : IntRec) : (s.childRec pos src r).regs = s.regs := by
  simp [State.childRec, apply_ite State.regs]
@[simp] theorem State.checkRatios_regs (s : State) : s.checkRatios.regs = s.regs := by
  unfold State.checkRatios
  repeat' first | intro _ | rw [foldl_regs] | rw [foldl_fst_regs] | rw [foldl_snd_regs] | split | simp
@[simp] theorem State.teardownFor_regs (s : State) (job : Word) : (s.teardownFor job).regs = s.regs := by
  simp [State.teardownFor, State.when_regs]
@[simp] theorem State.applyCeiling_regs (s : State) (m : EnvMsg) : (s.applyCeiling m).regs = s.regs := by
  simp [State.applyCeiling]
theorem State.envelopeMsg_regs (s : State) (b : Bytes) (t : State) (e : s.envelopeMsg b = some t) : t.regs = s.regs := by
  unfold State.envelopeMsg at e
  dsimp only at e
  repeat' split at e
  all_goals first | (cases e; done) | (cases e; simp)
@[simp] theorem State.applyCredit_regs (s : State) (o : Nat) (a : Nat) : (s.applyCredit o a).regs = s.regs := by
  simp [State.applyCredit]
@[simp] theorem State.creditDown_regs (s : State) (o a n : Nat) : (s.creditDown o a n).regs = s.regs := by
  unfold State.creditDown
  repeat' first | intro _ | rw [foldl_regs] | rw [foldl_fst_regs] | rw [foldl_snd_regs] | split | simp [State.when_regs, apply_ite State.regs]
@[simp] theorem State.tryCredit_regs (s : State) : s.tryCredit.regs = s.regs := by
  simp [State.tryCredit, apply_ite State.regs]
@[simp] theorem State.dropGrant_regs (s : State) : s.dropGrant.regs = s.regs := by
  simp [State.dropGrant, State.when_regs]
@[simp] theorem State.creditUp_regs (s : State) (pos : Nat) (round : Word) (o : Nat) (a : Nat) (n : Nat) : (s.creditUp pos round o a n).regs = s.regs := by
  simp [State.creditUp, apply_ite State.regs]
@[simp] theorem State.upRail_regs (s : State) (i : Fin 8) (f : Rail → Rail) : (s.upRail i f).regs = s.regs := by
  simp [State.upRail]
@[simp] theorem State.railOn_regs (s : State) (i : Fin 8) : (s.railOn i).regs = s.regs := by
  simp [State.railOn, State.when_regs, apply_ite State.regs]
@[simp] theorem State.powerUp_regs (s : State) : s.powerUp.regs = s.regs := by
  unfold State.powerUp
  rw [State.upPins_regs, foldl_regs]
  intro s i
  dsimp only
  rw [State.advanceTo_regs, State.railOn_regs, State.upPwr_regs]
@[simp] theorem State.sentOff_regs (s : State) (i : Fin 8) : (s.sentOff i).regs = s.regs := by
  simp [State.sentOff, State.when_regs, apply_ite State.regs]
@[simp] theorem State.railFault_regs (s : State) (i : Fin 8) (status : DWord) : (s.railFault i status).regs = s.regs := by
  simp [State.railFault, State.when_regs, apply_ite State.regs]
@[simp] theorem State.frameFailed_regs (s : State) (i : Fin 8) (counted : Bool) (status : DWord) : (s.frameFailed i counted status).regs = s.regs := by
  simp [State.frameFailed, apply_ite State.regs]
@[simp] theorem State.railDark_regs (s : State) (i : Fin 8) : (s.railDark i).regs = s.regs := by
  simp [State.railDark, apply_ite State.regs]
@[simp] theorem State.frameAcked_regs (s : State) (i : Fin 8) (k : Frame) (enable : Bool) (iRead : Nat) : (s.frameAcked i k enable iRead).regs = s.regs := by
  simp [State.frameAcked, State.when_regs, apply_ite State.regs]
@[simp] theorem State.frameReply_regs (s : State) (i : Fin 8) (k : Frame) (enable : Bool) (r : Option (BitVec 22)) : (s.frameReply i k enable r).regs = s.regs := by
  unfold State.frameReply
  split
  · simp
  · dsimp only
    split
    · simp
    · split <;> simp [State.when_regs, apply_ite State.regs]
@[simp] theorem State.requestOff_regs (s : State) (first : Option (Fin 8)) (fault : Bool) : (s.requestOff first fault).regs = s.regs := by
  simp [State.requestOff]
@[simp] theorem State.railWatch_regs (s : State) (i : Fin 8) : (s.railWatch i).regs = s.regs := by
  simp [State.railWatch, State.when_regs]
@[simp] theorem State.upDie_regs (s : State) (d : Fin 4) (f : DieP → DieP) : (s.upDie d f).regs = s.regs := by
  simp [State.upDie]
@[simp] theorem State.noteTemp_regs (s : State) (x : Sensor) (t : Nat) : (s.noteTemp x t).regs = s.regs := by
  simp [State.noteTemp]
@[simp] theorem State.hot_regs (s : State) (x : Sensor) (on : Bool) : (s.hot x on).regs = s.regs := by
  rfl
@[simp] theorem State.standby_regs (s : State) : s.standby.regs = s.regs := by
  simp [State.standby]
@[simp] theorem State.endPower_regs (s : State) (a : Asker) (index : DWord) (status detail : Nat) : (s.endPower a index status detail).regs = s.regs := by
  unfold State.endPower
  repeat' first | intro _ | rw [foldl_regs] | rw [foldl_fst_regs] | rw [foldl_snd_regs] | split | simp
@[simp] theorem State.refusePower_regs (s : State) (a : Asker) (index : DWord) : (s.refusePower a index).regs = s.regs := by
  simp [State.refusePower]
@[simp] theorem State.transitionDone_regs (s : State) : (s.transitionDone).regs = s.regs := by
  unfold State.transitionDone
  repeat' first | intro _ | rw [foldl_regs] | rw [foldl_fst_regs] | rw [foldl_snd_regs] | split | simp
theorem State.askPower_regs (s : State) (a : Asker) (c : Nat) (f : DWord → State → State) (h : ∀ i s, (f i s).regs = s.regs) :
    (s.askPower a c f).regs = s.regs := by
  unfold State.askPower
  repeat' first | split | rw [State.beginDesc_regs] | simp [h]
@[simp] theorem State.keepRunTimes_regs (s : State) : (s.keepRunTimes).regs = s.regs := by
  rfl
@[simp] theorem State.clearTelemetry_regs (s : State) : s.clearTelemetry.regs = s.regs := by
  simp [State.clearTelemetry]
@[simp] theorem State.trainStacks_regs (s : State) : (s.trainStacks).regs = s.regs := by
  rfl
@[simp] theorem State.rebaseIfDue_regs (s : State) : s.rebaseIfDue.regs = s.regs := by
  simp [State.rebaseIfDue, apply_ite State.regs]
@[simp] theorem State.toFlash_regs (s : State) (u : SecUnit) : (s.toFlash u).regs = s.regs := by
  unfold State.toFlash
  split
  · rfl
  · dsimp only
    split
    · rfl
    · simp [State.when_regs, apply_ite State.regs]
@[simp] theorem State.endBufferWait_regs (s : State) : (s.endBufferWait).regs = s.regs := by
  unfold State.endBufferWait
  repeat' first | intro _ | rw [foldl_regs] | rw [foldl_fst_regs] | rw [foldl_snd_regs] | split | simp
@[simp] theorem State.endSetup_regs (s : State) (status : Nat) (detail : Nat) (result : DWord) : (s.endSetup status detail result).regs = s.regs := by
  unfold State.endSetup
  repeat' first | intro _ | rw [foldl_regs] | rw [foldl_fst_regs] | rw [foldl_snd_regs] | split | simp
@[simp] theorem State.unbindRings_regs (s : State) : s.unbindRings.regs = s.regs := by
  simp [State.unbindRings]
@[simp] theorem State.failSetup_regs (s : State) (detail : Nat) : (s.failSetup detail).regs = s.regs := by
  unfold State.failSetup
  rw [State.upSec_regs, State.reEnv_regs] <;> simp
@[simp] theorem State.firstRun_regs (s : State) (step : DWord) : (s.firstRun step).regs = s.regs := by
  simp [State.firstRun]
@[simp] theorem State.startRestored_regs (s : State) : (s.startRestored).regs = s.regs := by
  unfold State.startRestored
  repeat' first | intro _ | rw [foldl_regs] | rw [foldl_fst_regs] | rw [foldl_snd_regs] | split | simp [State.when_regs, apply_ite State.regs]
@[simp] theorem State.releaseUnit_regs (s : State) : s.releaseUnit.regs = s.regs := by
  unfold State.releaseUnit
  dsimp only
  split <;> simp
@[simp] theorem State.endRestore_regs (s : State) : s.endRestore.regs = s.regs := by
  simp [State.endRestore, State.when_regs, apply_ite State.regs]
@[simp] theorem State.tryImage_regs (s : State) (b copy : Bytes) : (s.tryImage b copy).regs = s.regs := by
  simp [State.tryImage, State.when_regs, apply_ite State.regs]
@[simp] theorem State.releaseMember_regs (s : State) : s.releaseMember.regs = s.regs := by
  unfold State.releaseMember
  dsimp only
  simp [State.reEnv_regs, State.when_regs, apply_ite State.regs]
@[simp] theorem State.levelReset_regs (s : State) : s.levelReset.regs = s.regs := by
  simp [State.levelReset]
@[simp] theorem State.ringOn_regs (s : State) (r : Fin 64) : (s.ringOn r).regs = s.regs := by
  simp [State.ringOn, apply_ite State.regs]
@[simp] theorem State.ringOff_regs (s : State) (r : Fin 64) : (s.ringOff r).regs = s.regs := by
  simp [State.ringOff]
theorem State.hostMsg_regs (s : State) (b : Bytes) (t : State) (e : s.hostMsg b = some t) : t.regs = s.regs := by
  unfold State.hostMsg at e
  dsimp only at e
  repeat' split at e
  all_goals first | exact State.envelopeMsg_regs _ _ _ e | (cases e; done) | (cases e; simp)
@[simp] theorem State.mbxDone_regs (s : State) (status : Nat) (detail : Nat) : (s.mbxDone status detail).regs = s.regs := by
  simp [State.mbxDone]
@[simp] theorem State.answer_regs (s : State) (a : Asker) (opcode : Nat) (status : Nat) (detail : Nat) : (s.answer a opcode status detail).regs = s.regs := by
  unfold State.answer
  repeat' first | intro _ | rw [foldl_regs] | rw [foldl_fst_regs] | rw [foldl_snd_regs] | split | simp
theorem State.askFrom_regs (s : State) (a : Asker) (o : Nat) (p : Desc → Bool) (f : State → State) (h : ∀ s, (f s).regs = s.regs) :
    (s.askFrom a o p f).regs = s.regs := by
  unfold State.askFrom
  repeat' first | split | rw [State.beginDesc_regs] | simp [h]
@[simp] theorem State.keepDeparts_regs (s : State) (b : Fabric) : (s.keepDeparts b).regs = s.regs := by
  simp [State.keepDeparts]
@[simp] theorem State.acceptLong_regs (s : State) (op : BigOp) (a : Asker) : (s.acceptLong op a).regs = s.regs := by
  unfold State.acceptLong
  repeat' first | intro _ | rw [foldl_regs] | rw [foldl_fst_regs] | rw [foldl_snd_regs] | split | simp
@[simp] theorem State.acceptUnbound_regs (s : State) (op : BigOp) (a : Asker) : (s.acceptUnbound op a).regs = s.regs := by
  simp [State.acceptUnbound, apply_ite State.regs]
@[simp] theorem State.openApproval_regs (s : State) (op : BigOp) (a : Asker) (digest : Bytes) : (s.openApproval op a digest).regs = s.regs := by
  simp [State.openApproval]
@[simp] theorem State.needApproval_regs (s : State) (op : BigOp) (a : Asker) (digest : Bytes) : (s.needApproval op a digest).regs = s.regs := by
  simp [State.needApproval, apply_ite State.regs]
@[simp] theorem State.approvedLong_regs (s : State) (op : BigOp) (a : Asker) (block : Option Bytes) : (s.approvedLong op a block).regs = s.regs := by
  unfold State.approvedLong
  repeat' first | intro _ | rw [foldl_regs] | rw [foldl_fst_regs] | rw [foldl_snd_regs] | split | simp [State.when_regs, apply_ite State.regs]
@[simp] theorem State.eraseFlash_regs (s : State) : s.eraseFlash.regs = s.regs := by
  simp [State.eraseFlash]
@[simp] theorem State.replaceMedia_regs (s : State) : s.replaceMedia.regs = s.regs := by
  simp [State.replaceMedia]
@[simp] theorem State.turnLife_regs (s : State) (t : Life) : (s.turnLife t).regs = s.regs := by
  simp [State.turnLife, State.when_regs]
@[simp] theorem State.finishChange_regs (s : State) : s.finishChange.regs = s.regs := by
  unfold State.finishChange
  repeat' first | intro _ | rw [foldl_regs] | rw [foldl_fst_regs] | rw [foldl_snd_regs] | split | simp [State.when_regs, apply_ite State.regs]
@[simp] theorem State.writeSlot_regs (s : State) (p : Bytes) : (s.writeSlot p).regs = s.regs := by
  simp [State.writeSlot]
@[simp] theorem State.endLong_regs (s : State) (a : Asker) (status : Nat) : (s.endLong a status).regs = s.regs := by
  unfold State.endLong
  repeat' first | intro _ | rw [foldl_regs] | rw [foldl_fst_regs] | rw [foldl_snd_regs] | split | simp [State.when_regs, apply_ite State.regs]
theorem State.mailbox_regs (s : State) (f : State → State) (h : ∀ s, (f s).regs = s.regs) : (s.mailbox f).regs = s.regs := by
  unfold State.mailbox
  repeat' first | split | simp [h]
@[simp] theorem State.closeMissing_regs (s : State) : s.closeMissing.regs = s.regs := by
  unfold State.closeMissing
  repeat' first | intro _ | rw [foldl_regs] | rw [foldl_fst_regs] | rw [foldl_snd_regs] | split | simp
@[simp] theorem State.mbxActivate_regs (s : State) : s.mbxActivate.regs = s.regs := by
  unfold State.mbxActivate
  rw [State.mailbox_regs]
  intro s
  dsimp only
  repeat' first | split | simp
@[simp] theorem State.mbxCancel_regs (s : State) : s.mbxCancel.regs = s.regs := by
  unfold State.mbxCancel
  rw [State.mailbox_regs]
  intro s
  repeat' first | split | simp
@[simp] theorem State.performOp_regs (s : State) (op : BigOp) (a : Asker) : (s.performOp op a).regs = s.regs := by
  unfold State.performOp
  repeat' first | intro _ | rw [foldl_regs] | rw [foldl_fst_regs] | rw [foldl_snd_regs] | split | simp
@[simp] theorem State.answerApprove_regs (s : State) (board : Bool) (status : Nat) : (s.answerApprove board status).regs = s.regs := by
  simp [State.answerApprove, apply_ite State.regs]
@[simp] theorem State.takeApproval_regs (s : State) (board : Bool) (msg : Bytes) : (s.takeApproval board msg).regs = s.regs := by
  unfold State.takeApproval
  repeat' first | intro _ | rw [foldl_regs] | rw [foldl_fst_regs] | rw [foldl_snd_regs] | split | simp [State.when_regs, apply_ite State.regs]
theorem State.askBoard_regs (s : State) (f : State → State) (h : ∀ s, (f s).regs = s.regs) : (s.askBoard f).regs = s.regs := by
  unfold State.askBoard
  repeat' first | split | simp [h]
@[simp] theorem State.answerSpdm_regs (s : State) (slot recovery : Bool) : (s.answerSpdm slot recovery).regs = s.regs := by
  rfl
@[simp] theorem State.goDown_regs (s : State) : s.goDown.regs = s.regs := by
  simp [State.goDown]
@[simp] theorem State.trainLink_regs (s : State) : s.trainLink.regs = s.regs := by
  simp [State.trainLink, apply_ite State.regs]
@[simp] theorem State.selfTest_regs (s : State) (o : StartObs) : (s.selfTest o).regs = s.regs := by
  simp [State.selfTest]
@[simp] theorem State.trainUnits_regs (s : State) (o : StartObs) (ver : Word) (warm : Bool) : (s.trainUnits o ver warm).regs = s.regs := by
  rfl
@[simp] theorem State.wipeAll_regs (s : State) : s.wipeAll.regs = s.regs := by
  unfold State.wipeAll
  dsimp only
  rw [State.upTiers_regs, foldl_snd_regs]
  intro x a
  rfl
@[simp] theorem State.startDone_regs (s : State) (slot : Bool) (recovery : Bool) (warm : Bool) : (s.startDone slot recovery warm).regs = s.regs := by
  simp [State.startDone, apply_ite State.regs]
@[simp] theorem State.startLate_regs (s : State) (st : StartS) (allWarm : Bool) : (s.startLate st allWarm).regs = s.regs := by
  simp [State.startLate]
theorem State.beginJob_regs (s : State) (r : Fin 64) (op : Nat) (k : Desc → State → State) (h : ∀ d s, (k d s).regs = s.regs) :
    (s.beginJob r op k).regs = s.regs := by
  unfold State.beginJob
  rw [State.beginDesc_regs]
  intro d s
  repeat' first | split | simp [h]
@[simp] theorem State.takeSize_regs (s : State) (x : StepSizeRec) : (s.takeSize x).regs = s.regs := by
  simp [State.takeSize, apply_ite State.regs]
@[simp] theorem State.exportBytes_regs (s : State) (step : DWord) (i : FlashImg) (off : Nat) (len : Nat) (addr : DWord) : (s.exportBytes step i off len addr).regs = s.regs := by
  simp [State.exportBytes]
theorem State.install_regs (s : State) (im : Image) (r : DWord) (t : State) (e : s.install im r = .ok t) : t.regs = s.regs := by
  unfold State.install at e
  dsimp only at e
  repeat' split at e
  all_goals first
    | (have e := Except.ok.inj e
       rw [← e, State.upRt_regs, State.applyBinding_regs]
       rfl)
    | exact nomatch e
@[simp] theorem State.form_regs (s : State) (p : JobParams) (old : State) : (s.form p old).regs = s.regs := by
  unfold State.form
  repeat' first | intro _ | rw [foldl_regs] | rw [foldl_fst_regs] | rw [foldl_snd_regs] | rw [State.reEnv_regs] | rw [State.checked_regs] | rw [State.when_regs] | split | simp [apply_ite State.regs]
@[simp] theorem State.beginRestore_regs (s : State) (own : Option Bytes) (lost : List (Word × Nat)) (p : JobParams) :
    (s.beginRestore own lost p).regs = s.regs := by
  unfold State.beginRestore
  dsimp only
  rw [apply_ite State.regs, State.endRestore_regs, ite_self]
  cases own <;> simp
@[simp] theorem State.offerHandover_regs (s : State) (h : List (BitVec 17) × Bytes) (wait : Bool) : (s.offerHandover h wait).regs = s.regs := by
  rfl
@[simp] theorem State.setupMember_regs (s : State) (b : Bytes) (p : JobParams) : (s.setupMember b p).regs = s.regs := by
  unfold State.setupMember
  dsimp only
  split
  · simp
  · split
    · simp
    · simp
    · rename_i e _
      rw [apply_ite State.regs, State.beginRestore_regs, State.firstRun_regs, ite_self, State.offerHandover_regs, State.form_regs, State.install_regs _ _ _ _ e]
@[simp] theorem State.setupDeparting_regs (s : State) (p : JobParams) : (s.setupDeparting p).regs = s.regs := by
  simp [State.setupDeparting, apply_ite State.regs]
@[simp] theorem State.setPortEn_regs (s : State) (v : Word) : (s.setPortEn v).regs = s.regs := by
  unfold State.setPortEn
  repeat' first | intro _ | rw [foldl_regs] | rw [foldl_fst_regs] | rw [foldl_snd_regs] | split | simp
@[simp] theorem State.setTimeCtl_regs (s : State) (v : Nat) : (s.setTimeCtl v).regs = s.regs := by
  simp [State.setTimeCtl, State.when_regs]
@[simp] theorem State.setSb_regs (s : State) (v : Nat) : (s.setSb v).regs = s.regs := by
  simp [State.setSb]
@[simp] theorem State.setMbxCmd_regs (s : State) (v : Nat) : (s.setMbxCmd v).regs = s.regs := by
  unfold State.setMbxCmd
  repeat' first | split | rw [State.mailbox_regs] | intro _ | simp
@[simp] theorem State.ringSetup_regs (s : State) (r : Fin 64) (d : Bool) (f : Ring → Ring) : (s.ringSetup r d f).1.regs = s.regs := by
  unfold State.ringSetup
  split <;> simp
@[simp] theorem State.withFetchWord_regs (s : State) (nbits : Nat) (w : Nat) : (s.withFetchWord nbits w).regs = s.regs := by
  unfold State.withFetchWord
  repeat' first | intro _ | rw [foldl_regs] | rw [foldl_fst_regs] | rw [foldl_snd_regs] | split | simp
end Sys2Proof.Machine
end

