-- ==== Sys2Proof/Laws/Memory.lean ====
section
/-! SUPPORT. Laws of byte memory: every operation keeps the canonical form, a read after a write to the same address gives the byte written,
and a write leaves every other address alone. -/
namespace Sys2Proof.Machine.Memory

/-- A weaker bound is kept. -/
theorem wfFrom_weaken {a b : Nat} (h : a ≤ b) : ∀ m : Memory, wfFrom (some b) m = true → wfFrom (some a) m = true
  | [], _ => rfl
  | (x, y) :: rest, w => by
    simp only [wfFrom, Bool.and_eq_true, decide_eq_true_eq] at w ⊢
    exact ⟨⟨by omega, w.1.2⟩, w.2⟩

theorem wfFrom_none {a : Nat} : ∀ m : Memory, wfFrom (some a) m = true → wfFrom none m = true
  | [], _ => rfl
  | (x, y) :: rest, w => by
    simp only [wfFrom, Bool.and_eq_true, decide_eq_true_eq, true_and] at w ⊢
    exact ⟨w.1.2, w.2⟩

/-- A write above the bound keeps the form. -/
theorem wfFrom_write {lo : Nat} {a : Nat} (b : Byte) (h : lo < a) :
    ∀ m : Memory, wfFrom (some lo) m = true → wfFrom (some lo) (write m a b) = true := by
  intro m
  induction m generalizing lo with
  | nil =>
    intro _
    unfold write
    split
    · rfl
    · next hb => simp [wfFrom, h, hb]
  | cons c rest ih =>
    obtain ⟨x, y⟩ := c
    intro w
    simp only [wfFrom, Bool.and_eq_true, decide_eq_true_eq] at w
    unfold write
    split
    · next e =>
      subst e
      split
      · exact wfFrom_weaken (Nat.le_of_lt w.1.1) rest w.2
      · next hb => simp [wfFrom, h, hb, w.2]
    · split
      · next hlt =>
        split
        · simp [wfFrom, w.1.1, w.1.2, w.2]
        · next hb => simp [wfFrom, h, hb, hlt, w.1.2, w.2]
      · next hne hnl =>
        have : x < a := by omega
        simp [wfFrom, w.1.1, w.1.2, ih this w.2]

/-- Writing a byte keeps the canonical form. -/
theorem wf_write (m : Memory) (a : Nat) (b : Byte) (w : wf m = true) : wf (write m a b) = true := by
  cases m with
  | nil =>
    unfold write
    split
    · rfl
    · next hb => simp [wf, wfFrom, hb]
  | cons c rest =>
    obtain ⟨x, y⟩ := c
    simp only [wf, wfFrom, Bool.and_eq_true, decide_eq_true_eq, true_and] at w
    unfold write
    split
    · next e =>
      subst e
      split
      · exact wfFrom_none rest w.2
      · next hb => simp [wf, wfFrom, hb, w.2]
    · split
      · next hlt =>
        split
        · simp [wf, wfFrom, w.1, w.2]
        · next hb => simp [wf, wfFrom, hb, hlt, w.1, w.2]
      · next hne hnl =>
        have : x < a := by omega
        simp [wf, wfFrom, w.1, wfFrom_write b this rest w.2]

/-- Writing a byte string keeps the canonical form. -/
theorem wf_writeN : ∀ (bs : Bytes) (m : Memory) (a : Nat), wf m = true → wf (writeN m a bs) = true
  | [], _, _, w => w
  | b :: bs, m, a, w => wf_writeN bs (write m a b) (a + 1) (wf_write m a b w)

/-- Writing a number keeps the canonical form. -/
theorem wf_writeLE (m : Memory) (a n v : Nat) (w : wf m = true) : wf (writeLE m a n v) = true := wf_writeN _ m a w

theorem wfFrom_filter (p : Host.Cell → Bool) : ∀ (m : Memory) (lo : Nat), wfFrom (some lo) m = true → wfFrom (some lo) (m.filter p) = true
  | [], _, _ => rfl
  | (x, y) :: rest, lo, w => by
    simp only [wfFrom, Bool.and_eq_true, decide_eq_true_eq] at w
    rw [List.filter_cons]
    split
    · simp [wfFrom, w.1.1, w.1.2, wfFrom_filter p rest x w.2]
    · exact wfFrom_weaken (Nat.le_of_lt w.1.1) _ (wfFrom_filter p rest x w.2)

theorem wf_filter (p : Host.Cell → Bool) : ∀ m : Memory, wf m = true → wf (m.filter p) = true
  | [], _ => rfl
  | (x, y) :: rest, w => by
    simp only [wf, wfFrom, Bool.and_eq_true, decide_eq_true_eq, true_and] at w
    rw [List.filter_cons]
    split
    · simp [wf, wfFrom, w.1, wfFrom_filter p rest x w.2]
    · exact wfFrom_none _ (wfFrom_filter p rest x w.2)

/-- Clearing a range keeps the canonical form. -/
theorem wf_zeroN (m : Memory) (a n : Nat) (w : wf m = true) : wf (zeroN m a n) = true := wf_filter _ m w

/-- The empty memory is in canonical form. -/
theorem wf_nil : wf [] = true := rfl

/-- Below its lowest entry a memory in canonical form reads as unlisted. -/
theorem read_below {lo : Nat} : ∀ m : Memory, wfFrom (some lo) m = true → ∀ a, a ≤ lo → read m a = unlisted
  | [], _, _, _ => rfl
  | (x, y) :: rest, w, a, h => by
    simp only [wfFrom, Bool.and_eq_true, decide_eq_true_eq] at w
    unfold read
    rw [if_neg (by omega), if_pos (by omega)]

/-- A read after a write to the same address gives the byte written. -/
theorem read_write_same (m : Memory) (a : Nat) (b : Byte) (w : wf m = true) : read (write m a b) a = b := by
  induction m with
  | nil =>
    unfold write
    split
    · next hb => simp [read, hb]
    · simp [read]
  | cons c rest ih =>
    obtain ⟨x, y⟩ := c
    simp only [wf, wfFrom, Bool.and_eq_true, decide_eq_true_eq, true_and] at w
    unfold write
    split
    · next e =>
      subst e
      split
      · next hb => rw [hb]; exact read_below rest w.2 a (Nat.le_refl a)
      · simp [read]
    · next hne =>
      split
      · next hlt =>
        split
        · next hb => simp [read, hne, hlt, hb]
        · simp [read]
      · next hnl => simp [read, hne, hnl, ih (wfFrom_none rest w.2)]

/-- A write leaves every other address alone. -/
theorem read_write_other (m : Memory) (a a' : Nat) (b : Byte) (h : a' ≠ a) (w : wf m = true) : read (write m a b) a' = read m a' := by
  induction m with
  | nil =>
    unfold write
    split
    · rfl
    · simp [read, h]
  | cons c rest ih =>
    obtain ⟨x, y⟩ := c
    simp only [wf, wfFrom, Bool.and_eq_true, decide_eq_true_eq, true_and] at w
    have ih' := ih (wfFrom_none rest w.2)
    unfold write
    split
    · next e =>
      subst e
      split
      · conv => rhs; unfold read
        rw [if_neg h]
        split
        · next hlt => exact read_below rest w.2 a' (Nat.le_of_lt hlt)
        · rfl
      · simp [read, h]
    · next hne =>
      split
      · next hlt =>
        split
        · rfl
        · conv => lhs; unfold read
          rw [if_neg h]
          split
          · next h2 =>
            have h3 : a' ≠ x := by omega
            have h4 : a' < x := by omega
            simp [read, h3, h4]
          · rfl
      · next hnl =>
        conv => lhs; unfold read
        conv => rhs; unfold read
        split
        · rfl
        · split
          · rfl
          · exact ih'

/-- A written byte string leaves every address outside it alone. -/
theorem read_writeN_other : ∀ (bs : Bytes) (m : Memory) (a a' : Nat), wf m = true → (a' < a ∨ a + bs.length ≤ a') →
    read (writeN m a bs) a' = read m a'
  | [], _, _, _, _, _ => rfl
  | b :: bs, m, a, a', w, h => by
    simp only [List.length_cons] at h
    unfold writeN
    rw [read_writeN_other bs (write m a b) (a + 1) a' (wf_write m a b w) (by omega), read_write_other m a a' b (by omega) w]

/-- A written byte string reads back. -/
theorem readN_writeN : ∀ (bs : Bytes) (m : Memory) (a : Nat), wf m = true → readN (writeN m a bs) a bs.length = bs
  | [], _, _, _ => rfl
  | b :: bs, m, a, w => by
    unfold writeN
    have h1 := readN_writeN bs (write m a b) (a + 1) (wf_write m a b w)
    have h2 : read (writeN (write m a b) (a + 1) bs) a = b := by
      rw [read_writeN_other bs (write m a b) (a + 1) a (wf_write m a b w) (Or.inl (by omega)), read_write_same m a b w]
    simp only [List.length_cons, readN, h1, h2]

end Sys2Proof.Machine.Memory
end

