-- ==== Sys2Proof/WellFormed.lean ====
section
/-! DEFINITION. Which commands are well formed: the lengths that the rules give to what arrives from outside. -/
namespace Sys2Proof

/-- A packet's LEN is a multiple of 4 and at most 4,608 (R369), and is the payload's length but in a LOAD,
where it counts the bytes asked for. -/
def Pkt.wf (k : Pkt) : Bool :=
  k.len.toNat % 4 = 0 && k.len.toNat ≤ 4608 && (k.op = 0x01#8 || k.payload.length = k.len.toNat)

/-- Where a memory error can lie: units and channels that exist (R250, R282). -/
def ErrLoc.wf (l : ErrLoc) : Bool :=
  match l.tier with
  | .cell => decide (l.unit < 1024 ∧ l.offset < 0x200000)
  | .stack => decide (l.unit < 12 ∧ l.channel < 16)
  | .capacity => decide (l.unit < 24 ∧ l.channel < 2)
  | .flash => decide (l.unit < 2)
  | .staging => decide (l.unit < 128)

/-- A host buffer that could be read has a length its descriptor names; one that could not is none. -/
def optLen (n : Nat) : Option Bytes → Bool
  | none => true
  | some b => b.length = n

/-- The well-formedness check of one command. -/
def Instr.wf : Instr → Bool
  | .beacon obs => obs.length = 64
  | .contributionSend _ p => p.length ≤ 8448
  | .packetForward _ k | .load _ k | .store _ k | .atomic _ k | .reduce _ k | .mcastStore _ k | .resp _ k
  | .integrity _ k | .teardown _ k | .envelope _ k | .credit _ k | .msg _ k => k.wf
  | .patrolScrub l _ | .correctedError l | .memoryUe l _ => l.wf
  | .currantEval means => means.length = 8
  | .descriptorFetch _ d => optLen 64 (d.map (·.bytes))
  | .perstDeassert g w => (g = none || g = some 4#4 || g = some 5#4 || g = some 6#4) && (w = 4#5 || w = 8#5 || w = 16#5)
  | .stageRkt t => t.length % 32 = 0 && t.length ≤ 4096 * 32
  | .registerWrite _ _ size _ _ => 1 ≤ size.toNat && size.toNat ≤ 8
  | .loRegisterRead x => (x.size = 4#4 || x.size = 8#4) && x.offset.toNat % x.size.toNat = 0
  | .lifecycleChange a _ | .sanitise a | .flashFormat a => a.asker ≠ .mctp || a.block.isSome
  | .firmwareCommit a b => a ≠ .mctp || b.isSome
  | _ => true

end Sys2Proof
end

