-- ==== Sys2Proof/Tests/Slice0.lean ====
section
/-! SUPPORT. Tests: commands that the well-formedness check refuses, and for each statement states and operands that meet the hypotheses of its
clauses, with what the command does there. -/
namespace Sys2Proof.Tests
open Sys2Proof Sys2Proof.Machine

set_option maxRecDepth 40000

/-- The command answers a next state of which p holds. -/
def goes (o : Res) (p : State → Bool) : Bool :=
  match o with
  | .next t => p t
  | _ => false

/-! ### Commands that are refused as ill formed -/

/-- A STORE of four bytes from module 9 to module 5. -/
def pk : Pkt :=
  { pktBlank with op := 0x02, dst := 5, src := 9, hops := 4, len := 4, seq := 1, job := 7, payload := [1, 2, 3, 4] }

theorem test_wf_packet : Instr.wf (.store 0 pk) = true ∧ Instr.wf (.store 0 { pk with len := 6 }) = false ∧
    Instr.wf (.msg 0 { pk with len := 4612 }) = false ∧ Instr.wf (.mcastStore 0 { pk with payload := [] }) = false ∧
    Instr.wf (.load 0 { pk with op := 0x01, payload := [] }) = true := by decide

theorem test_wf_location : Instr.wf (.correctedError { tier := .stack, unit := 12, channel := 0, offset := 0 }) = false ∧
    Instr.wf (.memoryUe { tier := .capacity, unit := 0, channel := 2, offset := 0 } .other) = false ∧
    Instr.wf (.patrolScrub { tier := .cell, unit := 1023, channel := 0, offset := 0x1FFFFF } true) = true := by decide

theorem test_wf_lengths : Instr.wf (.beacon []) = false ∧ Instr.wf (.currantEval [1]) = false ∧ Instr.wf (.descriptorFetch 1 (some ⟨[0], none⟩)) = false ∧
    Instr.wf (.descriptorFetch 1 none) = true ∧ Instr.wf (.stageRkt [0]) = false ∧ Instr.wf (.perstDeassert (some 3) 16) = false ∧
    Instr.wf (.perstDeassert (some 4) 2) = false ∧ Instr.wf (.perstDeassert (some 6) 16) = true := by decide

/-- The header of a contribution of nothing. -/
def ch : ContribHdr :=
  { job := 0, tensor := 0, step := 0, tile := 0, owner := 0, srcPos := 0, count := 0, bf16 := false, nonfinite := false, stale := false, rows := false,
    last := false, run := false, half := false, layer := 0 }

theorem test_wf_contribution : Instr.wf (.contributionSend ch (List.replicate 8449 0)) = false ∧ Instr.wf (.contributionSend ch []) = true := by decide

theorem test_wf_registers : Instr.wf (.registerWrite false 4 0 0xFF 0) = false ∧ Instr.wf (.registerWrite false 8 8 0xFF 0) = true ∧
    Instr.wf (.registerWrite true 2 9 0xF 0) = false ∧ Instr.wf (.loRegisterRead ⟨false, 4, 2⟩) = false ∧
    Instr.wf (.loRegisterRead ⟨false, 8, 4⟩) = false ∧ Instr.wf (.loRegisterRead ⟨true, 2, 0⟩) = false ∧ Instr.wf (.loRegisterRead ⟨false, 8, 8⟩) = true := by decide

/-! ### Clocks, time and queues -/

/-- Reset with cluster 3 running. -/
def sClk : State := State.reset.upCluster 3 fun k => { k with running := true, droop := true, stepHeld := true }

theorem witness_DroopStretchCountedOnce : sClk.clusters[sClk.oscOf 3].running = true ∧ sClk.clusters[sClk.oscOf 4].running = false ∧
    sClk.clusters[(3 : Fin 64)].droop = true ∧ goes (exec (.droopStretch 3 false) sClk) (fun t => t.clusters[3].stretched = 1 && t.clusters[3].cycles = 1) = true ∧
    goes (exec (.droopResponseEnd 3) sClk) (fun t => !t.clusters[3].droop && !t.clusters[3].stepHeld) = true := by decide

theorem witness_BeaconAtEachMultiple : sClk.pins.vaux = true ∧ sClk.clusters[(3 : Fin 64)].running = true ∧ sClk.clusters[(4 : Fin 64)].running = false ∧
    (sClk.upPins fun p => { p with vaux := false }).pins.vaux = false := by and_intros <;> decide

theorem witness_StepRunsTheFrontCommand : State.reset.pending = [] ∧ goes (step { sClk with pending := [.droopStretch 3 false] })
    (fun t => t.clusters[3].cycles = 1 && t.pending.isEmpty) = true := by and_intros <;> decide

theorem test_beacon : goes (exec (.beacon [{ cycles := 512, droopFs := 0, diff := 0 }, { cycles := 512, droopFs := 0, diff := 0 },
    { cycles := 512, droopFs := 0, diff := 0 }, { cycles := 1536, droopFs := 0, diff := 0 }]) (sClk.upCluster 3 fun k => { k with stepTo := some 800 }))
      (fun t => t.now = 16384 && t.time.ctr = 0 && t.clusters[3].beacons = 1 && t.clusters[3].cycles = 1536 && t.clusters[4].beacons = 0) = true := by decide

/-- A module locked to the upstream on port 2, with a backup. -/
def sTime : State :=
  State.reset.upTime fun b => { b with timeEn := true, upPort := 2, backupPort := 3, backupEn := true, locked := true, goodMsgs := 2,
                                       holdover := true, linkDelay := 10, msgsSinceDelay := 1024, beaconsSinceMsg := 128 }

/-- The same without a backup, in a job, unlocked since time 5. -/
def sLost : State :=
  { (sTime.upTime fun b => { b with locked := false, backupEn := false, unlockedAt := some 5 }) with
    job := { Job.reset with phase := .formed, p := { JobParams.reset with jobId := 7 } } }

theorem witness_TimeIsHeldLockedAndLost :
    (sTime.time.holdover = true ∧ (sTime.time.timeRoot = false ∧ sTime.time.locked = true ∧
    sTime.time.backupEn = true ∧ sTime.time.onBackup = false) ∧ (let s := sTime.upTime fun b => { b with locked := false }
      s.time.timeRoot = false ∧ s.time.timeEn = true ∧ s.time.backupEn = true ∧ s.time.onBackup = false) ∧ (let s := sTime.upTime fun b => { b with backupEn := false }
      s.time.timeRoot = false ∧ s.time.locked = true ∧ s.time.backupEn = false ∧ goes (exec .upstreamLost s) (fun t => t.time.upLost && !t.time.locked) = true) ∧
    sLost.time.unlockedAt = some 5 ∧ sLost.time.locked = false ∧ sLost.inJob = true ∧
    goes (exec .upstreamLost sTime) (fun t => t.time.upLost && t.time.onBackup && t.time.locked) = true ∧
    goes (exec .unlockTimeout sLost) (fun t => t.job.phase = .tornDown && t.job.torn = [7]) = true) ∧
    ((sTime.time.timeEn = true ∧ sTime.time.timeRoot = false ∧ sTime.time.upstream.toNat = (2 : Fin 32).val) ∧
    sTime.time.upstream.toNat ≠ (4 : Fin 32).val ∧ (sTime.upTime fun b => { b with timeRoot := true }).time.timeRoot = true ∧
    goes (exec (.time 2 { tTx := 1000, root := 1, hops := 3, seqT := 9 } 1266) (sTime.upTime fun b => { b with locked := false }))
      (fun t => t.time.locked && t.time.lastOffset = 256 && t.now = 1010) = true ∧
    goes (exec (.time 2 { tTx := 1000, root := 1, hops := 3, seqT := 9 } 1267) (sTime.upTime fun b => { b with locked := false }))
      (fun t => !t.time.locked && t.time.goodMsgs = 0) = true) := by
  and_intros <;> first | decide | decide +kernel

/-- Port 2 is up and a delay request is on its way. -/
def sDelay : State := (sTime.upPort 2 fun q => { q with st := .up }).upTime fun b => { b with delayReq := some (100, 6) }

theorem witness_LinkDelayAndTimeMessages : sDelay.time.delayReq = some (100, 6) ∧ sDelay.time.upstream.toNat = (2 : Fin 32).val ∧
    (sDelay.time.timeEn = true ∧ sDelay.time.timeRoot = false ∧ sDelay.time.msgsSinceDelay ≥ 1024 ∧ sDelay.fab.ports[portOf sDelay.time.upstream].st = .up) ∧
    (sDelay.time.locked = true ∧ sDelay.time.beaconsSinceMsg ≥ 128) ∧
    goes (exec (.delayResp 2 140 180 6 240) sDelay) (fun t => t.time.linkDelay = 50 && t.time.delayReq = none) = true ∧
    goes (exec .delayReqSend sDelay) (fun t => t.time.delayReq = some (0, 1) && t.time.msgsSinceDelay = 0) = true ∧
    goes (exec .timeMsgSend (sDelay.upPort 5 fun q => { q with st := .up }))
      (fun t => t.time.seqT = 1 && decide ((t.fab.ports[5].queues[0]).length = 1) && decide ((t.fab.ports[2].queues[0]).length = 0)) = true := by decide

/-- The watchdog has run out; a pulse is high. -/
def sDog : State := (State.reset.upTime fun b => { b with wdArmed := true, wdTimeout := 4, wdLeft := 0 }).upPins fun p =>
  { p with sbSel := 0x0001, tpHigh := true, tpLast := 2 }

theorem witness_WatchdogAndTimePulse : (sDog.time.wdArmed = true ∧ sDog.time.wdLeft = 0 ∧ sDog.quince.start = none ∧
    (within sDog.now dayU sDog.quince.wdTimes).length < 2) ∧ 2 ≤ (within sDog.now dayU (sDog.upQuince fun q => { q with wdTimes := [0, 0] }).quince.wdTimes).length ∧
    (sDog.upQuince fun q => { q with start := some { warm := true, asked := true, recovery := false, trial := false, since := 0 } }).quince.start.isSome = true ∧
    sDog.pins.vaux = true ∧ (sDog.upPins fun p => { p with vaux := false }).pins.vaux = false ∧ goes (exec .watchdogExpiry sDog) (fun t => t.pins.faultLow && t.quince.wdTimes = [0]) = true ∧
    goes (exec .watchdogExpiry (sDog.upQuince fun q => { q with wdTimes := [0, 0] })) (fun t => t.quince.start.any (·.warm)) = true ∧
    sDog.pins.tpHigh = true ∧ sDog.pins.pulseOn (0 : Fin 2).val = true ∧ goes (exec (.timePulse 0) sDog) (fun t => !t.pins.tpHigh) = true := by decide

/-- A word of a handshake queue that is neither a token nor of a tile. -/
def qw (d : BitVec 512) : QWord := { kind := .other, data := d }

/-- Queue 5 holds two words, one of them shown; queue 6 is full. -/
def sQue : State := (State.reset.upQueue 5 fun _ => { words := [qw 7, qw 8], visible := 1, returning := 1 }).upQueue 6 fun _ =>
  { words := [qw 1, qw 2, qw 3, qw 4, qw 5, qw 6, qw 7], visible := 0, returning := 1 }

theorem witness_EveryStepKeepsQueuesWithinEightEntries : sQue.queues[(5 : Fin 7680)].Ok ∧ sQue.queues[(6 : Fin 7680)].Ok :=
  ⟨⟨by decide, by decide⟩, ⟨by decide, by decide⟩⟩

/-- Channel 3: a word waits at its transmit end, one is in flight, and one credit is on its way back. -/
def sJoin : State := (State.reset.upQueue (txQueue 3) fun _ => { words := [qw 7], visible := 1, returning := 0 }).upJoin 3 fun j =>
  { j with credits := 14, flight := [qw 5], freed := 1 }

theorem witness_QueueAndJoinWordsMoveInOrder :
    ((rxChannel 5 = none ∧ sQue.queues[(5 : Fin 7680)].canWrite = true) ∧ sQue.queues[(6 : Fin 7680)].canWrite = false ∧
    (sQue.queues[(5 : Fin 7680)].visible < (sQue.queues[(5 : Fin 7680)].words).length) ∧ 0 < sQue.queues[(5 : Fin 7680)].visible ∧
    sQue.relayTo 5 = none ∧ sQue.crossFrom 5 = none ∧ sQue.queues[(5 : Fin 7680)].words ≠ [] ∧ sQue.queues[(6 : Fin 7680)].visible = 0 ∧
    goes (exec (.queueRead 5) sQue) (fun t => t.queues[5].words = [qw 8] && decide (t.queues[5].returning = 2)) = true) ∧
    ((sJoin.queues[txQueue 3].front = some (qw 7) ∧ 0 < sJoin.joins[(3 : Fin 1792)].credits) ∧
    0 < sJoin.joins[(3 : Fin 1792)].freed ∧ (sJoin.joins[(3 : Fin 1792)].flight = qw 5 :: [] ∧ sJoin.queues[rxQueue 3].canWrite = true) ∧
    goes (exec (.joinChannelTakeup 3) sJoin) (fun t => t.joins[3].flight = [qw 5, qw 7] && t.joins[3].credits = 13) = true ∧
    goes (exec (.joinCreditReturn 3) sJoin) (fun t => t.joins[3].freed = 0 && t.joins[3].credits = 15) = true ∧
    goes (exec (.queueWrite (rxQueue 3) 5) sJoin) (fun t => t.joins[3].flight = [] && t.queues[rxQueue 3].words = [qw 5]) = true) := by
  and_intros <;> decide

/-- The lock is set and a restart ends the job. -/
theorem witness_LockClearsOnlyAtAStart : (State.reset.upRegs fun g => { g with lock := true }).regs.lock = true ∧
    goes (exec .vauxApplied (State.reset.upRegs fun g => { g with lock := true })) (fun t => !t.regs.lock && t.quince.start.isSome) = true ∧
    goes (exec .referenceLoss (State.reset.upRegs fun g => { g with lock := true })) (fun t => t.regs.lock) = true := by decide

/-! ### Programs, frames and nests -/

/-- A frame from the words that are not 0, by their offsets. -/
def frame (kv : List (Nat × Nat)) : Bytes := (List.range 64).flatMap fun i => toLE ((getKV (4 * i) kv).getD 0) 4

/-- A region of one cell, and an instruction of that cell. -/
def rgn (i : Nat) : RegionE :=
  { region := i, pair := false, cellMask := 1, fCap := 1800, weight := 1, progOffset := 0, progLen := 10, frameFirst := 0, frameCount := 0, nominal := 100 }
def ins (op operand : Nat) : PInstr := { op := op, cell := 0, delay := 0, operand := operand }
def cross (p q queue : Nat) : CrossE := { prodRegion := p, consRegion := q, prodCell := 0, consCell := 0, queue := queue, rank := 0, aP := 0, aC := 0 }

/-- An image of two regions that hand each other tokens, with one instruction of each kind. -/
def im2 : Image :=
  { Image.empty with
    regions := [rgn 0, rgn 1], crossings := [cross 0 1 5, cross 1 0 6],
    progs := [ins 0 0, ins 1 2, ins 2 0, ins 3 0x00020001, ins 4 0x00200010, ins 5 5, ins 6 6, ins 7 0, ins 8 0x00020003, ins 9 77] }

/-- The regions run on clusters 0 and 1; cell 0 is at an instruction. -/
def sProg (j : Nat) (f : CellS → CellS) : State :=
  ({ State.reset with
    rt := { Runtime.reset with image := some im2, attached := [0, 1], regions := [{ RegionS.reset with cluster := some 0, running := true, placed := true },
      { RegionS.reset with cluster := some 1, running := true, placed := true }] },
    job := { Job.reset with phase := .formed, stage := .running, p := { JobParams.reset with jobId := 7 } } } : State).upCell 0
    fun k => f { k with pc := some j }

/-- A frame register that holds a valid frame. -/
def goodFrame (kv : List (Nat × Nat)) : FrameReg := { loaded := true, valid := true, bytes := frame kv }

theorem witness_ProgramInstructionsAdvanceTheCell :
    ((sProg 0 id).nextInstr 0 = some (0, 0, 0, ins 0 0) ∧ (ins 0 0).op = 0) ∧
    ((sProg 3 id).nextInstr 0 = some (0, 0, 3, ins 3 0x00020001) ∧ goes (exec (.progArgs 0) (sProg 3 id)) (fun t => t.cells[0].origin = (1, 2) &&
      t.cells[0].pc = some 4) = true) ∧
    ((sProg 9 id).nextInstr 0 = some (0, 0, 9, ins 9 77) ∧ goes (exec (.progMark 0) (sProg 9 id)) (fun t => t.cells[0].labels = [(77, 0)]) = true) ∧
    ((sProg 8 id).nextInstr 0 = some (0, 0, 8, ins 8 0x00020003) ∧ goes (exec (.progLoop 0) (sProg 8 fun k => { k with loops := [(8, 1)] }))
      (fun t => t.cells[0].pc = some 3 && t.cells[0].loops = [(8, 2)]) = true) ∧
    goes (exec (.progLoop 0) (sProg 8 fun k => { k with loops := [(8, 2)] })) (fun t => t.cells[0].pc = some 9 && t.cells[0].loops = []) = true := by and_intros <;> decide

/-- A cell of a state. -/
abbrev c0 (s : State) : CellS := s.cells[(0 : Fin 1024)]

/-- The operands of a START of region 0, and a nest of them at a step. -/
def args0 : StartArgs := { aBase := 16, bBase := 320, m0 := 0, n0 := 0, gen := 0 }
def nest0 (pos : Nat) : Nest := { newNest args0 [] 0 .reset with pos := pos }

theorem witness_LoadAndSwitchBeginAndEnd :
    ((sProg 1 id).nextInstr 0 = some (0, 0, 1, ins 1 2) ∧ ((sProg 1 id).regionS 0).placed = true ∧ (sProg 1 id).cells[(0 : Fin 1024)].loading = none ∧
      (sProg 1 id).cells[(0 : Fin 1024)].switching = false ∧ goes (exec (.progLoad 0) (sProg 1 id)) (fun t => t.cells[0].loading = some 2) = true) ∧
    (let s := sProg 1 fun k => { k with loading := some 3 };
      s.nextInstr 0 = some (0, 0, 1, ins 1 2) ∧ (s.regionS 0).placed = true ∧ (c0 s).loading.isSome = true) ∧
    (let s := sProg 1 fun k => { k with switching := true }; s.nextInstr 0 = some (0, 0, 1, ins 1 2) ∧ (c0 s).switching = true) ∧
    (let s := sProg 2 fun k => { k with shadow := { loaded := true, valid := false, bytes := [] } };
      s.nextInstr 0 = some (0, 0, 2, ins 2 0) ∧ (c0 s).switchWaits = false ∧ (c0 s).shadow.valid = false ∧ (c0 s).shadow.loaded = true) ∧
    (let s := sProg 2 id;
      s.nextInstr 0 = some (0, 0, 2, ins 2 0) ∧ (c0 s).switchWaits = false ∧ (c0 s).shadow.valid = false ∧ (c0 s).shadow.loaded = false ∧ s.inJob = true ∧
      goes (exec (.progSwitch 0) s) (fun t => t.job.phase = .tornDown) = true) ∧
    (let s := sProg 2 fun k => { k with shadow := goodFrame [] };
      s.nextInstr 0 = some (0, 0, 2, ins 2 0) ∧ s.cells[(0 : Fin 1024)].switchWaits = false ∧ s.cells[(0 : Fin 1024)].shadow.valid = true ∧
      goes (exec (.progSwitch 0) s) (fun t => t.cells[0].switching) = true) ∧
    (let s := sProg 2 fun k => { k with loading := some 3 };
      s.nextInstr 0 = some (0, 0, 2, ins 2 0) ∧ s.cells[(0 : Fin 1024)].switchWaits = true) ∧
    (let s := sProg 4 fun k => { k with active := goodFrame [] };
      s.nextInstr 0 = some (0, 0, 4, ins 4 0x00200010) ∧ s.cells[(0 : Fin 1024)].switching = false ∧ s.cells[(0 : Fin 1024)].heldStart = none ∧
      s.cells[(0 : Fin 1024)].active.valid = true ∧ s.cells[(0 : Fin 1024)].nest = none ∧
      goes (exec (.progStart 0) s) (fun t => t.cells[0].nest.any fun n => n.args = { aBase := 16, bBase := 32, m0 := 0, n0 := 0, gen := 0 }) = true) ∧
    (let s := sProg 4 fun k => { k with active := goodFrame [], nest := some (nest0 0) };
      s.nextInstr 0 = some (0, 0, 4, ins 4 0x00200010) ∧ s.cells[(0 : Fin 1024)].nest.isSome = true ∧ s.cells[(0 : Fin 1024)].active.valid = true ∧
      s.cells[(0 : Fin 1024)].heldStart = none) ∧
    (let s := sProg 4 id;
      s.nextInstr 0 = some (0, 0, 4, ins 4 0x00200010) ∧ s.cells[(0 : Fin 1024)].active.valid = false ∧ s.inJob = true ∧
      goes (exec (.progStart 0) s) (fun t => t.job.phase = .tornDown) = true) ∧
    (let s := sProg 4 fun k => { k with active := goodFrame [], switching := true }; s.nextInstr 0 = some (0, 0, 4, ins 4 0x00200010) ∧ (c0 s).switching = true) ∧
    (let s := sProg 4 fun k => { k with active := goodFrame [], heldStart := some args0 };
      s.nextInstr 0 = some (0, 0, 4, ins 4 0x00200010) ∧ (c0 s).heldStart.isSome = true) ∧
    (let s := sProg 2 fun k => { k with loading := some 3 }; (c0 s).loading = some 3 ∧ (c0 s).held = none) ∧
    (let s := sProg 2 fun k => { k with switching := true, shadow := goodFrame [(0, 0x00030001)] };
      s.cells[(0 : Fin 1024)].switching = true ∧ (c0 s).held = none ∧ goes (exec (.switchDone 0) s) (fun t => t.cells[0].active = goodFrame [(0, 0x00030001)]) = true) := by
  and_intros <;> first | decide | decide +kernel

/-- The same with region 0 a pair, which no cluster can take while no pair is formed. -/
def sPair (f : CellS → CellS) : State :=
  (sProg 2 f).upRt fun r => { r with image := some { im2 with regions := [{ rgn 0 with pair := true }, rgn 1] } }

theorem witness_FrameFaultReloadedOnce :
    (let s := (sProg 2 fun k => { k with frameFault := true, lastSlot := 3 }).upMover fun m => m.give 0 { work := .reload 0, failed := none };
      (c0 s).frameFault = true ∧ (c0 s).loading = none ∧ s.ownerOf 0 = some (0, 0) ∧ (c0 s).reloaded = false ∧
      s.mover.bufOf (.reload 0) = some (0, { work := .reload 0, again := false, bad := false, landed := false }) ∧
      goes (exec (.frameFaultReload 0) s) (fun t => (c0 t).loading = some 3 && (c0 t).reloaded) = true) ∧
    (let s := sProg 2 fun k => { k with frameFault := true, lastSlot := 3 };
      s.mover.bufOf (.reload 0) = none ∧ goes (exec (.frameFaultReload 0) s) (fun t => t.mover.claims = [{ work := .reload 0, failed := none }]) = true) ∧
    (let s := sPair fun k => { k with frameFault := true, reloaded := true };
      (c0 s).frameFault = true ∧ (c0 s).loading = none ∧ s.ownerOf 0 = some (0, 0) ∧ (c0 s).reloaded = true ∧
      (s.upCell 0 fun k => { k with health := .failed }).rebound 0 = none) := by and_intros <;> decide

/-- A token word of a handshake queue. -/
def tokenWord : QWord := { kind := .token, data := 9 }

/-- Queue 64 of cluster 1 feeds cell 0 over crossing 1. -/
def sTok (g : CellS → CellS) (w : QWord) : State := (sProg 6 g).upQueue 65 fun _ => { words := [w], visible := 1, returning := 0 }

theorem witness_TokensSignalledAndAwaited :
    (let s := sProg 5 id;
      s.nextInstr 0 = some (0, 0, 5, ins 5 5) ∧ s.findCrossing true 0 0 5 = some 0 ∧ s.crossQueues 0 = some (0, 0) ∧
      s.queues[(0 : Fin 7680)].canWrite = true ∧ goes (exec (.progSignal 0) s) (fun t => decide ((t.queues[0].words).map (·.kind) = [.token])) = true) ∧
    (let s := (sProg 5 id).upQueue 0 fun _ => { words := [], visible := 0, returning := 8 };
      s.nextInstr 0 = some (0, 0, 5, ins 5 5) ∧ s.crossQueues 0 = some (0, 0) ∧ s.queues[(0 : Fin 7680)].canWrite = false) ∧
    (let s := (sProg 6 id).upRt fun r => { r with tokens := [0, 1] };
      s.nextInstr 0 = some (0, 0, 6, ins 6 6) ∧ s.awaitCross 0 6 = some 1 ∧ 0 < s.rt.tokens.getD 1 0 ∧
      goes (exec (.progAwait 0) s) (fun t => t.rt.tokens = [0, 0] && (c0 t).pc = some 7) = true) ∧
    (let s := sTok id tokenWord;
      s.nextInstr 0 = some (0, 0, 6, ins 6 6) ∧ s.awaitCross 0 6 = some 1 ∧ s.rt.tokens.getD 1 0 = 0 ∧ s.crossQueues 1 = some (65, 65) ∧
      s.queues[(65 : Fin 7680)].front = some tokenWord ∧ goes (exec (.progAwait 0) s) (fun t => t.queues[65].words = [] && (c0 t).pc = some 7) = true) ∧
    (let s := sTok id (qw 9);
      s.nextInstr 0 = some (0, 0, 6, ins 6 6) ∧ s.awaitCross 0 6 = some 1 ∧ s.crossQueues 1 = some (65, 65) ∧
      (s.queues[(65 : Fin 7680)].front).map (·.kind) ≠ some .token) ∧
    (let s := sTok (fun k => { k with awaiting := some 6 }) tokenWord;
      (c0 s).awaiting = some 6 ∧ s.ownerOf 0 = some (0, 0) ∧ (c0 s).pc = some 6 ∧ s.awaitCross 0 6 = some 1 ∧ s.rt.tokens.getD 1 0 = 0 ∧
      s.crossQueues 1 = some (65, 65) ∧ s.queues[(65 : Fin 7680)].front = some tokenWord ∧
      goes (exec (.awaitTokenReady 0) s) (fun t => (c0 t).awaiting = none && (c0 t).pc = some 7) = true) := by
  and_intros <;> decide

/-- A region that waits for its run, one whose run is over, and one that is asked to move to cluster 2. -/
def sRun (f : RegionS → RegionS) (g : CellS → CellS) : State := (sProg 7 g).upRegion 0 f

theorem witness_RegionRunsOnceAndMovesAtItsEnd :
    (let s := sRun (fun r => { r with running := false }) id;
      s.canRun (0 : Fin 4096).val = true ∧ (s.regionS 0).placed = true ∧
      goes (exec (.regionRunStart 0) s) (fun t => (t.regionS 0).running && (c0 t).pc = some 0) = true) ∧
    (let s := sRun (fun r => { r with running := false, placed := false }) id;
      s.canRun (0 : Fin 4096).val = true ∧ (s.regionS 0).placed = false ∧
      goes (exec (.regionRunStart 0) s) (fun t => !(t.regionS 0).running && t.mover.claims = [{ work := .frames 0, failed := none }]) = true) ∧
    (sRun id id).canRun (0 : Fin 4096).val = false ∧
    (let s := sRun id fun k => { k with ended := true };
      s.runOver (0 : Fin 4096).val = true ∧ (s.regionS 0).moveTo = none ∧
      goes (exec (.regionRunComplete 0) s) (fun t => !(t.regionS 0).running && (t.regionS 0).doneRuns = 1) = true) ∧
    (let s := sRun (fun r => { r with moveTo := some (2, 0) }) fun k => { k with ended := true };
      s.runOver (0 : Fin 4096).val = true ∧ (s.regionS 0).moveTo = some (2, 0) ∧ s.cellsFree 0 2 0 = true ∧ s.mayMoveRegion 0 = true) ∧
    ((sRun id id).nextInstr 0 = some (0, 0, 7, ins 7 0) ∧ ((sRun id id).regionS 0).moveTo = none) ∧
    (let s := sRun (fun r => { r with moveTo := some (2, 0) }) id;
      s.nextInstr 0 = some (0, 0, 7, ins 7 0) ∧ (s.regionS 0).moveTo = some (2, 0) ∧ s.cellsFree 0 2 0 = true ∧ s.mayMoveRegion 0 = true) := by and_intros <;> decide

/-- Cell 0 of the running region runs a nest on a frame. -/
def sNest (kv : List (Nat × Nat)) (n : Nest) (g : CellS → CellS) : State := sProg 0 fun k => g { k with active := goodFrame kv, nest := some n }

/-- Presence marks of records. -/
def marksOf (ws : List Nat) : List Mark := ws.map fun w => { word := w, words := 1, poison := false }

/-- A matrix frame of one output tile, one reduction step and two visits, with a queue of 2 tiles at word 2,048. -/
def matKv : List (Nat × Nat) := [(0x00, 0x00030001), (0x40, 0x00060000), (0x44, 0x00010001), (0x48, 0x00020001), (0x4C, 0x00410041), (0x50, 0x00410041),
  (0x54, 0x01000400), (0x58, 2048 + 2 * 2 ^ 15 + 1 * 2 ^ 19 + 1 * 2 ^ 23), (0x5C, 0x00400021)]

theorem witness_MatrixProductAdvancesItsNest :
    (let s := sNest matKv (nest0 0) fun k => { k with marks := marksOf [16, 320] };
      (c0 s).running 0 = some (nest0 0) ∧ nestDone (c0 s).active.bytes (nest0 0) = false ∧ operandsInside (c0 s).active.bytes (nest0 0).args (nest0 0).pos = true ∧
      (stepReads (c0 s).active.bytes (nest0 0).args (nest0 0).pos).all (c0 s).present = true ∧ kOf (c0 s).active.bytes (nest0 0).pos = 0 ∧
      (c0 s).setFree (visitOf (c0 s).active.bytes (nest0 0).pos) = true ∧ chunkEnds (c0 s).active.bytes (kOf (c0 s).active.bytes (nest0 0).pos) = true ∧
      kOf (c0 s).active.bytes (nest0 0).pos + 1 = kTiles (c0 s).active.bytes ∧
      goes (exec (.matrixTileProduct 0) s) (fun t => (c0 t).nest.any (fun n => n.pos = 1) && decide ((c0 t).outs.length = 1) && (c0 t).setNow) = true) ∧
    (let s := sNest matKv (nest0 0) fun k => { k with marks := marksOf [16] };
      (stepReads (c0 s).active.bytes (nest0 0).args (nest0 0).pos).all (c0 s).present = false ∧
      goes (exec (.matrixTileProduct 0) s) (fun t => (c0 t).nest.any (·.waiting)) = true) ∧
    (let s := sNest matKv (nest0 0) fun k => { k with marks := marksOf [16, 320], set0 := .draining };
      (stepReads (c0 s).active.bytes (nest0 0).args (nest0 0).pos).all (c0 s).present = true ∧ kOf (c0 s).active.bytes (nest0 0).pos = 0 ∧
      (c0 s).setFree (visitOf (c0 s).active.bytes (nest0 0).pos) = false ∧
      goes (exec (.matrixTileProduct 0) s) (fun t => (c0 t).nest.any (·.stalled)) = true) ∧
    (let n := { nest0 0 with args := { args0 with aBase := 0x77C1 } };
      let s := sNest matKv n id;
      (c0 s).running 0 = some n ∧ operandsInside (c0 s).active.bytes n.args n.pos = false ∧
      goes (exec (.matrixTileProduct 0) s) (fun t => (c0 t).nest.any (·.stopped)) = true) := by and_intros <;> decide

theorem witness_PartialLoadsTheWrittenWords :
    (let s := sNest matKv (nest0 1) fun k => { k with partials := [0], store := Memory.writeN [] (64 * 0x400) [1, 2, 3, 4] };
      (c0 s).running 0 = some (nest0 1) ∧ nestDone (c0 s).active.bytes (nest0 1) = false ∧ kOf (c0 s).active.bytes (nest0 1).pos = 0 ∧
      visitOf (c0 s).active.bytes (nest0 1).pos ≠ 0 ∧ (c0 s).setSt = .idle ∧ ordinalOf (c0 s).active.bytes (nest0 1).pos ∈ (c0 s).partials ∧
      goes (exec (.partialLoad 0) s) (fun t => (c0 t).setSt = .ready && (c0 t).acc[0] = 0x04030201 && (c0 t).partials.isEmpty) = true) := by and_intros <;> decide

/-- A lane nest may take its step, as a check. -/
def laneReady (s : State) (pers : Nat) (n : Nest) : Bool :=
  decide ((c0 s).running pers = some n) && !nestDone (c0 s).active.bytes n && (c0 s).entered && (c0 s).streamsInside (c0 s).active.bytes n.args n.pos &&
    ((c0 s).stepWords (c0 s).active.bytes n.args n.pos).all (c0 s).present

theorem laneReady_iff (s : State) (pers : Nat) (n : Nest) : laneReady s pers n = true ↔ LaneReady s 0 pers n := by
  simp [laneReady, LaneReady, c0, and_assoc]

/-- Frames of the lane personalities: one output tile for a queue of two at word 2,048, stream 0 FP32 at word 16. -/
def laneKv (pers : Nat) (more : List (Nat × Nat)) : List (Nat × Nat) :=
  [(0x00, 0x00040001 + 256 * pers), (0x44, 0x00010001), (0x4C, 2048 + 2 * 2 ^ 15 + 2 ^ 19), (0x80, 0x04000000), (0x84, 1)] ++ more
def vecKv : List (Nat × Nat) := laneKv 1 [(0xA0, 8), (0xB4, 8 * 2 ^ 9)]
def maskKv : List (Nat × Nat) := laneKv 1 [(0xA0, 1), (0xD4, 4), (0xD8, 1024 + 2 ^ 22)]
def redKv : List (Nat × Nat) := laneKv 2 [(0xA4, 2)]
def topKv : List (Nat × Nat) := laneKv 2 [(0xA0, 9), (0xA4, 1), (0xB0, 4096)]
def addKv : List (Nat × Nat) := laneKv 2 [(0xA0, 10 + 2 ^ 4), (0xA4, 1)]
def tabKv : List (Nat × Nat) := laneKv 4 []
def rotKv : List (Nat × Nat) := [(0x00, 0x00040301), (0x40, 0x10000040), (0x44, 0x00040001), (0x80, 0x04000000), (0x84, 1), (0xA0, 8)]
def plainKv : List (Nat × Nat) := [(0x00, 0x00040301), (0x40, 2), (0x44, 0x00010001), (0x4C, 2048 + 2 * 2 ^ 15 + 2 ^ 19), (0x80, 0x04000000), (0x84, 1)]
def macKv : List (Nat × Nat) := [(0x00, 0x00040301), (0x44, 0x00010001), (0x4C, 2048 + 2 * 2 ^ 15 + 2 ^ 19), (0xA0, 0x00080001), (0xA8, 2 * 2 ^ 24), (0xB4, 64), (0xB8, 128),
  (0xBC, 0x00010000)]

/-- An output for a queue lies where the frame places it. -/
theorem destInside_queue (f bs : Bytes) (m n : Nat) (h : outArea f = false) : destInside f m n bs = true := by simp [destInside, h]
theorem groupInside_queue (f : Bytes) (os : List OutTile) (o : Nat) (h : outArea f = false) : groupInside f os o = true := by
  simp [groupInside, destInside_queue _ _ _ _ h]

theorem witness_LaneTilesAdvanceTheirNests :
    (let s := sNest vecKv (nest0 0) fun k => { k with marks := marksOf [16] };
      laneReady s 1 (nest0 0) = true ∧ vMode (c0 s).active.bytes = 0 ∧ outArea (c0 s).active.bytes = false) ∧
    (let s := sNest tabKv (nest0 0) fun k => { k with marks := marksOf [16] }; laneReady s 4 (nest0 0) = true ∧ outArea (c0 s).active.bytes = false) ∧
    (let s := sNest maskKv (nest0 0) fun k => { k with marks := marksOf [16] };
      laneReady s 1 (nest0 0) = true ∧ vMode (c0 s).active.bytes = 1 ∧ (listsOf (c0 s).active.bytes).all (headerInside (c0 s).active.bytes) = true ∧
      ((c0 s).indexTile (c0 s).active.bytes (nest0 0)).lastEntriesInside (c0 s).active.bytes = true) := by
  and_intros <;> decide

theorem witness_LaneTilesAdvanceTheirNests_reduce :
    (let s := sNest addKv (nest0 0) fun k => { k with marks := marksOf [16] };
      laneReady s 2 (nest0 0) = true ∧ isAddt (c0 s).active.bytes = true ∧ outArea (c0 s).active.bytes = false) ∧
    (let s := sNest redKv (nest0 0) fun k => { k with marks := marksOf [16] };
      laneReady s 2 (nest0 0) = true ∧ isAddt (c0 s).active.bytes = false ∧ 0 % rowTiles (c0 s).active.bytes + 1 < rowTiles (c0 s).active.bytes ∧
      goes (exec (.reduceInputTile 0) s) (fun t => (c0 t).nest.any (fun n => n.pos = 1)) = true) ∧
    (let s := sNest redKv (nest0 1) fun k => { k with marks := marksOf [16] };
      laneReady s 2 (nest0 1) = true ∧ isAddt (c0 s).active.bytes = false ∧ redop (c0 s).active.bytes ≠ 9 ∧
      rowTiles (c0 s).active.bytes ≤ 1 % rowTiles (c0 s).active.bytes + 1 ∧ outArea (c0 s).active.bytes = false) ∧
    (let s := sNest topKv (nest0 0) fun k => { k with marks := marksOf [16] };
      laneReady s 2 (nest0 0) = true ∧ isAddt (c0 s).active.bytes = false ∧ redop (c0 s).active.bytes = 9 ∧
      rowTiles (c0 s).active.bytes ≤ 0 % rowTiles (c0 s).active.bytes + 1 ∧ outArea (c0 s).active.bytes = false ∧
      wordsInside (topMaskWord (c0 s).active.bytes (tileM (c0 s).active.bytes (ordinalOf (c0 s).active.bytes 0))) 8 = true) := by
  and_intros <;> decide

theorem witness_LaneTilesAdvanceTheirNests_transform :
    (let s := sNest rotKv (nest0 0) fun k => { k with marks := marksOf [16] };
      laneReady s 3 (nest0 0) = true ∧ tMac (c0 s).active.bytes = false ∧ rotCode (c0 s).active.bytes = 2 ∧ (nest0 0).ins.length < 3) ∧
    (let s := sNest plainKv (nest0 0) fun k => { k with marks := marksOf [16] };
      laneReady s 3 (nest0 0) = true ∧ tMac (c0 s).active.bytes = false ∧ rotCode (c0 s).active.bytes ≠ 2 ∧ outArea (c0 s).active.bytes = false) ∧
    (let s := sNest macKv (nest0 0) fun k => { k with marks := marksOf [64, 448] };
      laneReady s 3 (nest0 0) = true ∧ tMac (c0 s).active.bytes = true ∧ macInside (c0 s).active.bytes args0 0 = true ∧
      outArea (c0 s).active.bytes = false) := by
  and_intros <;> decide

/-- Index list 0 at word 1,024 with one entry: row 3. -/
def listStore : Memory := Memory.writeN [] (64 * 1024) (toLE 1 4 ++ List.replicate 60 0 ++ toLE (2 ^ 31 + 3) 4)
def packKv : List (Nat × Nat) := laneKv 1 [(0xA0, 2), (0xD4, 4), (0xD8, 1024 + 2 ^ 22)]
def expKv : List (Nat × Nat) := laneKv 1 [(0xA0, 3), (0xD4, 4), (0xD8, 1024 + 2 ^ 22), (0xE0, 4)]

theorem witness_IndexListGroupsInListOrder :
    (let s := sNest packKv (nest0 0) fun k => { k with marks := marksOf [16], store := listStore };
      (c0 s).running 1 = some (nest0 0) ∧ vMode (c0 s).active.bytes = 2 ∧ nestDone (c0 s).active.bytes (nest0 0) = false ∧ (c0 s).entered = true ∧
      (c0 s).groupInside (c0 s).active.bytes (nest0 0) = true ∧ outArea (c0 s).active.bytes = false ∧ (c0 s).groupRows (c0 s).active.bytes (nest0 0) = [3] ∧
      ((c0 s).rowWords (c0 s).active.bytes (nest0 0) 0 [3]).1 = [16] ∧ rowInside (c0 s).active.bytes 16 3 = true ∧ (c0 s).present 16 = true ∧
      (c0 s).poisoned 16 = false ∧
      goes (exec (.compressRows 0) s) (fun t => (c0 t).nest.any (fun n => n.listNo = 1) && decide ((c0 t).outs.length = 1)) = true) ∧
    (let s := sNest expKv (nest0 0) id;
      (c0 s).running 1 = some (nest0 0) ∧ 3 ≤ vMode (c0 s).active.bytes ∧ nestDone (c0 s).active.bytes (nest0 0) = false ∧
      (c0 s).groupInside (c0 s).active.bytes (nest0 0) = true ∧ (c0 s).liveEntries (c0 s).active.bytes (nest0 0) = [] ∧
      (c0 s).expandNeeds (c0 s).active.bytes (nest0 0) = []) ∧
    (let s := sNest expKv (nest0 0) fun k => { k with marks := marksOf [16], store := listStore };
      (c0 s).groupInside (c0 s).active.bytes (nest0 0) = true ∧ ((c0 s).liveEntries (c0 s).active.bytes (nest0 0)).length = 1 ∧
      ((c0 s).liveEntries (c0 s).active.bytes (nest0 0)).all (entryOk (c0 s).active.bytes args0) = true ∧
      (c0 s).expandNeeds (c0 s).active.bytes (nest0 0) = [16] ∧ (c0 s).present 16 = true ∧ (c0 s).poisoned 16 = false) := by and_intros <;> decide

/-- An output tile of 64 bytes, and a queued tile for one consumer: logical cell 1, ring of two slots at word 2,048. -/
def out0 (d : OutDest) : OutTile :=
  { dest := d, hdr := List.replicate 64 0, data := List.replicate 64 7, oblk := none, full := none, set := none, refused := false }
def con1 : Word := BitVec.ofNat 32 (1 + 2048 * 2 ^ 11 + 2 ^ 26)
def tile1 (sent arrived : Bool) : QTile :=
  { seq := 1, word := 2048, words := 2, cons := [con1], sent := [sent], arrived := [arrived], put := [0], got := [0], cur := true }

theorem witness_OutputsLandInOrder :
    (let s := sNest plainKv (nest0 0) fun k => { k with outs := [out0 .queue] };
      fPers (c0 s).active.bytes ≠ 2 ∧ (c0 s).outs = out0 .queue :: [] ∧ (c0 s).held = none ∧ (c0 s).noRoom (out0 .queue) = false ∧
      (c0 s).landsInside (out0 .queue) = true ∧ (out0 .queue).oblk = none ∧ (out0 .queue).full = none ∧
      goes (exec (.tileDrainDone 0) s) (fun t => (c0 t).outs.isEmpty && (c0 t).seq = 1 && (c0 t).store.readN (64 * 2048 + 64) 1 = [7]) = true) ∧
    (let s := sNest plainKv (nest0 0) fun k => { k with outs := [out0 .queue], ftq := [tile1 false false, tile1 false false] };
      (c0 s).noRoom (out0 .queue) = true ∧ goes (exec (.tileDrainDone 0) s) (fun t => (c0 t).outs.any (·.refused)) = true) ∧
    (let s := sNest redKv (nest0 0) fun k => { k with outs := [out0 (.area 0x1000)] };
      fPers (c0 s).active.bytes = 2 ∧ (c0 s).outs = out0 (.area 0x1000) :: [] ∧ (c0 s).noRoom (out0 (.area 0x1000)) = false ∧
      (c0 s).landsInside (out0 (.area 0x1000)) = true ∧
      goes (exec (.recordBlockOutput 0) s) (fun t => (c0 t).outs.isEmpty && (c0 t).present 0x1000 && (c0 t).outCount = 1) = true) ∧
    (let s := sNest redKv (nest0 0) fun k => { k with outs := [out0 .queue], ftq := [tile1 false false, tile1 false false] };
      (c0 s).noRoom (out0 .queue) = true ∧ goes (exec (.recordBlockOutput 0) s) (fun t => (c0 t).outs.any (·.refused)) = true) := by
  and_intros <;> decide

/-- An output with an outlier block and a full copy lands with them, and they take their slots. -/
theorem witness_OutputsLandInOrder_blocks :
    (let o : OutTile := { out0 .queue with oblk := some (List.replicate 64 5), full := some (List.replicate 64 6) };
      let s := sNest plainKv (nest0 0) fun k => { k with outs := [o] };
      fPers (c0 s).active.bytes ≠ 2 ∧ (c0 s).outs = o :: [] ∧ (c0 s).held = none ∧ (c0 s).noRoom o = false ∧ (c0 s).landsInside o = true ∧
      goes (exec (.tileDrainDone 0) s) (fun t => (c0 t).outs.isEmpty && (c0 t).oblkFull = [0] && (c0 t).fullFull = [0] &&
        (c0 t).store.readN (64 * 2048 + 64) 1 = [7] &&
        (c0 t).store.readN (64 * (c0 s).fullWord + 63) 1 = [6]) = true) := by
  and_intros <;> decide

theorem witness_NestsEndAndResume :
    (let s := sNest matKv (nest0 2) id;
      (c0 s).nest = some (nest0 2) ∧ (nest0 2).stopped = false ∧ (nest0 2).waiting = false ∧ nestDone (c0 s).active.bytes (nest0 2) = true ∧
      (c0 s).heldStart = none ∧ (c0 s).held = none ∧ goes (exec (.nestEnd 0) s) (fun t => (c0 t).nest = none) = true) ∧
    (let s := sNest matKv (nest0 2) fun k => { k with heldStart := some args0 };
      nestDone (c0 s).active.bytes (nest0 2) = true ∧ (c0 s).heldStart = some args0 ∧ (c0 s).held = none ∧ s.ownerOf 0 = some (0, 0) ∧
      goes (exec (.nestEnd 0) s) (fun t => (c0 t).nest.any (fun n => n.args = args0 && n.pos = 0) && (c0 t).heldStart = none) = true) ∧
    (let n := { nest0 0 with waiting := true };
      let s := sNest matKv n fun k => { k with marks := marksOf [16, 320] };
      (c0 s).nest = some n ∧ n.waiting = true ∧ n.stopped = false ∧ ((c0 s).needs (c0 s).active.bytes n).all (c0 s).present = true ∧
      goes (exec (.nestResume 0) s) (fun t => (c0 t).nest.any (!·.waiting)) = true) := by and_intros <;> decide

/-- A slot of an inbound ring that has been read. -/
def slot0 : RingSlot := { base := 2048, slot := 2048, read := true, prod := 7, entry := con1 }

/-- A consumer entry over handshake queue 0, with a ring of two slots at word 2,048; a tile of two words for it. -/
def conQ : Word := BitVec.ofNat 32 (2 ^ 4 + 2048 * 2 ^ 11 + 2 ^ 26)
def tileQ (put got : Nat) : QTile := { tile1 true false with cons := [conQ], put := [put], got := [got] }

theorem witness_QueueWordsOfATile :
    (let s := sNest plainKv (nest0 0) fun k => { k with ftq := [tileQ 0 0], store := Memory.writeN [] (64 * 2048) [9] };
      let s := s.upRt fun r => { r with attached := [0, 1] };
      rxChannel 0 = none ∧ s.tileDue 0 = some (0, 0, tileQ 0 0) ∧ s.queues[(0 : Fin 7680)].canWrite = true ∧ s.tileWord 0 0 (tileQ 0 0) = 9 ∧
      goes (exec (.queueWrite 0 9) s) (fun t => t.queues[0].words = [{ kind := .tile 0 1 2048, data := 9 }] && ((c0 t).ftq.map (·.put)) = [[1]]) = true ∧
      (8 : BitVec 512) ≠ s.tileWord 0 0 (tileQ 0 0)) := by and_intros <;> decide

theorem witness_TilesAndCreditsOfTheQueues :
    (let s := sNest plainKv (nest0 0) fun k => { k with ftq := [tile1 false false], credits := [(con1, 1)] };
      (c0 s).nextSend (0 : Fin 4).val = some (tile1 false false) ∧ getKV ((tile1 false false).cons.getD (0 : Fin 4).val 0) (c0 s).credits = some (0 + 1) ∧
      ((c0 s).ftq.any fun x => x.dueTo (conQueue con1) 0) = false ∧
      goes (exec (.ftqDeliver 0 0) s) (fun t => (c0 t).credits = [(con1, 0)]) = true) ∧
    (let s := sNest plainKv (nest0 0) fun k => { k with ftq := [tile1 false false] };
      (c0 s).nextSend (0 : Fin 4).val = some (tile1 false false) ∧ (getKV con1 (c0 s).credits).getD 0 = 0) ∧
    (let s := sNest plainKv (nest0 0) fun k => { k with ftq := [tile1 true false], store := Memory.writeN [] (64 * 2048) [9] };
      (c0 s).nextArrival (0 : Fin 4).val = some (tile1 true false) ∧ (c0 s).held = none ∧ s.consumerOf 0 con1 = some 1 ∧ conQueued con1 = false ∧
      wordsInside (arrivalWord con1 (tile1 true false)) (tile1 true false).words = true ∧
      goes (exec (.ringTileArrived 0 0) s) (fun t => t.cells[1].present 2050 && t.cells[1].store.readN (64 * 2050) 1 = [9]) = true) ∧
    (let s := sNest plainKv (nest0 0) fun k => { k with ftq := [tileQ 2 2] };
      (c0 s).nextArrival (0 : Fin 4).val = some (tileQ 2 2) ∧ (s.consumerOf 0 conQ).isSome = true ∧ conQueued conQ = true ∧
      wordsInside (arrivalWord conQ (tileQ 2 2)) (tileQ 2 2).words = true ∧ (tileQ 2 2).words ≤ (tileQ 2 2).got.getD (0 : Fin 4).val 0) := by and_intros <;> decide

theorem witness_TilesAndCreditsOfTheQueues_credits :
    (let s := sNest plainKv (nest0 0) fun k => { k with ringHeld := [slot0], marks := marksOf [2048] };
      (c0 s).ringHeld.find? (fun x => decide (x.base = (2048 : BitVec 15).toNat) && x.read) = some slot0 ∧ (c0 s).held = none ∧
      (c0 s).backPressure = false ∧
      goes (exec (.ringSlotRelease 0 2048) s) (fun t => (c0 t).ringHeld.isEmpty && !(c0 t).present 2048 && t.cells[7].creditFlight = [con1]) = true) ∧
    (let s := sNest plainKv (nest0 0) fun k => { k with ringHeld := [slot0], backPressure := true };
      (c0 s).backPressure = true ∧ goes (exec (.ringSlotRelease 0 2048) s) (fun t => (c0 t).withheld = [(7, con1)]) = true) := by and_intros <;> decide

theorem witness_TilesAndCreditsOfTheQueues_words :
    (let s := sNest matKv (nest0 0) fun k => { k with creditFlight := [0x00400021] };
      (c0 s).creditDue (0 : Fin 4).val = some 0x00400021 ∧
      goes (exec (.creditReturnArrival 0 0) s) (fun t => (c0 t).credits = [(0x00400021, 1)]) = true) ∧
    (let s := sNest plainKv (nest0 0) fun k => { k with creditFlight := [0x00400021] };
      (c0 s).creditDue (3 : Fin 4).val = some 0x00400021) ∧
    (let s := sNest plainKv (nest0 0) fun k => { k with oblkFull := [0, 1], fullFull := [1] };
      (c0 s).held = none ∧ (c0 s).oblkFull = 0 :: [1] ∧ (c0 s).fullFull = 1 :: [] ∧
      goes (exec (.ringSlotDrained 0 false) s) (fun t => (c0 t).oblkFull = [1]) = true ∧
      goes (exec (.ringSlotDrained 0 true) s) (fun t => (c0 t).fullFull = []) = true) := by and_intros <;> decide

theorem witness_CellStoreErrorFlagsItsTiles :
    (let s := sNest matKv (nest0 1) fun k => { k with ueTimes := [0] };
      (c0 s).nest = some (nest0 1) ∧ ((c0 s).ueTimes.any fun u => decide (s.now.toNat - u.toNat ≤ 24 * 3600000 * msU)) = true ∧
      goes (exec (.cellStoreUe 0) s) (fun t => t.tiers.ueTotal = 1 && (c0 t).health = .failed && t.rt.nonfinite &&
        (c0 t).nest.any (·.spoiled.contains 0)) = true) ∧
    (c0 (sNest matKv (nest0 1) id)).ueTimes = [] := by and_intros <;> decide

/-! ### Placement, moves, the mover and the tiers -/

/-- An object of one tile of 512 bytes on stack 0, that region 0 names; its entry in a schedule. -/
def objE (id kind tier : Nat) : ObjE :=
  { id := id, tensor := id, kind := kind, fmt := 6, tier := tier, pin := false, rotBlock := 0, group := 0, layer := 0, rotSeed := 0, mTiles := 1,
    nTiles := 1, shardFirst := 0, parent := 0, firstRegion := 0, lastRegion := 0 }
def homeA : Home := { set := .stack 0, row0 := 0, rows := 1 }
def homeB : Home := { set := .capacity, row0 := 0, rows := 1 }
def objS (id kind tier : Nat) (m : Option MoveS) : ObjS := { e := objE id kind tier, base := 0, size := 512, home := homeA, gen := 4, move := m, bad := [] }
def pfE (use : Nat) : PfE :=
  { obj := 3, tileFirst := 0, tileCount := 2, tileStride := 1, region := 0, cell := 0, dest := 16, product := 0, order := 0, use := use }

/-- The image with object 3 and one schedule entry; the state in which they are placed. -/
def imObj (use : Nat) : Image := { im2 with objects := [objE 3 4 1], prefetch := [pfE use] }
def sObj (use : Nat) (m : Option MoveS) (q : List (Word × MoveCause)) : State :=
  (sProg 0 id).upRt fun r => { r with image := some (imObj use), objects := [objS 3 4 1 m], moveQueue := q }

/-- A move of object 3, before and after its flip. -/
def move0 (flipped : Bool) : MoveS :=
  { cause := .health, oldHome := homeA, newHome := homeB, flipped := flipped, log := [], unacked := [], count := 0, told := [], drained := [],
    confirmed := false, heldNew := [], lost := [] }
def arr0 : Arrival := .write .mover 5 [7]

/-- A state in which one region waits for its binding. -/
def imOne : Image := { Image.empty with regions := [rgn 0] }
def sOne : State := State.reset.upRt fun r => { r with image := some imOne, regions := [.reset] }

/-- What a fold answers over a list that is not empty. -/
theorem foldl_isSome {α β : Type} (f : Option α → β → Option α) (hf : ∀ a b, (f a b).isSome = true) (l : List β) (a : Option α) (h : l ≠ []) :
    (l.foldl f a).isSome = true := by
  induction l generalizing a with
  | nil => exact absurd rfl h
  | cons x l ih => cases l with
    | nil => exact hf a x
    | cons y l => exact ih _ (by simp)

theorem bestOf_isSome (l : List (Nat × Nat × Fin 64 × Nat)) (h : l ≠ []) : (bestOf l).isSome = true := by
  unfold bestOf
  rw [Option.isSome_map]
  exact foldl_isSome _ (fun a b => by cases a with
    | none => rfl
    | some y => show (if better b y then some b else some y).isSome = true; split <;> rfl) l none h

theorem effMax_reset (c : Fin 64) : 500 ≤ sOne.effMax c := by
  have hp : sOne.paired c = false := by simp [State.paired, sOne, State.upRt, State.reset, TimeBase.reset]
  have hs : sOne.clusters[c].slow = 0 := by simp [sOne, State.upRt, State.reset, Cluster.reset]
  have hf : 500 ≤ fFuse c.val := by unfold fFuse; omega
  simp only [State.effMax, State.halves, hp, State.effMax1, hs, derated, List.map_cons, List.map_nil, List.foldl_cons, List.foldl_nil, Bool.false_eq_true, if_false]
  omega

theorem bound_one : ∃ b, sOne.bindImage imOne = some b := by
  have he : sOne.eligible (rgn 0) 0 = true := by
    simp only [State.eligible, rgn, candClusters, Bool.not_false, Bool.true_or, Bool.true_and, Bool.false_eq_true, if_false, List.all_cons, List.all_nil, Bool.and_true]
    simp only [effMax_reset]
    decide
  have hb : ∃ x, sOne.bindOne imOne [none] 0 = some x := by
    rw [← Option.isSome_iff_exists]
    unfold State.bindOne
    apply bestOf_isSome
    have hc : ∀ l : List (Nat × Nat × Fin 64 × Nat), l ≠ [] → (if (l.filter fun x => sOne.goodFit (rgn 0) x.2.2.1 x.2.2.2).isEmpty = true then l
        else l.filter fun x => sOne.goodFit (rgn 0) x.2.2.1 x.2.2.2) ≠ [] := by
      intro l hl
      split
      · exact hl
      · rename_i h; simpa using h
    apply hc
    intro h
    rw [List.filterMap_eq_nil_iff] at h
    have := h 0 (List.mem_finRange _)
    rw [if_pos he] at this
    rw [Option.map_eq_none_iff] at this
    exact absurd this (by decide)
  obtain ⟨x, hx⟩ := hb
  refine ⟨[some x], ?_⟩
  have : sOne.bindTable imOne = .ok [some x] := by
    unfold State.bindTable
    show (match sOne.bindOne imOne [none] 0 with | none => Except.error 0 | some x => Except.ok ([none].set 0 (some x))) = _
    rw [hx]; rfl
  rw [State.bindImage, this]; rfl

theorem witness_RebindAndShedReply : sOne.rt.image = some imOne ∧ (∃ b, sOne.bindImage imOne = some b) ∧ State.reset.rt.image = none ∧
    (let im : Image := { imOne with regions := [{ rgn 0 with pair := true }] };
      let s := State.reset.upRt fun r => { r with image := some im, regions := [.reset] };
      s.rt.image = some im ∧ s.bindImage im = none ∧ goes (exec .placementRebind s) (fun t => t.sec.departAdvice = 2) = true) := by
  and_intros <;> first | exact bound_one | decide

/-- A claim that waits for its first buffer, and a buffer that holds a transfer. -/
def want (w : Work) : Claim := { work := w, failed := none }
def held (w : Work) : StageBuf := { work := w, again := false, bad := false, landed := false }

theorem witness_MoveStubAndFlip :
    (let s := (sObj 0 none []).upPwr fun p => { p with parkWait := true };
      s.obj (3 : Word).toNat = some (objS 3 4 1 none) ∧ s.rt.image = some (imObj 0) ∧ (objS 3 4 1 none).e.pin = false ∧ (objS 3 4 1 none).home.inCell = false ∧
      s.rt.moveQueue.any (fun x => decide (x.1 = 3)) = false ∧ s.moverPaused = true) ∧
    (let s := sObj 0 none [(3, .health)];
      s.obj (3 : Word).toNat = some (objS 3 4 1 none) ∧ s.rt.moveQueue.any (fun x => decide (x.1 = 3)) = true ∧ s.moverPaused = false ∧
      s.firstRequest.map (·.1) = some 3 ∧ (s.moveGroup (objS 3 4 1 none)).all s.mayMove = true ∧ s.mover.bufOf (.move 3) = none ∧
      goes (exec (.moveAllocate 3 .health) s) (fun t => t.mover.claims = [want (.move 3)]) = true) ∧
    (let s := (sObj 0 none [(3, .health)]).upMover fun m => m.give 0 (want (.move 3));
      s.moverPaused = false ∧ s.moveGroup (objS 3 4 1 none) = [objS 3 4 1 none] ∧ s.mayMove (objS 3 4 1 none) = true ∧
      s.mover.bufOf (.move 3) = some (0, held (.move 3)) ∧ s.newHomes (imObj 0) [objS 3 4 1 none] = some [(3, homeB)] ∧
      goes (exec (.moveAllocate 3 .health) s) (fun t => (t.obj 3).any (fun o => o.move = some (move0 false)) && t.rt.moveQueue.isEmpty) = true) ∧
    (let s := sObj 0 (some (move0 false)) [];
      s.obj (3 : Word).toNat = some (objS 3 4 1 (some (move0 false))) ∧ (move0 false).flipped = false ∧ s.copyHeld (objS 3 4 1 (some (move0 false))) = false) ∧
    (let s := (sObj 0 (some (move0 false)) []).upMover fun m => m.give 0 (want (.move 3));
      s.obj (3 : Word).toNat = some (objS 3 4 1 (some (move0 false))) ∧ (objS 3 4 1 (some (move0 false))).move = some (move0 false) ∧
      (move0 false).flipped = false ∧ s.copyHeld (objS 3 4 1 (some (move0 false))) = true ∧
      goes (exec (.moveCopyDone 3 [0, 1] false) s) (fun t => (t.obj 3).any (fun o => o.home = homeB && o.gen = 5 && o.bad = [0]) && t.rt.nonfinite) = true ∧
      goes (exec (.moveCopyDone 3 [] true) s) (fun t => (t.obj 3).any (fun o => o.move = none && o.home = homeA && o.gen = 4)) = true) := by
  and_intros <;> decide

/-- Object 3 in a move. -/
def sMv (m : MoveS) : State := sObj 0 (some m) []
def oMv (m : MoveS) : ObjS := objS 3 4 1 (some m)

theorem witness_StubsServeUntilTheyRetire :
    ((sMv (move0 true)).obj (3 : Word).toNat = some (oMv (move0 true)) ∧ (move0 true).flipped = true ∧
      SenderUnit.mover ∈ (sMv (move0 true)).senderSet (oMv (move0 true)) ∧ SenderUnit.mover ∉ (move0 true).told ∧
      goes (exec (.flipNotice .mover 3) (sMv (move0 true))) (fun t => (t.obj 3).any (fun x => x.move.any (fun m => m.told = [.mover]))) = true) ∧
    (let m := { move0 true with told := [.mover] };
      (sMv m).obj (3 : Word).toNat = some (oMv m) ∧ SenderUnit.mover ∈ (sMv m).senderSet (oMv m) ∧ SenderUnit.mover ∈ m.told ∧
      SenderUnit.mover ∉ m.drained ∧ (∀ a ∈ m.log ++ m.unacked, senderOf a ≠ .mover) ∧
      goes (exec (.drainedMsg .mover 3) (sMv m)) (fun t => (t.obj 3).any (fun x => x.move.any (fun m => m.drained = [.mover]))) = true) ∧
    (let m := { move0 true with told := [.mover], unacked := [arr0], count := 1 };
      (sMv m).obj (3 : Word).toNat = some (oMv m) ∧ arr0 ∈ m.log ++ m.unacked ∧ senderOf arr0 = .mover) ∧
    (let m := { move0 true with drained := [.mover, .inbound, .sequencer 0] };
      (sMv m).obj (3 : Word).toNat = some (oMv m) ∧ (sMv m).allDrained (oMv m) m = true ∧ m.count = 0 ∧
      goes (exec (.retireConfirm 3) (sMv m)) (fun t => (t.obj 3).any (fun x => x.move.isNone)) = true) ∧
    (let m := { move0 true with drained := [.mover, .inbound, .sequencer 0], count := 1 };
      (sMv m).allDrained (oMv m) m = true ∧ m.count ≠ 0 ∧
      goes (exec (.retireConfirm 3) (sMv m)) (fun t => (t.obj 3).any (fun x => x.move.any (·.confirmed))) = true) ∧
    ((sMv (move0 true)).allDrained (oMv (move0 true)) (move0 true) = false ∧ (move0 true).confirmed = false) := by
  and_intros <;> decide

theorem witness_StubsServeUntilTheyRetire_arrivals :
    ((sMv (move0 false)).obj (3 : Word).toNat = some (oMv (move0 false)) ∧ senderOf arr0 ∉ (move0 false).drained ∧
      goes (exec (.stubArrival 3 4 arr0) (sMv (move0 false))) (fun t => (t.obj 3).any (fun x => x.move.any (fun m => m.log = [arr0] && m.count = 1))) = true) ∧
    ((sMv (move0 true)).obj (3 : Word).toNat = some (oMv (move0 true)) ∧ (move0 true).flipped = true ∧
      goes (exec (.stubArrival 3 3 arr0) (sMv (move0 true))) (fun t => (t.obj 3).any (fun x => x.move.any (fun m => m.unacked = [arr0] && m.count = 1))) = true ∧
      (move0 true).unacked = [] ∧ goes (exec (.stubArrival 3 4 arr0) (sMv (move0 true))) (fun t => t.tiers.readByte homeA 5 = 7) = true) ∧
    (let m := { move0 true with unacked := [arr0], count := 1 };
      m.unacked ≠ [] ∧ m.flipped = true ∧
      goes (exec (.stubArrival 3 4 arr0) (sMv m)) (fun t => (t.obj 3).any (fun x => x.move.any (fun m => m.heldNew = [arr0]))) = true) ∧
    ((sObj 0 none []).obj (3 : Word).toNat = some (objS 3 4 1 none) ∧ (objS 3 4 1 none).move = none ∧
      goes (exec (.stubArrival 3 4 arr0) (sObj 0 none [])) (fun t => t.tiers.readByte homeA 5 = 7) = true) ∧
    ((5 : Half) ≠ (objS 3 4 1 none).gen ∧ goes (exec (.stubArrival 3 5 arr0) (sObj 0 none [])) (fun t => t.rt.placementFaults = 1 && t.rt.nonfinite) = true) ∧
    ((2 : Half) ≠ (oMv (move0 true)).gen ∧ (2 : Half) ≠ (oMv (move0 true)).gen - 1) ∧
    (let m := { move0 true with unacked := [arr0, arr0], count := 2 };
      (sMv m).obj (3 : Word).toNat = some (oMv m) ∧ m.unacked = arr0 :: [arr0] ∧ m.confirmed = false ∧
      goes (exec (.forwardAck 3) (sMv m)) (fun t => (t.obj 3).any (fun x => x.move.any (fun m => m.unacked = [arr0] && m.count = 1))) = true) ∧
    (let m := { move0 true with unacked := [arr0], count := 1, confirmed := true };
      (sMv m).obj (3 : Word).toNat = some (oMv m) ∧ m.unacked = [arr0] ∧ m.confirmed = true ∧ m.count = 1 ∧
      goes (exec (.forwardAck 3) (sMv m)) (fun t => (t.obj 3).any (fun x => x.move.isNone)) = true) := by
  and_intros <;> decide

/-- A prefetch entry in progress. -/
def run0 (reading : Bool) : PfRun := { index := 0, done := 0, obj := 3, reading := reading, asked := [], data := [] }

/-- The same with entry 0 in progress, for object 3 as a move has it; its tile lies in the capacity tier, so that it comes through the hub die. -/
def sPf (use : Nat) (f : ObjS → ObjS) (g : Mover → Mover) : State :=
  ((sObj use none []).upRt fun r => { r with objects := [f (objS 3 4 1 none)] }).upMover fun m => g { m with active := [run0 false] }

theorem witness_PrefetchEntriesAndRecords :
    (let s := sObj 0 none [];
      s.rt.image = some (imObj 0) ∧ (pfOrder (imObj 0))[s.mover.begun]? = some 0 ∧ (imObj 0).prefetch[0]? = some (pfE 0) ∧ s.mayBegin (pfE 0) = true ∧
      (pfE 0).tileCount ≠ 0 ∧ goes (exec .prefetchEntryBegin s) (fun t => t.mover.active = [run0 false] && t.mover.begun = 1) = true) ∧
    (let s := (sPf 0 id id).upTiers fun t => t.writeHome homeA 0 [9, 8];
      s.mover.active.find? (fun x => decide (x.index = (0 : Word).toNat)) = some (run0 false) ∧ s.pfE (0 : Word).toNat = some (pfE 0) ∧
      s.obj (pfE 0).obj = some (objS 3 4 1 none) ∧ s.pfCell (pfE 0) = some 0 ∧ (pfE 0).use ≠ 2 ∧ s.rowsBusy (objS 3 4 1 none) = false ∧
      s.earlierFirst (0 : Word).toNat 0 = false ∧ (c0 s).takes (pfWord (pfE 0) (objE 3 4 1) 0) (ceilDiv (tileBytes (objE 3 4 1)) 64) = true ∧
      s.job.replay = false ∧ wordsInside (pfWord (pfE 0) (objE 3 4 1) 0) (ceilDiv (tileBytes (objE 3 4 1)) 64) = true ∧ (objE 3 4 1).kind ≠ 6 ∧
      viaHub homeA (tilePieces (objE 3 4 1) s.medlar.u.toNat (pfTile (pfE 0) 0)) 0 = false ∧
      goes (exec (.prefetchRecordWrite 0 false) s) (fun t => (c0 t).present 16 && (c0 t).store.readN 1024 2 = [9, 8]) = true ∧
      goes (exec (.prefetchRecordWrite 0 true) s) (fun t => (c0 t).present 16 && (c0 t).poisoned 16) = true) := by
  and_intros <;> decide

theorem witness_PrefetchEntriesAndRecords_buffers :
    (let o := { objS 3 4 1 none with home := homeB };
      let s := sPf 0 (fun _ => o) id;
      s.obj (pfE 0).obj = some o ∧ viaHub o.home (tilePieces o.e s.medlar.u.toNat (pfTile (pfE 0) 0)) 0 = true ∧
      s.mover.bufOf (.prefetch (0 : Word).toNat 0) = none ∧
      goes (exec (.prefetchRecordWrite 0 false) s) (fun t => t.mover.claims = [want (.prefetch 0 0)]) = true) ∧
    (let o := { objS 3 4 1 none with home := homeB };
      let s := sPf 0 (fun _ => o) fun m => m.give 0 (want (.prefetch 0 0));
      (s.mover.bufOf (.prefetch (0 : Word).toNat 0)).isSome = true ∧
      goes (exec (.prefetchRecordWrite 0 false) s) (fun t => (c0 t).present 16) = true) ∧
    (let o := oMv (move0 false);
      let s := sPf 0 (fun _ => o) id;
      s.obj (pfE 0).obj = some o ∧ o.move = some (move0 false) ∧ (move0 false).flipped = false ∧ (run0 false).reading = false ∧ (run0 false).obj = (pfE 0).obj ∧
      o.e.kind ≠ 6 ∧ tilePieces o.e s.medlar.u.toNat (pfTile (pfE 0) 0) ≠ [] ∧ viaHub o.home (tilePieces o.e s.medlar.u.toNat (pfTile (pfE 0) 0)) 0 = false ∧
      goes (exec (.prefetchRecordWrite 0 false) s) (fun t => t.mover.active.any (·.reading) && !(c0 t).present 16) = true) := by
  and_intros <;> decide

theorem witness_PrefetchEntriesAndRecords_writeBack :
    (let s := (sPf 2 id id).upCell 0 fun k => { k with marks := marksOf [16], store := Memory.writeN [] 1024 [6] };
      s.pfE (0 : Word).toNat = some (pfE 2) ∧ s.obj (pfE 2).obj = some (objS 3 4 1 none) ∧ s.pfCell (pfE 2) = some 0 ∧ (pfE 2).use = 2 ∧
      (c0 s).present (pfWord (pfE 2) (objE 3 4 1) 0) = true ∧ viaHub homeA (tilePieces (objE 3 4 1) s.medlar.u.toNat (pfTile (pfE 2) 0)) 0 = false ∧
      goes (exec (.writeBackRead 0) s) (fun t => !(c0 t).present 16 && t.tiers.readByte homeA 0 = 6) = true) ∧
    (let o := { objS 3 4 1 none with home := homeB };
      let s := (sPf 2 (fun _ => o) fun m => m).upCell 0 fun k => { k with marks := marksOf [16] };
      viaHub o.home (tilePieces o.e s.medlar.u.toNat (pfTile (pfE 2) 0)) 0 = true ∧ s.mover.bufOf (.writeBack (0 : Word).toNat 0) = none) ∧
    (let o := { objS 3 4 1 none with home := homeB };
      let x := { held (.writeBack 0 0) with bad := true };
      let s := (sPf 2 (fun _ => o) fun m => { m with bufs := setV m.bufs 5 (some x) }).upCell 0 fun k => { k with marks := marksOf [16] };
      s.mover.bufOf (.writeBack (0 : Word).toNat 0) = some (5, x) ∧
      goes (exec (.writeBackRead 0) s) (fun t => !(c0 t).present 16 && (t.obj 3).any (fun o => o.bad = [0]) && t.rt.nonfinite) = true) ∧
    (let o := { objS 3 4 1 none with home := homeB };
      let s := (sPf 2 (fun _ => o) fun m => m.give 5 (want (.writeBack 0 0))).upCell 0 fun k =>
        { k with marks := marksOf [16], store := Memory.writeN [] 1024 [6] };
      s.mover.bufOf (.writeBack (0 : Word).toNat 0) = some (5, held (.writeBack 0 0)) ∧
      goes (exec (.writeBackRead 0) s) (fun t => !(c0 t).present 16 && t.tiers.readByte homeB 0 = 6) = true) := by
  and_intros <;> decide

/-- The tile mover with a claim. -/
def sClaim (c : Claim) : State := State.reset.upMover fun m => { m with claims := [c] }

theorem witness_StagingBuffersGrantedAndReturned :
    (let s := sClaim (want (.rows 3));
      s.grantClass = some .p ∧ s.nextClaim .p = some (want (.rows 3)) ∧ s.mover.freeBuf none = some 0 ∧ s.sec.units = [] ∧
      goes (exec .stagingGrant s) (fun t => t.mover.bufs[0] = some (held (.rows 3)) && t.mover.claims = []) = true) ∧
    (let s := sClaim (want (.frames 0));
      s.grantClass = some .p ∧ s.nextClaim .p = some (want (.frames 0)) ∧ s.mover.freeBuf none = some 0 ∧
      goes (exec .stagingGrant s) (fun t => t.mover.claims = []) = true) ∧
    (let u : SecUnit := { step := 9, us := 2, needPartner := true, needFlash := false, needExport := false, logs := [], begun := false, header := none,
                          failed := false, partnerDone := false };
      let s := (sClaim (want (.drain 9))).upSec fun c => { c with units := [u] };
      s.sec.units = u :: [] ∧ s.grantClass = some .d ∧ s.nextClaim .d = some (want (.drain u.step)) ∧ s.mover.freeBuf none = some 0) ∧
    (State.reset.grantClass = none ∧ State.reset.sec.units = []) ∧
    (let s := State.reset.upMover fun m => { m with bufs := setV m.bufs 127 (some { held .restore with landed := true }) };
      s.mover.bufs[(127 : Fin 128)] = some { held .restore with landed := true } ∧
      goes (exec (.stagingBufferReturn 127) s) (fun t => t.mover.bufs[127] = none) = true) ∧
    (let s := State.reset.upMover fun m => m.give 5 (want (.move 3));
      s.mover.bufs[(5 : Fin 128)] = some (held (.move 3)) ∧ (held (.move 3)).landed = false ∧ (held (.move 3)).again = false ∧
      goes (exec (.stagingBufferUe 5) s) (fun t => t.mover.bufs[5] = none && t.mover.claims = [{ work := .move 3, failed := some 5 }] && t.tiers.ueTotal = 1) = true) ∧
    (let s := (sMv (move0 false)).upMover fun m => m.give 6 { work := .move 3, failed := some 5 };
      s.mover.bufs[(6 : Fin 128)] = some { held (.move 3) with again := true } ∧ s.obj (3 : Word).toNat = some (oMv (move0 false)) ∧
      ((s.moveGroup (oMv (move0 false))).any fun y => (y.move.map fun m => !m.flipped).getD false) = true ∧
      goes (exec (.stagingBufferUe 6) (State.reset.upMover fun m => m.give 6 { work := .move 3, failed := some 5 }))
        (fun t => t.mover.bufs[6] = some { held (.move 3) with again := true, bad := true }) = true) := by
  and_intros <;> decide

theorem witness_FloorsAreServedFirst :
    (let s := State.reset.upMover fun m => { m with claims := [want (.rows 3), want .restore], floorP := 0, floorD := 0 };
      s.grantClass = some .p ∧ s.mover.floor .p ≤ s.mover.held .p ∧ (s.nextClaim .d).isSome = true ∧ s.moverPaused = false) ∧
    (let s := State.reset.upMover fun m => { m with claims := [want (.move 3)], floorM := 0 };
      s.grantClass = some .m ∧ s.mover.floor .m ≤ s.mover.held .m ∧ (s.nextClaim .m).isSome = true) := by and_intros <;> decide

/-- The host may write registers. -/
def sHost : State := State.reset.upHost fun h => { h with linkUp := true, cfgReady := true, deviceReady := true }

theorem witness_StageFloorsTakenAtTheLock : (sHost.host.linkUp = true ∧ sHost.host.cfgReady = true ∧ sHost.host.deviceReady = true ∧ sHost.regs.lock = false) ∧
    goes (exec (.setupLock 1) (sHost.upMover fun m => { m with pFloor := 100, dFloor := 20, mFloor := 8 }))
      (fun t => t.regs.lock && t.mover.floorP = 100 && !t.mover.floorErr) = true ∧
    goes (exec (.setupLock 1) (sHost.upMover fun m => { m with pFloor := 100, dFloor := 20, mFloor := 9 }))
      (fun t => t.regs.lock && t.mover.floorP = 64 && t.mover.floorErr) = true := by and_intros <;> decide

theorem witness_MemoryErrorsWipesAndRetention :
    (let l : ErrLoc := { tier := .stack, unit := 11, channel := 15, offset := 2 ^ 33 - 1 };
      locValid l = true ∧ l.tier = .stack ∧ goes (exec (.correctedError l) State.reset) (fun t => t.tiers.ceTotal = 1) = true ∧
      goes (exec (.memoryUe l .noResponse) State.reset) (fun t => t.tiers.ueTotal = 1 && t.tiers.stkUnits[11].health = .failed) = true) ∧
    locValid { tier := .stack, unit := 12, channel := 0, offset := 0 } = false ∧ locValid { tier := .stack, unit := 0, channel := 0, offset := 2 ^ 33 } = false ∧
    (locValid { tier := .cell, unit := 0, channel := 0, offset := 1024 } = true ∧ State.reset.job.replay = false ∧
      goes (exec (.memoryUe { tier := .cell, unit := 0, channel := 0, offset := 1024 } (.cellRecord 0 16)) (State.reset.upCell 0 fun k => { k with marks := marksOf [16] }))
        (fun t => (c0 t).poisoned 16) = true) ∧
    (let l : ErrLoc := { tier := .capacity, unit := 23, channel := 1, offset := 0 };
      locValid l = true ∧ l.tier = .capacity ∧
      goes (exec (.memoryUe l .noResponse) State.reset) (fun t => t.tiers.ueTotal = 1 && t.tiers.devUnits[23].health = .failed) = true) := by and_intros <;> decide

theorem witness_MemoryErrorsWipesAndRetention_wipes :
    ((State.reset.upTiers fun x => { x with keysSet := true }).tiers.keysSet = true ∧ State.reset.tiers.wipeStk = false ∧ State.reset.tiers.wipeCap = false ∧
      State.reset.tiers.wipeCell = false ∧ State.reset.tiers.keysSet = false) ∧
    goes (exec (.tierWipeDone .stk) (State.reset.upTiers fun x => { x with keysSet := true, stackMem := [(5, 7)] }))
      (fun t => t.tiers.wipeStk && t.tiers.stackMem = []) = true ∧
    (let r : RetSlot := { step := 1, input := [], bad := false };
      let s := (State.reset.upTiers fun x => { x with retWait := [r], retention := [{ r with step := 0 }] });
      s.tiers.retWait = r :: [] ∧ (s.tiers.retention).length < 2 ∧ s.mover.bufOf (.retention r.step) = none ∧
      ((s.upMover fun m => m.give 0 (want (.retention 1))).mover.bufOf (.retention r.step)).isSome = true ∧
      goes (exec .retentionWrite (s.upMover fun m => m.give 0 (want (.retention 1)))) (fun t => decide ((t.tiers.retention).length = 2)) = true) ∧
    2 ≤ ((State.reset.upTiers fun x => { x with retention := [{ step := 0, input := [], bad := false }, { step := 1, input := [], bad := false }] }).tiers.retention).length := by
  and_intros <;> decide

/-! ### The update engine -/

/-- A parameter 8 with its working copy 9, and an embedding 5 at a home with its gradient 6, whose row list has two rows. -/
def par (id kind parent : Nat) (h : Home) : ObjS := { objS id kind 0 none with e := { objE id kind 0 with parent := parent }, home := h }
def rate0 : StepSizeRec := { step := 3, eta := [0x3F000000] }
def par8 : ObjS := par 8 0 0 { homeA with row0 := 9 }
def sMedAt (h : Home) (f : Medlar → Medlar) : State :=
  (({ State.reset with
      job := { Job.reset with phase := .formed, stage := .stage5, step := 3 },
      medlar := f { Medlar.reset with inUse := some rate0, rowLists := [(6, rowListBytes [4, 70])] } } : State).upRt fun r =>
    { r with objects := [par 5 5 0 h, par 6 2 5 homeA, par8, par 9 1 8 { homeA with row0 := 20 }] })
def sMed (f : Medlar → Medlar) : State := sMedAt homeB f
def pass0 (obj : Word) (done : Nat) : PassObj := { obj := obj, done := done }
def passed (done : Nat) (outs : List Word) (obj : Word) : State := sMed fun m => { m with passOn := true, outboxes := outs, pass := [pass0 obj done] }

theorem witness_UpdatePassBeginsAndAdvances :
    ((sMed id).medlar.inUse = some rate0 ∧ (sMed id).job.stage = .stage5 ∧ (sMed id).medlar.passOn = false ∧ (sMed id).sec.bufferFree = true ∧
      goes (exec .updatePassStart (sMed id)) (fun t => t.medlar.passOn && t.medlar.pass = [pass0 5 0, pass0 8 0]) = true) ∧
    State.reset.medlar.inUse = none ∧ ((sMed id).upSec fun c => { c with bufferFree := false }).sec.bufferFree = false ∧
    ((passed 0 [] 8).nextPass 0 = some (pass0 8 0, par8) ∧ (passed 0 [] 8).medlar.passOn = true ∧ (passed 0 [] 8).medlarStub par8 = false ∧
      par8.home.inCap = false ∧ par8.e.kind ≠ 5 ∧ (passed 0 [] 8).medlar.outboxHeld 8 = false) ∧
    ((passed 0 [8] 8).nextPass 0 = some (pass0 8 0, par8) ∧ (passed 0 [8] 8).medlar.outboxHeld 8 = true ∧
      goes (exec (.medlarUnit 0) (passed 0 [8] 8)) (fun t => t.medlar.outboxSince[0] = some 0 && t.medlar.pass = [pass0 8 0]) = true) := by
  and_intros <;> decide

theorem witness_UpdatePassBeginsAndAdvances_rows :
    (let o := par 5 5 0 { homeA with row0 := 30 };
      let s := sMedAt { homeA with row0 := 30 } fun m => { m with passOn := true, pass := [pass0 5 0] };
      s.nextPass 0 = some (pass0 5 0, o) ∧ s.medlarStub o = false ∧ o.home.inCap = false ∧ o.e.kind = 5 ∧ s.gradFor o = some (par 6 2 5 homeA)) ∧
    (let o := par 5 5 0 homeB;
      let s := passed 0 [] 5;
      s.obj (5 : Word).toNat = some o ∧ s.medlarOf o = some 0 ∧ s.nextPass 0 = some (pass0 5 0, o) ∧ s.medlar.passOn = true ∧ o.e.kind = 5 ∧
      o.home.inCap = true ∧ s.medlarStub o = false ∧ s.gradFor o = some (par 6 2 5 homeA) ∧ s.mover.bufOf (.rows 5) = none ∧
      goes (exec (.rowWindowBlock 5) s) (fun t => t.mover.claims = [want (.rows 5)]) = true ∧
      (s.upMover fun m => m.give 0 (want (.rows 5))).mover.bufOf (.rows 5) = some (0, held (.rows 5)) ∧ (held (.rows 5)).bad = false) := by
  and_intros <;> decide

theorem witness_OutboxHandedOffAndReleased :
    (let s := passed 1 [] 8;
      s.obj (8 : Word).toNat = some par8 ∧
      s.rt.objects.find? (fun x => decide (x.e.kind = 1) && decide (x.e.parent = par8.e.id)) = some (par 9 1 8 { homeA with row0 := 20 }) ∧
      s.medlar.passOn = true ∧ s.medlar.pass.any (fun p => decide (p.obj = 8) && decide (p.done ≥ s.unitsOf par8)) = true) ∧
    goes (exec (.outboxRelease 8) (passed 1 [7, 8] 8)) (fun t => t.medlar.outboxes = [7]) = true := by and_intros <;> decide

/-! ### Ports, packets and requests -/

/-- A request of module 9 to module 5 that carries the job and the key. -/
def req (op : Byte) (len : Nat) (data : Bytes) : Pkt :=
  { pktBlank with op := op, src := 9, dst := 5, hops := 4, seq := 1, job := 7, key := 0xAB, addr := BitVec.ofNat 64 (5 * 2 ^ 47), len := BitVec.ofNat 13 len,
                  payload := data }
def key0 : KeyE := { base := 0, length := 2 ^ 46, key := 0xAB, job := 7, load := true, store := true, atomic := true, mcast := true, collective := true }

/-- Module 5 of a job of three, with ports 1 and 2 up, object 3 at offset 0, and a key for it. -/
def sFab : State :=
  ((((sObj 0 none []).upJob fun j => { j with p := { j.p with members := [5, 9, 11], level := 3, deadlines := [100] }, step := 2 }).upFab fun b =>
    { b with modId := 5, rktActive := some [key0], route := List.replicate 16 0, sets := [4], buckets := [List.replicate 64 (some 2)] }).upTiers fun t =>
      { t with wipeStk := true, wipeCap := true }).upFab fun b =>
        { b with ports := setV (setV b.ports 1 { Port.reset with st := .up, level := 3, partnerMod := 9, sentId := 5 }) 2 { Port.reset with st := .up, level := 3, sentId := 5 } }

/-- Port 1 in another state. -/
def sPort (f : Port → Port) : State := (sFab.upPort 1 f).upQuince fun q => { q with running := true }
def xchg (lanes : BitVec 8) (delay : Half) (level : BitVec 2) : PortXchg :=
  { lanes := lanes, delay := delay, partnerMod := 9, partnerPort := 4, partnerLevel := level, partnerFw := 3, credits := (5000, 5000, 5000, 5000) }

theorem witness_PortsComeUpAndRetrain :
    (let s := sPort fun q => { q with st := .retraining };
      s.lit = true ∧ s.fab.ports[(1 : Fin 32)].st = .retraining ∧ (xchg 0xFF 4800 1).lanes = 0xFF ∧ (xchg 0xFF 4800 1).delay.toNat ≤ 4800 ∧
      (xchg 0xFF 4800 1).partnerLevel ≠ 0 ∧ goes (exec (.portUp 1 (xchg 0xFF 4800 1)) s) (fun t => t.fab.ports[1].st = .up && t.fab.ports[1].level = 1) = true ∧
      goes (exec (.portUp 1 (xchg 0xFF 4801 1)) s) (fun t => t.fab.ports[1].st = .downLost && t.fab.ports[1].reason = 5) = true ∧
      goes (exec (.portUp 1 (xchg 0x7F 4800 1)) s) (fun t => t.fab.ports[1].reason = 4) = true ∧
      goes (exec (.portUp 1 (xchg 0xFF 4800 0)) s) (fun t => t.fab.ports[1].reason = 6) = true ∧
      goes (exec (.retrainTimeout 1) s) (fun t => t.fab.ports[1].st = .downLost && t.now = 1600000000) = true) ∧
    (let s := sPort fun q => { q with st := .downLost };
      s.lit = true ∧ s.fab.ports[(1 : Fin 32)].st = .downLost ∧ s.fab.portEn.getLsbD (1 : Fin 32).val = true ∧
      goes (exec (.portBringupRetry 1) s) (fun t => t.fab.ports[1].st = .training) = true) ∧
    (let s := sPort fun q => { q with st := .downPlanned };
      s.lit = true ∧ s.fab.ports[(1 : Fin 32)].st = .downPlanned ∧ s.fab.portEn.getLsbD (1 : Fin 32).val = true) ∧
    (let s := sPort fun q => { q with st := .training }; s.lit = true ∧ s.fab.ports[(1 : Fin 32)].st = .training) ∧
    (let k := req 0x02 4 [1, 2, 3, 4];
      let s := (sPort fun q => { q with queues := setV q.queues 0 [(k, 5)], replay := [({ k with seq := 2 }, 6)] }).upFab fun b =>
        { b with sets := [6], buckets := [List.replicate 64 (some 1)] };
      s.fab.ports[(1 : Fin 32)].st = .up ∧
      (∀ x ∈ s.fab.ports[(1 : Fin 32)].replay ++ s.fab.ports[(1 : Fin 32)].queues.toList.flatten, x.1.op ≠ 0x05 ∧ x.2 ≠ noBucket ∧
        ((s.fab.leaveSets 1).bucketPort (x.2 / 64) (x.2 % 64)).isSome = true) ∧
      goes (exec (.portRetrain 1) s) (fun t => t.fab.ports[1].st = .retraining && t.fab.ports[1].replay.isEmpty &&
        decide ((t.fab.ports[2].queues[0]).map (·.2) = [6, 5])) = true) ∧
    (sPort id).fab.ports[(1 : Fin 32)].st = .up := by and_intros <;> decide

theorem witness_LinksSendInOrderUntilTheirLoss :
    (let s := sPort fun q => { q with queues := setV q.queues 0 [(req 0x02 4 [1, 2, 3, 4], 0)], credits := setV q.credits 0 36 };
      s.fab.ports[(1 : Fin 32)].st = .up ∧ s.fab.ports[(1 : Fin 32)].queues[0] = (req 0x02 4 [1, 2, 3, 4], 0) :: [] ∧ (req 0x02 4 [1, 2, 3, 4]).cls = 0 ∧
      (∀ y ∈ [(req 0x02 4 [1, 2, 3, 4], 0)], y.1.src ≠ s.fab.ports[(1 : Fin 32)].sentId) ∧ s.fab.ports[(1 : Fin 32)].fits (req 0x02 4 [1, 2, 3, 4]) = true ∧
      goes (exec (.egressSend 1) s) (fun t => t.fab.ports[1].credits[0] = 0 && t.fab.ports[1].queues[0] = []) = true) ∧
    (let s := sPort fun q => { q with replay := [(req 0x02 0 [], 0), (req 0x01 4 [], 0)] };
      s.fab.ports[(1 : Fin 32)].replay = (req 0x02 0 [], 0) :: [(req 0x01 4 [], 0)] ∧
      goes (exec (.linkAck 1) s) (fun t => t.fab.ports[1].replay = [(req 0x01 4 [], 0)]) = true) ∧
    (let k := { req 0x02 4 [1, 2, 3, 4] with src := 5 };
      let s := sPort fun q => { q with queues := setV q.queues 0 [(k, 0)], credits := setV q.credits 0 36, c0Level := 576000 };
      s.fab.ports[(1 : Fin 32)].queues[0] = (k, 0) :: [] ∧ k.cls = 0 ∧ k.src = s.fab.ports[(1 : Fin 32)].sentId ∧
      s.fab.c0Need s.fab.ports[(1 : Fin 32)] k ≤ s.fab.c0Now s.fab.ports[(1 : Fin 32)] s.now ∧ s.fab.ports[(1 : Fin 32)].fits k = true ∧
      goes (exec (.egressSend 1) s) (fun t => t.fab.ports[1].queues[0] = [] && decide (t.fab.ports[1].c0Level = 0)) = true) ∧
    (let k := { req 0x02 4 [1, 2, 3, 4] with src := 5 };
      let s := sPort fun q => { q with queues := #v[[(k, 0)], [], [], []], c0Level := 575999 };
      s.fab.ports[(1 : Fin 32)].st = .up ∧ s.fab.ports[(1 : Fin 32)].queues = #v[[(k, 0)], [], [], []] ∧ k.src = s.fab.ports[(1 : Fin 32)].sentId ∧
      s.fab.c0Now s.fab.ports[(1 : Fin 32)] s.now < s.fab.c0Need s.fab.ports[(1 : Fin 32)] k) ∧
    ((sPort id).time.timeEn = false ∧ (sPort id).fab.relayEn = false ∧ (sPort fun q => { q with st := .retraining }).fab.ports[(1 : Fin 32)].st = .retraining) ∧
    (let s := (sPort id).upTime fun b => { b with timeEn := true, upPort := 1 };
      s.time.timeEn = true ∧ s.time.timeRoot = false ∧ s.time.upstream.toNat = (1 : Fin 32).val ∧
      goes (exec (.departBlocksReceived 1) s) (fun t => t.fab.ports[1].st = .downPlanned && t.time.upLost) = true) ∧
    goes (exec (.partnerLost 1 .idle) (sPort id)) (fun t => t.fab.ports[1].st = .downLost && t.fab.ports[1].reason = 3) = true ∧
    goes (exec (.departBlocksReceived 1) (sPort id)) (fun t => t.fab.ports[1].st = .downPlanned) = true ∧
    State.reset.fab.ports[(1 : Fin 32)].st ≠ .up ∧ State.reset.fab.ports[(1 : Fin 32)].st ≠ .retraining ∧
    goes (exec (.classCreditReturn 1 2 64) (sPort id)) (fun t => t.fab.ports[1].credits[2] = 64) = true ∧
    goes (exec (.idleBlock 1 3) ((sPort id).upTime fun b => { b with now := 4001 })) (fun t => t.fab.ports[1].idleAt[3] = 4000) = true := by
  and_intros <;> decide

/-- A multicast of 8 bytes to module 5 alone. -/
def mc0 : Pkt := req 0x05 72 (mcList [(5, 6)] ++ List.replicate 8 7)
def mc1 : Pkt := { mc0 with addr := 0 }
/-- An addition of 1 to four bytes. -/
def atom0 : Pkt := req 0x03 24 (List.replicate 8 0 ++ toLE 1 8 ++ List.replicate 8 0)

/-- A line update of a request. -/
def line (k : Pkt) (start : Nat) (data : Bytes) : LineUpd := { line := start / 64, pkt := k, port := 1, start := start, len := 4, data := data }

theorem witness_RequestsReachTheirOrderingPoints :
    (let k := { req 0x02 4 [1, 2, 3, 4] with dst := 9, hops := 2 };
      Arrives sFab 1 k ∧ sFab.fab.mine 1 k = false ∧ k.op ≠ 0x05 ∧ 1 < k.hops.toNat ∧ sFab.fab.portFor k.dst (pktBucket k) = some (2, pktBucket k) ∧
      goes (exec (.packetForward 1 k) sFab) (fun t => t.fab.ports[2].queues[0] = [({ k with hops := 1 }, pktBucket k)]) = true) ∧
    (let k := { req 0x02 4 [1, 2, 3, 4] with dst := 9, hops := 1 }; Arrives sFab 1 k ∧ k.hops.toNat ≤ 1 ∧ pktIsReply k = false) ∧
    (let k := { req 0x02 4 [1, 2, 3, 4] with dst := 9 };
      let s := sFab.upFab fun b => { b with buckets := [List.replicate 64 none] }; Arrives s 1 k ∧ s.fab.hasRoute k = false) ∧
    (let k := req 0x7F 4 [1, 2, 3, 4];
      sFab.fab.loop.contains k = false ∧ sFab.fab.ports[(1 : Fin 32)].st = .up ∧ sFab.fab.ports[(1 : Fin 32)].rxRoom k = true ∧ sFab.aged k = false ∧
      needLevel k = 4) ∧
    (let k := req 0x01 68 [];
      Arrives sFab 1 k ∧ Passes sFab k ∧ TakenAtOnce sFab k ∧ sFab.fab.mine 1 k = true ∧ k.op = 0x01 ∧ k.tileMsg = none ∧
      goes (exec (.load 1 k) sFab) (fun t => t.fab.pendingReq = [(9, 1)] && decide ((t.fab.lines).map (fun l => (l.start, l.len)) = [(0, 64), (64, 4)])) = true) ∧
    (let k := req 0x02 4 [1, 2, 3, 4];
      Arrives sFab 1 k ∧ Passes sFab k ∧ TakenAtOnce sFab k ∧ k.op = 0x02 ∧ k.rw = false ∧ sFab.tileStale k = false ∧
      goes (exec (.store 1 k) sFab) (fun t => decide ((t.fab.lines).map (·.data) = [[1, 2, 3, 4]])) = true) ∧
    (Arrives sFab 1 atom0 ∧ Passes sFab atom0 ∧ TakenAtOnce sFab atom0 ∧ atom0.op = 0x03 ∧ atom0.tileMsg = none) ∧
    (Arrives sFab 1 mc1 ∧ mc1.op = 0x05 ∧ mcTargets mc1.payload = [(5, 6)] ∧ Passes sFab (mcOwn mc1 (5, 6)) ∧ TakenAtOnce sFab (mcOwn mc1 (5, 6)) ∧
      sFab.tileStale (mcOwn mc1 (5, 6)) = false ∧ goes (exec (.mcastStore 1 mc1) sFab) (fun t => t.fab.pendingReq = [(9, 6)]) = true) := by
  and_intros <;> decide

/-- Every line of a channel's ordering point is taken. -/
def sFull : State := sFab.upFab fun b => { b with lines := List.replicate 512 (line (req 0x02 4 []) 0 []) }

theorem witness_RequestsReachTheirOrderingPoints_held :
    (let k := { req 0x05 72 (mcList [(9, 6)] ++ List.replicate 8 7) with addr := 0 };
      Arrives sFab 1 k ∧ mcTargets k.payload = [(9, 6)] ∧ (9 : BitVec 17) ≠ sFab.fab.idAt 1 k ∧ (9 : BitVec 17) ≠ sFab.fab.modId ∧ 1 < k.hops.toNat ∧
      sFab.fab.portFor 9 (pathBucket 9 k.addr) = some (2, pathBucket 9 k.addr) ∧
      goes (exec (.mcastStore 1 k) sFab) (fun t => decide ((t.fab.ports[2].queues[0]).length = 1)) = true) ∧
    (let k := { req 0x02 4 [1, 2, 3, 4] with cls := 2 };
      Arrives sFull 1 k ∧ sFull.fab.inRx k = false ∧ sFull.mustHold k = true ∧ sFull.fab.mine 1 k = true ∧ k.op = 0x02) ∧
    (let k := { req 0x02 4 [1, 2, 3, 4] with cls := 2 };
      let s := sFab.upPort 1 fun q => { q with rx := updV q.rx 2 (· ++ [k]) };
      Arrives s 1 k ∧ s.fab.inRx k = true) ∧
    (let k := { req 0x02 4 [1, 2, 3, 4] with ts := 0x7FD8 };
      sFab.fab.loop.contains k = false ∧ sFab.fab.ports[(1 : Fin 32)].rxRoom k = true ∧ sFab.aged k = true ∧ sFab.aged { k with ts := 0x7FD9 } = false ∧
      goes (exec (.store 1 k) sFab) (fun t => t.fab.ports[1].aged = 1 && t.fab.lines.isEmpty) = true) ∧
    (let k := { req 0x01 64 [] with key := 0xAC };
      Arrives sFab 1 k ∧ TakenAtOnce sFab k ∧ sFab.inJob = true ∧ k.job = sFab.job.p.jobId ∧ needLevel k ≤ sFab.job.p.level.toNat ∧
      pktMalformed k = false ∧ sFab.pwr.st ≠ .parked ∧ sFab.fab.pendingReq.contains (k.src, k.seq) = false ∧ sFab.fab.keyOk k = false) ∧
    (let s := sFab.upJob fun j => { j with p := { j.p with level := 0 } };
      Arrives s 1 (req 0x01 64 []) ∧ TakenAtOnce s (req 0x01 64 []) ∧ s.job.p.level.toNat < needLevel (req 0x01 64 [])) := by
  and_intros <;> decide

/-- A request for each way in which a check of R367 fails. -/
theorem witness_RequestsReachTheirOrderingPoints_checks :
    (let k := req 0x02 4 [1, 2, 3, 4];
      let m := req 0x02 8 [1, 2, 3, 4];
      let j := { k with job := 8 };
      let o := { k with addr := BitVec.ofNat 64 (5 * 2 ^ 47 + 2 ^ 30) };
      RequestCmd (.store 1 k) 1 k ∧ Arrives sFab 1 k ∧ TakenAtOnce sFab k ∧ WellTaken sFab k ∧ NotCached sFab k ∧ sFab.servesRead k = false ∧
      RequestCmd (.store 1 m) 1 m ∧ Arrives sFab 1 m ∧ TakenAtOnce sFab m ∧ pktMalformed m = true ∧ sFab.servesRead m = false ∧
      needLevel m ≤ sFab.job.p.level.toNat ∧
      goes (exec (.store 1 m) sFab) (fun t => decide ((t.fab.ports[2].queues[0]).map (·.1.rstatus) = [7])) = true ∧
      RequestCmd (.store 1 j) 1 j ∧ j.job ≠ sFab.job.p.jobId ∧ pktMalformed j = false ∧
      goes (exec (.store 1 j) sFab) (fun t => decide ((t.fab.ports[2].queues[0]).map (·.1.rstatus) = [4])) = true ∧
      goes (exec (.store 1 j) (sFab.upJob fun x => { x with torn := [8] })) (fun t => decide ((t.fab.ports[2].queues[0]).map (·.1.rstatus) = [5])) = true ∧
      (sFab.upPwr fun p => { p with st := .parked }).pwr.st = .parked ∧ WellTaken (sFab.upPwr fun p => { p with st := .parked }) k ∧
      (sFab.upFab fun b => { b with pendingReq := [(9, 1)] }).fab.pendingReq.contains (k.src, k.seq) = true ∧
      RequestCmd (.store 1 o) 1 o ∧ WellTaken sFab o ∧ sFab.fab.keyOk o = true ∧ sFab.servable o = false ∧
      goes (exec (.store 1 o) sFab) (fun t => decide ((t.fab.ports[2].queues[0]).map (fun x => (x.1.rstatus, x.1.detail)) = [(1, 2)])) = true ∧
      sFab.servable k = true ∧ (sFab.upTiers fun t => { t with wipeStk := false }).tierReady k = false ∧
      goes (exec (.store 1 k) (sFab.upTiers fun t => { t with wipeStk := false })) (fun t => decide ((t.fab.ports[2].queues[0]).map (·.1.rstatus) = [4])) = true) ∧
    (let e : CachedReply := { src := 9, seq := 1, job := 7, rstatus := 0, reqOp := 0x02, detail := 0, value := 0, at_ := 0, dropAt := none };
      let k := req 0x02 4 [1, 2, 3, 4];
      let s := sFab.upFab fun b => { b with cache := [e] };
      WellTaken s k ∧ s.pwr.st ≠ .parked ∧ pktModifies k = true ∧
      s.fab.cache.find? (fun e => e.src = k.src && e.seq = k.seq && e.live s.now) = some e ∧
      goes (exec (.store 1 k) s) (fun t => decide ((t.fab.ports[2].queues[0]).map (·.1.cached) = [true])) = true) ∧
    (let k := { req 0x01 64 [] with addr := BitVec.ofNat 64 (5 * 2 ^ 47 + 2 ^ 46) };
      let s := ((((sFab.upJob fun j => { j with phase := .tornDown, torn := [7] }).upSec fun c => { c with serves := some 7, areaGib := 1 })).upFab fun b =>
        { b with rktActive := some [{ key0 with length := 2 ^ 47 }] });
      Arrives s 1 k ∧ TakenAtOnce s k ∧ s.fab.mine 1 k = true ∧ s.servesRead k = true ∧ needLevel k ≤ s.job.p.level.toNat ∧ pktMalformed k = false ∧
      s.pwr.st ≠ .parked ∧ s.fab.pendingReq.contains (k.src, k.seq) = false ∧ s.fab.keyOk k = true ∧ s.servable k = true ∧ s.tierReady k = true ∧
      goes (exec (.load 1 k) s) (fun t => t.fab.pendingReq = [(9, 1)]) = true) := by
  and_intros <;> first | decide | exact .inr (.inl ⟨rfl, by decide⟩) | exact fun _ => by decide

/-- The last line of a store, and the one line of an addition. -/
theorem witness_LineUpdatesApplyInOrder_last :
    (let k := req 0x02 4 [7, 7, 7, 7];
      let l := line k 4 [7, 7, 7, 7];
      let s := sFab.upFab fun b => { b with lines := [l] };
      s.fab.lines.find? (fun l => decide (l.line = (0 : BitVec 41).toNat)) = some l ∧ l.start < 2 ^ 46 ∧ localOff l.pkt.addr < 2 ^ 46 ∧
      s.objAt l.start = some (objS 3 4 1 none, 4) ∧ l.pkt.tileMsg = none ∧
      (s.fab.lines.erase l).any (fun x => x.pkt.src = l.pkt.src && x.pkt.seq = l.pkt.seq) = false ∧
      goes (exec (.lineUpdate 0) s) (fun t => t.tiers.readByte homeA 4 = 7 && t.fab.lines = [] &&
        decide ((t.fab.ports[2].queues[0]).map (·.1.rstatus) = [0])) = true) ∧
    (let l := line atom0 0 [];
      let s := (sFab.upFab fun b => { b with lines := [l] }).upTiers fun t => t.writeHome homeA 0 [5];
      s.fab.lines.find? (fun l => decide (l.line = (0 : BitVec 41).toNat)) = some l ∧ l.pkt.op = 0x03 ∧ s.lineWaits l = false ∧ l.start < 2 ^ 46 ∧
      s.objAt l.start = some (objS 3 4 1 none, 0) ∧ l.pkt.tileMsg = none ∧
      (s.fab.lines.erase l).any (fun x => x.pkt.src = l.pkt.src && x.pkt.seq = l.pkt.seq) = false ∧
      goes (exec (.lineUpdate 0) s) (fun t => t.tiers.readByte homeA 0 = 6 && decide ((t.fab.cache).map (·.value) = [5])) = true) ∧
    (let l := line atom0 (2 ^ 46) [];
      let s := (sFab.upFab fun b => { b with lines := [l] }).upTiers fun t => { t with partnerMem := t.partnerMem.writeN 0 [5] };
      s.fab.lines.find? (fun l => decide (l.line = (BitVec.ofNat 41 (2 ^ 40)).toNat)) = some l ∧ l.pkt.op = 0x03 ∧ 2 ^ 46 ≤ l.start ∧ l.pkt.tileMsg = none ∧
      (s.fab.lines.erase l).any (fun x => x.pkt.src = l.pkt.src && x.pkt.seq = l.pkt.seq) = false ∧ s.fab.rxCount = 0 ∧
      goes (exec (.lineUpdate (BitVec.ofNat 41 (2 ^ 40))) s) (fun t => t.tiers.partnerMem.readN 0 1 = [6] && decide ((t.fab.cache).map (·.value) = [5])) = true) := by
  and_intros <;> decide

theorem witness_LineUpdatesApplyInOrder :
    (let l := line (req 0x02 8 []) (2 ^ 46) [7, 7, 7, 7];
      let m := line (req 0x02 8 []) (2 ^ 46 + 64) [8, 8, 8, 8];
      let s := sFab.upFab fun b => { b with lines := [l, m] };
      s.fab.lines.find? (fun l => decide (l.line = (BitVec.ofNat 41 (2 ^ 40)).toNat)) = some l ∧ l.pkt.op = 0x02 ∧ 2 ^ 46 ≤ l.start ∧
      (s.fab.lines.erase l).any (fun x => x.pkt.src = l.pkt.src && x.pkt.seq = l.pkt.seq) = true ∧ s.fab.rxCount = 0 ∧
      goes (exec (.lineUpdate (BitVec.ofNat 41 (2 ^ 40))) s) (fun t => decide (t.tiers.partnerMem.readN 0 2 = [7, 7]) && t.fab.lines = [m]) = true) ∧
    (let l := line (req 0x02 8 []) 4 [7, 7, 7, 7];
      let m := line (req 0x02 8 []) 64 [8, 8, 8, 8];
      let s := sFab.upFab fun b => { b with lines := [l, m] };
      s.fab.lines.find? (fun l => decide (l.line = (0 : BitVec 41).toNat)) = some l ∧ l.start < 2 ^ 46 ∧ s.objAt l.start = some (objS 3 4 1 none, 4) ∧
      (s.fab.lines.erase l).any (fun x => x.pkt.src = l.pkt.src && x.pkt.seq = l.pkt.seq) = true ∧
      goes (exec (.lineUpdate 0) s) (fun t => t.tiers.readByte homeA 4 = 7 && t.fab.lines = [m]) = true) ∧
    (let l := line (req 0x01 8 []) 0 [];
      let m := line (req 0x01 8 []) 64 [];
      let s := sFab.upFab fun b => { b with lines := [l, m] };
      s.lineWaits l = false ∧ (s.fab.lines.erase l).any (fun x => x.pkt.src = l.pkt.src && x.pkt.seq = l.pkt.seq) = true ∧ l.pkt.op = 0x01 ∧ s.fab.rxCount = 0 ∧
      goes (exec (.lineUpdate 0) s) (fun t => t.fab.gather = [(9, 1, 0, [0, 0, 0, 0])]) = true) ∧
    (let l := line (req 0x01 4 []) 0 [];
      let s := sFab.upFab fun b => { b with lines := [l] };
      s.lineWaits l = false ∧ l.pkt.tileMsg = none ∧ (s.fab.lines.erase l).any (fun x => x.pkt.src = l.pkt.src && x.pkt.seq = l.pkt.seq) = false ∧
      (s.fab.gather.all fun x => !(x.1 = l.pkt.src && x.2.1 = l.pkt.seq)) = true ∧ s.fab.rxCount = 0) ∧
    (let k := { req 0x02 4 [1, 2, 3, 4] with tileMsg := some { step := 1, tensor := 3, tile := 0, owner := 0 } };
      let s := (sFab.upRt fun r => { r with objects := [objS 3 1 1 none] }).upColl fun c => { c with lastUpdate := some 2 };
      Arrives s 1 k ∧ Passes s k ∧ TakenAtOnce s k ∧ s.fab.mine 1 k = true ∧ k.rw = false ∧ s.tileStale k = true) ∧
    (let l := line (req 0x01 8 []) 0 [];
      let s := (sFab.upRt fun r => { r with objects := [objS 3 4 1 (some (move0 false))] }).upFab fun b => { b with lines := [l] };
      s.fab.lines.find? (fun l => decide (l.line = (0 : BitVec 41).toNat)) = some l ∧ s.lineWaits l = true) := by
  and_intros <;> decide

/-- A store to module 9 that has no answer yet, and the answer. -/
def out1 (retries : Nat) : OutReq := { pkt := { req 0x02 4 [1, 2, 3, 4] with src := 5, dst := 9 }, op := 0x02, issued := 0, retries := retries, ring := none }
def resp1 : Pkt := { pktBlank with op := 0x80, src := 9, dst := 5, seq := 1, job := 7, reqOp := 0x02 }
def sOut (n : Nat) : State := sFab.upFab fun b => { b with outstanding := [out1 n] }

theorem witness_RequestsEndOnce :
    (Arrives (sOut 0) 1 resp1 ∧ resp1.op = 0x80 ∧ (sOut 0).fab.mine 1 resp1 = true ∧ (sOut 0).answered resp1 = some (out1 0) ∧ resp1.rstatus = 0 ∧
      (out1 0).op = 0x02 ∧ (out1 0).ring = none ∧ (sOut 0).imageStore (out1 0).pkt = false ∧ (sOut 0).fab.waiting = [] ∧
      goes (exec (.resp 1 resp1) (sOut 0)) (fun t => t.fab.outstanding = []) = true) ∧
    (Arrives sFab 1 resp1 ∧ sFab.answered resp1 = none) ∧
    ((sOut 2).fab.findOut 9 1 = some (out1 2) ∧ (out1 2).retries < 3 ∧ (sOut 2).jobOpen = true ∧
      (sOut 2).fab.deadFor (out1 2).pkt = false ∧ (sOut 2).fab.toSelf (out1 2).pkt = false ∧
      (sOut 2).fab.portFor (out1 2).pkt.dst (pktBucket (out1 2).pkt) = some (2, pktBucket (out1 2).pkt) ∧ ((sOut 2).upFab fun b => { b with dead := [(7, 9)] }).fab.deadFor (out1 2).pkt = true ∧
      goes (exec (.requestRetry 9 1) (sOut 2)) (fun t => t.fab.outstanding = [out1 3] && t.now = 960000) = true) ∧
    ((sOut 3).fab.findOut 9 1 = some (out1 3) ∧ 3 ≤ (out1 3).retries ∧ (sOut 3).fab.relayEn = false ∧ (sOut 3).fab.waiting = [] ∧
      goes (exec (.requestTimeout 9 1) (sOut 3)) (fun t => t.fab.outstanding = [] && t.fab.dead = [(7, 9)]) = true) ∧
    (let k := req 0x10 4 [0x04, 1, 0, 0]; Arrives sFab 1 k ∧ msgKnown k = false) ∧
    (let k := req 0x10 8 [0x0B, 0, 0, 0, 7, 0, 0, 0];
      Arrives sFab 1 k ∧ sFab.fab.mine 1 k = true ∧ msgType k = 0x0B ∧ msgKnown k = true ∧ sFab.fromRelay k = false) ∧
    (let k := req 0x10 4 [0x09, 0, 0, 0]; Arrives sFab 1 k ∧ k.op = 0x10 ∧ sFab.fab.mine 1 k = true ∧ ownStep (msgType k) = false ∧
      goes (exec (.msg 1 k) sFab) (fun t => t.fab.ports[1].discards = 1) = true) := by
  and_intros <;> decide

/-- The clauses on replies, of RebindAndShedReply and of RequestsEndOnce. -/
theorem witness_RebindAndShedReply_reply :
    (let k := req 0x10 8 [0x08, 0, 0, 0, 7, 0, 0, 0];
      let r : ShedAns := { grant := true, firstStep := 9, share := 60000 };
      let s := ((sFab.upRt fun r => { r with shedWait := true }).upFab fun b => { b with relayEn := true, relayMod := 9 });
      Arrives sFab 1 k ∧ k.op = 0x10 ∧ sFab.fab.mine 1 k = true ∧ msgType k = 0x08 ∧ msgKnown k = true ∧ sFab.fromRelay k = false ∧ Arrives s 1 k ∧
      s.fromRelay k = true ∧ s.rt.shedWait = true ∧ sFab.rt.shedWait = false ∧
      goes (exec (.shedReply 1 k r) s) (fun t => t.rt.shareNext = some (9, 60000) && t.rt.shedAgain = 17 && !t.rt.shedWait) = true ∧
      goes (exec (.shedReply 1 k r) sFab) (fun t => t.fab.ports[1].discards = 1) = true) := by
  and_intros <;> decide

/-! ### Collectives and the end of a step -/

/-- The job with a gradient 6 of the parameter tensor 3, whose row member 0 owns. -/
def sColl (members : List (BitVec 17)) (st : Stage) : State :=
  ((sFab.upRt fun r => { r with objects := [objS 3 4 1 none, { par 6 2 3 homeA with base := 4096 }] }).upJob fun j =>
    { j with stage := st, p := { j.p with members := members, shardMap := [(3, 0, 1, 0)] } }).upMedlar id

/-- An empty contribution of the run to an owner's tree, from a position. -/
def con (step : DWord) (owner srcPos : BitVec 17) : ContribHdr := { ch with job := 7, tensor := 6, step := step, owner := owner, srcPos := srcPos }
def conPkt (op : Byte) (step : DWord) : Pkt := { req op 64 (contribBytes (con step 0 1)) with rw := decide (op = 0x02) }
def tree0 (closed : Bool) : TreeTile := { owner := 0, tensor := 6, tile := 0, layer := 0, rows := false, closed := closed, slots := [] }

/-- The member at the root, with a run in progress. -/
def sJoinC : State := sColl [5, 9, 11] .running

theorem witness_ContributionsJoinTheirTiles :
    (Arrives sJoinC 1 (conPkt 0x04 2) ∧ Passes sJoinC (conPkt 0x04 2) ∧ TakenAtOnce sJoinC (conPkt 0x04 2) ∧ sJoinC.fab.mine 1 (conPkt 0x04 2) = true ∧
      sJoinC.slotOf (contribOf (conPkt 0x04 2).payload) = some 1 ∧ sJoinC.runPlace (contribOf (conPkt 0x04 2).payload) = 1 ∧
      goes (exec (.reduce 1 (conPkt 0x04 2)) sJoinC) (fun t => decide ((t.coll.tiles).map (·.tensor) = [6])) = true) ∧
    (Arrives sJoinC 1 (conPkt 0x04 3) ∧ Passes sJoinC (conPkt 0x04 3) ∧ TakenAtOnce sJoinC (conPkt 0x04 3) ∧
      sJoinC.slotOf (contribOf (conPkt 0x04 3).payload) = some 1 ∧ sJoinC.runPlace (contribOf (conPkt 0x04 3).payload) = 2 ∧
      goes (exec (.reduce 1 (conPkt 0x04 3)) sJoinC) (fun t => decide ((t.coll.early).length = 1)) = true) ∧
    (Arrives sJoinC 1 (conPkt 0x04 1) ∧ Passes sJoinC (conPkt 0x04 1) ∧ TakenAtOnce sJoinC (conPkt 0x04 1) ∧
      sJoinC.slotOf (contribOf (conPkt 0x04 1).payload) = some 1 ∧ sJoinC.runPlace (contribOf (conPkt 0x04 1).payload) = 0) ∧
    (Arrives sJoinC 1 (conPkt 0x04 4) ∧ Passes sJoinC (conPkt 0x04 4) ∧ TakenAtOnce sJoinC (conPkt 0x04 4) ∧
      sJoinC.slotOf (contribOf (conPkt 0x04 4).payload) = some 1 ∧ sJoinC.runPlace (contribOf (conPkt 0x04 4).payload) = 3) ∧
    (Arrives sJoinC 1 (conPkt 0x02 2) ∧ Passes sJoinC (conPkt 0x02 2) ∧ (conPkt 0x02 2).rw = true ∧ sJoinC.fab.inRx (conPkt 0x02 2) = false ∧
      sJoinC.mustHold (conPkt 0x02 2) = false ∧ sJoinC.slotOf (contribOf (conPkt 0x02 2).payload) = some 1 ∧
      sJoinC.runPlace (contribOf (conPkt 0x02 2).payload) = 1) := by
  and_intros <;> decide

/-- The same member as a leaf of the tree of the row's owner. -/
def sLeaf : State := sColl [9, 5, 11] .running

/-- An empty scratch takes a contribution. -/
theorem scratch_takes (s : State) (h : ContribHdr) (d : Bytes) (hs : s.coll.scratchUsed + scratchSize d ≤ 8512) : s.scratchFull h d = false := by
  have : s.coll.scratchRoom d = true := decide_eq_true (by omega)
  simp [State.scratchFull, this]

theorem witness_ContributionsJoinTheirTiles_own :
    (let x := sLeaf.leafHdr (con 2 0 0) [];
      let pos := sLeaf.treePos x.owner.toNat;
      let pl := contribBytes { x with srcPos := BitVec.ofNat 17 pos };
      let dst := sLeaf.job.p.moduleOf (sLeaf.job.p.memberAt x.owner.toNat (sLeaf.job.p.parentPos pos));
      let k : Pkt := { pktBlank with op := 0x04, cls := 1, rw := false, dst := dst, addr := sLeaf.contribAddr x, key := sLeaf.collKey sLeaf.job.p.jobId
                                     job := sLeaf.job.p.jobId, len := BitVec.ofNat 13 pl.length, payload := pl };
      let sent : Pkt := { k with src := sLeaf.fab.modId, ts := sLeaf.ts, hops := 8, seq := sLeaf.fab.nextSeq dst };
      sLeaf.job.p.level.toNat = 3 ∧ sLeaf.ownContrib x [] = true ∧ pos ≠ 0 ∧ sLeaf.job.p.childPos pos = [] ∧ isEmptyC x = true ∧ sLeaf.jobOpen = true ∧
      sLeaf.fab.waiting = [] ∧ sLeaf.fab.deadFor k = false ∧ sLeaf.fab.mayIssue [] k = true ∧ sLeaf.fab.toSelf sent = false ∧
      (sLeaf.fab.portFor dst (pathBucket dst (sLeaf.contribAddr x))).map (·.1) = some 2 ∧
      goes (exec (.contributionSend (con 2 0 0) []) sLeaf) (fun t => decide ((t.fab.ports[2].queues[1]).map (·.1.op) = [0x04])) = true) ∧
    (let x := sJoinC.leafHdr (con 2 0 0) [];
      sJoinC.ownContrib x [] = true ∧ sJoinC.treePos x.owner.toNat = 0 ∧ sJoinC.scratchFull x [] = false) ∧
    sJoinC.ownContrib (sJoinC.leafHdr (con 3 1 0) []) [] = false ∧
    (let s := sJoinC.upColl fun c => { c with tiles := [tree0 false] };
      s.closes 0 6 0 = true ∧ s.coll.tile 0 6 0 = some (tree0 false) ∧ (tree0 false).closed = false ∧
      goes (exec (.tileCloseTimer 0 6 0) s) (fun t => (t.coll.tile 0 6 0).any (·.closed)) = true) ∧
    (sJoinC.closes 0 6 0 = true ∧ sJoinC.coll.tile 0 6 0 = none ∧ sJoinC.fab.rxCount = 0 ∧
      goes (exec (.tileCloseTimer 0 6 0) sJoinC) (fun t => (t.coll.tile 0 6 0).any (·.closed)) = true) ∧
    (sJoinC.upColl fun c => { c with tiles := [tree0 true] }).coll.tile 0 6 0 = some (tree0 true) := by
  and_intros <;> first | decide | exact scratch_takes _ _ _ (by decide)

/-- A record of the integrity all-reduce for step 2, and the message that carries it. -/
def rec0 (result : Bool) : IntRec :=
  { jobId := 7, run := false, nonfinite := false, ovf := false, late := false, critical := false, decision := 0, result := result, step := 2, sumsq := 0,
    members := 1, nonfiniteMembers := 0, ovfMembers := 0, lateMembers := 0, criticalMembers := 0, deferred := 0, dropped := 0, ownTime := 0, stamp := 0 }
def msgPkt (mtype : Nat) (body : Bytes) : Pkt := req 0x10 (4 + body.length) (toLE mtype 4 ++ body)
def intPkt (result : Bool) : Pkt := msgPkt 6 (intBytes (rec0 result))

theorem witness_StepEndsAtTheDecision :
    (let s := (sColl [5, 9, 11] .running).upColl fun c => { c with tiles := [tree0 true] };
      s.inJob = true ∧ s.job.stage = .running ∧ s.shardReduced = true ∧ s.transformsDone = true ∧
      goes (exec .stage4Begin s) (fun t => t.job.stage = .stage4 && t.medlar.sumStarted) = true) ∧
    (let s := State.reset.upMedlar fun m => { m with sumStarted := true };
      s.medlar.sumStarted = true ∧ s.medlar.sumsq = none ∧ s.medlarGrads.any ObjS.readWaits = false ∧
      goes (exec .sumsqDone s) (fun t => t.medlar.sumsq = some 0) = true) ∧
    (let s := ((sColl [5, 9, 11] .stage4).upMedlar fun m => { m with sumsq := some 0 }).upRt fun r =>
        { r with regions := r.regions.map fun g => { g with running := false, doneRuns := 1 } };
      s.inJob = true ∧ s.job.stage = .stage4 ∧ s.allRunsDone = true ∧ s.medlar.sumsq.isSome = true ∧ s.rt.nestsStarted = s.rt.nestsReported ∧
      s.coll.ownRec = none ∧ s.unsent = false ∧ 1 ∈ s.kids ∧ getKV 1 s.coll.children = none ∧ s.fab.rxCount = 0 ∧
      goes (exec .integritySend s) (fun t => t.coll.ownRec.isSome) = true) ∧
    (let s := ((sColl [9, 5, 11] .stage4).upMedlar fun m => { m with sumsq := some 0 }).upRt fun r =>
        { r with regions := r.regions.map fun g => { g with running := false, doneRuns := 1 } };
      s.inJob = true ∧ s.job.stage = .stage4 ∧ s.allRunsDone = true ∧ s.medlar.sumsq.isSome = true ∧ s.rt.nestsStarted = s.rt.nestsReported ∧
      s.coll.ownRec = none ∧ s.unsent = false ∧ s.kids = [] ∧ s.coll.sentUp = false ∧ s.treePos 0 ≠ 0 ∧ s.fab.rxCount = 0) := by
  and_intros <;> decide

theorem witness_StepEndsAtTheDecision_records :
    (let s := sColl [5, 9, 11] .stage4;
      Arrives s 1 (intPkt false) ∧ msgType (intPkt false) = 0x06 ∧ msgKnown (intPkt false) = true ∧ s.inJob = true ∧ (intPkt false).job = s.job.p.jobId ∧
      intOf ((intPkt false).payload.drop 4) = rec0 false ∧ s.fab.collOk (intPkt false) = true ∧ s.posOf (intPkt false).src = some 1 ∧ 1 ∈ s.kids ∧
      s.coll.result = none ∧ s.coll.ownRec = none ∧ (rec0 false).step = s.job.step ∧ (rec0 false).run = s.job.replay ∧ s.fab.rxCount = 0 ∧ goes (exec (.integrity 1 (intPkt false)) s) (fun t => t.coll.children = [(1, rec0 false)]) = true) ∧
    (let s := (sColl [9, 5, 11] .stage4).upColl fun c => { c with sentUp := true };
      Arrives s 1 (intPkt true) ∧ s.treePos 0 ≠ 0 ∧ s.posOf (intPkt true).src = some (s.job.p.parentPos (s.treePos 0)) ∧
      intOf ((intPkt true).payload.drop 4) = rec0 true ∧ s.coll.sentUp = true ∧ s.coll.result = none ∧ s.fab.collOk (intPkt true) = true ∧
      (rec0 true).step = s.job.step ∧ (rec0 true).run = s.job.replay ∧ (rec0 true).decision = 0 ∧ s.fab.rxCount = 0) ∧
    (let s := sMed fun m => { m with passOn := true, u := 4 };
      s.job.stage = .stage5 ∧ s.passOver = true ∧ s.fab.rxCount = 0 ∧ goes (exec .stage5End s) (fun t => t.medlar.u = 5 && t.medlar.stateStep = 3 && t.job.step = 4) = true) ∧
    (let s := (sColl [5, 9, 11] .running).upFab fun b => { b with relayEn := true, relayMod := 9 };
      let k := msgPkt 0x0B (toLE 7 4);
      Arrives s 1 k ∧ msgType k = 0x0B ∧ msgKnown k = true ∧ s.fromRelay k = true ∧ s.inJob = true ∧ s.fab.rxCount = 0 ∧ BitVec.ofNat 32 (leNat k.payload 4 4) = s.job.p.jobId ∧
      goes (exec (.teardown 1 k) s) (fun t => t.job.phase = .tornDown && t.job.torn = [7]) = true) := by
  and_intros <;> first | decide | decide +kernel

/-! ### Power -/

/-- The job of three with shift mode and the relay module 9; the module runs. -/
def sPow (f : Power → Power) : State :=
  (((((sColl [5, 9, 11] .running).upJob fun j => { j with p := { j.p with shift := true } }).upFab fun b => { b with relayEn := true, relayMod := 9 }).upQuince
    fun q => { q with running := true }).upTime fun b => { b with locked := true }).upPwr f
def envPkt (seq effective ceiling : Nat) : Pkt := msgPkt 4 (toLE seq 4 ++ toLE effective 8 ++ toLE ceiling 2 ++ toLE 10 2)
def env0 : EnvMsg := { ceiling := 800, rampDown := 10, effective := 50 }

theorem witness_EnvelopeMessagesMoveTheCeiling :
    (let s := sPow fun p => { p with msgSeq := some 0xFFFFFFFF };
      Arrives s 1 (envPkt 0 0 250) ∧ msgType (envPkt 0 0 250) = 0x04 ∧ msgKnown (envPkt 0 0 250) = true ∧ s.fromRelay (envPkt 0 0 250) = true ∧
      seqNewer (BitVec.ofNat 32 (leNat (envPkt 0 0 250).payload 4 4)) 0xFFFFFFFF = true ∧ leNat (envPkt 0 0 250).payload 16 2 = 250 ∧
      goes (exec (.envelope 1 (envPkt 0 0 250)) s) (fun t => t.pwr.msgCeil = some 250 && t.pwr.msgSeq = some 0) = true ∧
      goes (exec (.envelope 1 (envPkt 0 50 1500)) s) (fun t => t.pwr.msgCeil = none && t.pwr.msgPend.isSome) = true ∧
      goes (exec (.envelope 1 (envPkt 0 0 249)) s) (fun t => t.pwr.msgCeil = none && t.fab.ports[1].discards = 1) = true ∧
      Arrives s 1 (envPkt 0 0 1501) ∧ 1500 < leNat (envPkt 0 0 1501).payload 16 2 ∧ leNat (envPkt 0 0 249).payload 16 2 < 250) ∧
    (let s := sPow fun p => { p with msgSeq := some 3 };
      Arrives s 1 (envPkt 3 0 250) ∧ s.fromRelay (envPkt 3 0 250) = true ∧ seqNewer (BitVec.ofNat 32 (leNat (envPkt 3 0 250).payload 4 4)) 3 = false) ∧
    (let s := (sPow id).upFab fun b => { b with relayMod := 11 };
      Arrives s 1 (envPkt 0 0 250) ∧ s.fromRelay (envPkt 0 0 250) = false) ∧
    (sPow fun p => { p with st := .parked }).pwr.st ≠ .active ∧ State.reset.quince.running = false ∧
    goes (exec (.fmodEval true) (sPow fun p => { p with fMod := 510 })) (fun t => t.pwr.fMod = 500) = true ∧
    ((sPow fun p => { p with msgPend := some env0 }).pwr.msgPend = some env0 ∧
      goes (exec .envelopeEffective (sPow fun p => { p with msgPend := some env0 })) (fun t => t.now = 50 && t.pwr.msgCeil = some 800) = true) ∧
    ((sPow id).quince.running = true ∧ (sPow id).pins.vaux = true ∧ (sPow id).pins.modRst = true ∧ (sPow id).quince.start = none ∧ (sPow id).pwr.st = .active) ∧
    ((sPow id).upQuince fun q => { q with start := some { warm := true, asked := true, recovery := false, trial := false, since := 0 } }).quince.start.isSome = true ∧
    goes (exec (.envStepChange 2) (sPow id)) (fun t => t.pwr.pinCode = 2 && t.pins.envCode = 2) = true := by
  and_intros <;> decide

def credPkt (round : Nat) (down : Bool) : Pkt := msgPkt 5 (creditBytes 7 (BitVec.ofNat 32 round) down 30 90 2)

theorem witness_CreditRoundsShareTheOffers :
    (let s := sPow fun p => { p with borrower := true };
      s.roundsRun = true ∧ s.pwr.childCredits = [] ∧ s.kids ≠ [] ∧
      goes (exec (.creditRoundStart 400 300) s) (fun t => t.pwr.roundOn && t.pwr.round = 1 && t.now = 16777216 && decide (t.pwr.offer = 0)) = true) ∧
    (let s := sPow fun p => { p with roundOn := true, borrower := true, grant := 9 };
      s.pwr.roundOn = true ∧ s.pwr.upSent = false ∧ goes (exec .creditRoundVoid s) (fun t => t.pwr.upSent && t.pwr.grant = 0 && t.now = 6400000) = true ∧
      goes (exec .creditResultTimeout s) (fun t => t.pwr.grant = 0 && t.now = 16000000) = true) ∧
    (let s := sPow fun p => { p with round := 4, upSent := true };
      let k := credPkt 5 false;
      Arrives s 1 k ∧ msgType k = 0x05 ∧ msgKnown k = true ∧ s.inJob = true ∧ s.job.p.shift = true ∧ k.job = s.job.p.jobId ∧
      leNat k.payload 4 4 = s.job.p.jobId.toNat ∧ s.fab.collOk k = true ∧ s.posOf k.src = some 1 ∧ 1 ∈ s.kids ∧ bit (byteAt k.payload 12) 0 = false ∧
      BitVec.ofNat 32 (leNat k.payload 8 4) = s.pwr.round + 1 ∧ s.pwr.upSent = true ∧
      goes (exec (.credit 1 k) s) (fun t => t.pwr.childCredits = [(1, 5, 30, 90, 2)]) = true) ∧
    (let s := (sPow fun p => { p with round := 5, roundOn := true, ask := 30, borrower := true }).upJob fun j => { j with p := { j.p with members := [9, 5, 11] } };
      let k := credPkt 5 true;
      Arrives s 1 k ∧ s.treePos 0 ≠ 0 ∧ s.posOf k.src = some (s.job.p.parentPos (s.treePos 0)) ∧ bit (byteAt k.payload 12) 0 = true ∧ s.pwr.roundOn = true ∧
      BitVec.ofNat 32 (leNat k.payload 8 4) = s.pwr.round ∧ goes (exec (.credit 1 k) s) (fun t => t.pwr.grant = 10 && !t.pwr.roundOn) = true) := by
  and_intros <;> decide

/-- A reply without an error that reads 5 A; a rail that waits for a change. -/
def reply5 : BitVec 22 := BitVec.ofNat 22 (5 * 256 + crc8 5 14 0)
def sRail : State := (sPow id).upRail 2 fun r => { r with wantTarget := 1300, wantEnable := true, pending := true, fails := 1 }

/-- The new estimate leaves the mean of a rail at least at what the older ones in its window give. -/
theorem mean_at_least (r : Rail) (raw k b : Nat) (hk : r.window.toNat * 1000 / 64 = k + 1)
    (h : b ≤ (r.estimates.take k).foldl (· + ·) 0 / ((r.estimates.take k).length + 1)) : b ≤ (r.noteEstimate raw).mean := by
  refine h.trans ?_
  have hs : ∀ (l : List Nat) (a : Nat), l.foldl (· + ·) a = a + l.foldl (· + ·) 0 := by
    intro l
    induction l with
    | nil => simp
    | cons x l ih => intro a; rw [List.foldl_cons, List.foldl_cons, ih, ih (0 + x)]; omega
  simp only [Rail.noteEstimate, Rail.mean, hk, List.take_succ_cons, sumNat, List.foldl_cons, List.length_cons]
  rw [hs _ (0 + _), Nat.max_eq_right (by omega)]
  exact Nat.div_le_div_right (by omega)

/-- Every rail has drawn 900 A for two estimates. -/
def sHot : State := (sPow fun p =>
  { p with rails := p.rails.mapFinIdx fun _ r _ => { r with estimates := [9000, 9000] } }).upTime fun b => { b with now := 4000 }

theorem witness_RailsGovernorsAndFrequencySteps_means (raw : List Nat) :
    (sHot.lit = true ∧ sHot.pwr.dies[(1 : Fin 4)].level < 8 ∧
      sHot.pwr.dies[(1 : Fin 4)].levelAt.toNat + 4096 ≤ (sHot.advanceTo (BitVec.ofNat 64 ((sHot.now.toNat / 1024 + 1) * 1024))).now.toNat) ∧
    95 * sHot.railLim (railOf 1) < 100 * (sHot.pwr.rails[railOf 1].noteEstimate (raw.getD (1 : Fin 4).val 0)).mean ∧
    95 * sHot.railLim 4 < 100 * (sHot.pwr.rails[(4 : Fin 8)].noteEstimate (raw.getD 4 0)).mean ∧
    95 * sHot.railLim 5 < 100 * (sHot.pwr.rails[(5 : Fin 8)].noteEstimate (raw.getD 5 0)).mean ∧
    95 * sHot.railLim 6 < 100 * (sHot.pwr.rails[(6 : Fin 8)].noteEstimate (raw.getD 6 0)).mean ∧ sHot.pwr.rails[(6 : Fin 8)].high = false := by
  have h : ∀ (i : Fin 8) (k x : Nat), sHot.railLim i ≤ 4000 → sHot.pwr.rails[i].window.toNat * 1000 / 64 = k + 1 →
      6000 ≤ (sHot.pwr.rails[i].estimates.take k).foldl (· + ·) 0 / ((sHot.pwr.rails[i].estimates.take k).length + 1) →
      95 * sHot.railLim i < 100 * (sHot.pwr.rails[i].noteEstimate x).mean := fun i k x hl hk hm => by
    have := mean_at_least _ x k 6000 hk hm
    omega
  exact ⟨by and_intros <;> decide, h _ 77 _ (by decide) (by decide) (by decide), h _ 155 _ (by decide) (by decide) (by decide),
    h _ 155 _ (by decide) (by decide) (by decide), h _ 155 _ (by decide) (by decide) (by decide), by decide⟩

theorem witness_RailsGovernorsAndFrequencySteps :
    (sRail.pins.vaux = true ∧ sRail.pins.vrbClk = true ∧ sRail.nextFrame = (2, .change) ∧ sRail.pwr.rails[(2 : Fin 8)].wantEnable = true ∧ crc8 (field reply5.toNat 21 8) 14 0 = field reply5.toNat 7 0 ∧
      field reply5.toNat 21 20 = 0 ∧ sRail.pwr.rails[(2 : Fin 8)].fault = false ∧ sRail.nextFrame.2 ≠ .off ∧ sRail.pwr.rails[sRail.nextFrame.1].fails < 2) ∧
    (let s := sPow fun p => { p with onSeq := [4, 0] };
      s.pins.vaux = true ∧ s.pins.vrbClk = true ∧ s.nextFrame = (4, .on) ∧ s.pwr.rails[(4 : Fin 8)].enabled = false ∧
      s.pwr.rails[(4 : Fin 8)].fault = false) ∧
    (let s := (sPow fun p => { p with offSeq := [3, 2] }).upRail 3 fun r => { r with enabled := true };
      s.nextFrame = (3, .off) ∧ (3 : Fin 8).val ≠ 6 ∧ s.pwr.rails[(3 : Fin 8)].fault = false ∧ s.pwr.rails[(3 : Fin 8)].enabled = true) ∧
    (let s := (sPow id).upRail 2 fun r => { r with wantTarget := 1300, wantEnable := true, pending := true, fails := 2 };
      2 ≤ s.pwr.rails[s.nextFrame.1].fails ∧ s.pwr.rails[s.nextFrame.1].fault = false ∧
      goes (exec (.vrbFrame none) s) (fun t => t.pwr.busFault && t.pwr.faultRail = 2 && t.pwr.rails[2].fault) = true) ∧
    ((sPow fun p => { p with dies := updV p.dies 1 fun d => { d with aboveSince := some 0 } }).pwr.dies[(1 : Fin 4)].aboveSince = some 0) ∧
    (let s := sPow fun p => { p with dies := updV p.dies 1 fun d => { d with coolSince := some 0, cap := 1795 } };
      s.pwr.dies[(1 : Fin 4)].aboveSince = none ∧ s.pwr.dies[(1 : Fin 4)].coolSince = some 0 ∧ s.pwr.dies[(1 : Fin 4)].cap < 1800) ∧
    ((sPow fun p => { p with dies := updV p.dies 1 fun d => { d with overSince := some 0 } }).pwr.dies[(1 : Fin 4)].overSince = some 0) ∧
    (let s := sClk.upCluster 3 fun k => { k with stepTo := some 800, stepHeld := false, periodFs := 1000000, ownCap := 700 };
      s.clusters[s.oscOf 3].stepTo = some 800 ∧ s.clusters[s.oscOf 3].running = true ∧ s.clusters[s.oscOf 3].stepHeld = false ∧
      s.clusters[s.oscOf 3].periodFs < periodOf 800 ∧ s.clusters[(3 : Fin 64)].ownCap ≠ 0 ∧
      goes (exec (.freqStepStage 3) s) (fun t => t.clusters[3].periodFs = 1250000) = true) ∧
    (let s := sClk.upCluster 3 fun k => { k with stepTo := some 1500, stepHeld := false, periodFs := 1000000 };
      periodOf 1500 < s.clusters[s.oscOf 3].periodFs ∧ s.pwr.rails[railOf (dieOf 3)].wantTarget ≤ s.pwr.rails[railOf (dieOf 3)].target ∧
      goes (exec (.freqStepStage 3) s) (fun t => t.clusters[3].periodFs = 937500) = true) ∧
    (let s := (sClk.upCluster 3 fun k => { k with stepTo := some 1500, stepHeld := false, periodFs := 1000000 }).upRail (railOf (dieOf 3)) fun r =>
        { r with wantTarget := 1300 };
      s.clusters[s.oscOf 3].stepTo = some 1500 ∧ periodOf 1500 < s.clusters[s.oscOf 3].periodFs ∧
      s.pwr.rails[railOf (dieOf 3)].target < s.pwr.rails[railOf (dieOf 3)].wantTarget) := by and_intros <;> decide

theorem witness_ThermalLimitsAndPowerStates :
    (softOf (sPow id).pwr (.cluster 3) < 96 ∧ (sPow id).pwr.thermCeil = none ∧
      goes (exec (.thermalSoft (.cluster 3) 96 1000) (sPow id)) (fun t => t.pwr.thermCeil = some 950) = true) ∧
    (let s := sPow fun p => { p with thermCeil := some 900, thermBase := 900, temps := [(.hub, 90)] };
      softOf s.pwr .hub < 96 ∧ (getKV Sensor.hub s.pwr.temps).getD 0 ≤ softOf s.pwr .hub ∧
      goes (exec (.thermalSoft .hub 96 1000) s) (fun t => t.pwr.thermCeil = some 950) = true) ∧
    (let s := sPow fun p => { p with thermCeil := some 900, thermBase := 1000, temps := [(.hub, 96)] };
      s.pwr.thermCeil = some 900 ∧ s.pwr.temps.any (fun x => decide (softOf s.pwr x.1 < x.2)) = true ∧
      goes (exec .thermalCeilingStep s) (fun t => t.pwr.thermCeil = some 880) = true) ∧
    (let s := sPow fun p => { p with thermCeil := some 1485, temps := [(.hub, 92)] };
      s.pwr.temps.any (fun x => decide (softOf s.pwr x.1 < x.2)) = false ∧ s.pwr.temps.all (fun x => decide (x.2 + 3 ≤ softOf s.pwr x.1)) = true ∧ goes (exec .thermalCeilingStep s) (fun t => t.pwr.thermCeil = none) = true) ∧
    (hardOf .hub ≤ 105 ∧ (sPow id).pwr.hard.contains .hub = false ∧ 104 < hardOf .hub ∧ (sPow fun p => { p with hard := [.hub] }).pwr.hard.contains .hub = true) ∧
    (tripOf (.optical 7) ≤ 95 ∧ (sPow id).quince.running = true ∧
      ((sPow id).upRail 3 fun r => { r with enabled := true }).railsLit = true) := by
  and_intros <;> decide

theorem witness_ThermalLimitsAndPowerStates_states :
    (Asks (sPow id) .mctp 1 ∧ (sPow id).powerBusy = false ∧ (sPow id).pwr.st = .active ∧ (sPow id).job.phase = .formed ∧ (sPow id).job.stage ≠ .idle ∧
      goes (exec (.enterParked .mctp) (sPow id)) (fun t => t.pwr.parkWait && t.pwr.goal = none) = true) ∧
    (let s := sPow fun p => { p with goal := some .active };
      Asks s .mctp 1 ∧ s.powerBusy = true ∧ goes (exec (.enterParked .mctp) s) (fun t => t.quince.out = [.done stBusy 0x1B]) = true) ∧
    ((sPow fun p => { p with goal := some .parked }).pwr.goal = some .parked ∧ (sPow fun p => { p with goal := some .parked }).stubsLive = false) ∧
    (let s := (sPow fun p => { p with goal := some .parked }).upRt fun r => { r with objects := [oMv (move0 true)] }; s.stubsLive = true) ∧
    (let s := sPow fun p => { p with st := .parked };
      Asks s .mctp 0 ∧ s.powerBusy = false ∧ s.pwr.st ≠ .active ∧ goes (exec (.returnActive .mctp) s) (fun t => t.pwr.goal = some .active) = true) ∧
    (let s := sPow fun p => { p with st := .parked, goal := some .active }; s.pwr.st = .parked ∧ s.pwr.goal = some .active) ∧
    (let s := (State.reset.upQuince fun q => { q with running := true }).upPins fun p => { p with vaux := true };
      Asks s .mctp 2 ∧ s.powerBusy = false ∧ s.pwr.st ≠ .standby ∧ s.inJob = false ∧ (∀ r : Fin 64, s.host.rings[r].jobId = none) ∧
      goes (exec (.enterStandby .mctp) s) (fun t => t.pwr.goal = some .standby && !t.time.wdArmed) = true) ∧
    (Asks (sPow id) .mctp 2 ∧ (sPow id).inJob = true ∧ ((sPow id).upPins fun p => { p with vaux := false }).quinceServes = false) ∧
    ((sPow fun p => { p with goal := some .standby }).pwr.goal = some .standby ∧ (sPow fun p => { p with goal := some .standby }).stubsLive = false ∧
      (sPow fun p => { p with goal := some .standby }).pwr.offSeq = [] ∧ (sPow fun p => { p with offSeq := [4] }).pwr.offSeq ≠ [] ∧
      (sPow fun p => { p with onSeq := [4] }).pwr.onSeq ≠ []) ∧
    (let s := sPow fun p => { p with st := .standby, goal := some .active }; s.pwr.st = .standby ∧ s.pwr.goal = some .active ∧ s.pwr.onSeq = []) := by
  and_intros <;> (try unfold Asks) <;> decide

/-! ### Securing and the host interface -/

def unit0 (flash done : Bool) : SecUnit :=
  { step := 9, us := 2, needPartner := true, needFlash := flash, needExport := false, logs := [(5, 1, [7])], begun := true, header := none, failed := false,
    partnerDone := done }

/-- A secured image of step 9 of job 7, of one tile row of tensor 3. -/
def secImage : Bytes :=
  toLE 0x53454355 4 ++ toLE (1 + 2 ^ 10) 4 ++ toLE 7 4 ++ toLE 5 4 ++ toLE 9 8 ++ toLE 2 8 ++ toLE 0 8 ++ toLE 1 4 ++ toLE 1 4 ++ toLE 256 8 ++ toLE 0 40 ++
  toLE 0x5ea0b974bdd28bbe56682c5253e115775e37f4884ac2fac705712c9ff52cac6c 32 ++ toLE (1 + 2 ^ 8 * 64) 8 ++
  toLE 3 4 ++ toLE 3 4 ++ toLE 0 8 ++ toLE 1 4 ++ toLE 1 4 ++ toLE 0 4 ++ toLE 0xFFFFFFFF 4 ++ toLE 0 88

/-- The securing of a job of two members. -/
def sSec (f : Resilience → Resilience) : State :=
  ({ State.reset with
    job := { Job.reset with phase := .formed, p := { JobParams.reset with jobId := 7, members := [5, 9], partner := 1 } },
    regs := { State.reset.regs with lock := true } } : State).upSec f

/-- The same with the staging buffer of the drain of step 9. -/
def sDr (f : Resilience → Resilience) : State := (sSec f).upMover fun m => m.give 0 (want (.drain 9))

theorem witness_UnitsAreSecuredInTurn :
    (let s := sDr fun c => { c with units := [unit0 false false] };
      s.sec.units = unit0 false false :: [] ∧ s.partnerOver (unit0 false false) = true ∧ s.drainHeld (unit0 false false) = true ∧ s.copyGood (unit0 false false) = true ∧ s.pwr.st = .active ∧
      (unit0 false false).needPartner = true ∧ (unit0 false false).failed = false ∧ (sSec fun c => c).drainHeld (unit0 false false) = false ∧ 1 < s.job.p.n ∧
      goes (exec .partnerTransferDone s) (fun t => t.sec.partnerStep = 9 && t.sec.slotNext) = true) ∧
    (let s := sDr fun c => { c with units := [unit0 false true], bufferFree := false };
      s.sec.units = [unit0 false true] ∧ (unit0 false true).partnerDone = true ∧ (unit0 false true).needFlash = false ∧ s.drainHeld (unit0 false true) = true ∧ s.sec.startStep = none ∧
      goes (exec .flashTransferDone s) (fun t => t.sec.bufferFree && t.sec.flashLogs = [(9, 5, 1, [7])]) = true) ∧
    (let s := sDr fun c => { c with units := [unit0 true true], bufferFree := false };
      s.sec.units = [unit0 true true] ∧ (unit0 true true).needFlash = true ∧ s.drainHeld (unit0 true true) = true ∧ s.sec.startStep = none ∧ (unit0 true true).failed = false ∧ s.regs.lock = true ∧ s.baseMissing = false ∧
      s.sec.flash.length < s.job.p.flashSlots ∧ goes (exec .flashTransferDone s) (fun t => t.sec.flashStep = 9 && decide (t.sec.flash.length = 1)) = true) ∧
    (let s := (sDr fun c => { c with units := [unit0 false true], bufferFree := false, bufferSince := some 0 }).upTime fun b => { b with now := 32000 };
      s.sec.bufferSince = some 0 ∧ goes (exec .flashTransferDone s) (fun t => t.sec.bufferSince = none && decide (t.job.record.waitBuffer = 2)) = true) := by
  and_intros <;> decide

/-- Bases of embedding 5, which stands in the capacity tier. -/
def base0 : EmbBase := { obj := 5, step := 3, bytes := [], complete := false }
def sBase (f : Mover → Mover) : State :=
  (((sMed id).upJob fun j => { j with stage := .running }).upSec fun c => { c with bases := [{ base0 with obj := 4 }, base0] }).upMover f

/-- A restore at its third source, of tile rows 0 and 1 of tensors 3 and 4. -/
def sRes (f : Mover → Mover) : State :=
  (sSec fun c => { c with restoring := true, restoreSource := 2, restoreStep := 9, restoreNeed := [(3, 0), (4, 0)] }).upMover f

theorem witness_UnitsAreSecuredInTurn_restore :
    ((sBase id).obj (5 : Word).toNat = some (par 5 5 0 homeB) ∧ (par 5 5 0 homeB).e.kind = 5 ∧ (sBase id).rowsBusy (par 5 5 0 homeB) = false ∧ (sBase id).sec.restoring = false ∧
      (sBase id).mover.bufOf (.base 5) = none ∧ goes (exec (.embeddingBaseDone 5) (sBase id)) (fun t => t.mover.claims = [want (.base 5)]) = true) ∧
    (let s := sBase fun m => m.give 0 (want (.base 5));
      s.mover.bufOf (.base 5) = some (0, held (.base 5)) ∧ (held (.base 5)).bad = false ∧ s.sec.bases = [{ base0 with obj := 4 }] ++ base0 :: [] ∧
      (∀ y ∈ ([{ base0 with obj := 4 }] : List EmbBase), y.obj ≠ 5 ∨ y.complete = true)) ∧
    ((sRes id).sec.restoring = true ∧ (sRes id).mover.bufOf .restore = none ∧
      goes (exec (.restoreReadDone true ⟨secImage, []⟩) (sRes id)) (fun t => t.mover.claims = [want .restore]) = true) ∧
    (let s := sRes fun m => m.give 0 (want .restore);
      let u := s.upMover fun m => m.land .restore;
      s.mover.bufOf .restore = some (0, held .restore) ∧ s.sec.restoreSource = 2 ∧ u.imageFits secImage u.sec.restoreStep = true ∧ digestOk secImage = true ∧
      imgSection secImage 8 = (u.rt.image.bind (·.coeff)).getD [] ∧ (u.placeImage secImage []).sec.restoreNeed = [(4, 0)] ∧
      u.sec.restoreNeed.length = 2 ∧ (u.placeImage secImage []).sec.restoreSource = 2 ∧
      goes (exec (.restoreReadDone true ⟨secImage, []⟩) s) (fun t => t.medlar.u = 2 && t.medlar.stateStep = 9) = true ∧
      goes (exec (.restoreReadDone false ⟨secImage, []⟩) s) (fun t => t.sec.restoreSource = 3) = true) := by
  and_intros <;> decide

/-- A unit whose drain holds no staging buffer. -/
theorem witness_UnitsAreSecuredInTurn_waits :
    (let s := sSec fun c => { c with units := [unit0 false false] };
      s.sec.units = unit0 false false :: [] ∧ s.drainHeld (unit0 false false) = false ∧
      goes (exec .partnerTransferDone s) (fun t => t.sec.partnerStep = 0) = true) := by and_intros <;> decide

theorem witness_UnitsAreSecuredInTurn_handover :
    (let s := sSec fun c => { c with handoverWait := true, handoverTo := [9, 11] };
      s.sec.handoverTo.contains 11 = true ∧ s.sec.handoverRead.contains 11 = false ∧
      s.sec.handoverTo.all (s.sec.handoverRead ++ [11]).contains = false ∧
      goes (exec (.handoverImageDone 11) s) (fun t => t.sec.handoverWait && t.sec.handoverRead = [11]) = true) ∧
    (let s := sSec fun c => { c with handoverTo := [9, 11], handoverRead := [9], handover := [1] };
      s.sec.handoverWait = false ∧ s.sec.handoverTo.contains 11 = true ∧ s.sec.handoverRead.contains 11 = false ∧
      s.sec.handoverTo.all (s.sec.handoverRead ++ [11]).contains = true ∧
      goes (exec (.handoverImageDone 11) s) (fun t => t.sec.handover = [] && t.job.phase = .formed) = true) ∧
    (let s := sSec fun c => { c with handoverWait := true, handoverTo := [9, 11], handoverRead := [9] };
      s.sec.handoverWait = true ∧ s.sec.handoverTo.all (s.sec.handoverRead ++ [11]).contains = true ∧
      goes (exec (.handoverImageDone 11) s) (fun t => !t.sec.handoverWait && t.job.phase = .none) = true) := by and_intros <;> decide

/-- A descriptor from its opcode and the words that are not 0, by their offsets. -/
def dsc (op : Nat) (kv : List (Nat × Nat)) : Desc :=
  { index := 0, bytes := toLE (op + 256) 8 ++ (List.range' 2 14).flatMap (fun i => toLE ((getKV (4 * i) kv).getD 0) 4), begun := false, fin := none }

/-- A running ring with a state and what it holds; Quince runs. -/
def ringOn (r : Fin 64) (f : Ring → Ring) (s : State) : State :=
  ((s.upHost fun h => { h with linkUp := true, cfgReady := true, deviceReady := true }).upRing r fun g =>
    f { g with st := .running, kind := if r.val = 0 then 0 else 1 }).upQuince fun q => { q with running := true, life := .owned }
def sRing (f : Ring → Ring) : State := ringOn 1 f State.reset
def sDesc (op : Nat) (kv : List (Nat × Nat)) : State := sRing fun g => { g with descs := [dsc op kv], reserved := 1 }

theorem witness_EndedDescriptorIsWritten :
    (sDesc 1 []).host.linkUp = true ∧ (1 : Fin 64).val ≠ 0 ∧ dsc 1 [] ∈ (sDesc 1 []).host.rings[(1 : Fin 64)].descs ∧ (dsc 1 []).fin = none ∧
      (sDesc 1 []).host.rings[(1 : Fin 64)].stepTurn (dsc 1 []) = true ∧
      (let g := (sRing fun g => { g with descs := [dsc 0x11 [(8, 2)], { dsc 0x11 [(8, 3)] with index := 1 }] }).host.rings[(1 : Fin 64)];
        g.stepTurn (dsc 0x11 [(8, 2)]) = true ∧ g.stepTurn { dsc 0x11 [(8, 3)] with index := 1 } = false) ∧
      (({ tag := 7, sqHead := 1, status := 2, opcode := 0x11, phase := true, detail := 5, sqIndex := 3, result := 9 } : Completion).bytes.length = 32) ∧
      decide ((((sDesc 1 []).complete 1 (dsc 1 []).index 0 0 4).host.rings[(1 : Fin 64)].written).map (·.result) = [4]) = true := by and_intros <;> decide

theorem witness_RingsFollowTheirDoorbells :
    (let s := State.reset.upPins fun p => { p with modRst := true };
      s.pins.vaux = true ∧ s.pins.modRst = true ∧ s.pwr.st ≠ .standby ∧ s.host.cfgReady = false ∧
      goes (exec (.perstDeassert (some 5) 16) s) (fun t => t.host.linkUp && t.host.gen = 5 && t.host.width = 16) = true) ∧
    ((sRing id).host.cfgReady = true ∧ goes (exec .functionLevelReset (sRing id)) (fun t => t.host.rings[1].st = .disabled && t.host.linkUp) = true ∧
      goes (exec (.perstDeassert none 16) (sRing id)) (fun t => !t.host.linkUp && !t.pins.perst && t.host.rings[1].st = .disabled) = true) ∧
    (let s := sRing id;
      s.hostReady = true ∧ s.host.rings[(1 : Fin 64)].st = .running ∧ s.host.rings[(1 : Fin 64)].kind ≠ 2 ∧ (15 : Word).toNat < s.host.rings[(1 : Fin 64)].sqSize ∧
      s.host.rings[(1 : Fin 64)].headWritten = s.host.rings[(1 : Fin 64)].cqHead ∧ s.host.rings[(1 : Fin 64)].cqHead.toNat < s.host.rings[(1 : Fin 64)].cqSize ∧
      goes (exec (.sqTail 1 15) s) (fun t => t.host.rings[1].sqTail = 15 && t.host.rings[1].st = .running) = true ∧
      s.host.rings[(1 : Fin 64)].sqSize ≤ (16 : Word).toNat ∧ (16 : Word).toNat < 65536 ∧
      goes (exec (.sqTail 1 16) s) (fun t => t.host.rings[1].st = .fault && t.host.rings[1].faultCause = 2) = true) ∧
    (let s := sRing fun g => { g with used := 3, cqHead := 14, headWritten := 14 };
      s.host.rings[(1 : Fin 64)].sqTail.toNat < s.host.rings[(1 : Fin 64)].sqSize ∧ (1 : Word).toNat < s.host.rings[(1 : Fin 64)].cqSize ∧
      ((1 : Word).toNat + s.host.rings[(1 : Fin 64)].cqSize - s.host.rings[(1 : Fin 64)].cqHead.toNat) % s.host.rings[(1 : Fin 64)].cqSize ≤ s.host.rings[(1 : Fin 64)].used ∧
      goes (exec (.cqHead 1 1) s) (fun t => t.host.rings[1].cqHead = 1 && t.host.rings[1].used = 0) = true) ∧
    (let s := sRing fun g => { g with sqTail := 1 };
      s.hostReady = true ∧ s.host.rings[(1 : Fin 64)].canFetch = true ∧ s.host.rings[(1 : Fin 64)].descs = [] ∧
      ({ index := 0, bytes := padTo ((dsc 1 []).bytes.take 64) 64, begun := false, fin := none } : Desc).malformed s.host.rings[(1 : Fin 64)].kind.toNat = none ∧
      goes (exec (.descriptorFetch 1 none) s) (fun t => t.host.rings[1].st = .fault && t.host.rings[1].faultCause = 1) = true ∧
      goes (exec (.descriptorFetch 1 (some ⟨(dsc 1 []).bytes, none⟩)) s) (fun t => t.host.rings[1].descs = [dsc 1 []] && t.host.rings[1].sqHead = 1) = true) ∧
    (let s := sRing fun g => { g with modUsec := 2, unsignalled := 3 };
      s.host.rings[(1 : Fin 64)].modUsec ≠ 0 ∧ 0 < s.host.rings[(1 : Fin 64)].unsignalled ∧
      (3 : Fin 65).val = ((s.upRing 1 fun g => { g with vec := 3 }).host.rings[(1 : Fin 64)]).vec.toNat ∧
      goes (exec (.msixModTimer 1) ((s.upRing 1 fun g => { g with vec := 3 }).upHost fun h => { h with msixEn := true, msix := h.msix.map fun v => { v with masked := false } }))
        (fun t => t.host.sent = [3]) = true ∧
      goes (exec (.msixModTimer 1) ((s.upRing 1 fun g => { g with vec := 3 }).upHost fun h => { h with msixEn := true }))
        (fun t => t.host.sent = [] && t.host.msix[3].pend) = true ∧
      goes (exec (.msixModTimer 1) s) (fun t => t.now = 32000 && t.host.rings[1].unsignalled = 0) = true) ∧
    (let s := sRing fun g => { g with sqTail := 1 };
      let d : Desc := { index := 0, bytes := padTo ((dsc 16 []).bytes.take 64) 64, begun := false, fin := none };
      s.host.rings[(1 : Fin 64)].canFetch = true ∧ s.host.rings[(1 : Fin 64)].descs = [] ∧ d.malformed s.host.rings[(1 : Fin 64)].kind.toNat = none ∧
      d.opcode = 0x10 ∧ s.boundRings 1 7 < 4 ∧ s.job.phase ≠ .formed ∧
      goes (exec (.descriptorFetch 1 (some ⟨(dsc 16 []).bytes, some 7⟩)) s) (fun t => t.host.rings[1].jobId = some 7) = true) ∧
    (let s := sRing fun g => { g with st := .disabled };
      s.hostReady = true ∧ s.host.rings[(1 : Fin 64)].st = .disabled ∧ s.cfgOk 1 = true ∧ s.host.rings[(1 : Fin 64)].kind ≠ 2 ∧
      s.host.rings[(1 : Fin 64)].sqTail = 0 ∧ s.host.rings[(1 : Fin 64)].headWritten = 0 ∧ s.host.rings[(1 : Fin 64)].cqHead = 0 ∧
      goes (exec (.ringEnable 1) s) (fun t => t.host.rings[1].st = .running) = true) ∧
    (let s := sRing fun g => { g with st := .disabled, vec := 65 };
      s.host.rings[(1 : Fin 64)].st = .disabled ∧ s.cfgOk 1 = false ∧ goes (exec (.ringEnable 1) s) (fun t => t.host.rings[1].faultCause = 4) = true) ∧
    goes (exec (.ringDisable 1) (sRing id)) (fun t => t.host.rings[1].st = .disabled) = true ∧
    goes (exec (.ringDisable 1) (sDesc 1 [])) (fun t => t.host.rings[1].st = .draining) = true := by and_intros <;> first | decide | decide +kernel

/-- The same with a descriptor of ring 0. -/
def sMgmt (op : Nat) (kv : List (Nat × Nat)) : State := ringOn 0 (fun g => { g with descs := [dsc op kv], reserved := 1 }) State.reset

theorem witness_DescriptorsWithoutAJobComplete :
    (Begins (sDesc 1 []) 1 0x01 (dsc 1 []) ∧ goes (exec (.nop 1) (sDesc 1 [])) (fun t => decide ((t.host.rings[1].written).map (·.status) = [0])) = true) ∧
    (Begins (sMgmt 3 []) 0 0x03 (dsc 3 []) ∧
      goes (exec (.fabricTables 0 none (some [])) (sMgmt 3 [])) (fun t => decide ((t.host.rings[0].written).map (·.detail) = [0x10])) = true) ∧
    (let d := dsc 6 [(16, 16)];
      let s := sMgmt 6 [(16, 16)];
      let b := toLE 0x0B 4 ++ toLE 7 12;
      Begins s 0 0x06 d ∧ ((s.begun 0 d).hostMsg (padTo (b.take (leNat d.bytes 16 2 % 512)) (leNat d.bytes 16 2 % 512))).isSome = true ∧
      (s.begun 0 d).hostMsg (padTo ((toLE 0x01 16).take (leNat d.bytes 16 2 % 512)) (leNat d.bytes 16 2 % 512)) = none ∧
      goes (exec (.fmMsg 0 (some (toLE 0x01 16))) s) (fun t => t.fab.msgDiscards = 1 && decide ((t.host.rings[0].written).map (·.detail) = [0x19])) = true) := by
  and_intros <;> decide

theorem witness_ThermalLimitsAndPowerStates_ring : Asks (sMgmt 2 [(8, 1)]) (.ring 0) 1 ∧ Asks (sMgmt 2 []) (.ring 0) 0 ∧ Asks (sMgmt 2 [(8, 2)]) (.ring 0) 2 :=
  ⟨⟨by decide, by decide, dsc 2 [(8, 1)], by and_intros <;> decide⟩, ⟨by decide, by decide, dsc 2 [], by and_intros <;> decide⟩,
    ⟨by decide, by decide, dsc 2 [(8, 2)], by and_intros <;> decide⟩⟩

/-- The job of three with a ring bound to it that holds one descriptor. -/
def sJobD (op : Nat) (kv : List (Nat × Nat)) (f : State → State) : State :=
  ringOn 1 (fun g => { g with jobId := some 7, descs := [dsc op kv], reserved := 1 }) (f (sColl [5, 9, 11] .running))

theorem witness_JobDescriptorsAct :
    (let d := dsc 0x11 [(8, 2), (0x18, 3)];
      let s := sJobD 0x11 [(8, 2), (0x18, 3)] fun s => s.upJob fun j => { j with p := { j.p with retSize := 3 } };
      Begins s 1 0x11 d ∧ s.ringJob 1 = true ∧ d.stepOf = s.nextInput ∧ leNat d.bytes 0x18 8 ≤ s.job.p.retSize.toNat ∧
      goes (exec (.stepDesc 1 (some [1, 2, 3, 4])) s) (fun t => t.tiers.retWait = [{ step := 2, input := [1, 2, 3], bad := false }]) = true) ∧
    (let d := dsc 0x11 [(8, 3)];
      let s := sJobD 0x11 [(8, 3)] id;
      Begins s 1 0x11 d ∧ s.ringJob 1 = true ∧ d.stepOf ≠ s.nextInput ∧
      goes (exec (.stepDesc 1 none) s) (fun t => decide ((t.host.rings[1].written).map (·.detail) = [0x18])) = true) ∧
    (let d := dsc 0x12 [];
      let s := sJobD 0x12 [] id;
      let b := toLE 2 0x140;
      Begins s 1 0x12 d ∧ s.ringJob 1 = true ∧ s.awaitsSize (BitVec.ofNat 64 (leNat b 0 8)) = false ∧ s.openStep.toNat ≤ (BitVec.ofNat 64 (leNat b 0 8)).toNat ∧
      (BitVec.ofNat 64 (leNat b 0 8)).toNat ≤ s.openStep.toNat + 3 ∧ etaOk ((s.rt.image.map (·.groups)).getD []) b = true ∧
      goes (exec (.stepSize 1 (some b)) s) (fun t => decide ((t.medlar.sizes).map (·.step) = [2])) = true) ∧
    (let s := sJobD 0x12 [] fun s => s.upJob fun j => { j with stage := .stage5 };
      let b := toLE 2 0x140;
      Begins s 1 0x12 (dsc 0x12 []) ∧ s.ringJob 1 = true ∧ s.awaitsSize (BitVec.ofNat 64 (leNat b 0 8)) = true ∧
      etaOk ((s.rt.image.map (·.groups)).getD []) b = true ∧ goes (exec (.stepSize 1 (some b)) s) (fun t => t.medlar.inUse.any fun x => x.step = 2) = true) ∧
    (let s := sJobD 0x12 [] id;
      let b := toLE 6 0x140;
      s.awaitsSize (BitVec.ofNat 64 (leNat b 0 8)) = false ∧ s.openStep.toNat + 3 < (BitVec.ofNat 64 (leNat b 0 8)).toNat ∧
      goes (exec (.stepSize 1 (some b)) s) (fun t => decide ((t.host.rings[1].written).map (·.detail) = [0x15])) = true) := by
  and_intros <;> decide

theorem witness_JobDescriptorsAct_others :
    (let s := sJobD 0x13 [(8, 2)] id;
      Begins s 1 0x13 (dsc 0x13 [(8, 2)]) ∧ s.ringJob 1 = true ∧ s.job.phase = .formed ∧ s.job.stage ≠ .idle ∧
      goes (exec (.hold 1) s) (fun t => t.job.holdStep = some 2) = true) ∧
    (let d := dsc 0x14 [(8, 9), (0x28, 1)];
      let i : FlashImg := { step := 9, image := [1, 2, 3, 4], complete := true, held := true };
      let s := sJobD 0x14 [(8, 9), (0x28, 1)] fun s => s.upSec fun c => { c with flash := [i] };
      s.host.linkUp = true ∧ Begins s 1 0x14 d ∧ s.host.rings[(1 : Fin 64)].jobId.isSome = true ∧
      s.sec.flash.find? (fun i => decide (i.step = d.stepOf) && i.complete) = some i ∧ bit (byteAt d.bytes 0x28) 0 = true ∧
      goes (exec (.exportData 1) s) (fun t => t.sec.exportStep = 0 && decide ((t.sec.flash).map (·.held) = [false])) = true) ∧
    (let d := dsc 0x14 [(8, 9), (0x18, 3)];
      let i : FlashImg := { step := 9, image := [1, 2, 3, 4], complete := true, held := true };
      let s := sJobD 0x14 [(8, 9), (0x18, 3)] fun s => s.upSec fun c => { c with flash := [i] };
      Begins s 1 0x14 d ∧ s.sec.flash.find? (fun i => decide (i.step = d.stepOf) && i.complete) = some i ∧
      leNat d.bytes 0x10 8 + leNat d.bytes 0x18 8 < i.image.length ∧ bit (byteAt d.bytes 0x28) 0 = false) ∧
    (let d := dsc 0x14 [(8, 9), (0x18, 4)];
      let i : FlashImg := { step := 9, image := [1, 2, 3, 4], complete := true, held := true };
      let s := sJobD 0x14 [(8, 9), (0x18, 4)] fun s => s.upSec fun c => { c with flash := [i] };
      s.host.linkUp = true ∧ Begins s 1 0x14 d ∧ s.host.rings[(1 : Fin 64)].jobId.isSome = true ∧
      s.sec.flash.find? (fun i => decide (i.step = d.stepOf) && i.complete) = some i ∧ bit (byteAt d.bytes 0x28) 0 = false ∧
      goes (exec (.exportData 1) s) (fun t => t.sec.exportStep = 9 && decide ((t.sec.flash).map (·.held) = [false])) = true) ∧
    (let d := dsc 0x15 [(8, 64), (12, 9 * 2 ^ 15), (0x10, 0x00080001), (0x14, 0xAB)];
      let s := sJobD 0x15 [(8, 64), (12, 9 * 2 ^ 15), (0x10, 0x00080001), (0x14, 0xAB)] id;
      Begins s 1 0x15 d ∧ s.ringJob 1 = true ∧ field (leNat d.bytes 0x10 4) 7 0 = 0x01 ∧ 1 ≤ s.job.p.level.toNat ∧
      goes (exec (.fabricOp 1 none) s) (fun t => decide ((t.fab.outstanding).map (fun o => (o.pkt.dst, o.pkt.len)) = [(9, 8)])) = true) ∧
    (let s := sJobD 0x15 [(0x10, 5)] fun s => s.upJob fun j => { j with p := { j.p with level := 1 } };
      Begins s 1 0x15 (dsc 0x15 [(0x10, 5)]) ∧ s.ringJob 1 = true ∧ field (leNat (dsc 0x15 [(0x10, 5)]).bytes 0x10 4) 7 0 = 0x05 ∧ s.job.p.level.toNat < 2) ∧
    (let s := sRing fun g => { g with jobId := some 7, descs := [dsc 0x16 []], reserved := 1 };
      Begins s 1 0x16 (dsc 0x16 []) ∧ s.host.rings[(1 : Fin 64)].jobId.isSome = true ∧ s.ringJob 1 = false ∧
      goes (exec (.release 1) s) (fun t => t.host.rings[1].jobId.isNone) = true) ∧
    (let s := sDesc 0x16 [];
      Begins s 1 0x16 (dsc 0x16 []) ∧ s.host.rings[(1 : Fin 64)].jobId = none) := by
  and_intros <;> decide

/-! ### The set-up of a job -/

/-- An image of one region without cells and one object of TIER 3. -/
def imBytes : Bytes :=
  toLE 0x42455246 4 ++ toLE (2 * 2 ^ 8 + 2 ^ 16) 4 ++ toLE 320 8 ++ toLE 5 1 ++ toLE 0 1 ++ toLE 1 2 ++ toLE 1 4 ++ toLE 0 8 ++
  toLE 0xffac12c6473c2097bd876df4eff022c813b7522a11c846647e18518b204553a 32 ++
  [(1, 32, 192), (2, 0, 320), (3, 0, 320), (4, 64, 256), (5, 0, 320)].flatMap (fun (x : Nat × Nat × Nat) => toLE x.1 4 ++ toLE x.2.1 4 ++ toLE x.2.2 8) ++
  toLE 0 48 ++
  toLE 0 8 ++ toLE 1800 2 ++ toLE 1 2 ++ toLE 0 20 ++ toLE 0 32 ++
  toLE 1 4 ++ toLE 1 4 ++ toLE (3 + 2 ^ 4 * 6 + 2 ^ 8 * 3) 4 ++ toLE 0 4 ++ toLE 1 4 ++ toLE 1 4 ++ toLE 0 4 ++ toLE 0xFFFFFFFF 4 ++ toLE 0 32

/-- A set-up block of job 7 with module 5 alone, PARTNER naming no member, and that image. -/
def blk0 : Bytes :=
  toLE 1 4 ++ toLE 7 4 ++ toLE 0 8 ++ toLE 640 8 ++ toLE 3 8 ++ toLE 0 8 ++ toLE (2 ^ 5 + 2 * 2 ^ 7 + 2 ^ 15) 4 ++ toLE (1 + 2 ^ 16 + 2 * 2 ^ 24) 4 ++
  toLE 0 16 ++ toLE 1 4 ++ toLE 1 4 ++ toLE (1 + 2 ^ 16) 4 ++ toLE 1 4 ++ toLE 0 16 ++
  toLE 0x100 8 ++ toLE 0x100 8 ++ toLE 0x100 8 ++ toLE 0x140 8 ++ toLE 320 8 ++ toLE 0 0x78 ++ toLE 5 64 ++ imBytes

def p0 : JobParams := paramsOf blk0
def dSetup : Desc := dsc 0x10 [(0x10, 640)]
def rgnE : RegionE := { rgn 0 with cellMask := 0, progLen := 0, nominal := 0 }

/-- Module 5 with a set-up on ring 1; the same once the set-up has bound its ring. -/
def sSet : State := ringOn 1 (fun g => { g with descs := [dSetup], reserved := 1 })
  ((State.reset.upFab fun b => { b with modId := 5 }).upSec fun c => { c with imgGb := 1 })
def uSet : State := (sSet.begun 1 dSetup).upRing 1 fun g => { g with jobId := some p0.jobId, setupOn := true }

/-- What the image says. -/
def im0 : Image := match checkImage imBytes 1 0 with
  | .ok m => m
  | .error _ => Image.empty

theorem checked : checkImage imBytes 1 0 = .ok im0 := by
  have h : (match checkImage imBytes 1 0 with
    | .ok _ => true
    | .error _ => false) = true := by decide
  unfold im0
  revert h
  cases checkImage imBytes 1 0 <;> simp

theorem im0_tables : im0.regions = [rgnE] ∧ im0.crossings = [] ∧ bindOrder im0 = [0] ∧ im0.coeff = none := by and_intros <;> decide

/-- Cluster 0 is fit for a region when its frequency is high enough; so the region is bound. -/
theorem bound_im0 : ∃ x, uSet.bindTable im0 = .ok [some x] := by
  have hm : ∀ c : Fin 64, 500 ≤ uSet.effMax c := fun c => by
    have hp : uSet.paired c = false := by simp [State.paired, uSet, sSet, ringOn, State.begun, State.upRing, State.upHost, State.upQuince, State.upSec, State.upFab, State.reset, TimeBase.reset]
    have hs : uSet.clusters[c].slow = 0 := by simp [uSet, sSet, ringOn, State.begun, State.upRing, State.upHost, State.upQuince, State.upSec, State.upFab, State.reset, Cluster.reset]
    have hf : 500 ≤ fFuse c.val := by unfold fFuse; omega
    simp only [State.effMax, State.halves, hp, State.effMax1, hs, derated, List.map_cons, List.map_nil, List.foldl_cons, List.foldl_nil, Bool.false_eq_true, if_false]
    omega
  have he : uSet.eligible rgnE 0 = true := by
    simp only [State.eligible, rgnE, rgn, candClusters, Bool.not_false, Bool.true_or, Bool.true_and, Bool.false_eq_true, if_false, List.all_cons, List.all_nil, Bool.and_true]
    simp only [hm]
    decide
  have hb : ∃ x, uSet.bindOne im0 [none] 0 = some x := by
    rw [← Option.isSome_iff_exists]
    unfold State.bindOne
    rw [im0_tables.1]
    apply bestOf_isSome
    have hc : ∀ l : List (Nat × Nat × Fin 64 × Nat), l ≠ [] → (if (l.filter fun x => uSet.goodFit rgnE x.2.2.1 x.2.2.2).isEmpty = true then l
        else l.filter fun x => uSet.goodFit rgnE x.2.2.1 x.2.2.2) ≠ [] := by
      intro l hl
      split
      · exact hl
      · rename_i h; simpa using h
    apply hc
    intro h
    rw [List.filterMap_eq_nil_iff] at h
    have := h 0 (List.mem_finRange _)
    rw [if_pos he] at this
    rw [Option.map_eq_none_iff] at this
    exact absurd this (by decide)
  obtain ⟨x, hx⟩ := hb
  refine ⟨x, ?_⟩
  unfold State.bindTable
  rw [im0_tables.2.2.1, im0_tables.1]
  show (match uSet.bindOne im0 [none] 0 with | none => Except.error 0 | some x => Except.ok ([none].set 0 (some x))) = _
  rw [hx]; rfl

/-- The image's one object is of TIER 3, whose home is its cell of whatever region. -/
theorem placed_im0 (s : State) : ∃ os, s.placeTable im0 = .ok os := by
  have h : (match objBases im0.objects with
    | [x] => decide (x.1.kind = 3) && decide (x.1.tier = 3) && decide (x.2.1 + x.2.2 ≤ 2 ^ 46)
    | _ => false) = true := by decide
  revert h
  unfold State.placeTable
  match objBases im0.objects with
  | [] => simp
  | [x] =>
    intro h
    simp only [Bool.and_eq_true, decide_eq_true_eq] at h
    have hc : (s.chooseHome im0 [] [] x.1).isSome = true := by simp [State.chooseHome, h.1.1, h.1.2]
    obtain ⟨o, ho⟩ := Option.isSome_iff_exists.1 hc
    have h2 := h.2
    norm_num at h2
    simp [h.1.1, h2, ho]
  | _ :: _ :: _ => simp

theorem installed_im0 : ∃ v, uSet.install im0 p0.retSize = .ok v := by
  obtain ⟨b, hb⟩ := bound_im0
  unfold State.install
  rw [hb]
  simp only []
  obtain ⟨os, ho⟩ := placed_im0 ((((({ (uSet.fresh 32).2 with
      cells := (uSet.fresh 32).2.cells.map CellS.unbind, queues := Vector.replicate 7680 .reset, joins := Vector.replicate 1792 .reset } : State).upRt
    fun t => { Runtime.reset with image := some im0, placementFaults := t.placementFaults, degradedClusters := t.degradedClusters,
                                  share := (uSet.fresh 32).1.toNat, shareOrig := (uSet.fresh 32).1.toNat }).upMover fun m =>
      { Mover.reset with pFloor := m.pFloor, dFloor := m.dFloor, mFloor := m.mFloor, floorP := m.floorP, floorD := m.floorD, floorM := m.floorM
                         floorErr := m.floorErr }).upJob fun j => { j with p := { j.p with retSize := p0.retSize } }).applyBinding [some b])
  rw [ho]
  exact ⟨_, rfl⟩

/-- The same module with every cluster failed, before the set-up and once it has bound its ring. -/
def sDead : State := { sSet with clusters := Vector.replicate 64 { Cluster.reset with health := .failed } }
def uDead : State := (sDead.begun 1 dSetup).upRing 1 fun g => { g with jobId := some p0.jobId, setupOn := true }

/-- No cluster is fit for the region, so the binding ends at region 0. -/
theorem unbound_im0 : uDead.install im0 p0.retSize = .error 0 := by
  have he : ∀ c : Fin 64, uDead.eligible rgnE c = false := fun c => by
    simp [State.eligible, rgnE, rgn, candClusters, uDead, sDead, sSet, ringOn, State.begun, State.upRing, State.upHost, State.upQuince, State.upSec, State.upFab]
  have hb : uDead.bindOne im0 [none] 0 = none := by
    unfold State.bindOne
    rw [im0_tables.1]
    simp [he, bestOf]
  have ht : uDead.bindTable im0 = .error 0 := by
    unfold State.bindTable
    rw [im0_tables.2.2.1, im0_tables.1]
    show (match uDead.bindOne im0 [none] 0 with | none => Except.error 0 | some x => Except.ok ([none].set 0 (some x))) = _
    rw [hb]
  unfold State.install
  rw [ht]

theorem image_of_blk0 : slice blk0 (leNat blk0 0x78 8) (leNat blk0 0x80 8) = imBytes ∧ (sSet.levelFor p0).toNat = 1 ∧ (sDead.levelFor p0).toNat = 1 ∧
    sSet.quince.minorMax = 0 ∧ sDead.quince.minorMax = 0 := by and_intros <;> decide

theorem witness_SetupFormsTheJob :
    (Begins sSet 1 0x10 dSetup ∧ blk0.take (leNat dSetup.bytes 0x10 8) = blk0 ∧ sSet.job.phase ≠ .formed ∧ sSet.boundRings 1 p0.jobId < 4 ∧
      (∀ x : Fin 64, sSet.host.rings[x].setupOn = false) ∧ sSet.setupBarred = none ∧ bit (byteAt dSetup.bytes 0x18) 0 = false ∧
      sSet.paramsBad blk0 p0 = none ∧
      checkImage (slice blk0 (leNat blk0 0x78 8) (leNat blk0 0x80 8)) (sSet.levelFor p0).toNat sSet.quince.minorMax = .ok im0 ∧
      (∃ v, uSet.install im0 p0.retSize = .ok v) ∧ uSet.imageBad { p0 with level := sSet.levelFor p0 } im0 = none ∧ p0.restoreValid = false) ∧
    (Begins sDead 1 0x10 dSetup ∧ sDead.job.phase ≠ .formed ∧ sDead.boundRings 1 p0.jobId < 4 ∧ (∀ x : Fin 64, sDead.host.rings[x].setupOn = false) ∧
      sDead.setupBarred = none ∧ sDead.paramsBad blk0 p0 = none ∧
      checkImage (slice blk0 (leNat blk0 0x78 8) (leNat blk0 0x80 8)) (sDead.levelFor p0).toNat sDead.quince.minorMax = .ok im0 ∧
      uDead.install im0 p0.retSize = .error 0) ∧
    (Begins (sJobD 0x10 [] id) 1 0x10 (dsc 0x10 []) ∧ (sJobD 0x10 [] id).ringJob 1 = true ∧ (sJobD 0x10 [] id).job.phase = .formed ∧
      goes (exec (.jobSetup 1 (some [])) (sJobD 0x10 [] id)) (fun t => decide ((t.host.rings[1].written).map (·.detail) = [0x16])) = true ∧
      goes (exec (.jobSetup 1 none) (sJobD 0x10 [] id)) (fun t => decide ((t.host.rings[1].written).map (·.detail) = [0x10])) = true) := by
  refine ⟨⟨?_, by decide, by decide, by decide, by decide, by decide, by decide, by decide, ?_, installed_im0, by decide, by decide⟩,
    ⟨?_, by decide, by decide, by decide, by decide, by decide, ?_, unbound_im0⟩, ?_, by decide, by decide, by decide, by decide⟩
  · unfold Begins; and_intros <;> decide
  · rw [image_of_blk0.1, image_of_blk0.2.1, image_of_blk0.2.2.2.1]; exact checked
  · unfold Begins; and_intros <;> decide
  · rw [image_of_blk0.1, image_of_blk0.2.2.1, image_of_blk0.2.2.2.2]; exact checked
  · unfold Begins; and_intros <;> decide

/-! ### Quince, starts and registers -/

/-- Quince serves, with keys enrolled. -/
def sQ (f : Quince → Quince) : State :=
  ((sRing id).upPins fun p => { p with vaux := true, modRst := true }).upQuince fun q => f { q with keysEnrolled := true }
def pkg0 : Bytes := [1]

theorem witness_LongOperationsAndRestarts :
    (AsksQuince (sQ id) .mctp 0x04 (fun d => bit (byteAt d.bytes 8) 0 == false) ∧ (sQ id).inJob = false ∧ (sQ id).quince.start = none ∧
      goes (exec (.warmRestart .mctp) (sQ id)) (fun t => t.quince.start.any (·.warm)) = true ∧
      goes (exec (.coldRestart .mctp) (sQ id)) (fun t => t.quince.start.any (fun x => !x.warm)) = true) ∧
    (let s := sMgmt 4 [(8, 1)];
      (0 : Fin 64).val = 0 ∧ s.host.mgmtBusy = false ∧ s.host.rings[(0 : Fin 64)].nextDesc = some (dsc 4 [(8, 1)]) ∧ (dsc 4 [(8, 1)]).opcode = 0x04 ∧
      (bit (byteAt (dsc 4 [(8, 1)]).bytes 8) 0 == true) = true ∧ s.inJob = false ∧ s.quince.start = none) ∧
    (let s := sQ fun q => { q with life := .factory };
      AsksQuince s .mctp 0x05 (longIs 1) ∧ s.quince.life = .factory ∧ s.quince.life.mayTurn (Life.ofCode (3 : BitVec 2).toNat) = true ∧ s.unbound = true ∧
      goes (exec (.lifecycleChange ⟨.mctp, some pkg0⟩ 3) s) (fun t => t.host.mgmtBusy && t.quince.changing = some .retired) = true) ∧
    (AsksQuince (sQ id) .mctp 0x05 (longIs 1) ∧ (sQ id).quince.life ≠ .factory ∧ (sQ id).quince.life.mayTurn (Life.ofCode (2 : BitVec 2).toNat) = true ∧
      (sQ id).unbound = true ∧ (sQ id).quince.keysEnrolled = true ∧ (sQ id).quince.approval = none ∧
      goes (exec (.lifecycleChange ⟨.mctp, some pkg0⟩ 2) (sQ id)) (fun t => t.quince.approval.isSome && !t.host.mgmtBusy) = true ∧
      AsksQuince (sQ id) .mctp 0x05 (longIs 2) ∧ AsksQuince (sQ id) .mctp 0x05 (longIs 3) ∧ AsksQuince (sQ id) .mctp 0x05 (longIs 4) ∧
      goes (exec (.sanitise ⟨.mctp, some pkg0⟩) (sQ id)) (fun t => t.quince.approval.isSome) = true ∧
      goes (exec (.flashFormat ⟨.mctp, some pkg0⟩) (sQ id)) (fun t => t.quince.approval.isSome) = true ∧
      goes (exec (.firmwareCommit .mctp (some pkg0)) (sQ id)) (fun t => t.host.longOp = 3) = true) ∧
    (sQ fun q => { q with long := some (.firmware pkg0, .mctp) }).quince.long = some (.firmware pkg0, .mctp) ∧
    (let s := (sQ fun q => { q with long := some (.format, .mctp) }).upSec fun c => { c with bases := [{ obj := 5, step := 3, bytes := [], complete := false }] };
      s.quince.long = some (.format, .mctp) ∧ goes (exec .longOpDone s) (fun t => t.sec.bases = [] && t.quince.long.isNone) = true) ∧
    (let s := sQ fun q => { q with long := some (.lifecycle .service, .mctp), changing := some .service };
      s.quince.long = some (.lifecycle .service, .mctp) ∧ s.quince.changing = some .service ∧
      goes (exec .longOpDone s) (fun t => t.quince.life = .service && t.quince.start.isSome) = true) ∧
    (AsksQuince (sMgmt 4 [(8, 1)]) (.ring 0) 0x04 (fun d => bit (byteAt d.bytes 8) 0 == true) ∧
      goes (exec (.coldRestart (.ring 0)) (sMgmt 4 [(8, 1)])) (fun t => t.quince.start.any (fun x => !x.warm)) = true) ∧
    (let s := sQ fun q => { q with long := some (.sanitise, .mctp), erasing := true };
      s.quince.long = some (.sanitise, .mctp) ∧ s.quince.erasing = true ∧ s.quince.changing = none ∧
      goes (exec .longOpDone s) (fun t => !t.quince.erasing && t.quince.start.isSome) = true) := by
  and_intros <;> first | decide | decide +kernel

/-- Long operations asked for on ring 0 whose block cannot be read. -/
theorem witness_LongOperationsAndRestarts_unread :
    (Begins (sMgmt 5 [(8, 2)]) 0 0x05 (dsc 5 [(8, 2)]) ∧ longIs 2 (dsc 5 [(8, 2)]) = true ∧
      goes (exec (.sanitise ⟨.ring 0, none⟩) (sMgmt 5 [(8, 2)])) (fun t => decide ((t.host.rings[0].written).map (·.detail) = [0x10])) = true) ∧
    (Begins (sMgmt 5 [(8, 3)]) 0 0x05 (dsc 5 [(8, 3)]) ∧ longIs 3 (dsc 5 [(8, 3)]) = true ∧
      goes (exec (.firmwareCommit (.ring 0) none) (sMgmt 5 [(8, 3)])) (fun t => decide ((t.host.rings[0].written).map (·.detail) = [0x10])) = true) ∧
    (Begins (sMgmt 5 [(8, 4)]) 0 0x05 (dsc 5 [(8, 4)]) ∧ longIs 4 (dsc 5 [(8, 4)]) = true ∧
      goes (exec (.flashFormat ⟨.ring 0, none⟩) (sMgmt 5 [(8, 4)])) (fun t => decide ((t.host.rings[0].written).map (·.detail) = [0x10])) = true) := by
  and_intros <;> decide

/-- A table of one key, an open record for it, and what the parties sign. -/
def table0 : Bytes := toLE 0x1000 8 ++ toLE 0x2000 8 ++ toLE 0xAB 4 ++ toLE 7 4 ++ toLE 3 4 ++ toLE 0 4
def apr0 (host board : Bool) : Approval :=
  { op := .rkt, asker := .mailbox, nonce := 9, digest := sha384 table0, hostDone := host, boardDone := board, openedAt := 0 }
def signed (host board : Bool) : Bytes := (apr0 host board).message 5 ++ List.replicate 96 0
def sApr (host board : Bool) : State :=
  (sQ fun q => { q with approval := some (apr0 host board) }).upFab fun b => { b with modId := 5, rktStaged := some [keyOf table0], rktStagedBytes := table0 }

theorem witness_TwoPartyApproval :
    ((sQ id).hostReady = true ∧ (sQ id).quinceServes = true ∧ (sQ id).host.mgmtBusy = false ∧ rktOk table0 = true ∧ (sQ id).quince.approval = none ∧
      goes (exec (.stageRkt table0) (sQ id)) (fun t => t.fab.rktStaged = some [keyOf table0]) = true ∧ rktOk (1 :: table0) = false ∧
      rktOk (table0 ++ table0) = false) ∧
    (let s := (sQ id).upFab fun b => { b with rktStaged := some [keyOf table0], rktStagedBytes := table0 };
      s.hostReady = true ∧ s.quinceServes = true ∧ s.host.mgmtBusy = false ∧ s.fab.rktStaged.isSome = true ∧ s.quince.keysEnrolled = true ∧
      s.quince.approval = none ∧ goes (exec .activateRkt s) (fun t => t.fab.rktAwait && t.quince.approval.isSome) = true) ∧
    (AsksQuince (sApr false false) .mctp 0 (fun _ => true) ∧ (sApr false false).quince.approval = some (apr0 false false) ∧ (signed false false).length = 168 ∧
      (signed false false).take 72 = (apr0 false false).message (sApr false false).fab.modId ∧ (apr0 false false).hostDone = false) ∧
    ((sApr false true).hostReady = true ∧ (sApr false true).quinceServes = true ∧ (sApr false true).host.mgmtBusy = false ∧
      (sApr false true).quince.approval = some (apr0 false true) ∧ (apr0 false true).op = .rkt ∧ (signed false true).length = 168 ∧
      (signed false true).take 72 = (apr0 false true).message (sApr false true).fab.modId ∧ (apr0 false true).boardDone = true ∧ pkg0.length ≠ 168 ∧
      goes (exec (.approve false pkg0) (sApr false true)) (fun t => t.quince.mbxStatus = 0x0D && t.quince.approval.isSome) = true ∧
      (apr0 false true).asker ≠ .mctp ∧ goes (exec .cancelApproval (sApr false true)) (fun t => t.quince.approval.isNone) = true ∧
      goes (exec .approvalTimeout (sApr false true)) (fun t => t.quince.approval.isNone && t.now = 960000000000) = true) ∧
    (let s := sQ fun q => { q with life := .factory };
      AsksQuince s .mctp 0 (fun _ => true) ∧ s.quince.life = .factory ∧ goes (exec (.enrol 1 2) s) (fun t => t.quince.life = .owned && t.quince.boardHash = 2 && t.quince.start.isSome) = true) ∧
    (let s := (sQ fun q => { q with faults := [{ kind := 1, at_ := 0, result := 0 }] }).upPins fun p => { p with faultLow := true };
      s.quinceUp = true ∧ s.host.mgmtBusy = false ∧ s.quince.faults[(0 : Fin 64).val]? = some { kind := 1, at_ := 0, result := 0 } ∧ s.quince.start = none ∧
      goes (exec (.faultLog 0) s) (fun t => !t.pins.faultLow) = true ∧
      goes (exec .status s) (fun t => t.quince.out = [.status 0 1 s.host.startPath.toNat 0 false false]) = true ∧
      goes (exec .pldmRequest s) (fun t => t.quince.out.length = 1) = true ∧ Sensor.hub ∈ allSensors ∧
      getKV Sensor.hub (State.reset.upPwr fun p => { p with temps := [(.hub, 40)] }).pwr.temps = some 40 ∧
      goes (exec .spdmRequest s) (fun t => t.quince.out.length = 1) = true) ∧
    (let s := sQ fun q => { q with start := some { warm := false, asked := true, recovery := false, trial := false, since := 0 } };
      s.quinceUp = true ∧ s.host.mgmtBusy = false ∧ s.quince.start.isSome = true ∧
      goes (exec .spdmRequest s) (fun t => t.quince.spdmWait = 1 && t.quince.out.isEmpty) = true) := by
  and_intros <;> decide

theorem witness_RefusedApprovalsLeaveTheRecord :
    ((sQ id).hostReady = true ∧ (sQ id).quinceServes = true ∧ (sQ id).host.mgmtBusy = false ∧ (sQ id).quince.approval = none ∧
      (sApr false false).quince.approval = some (apr0 false false) ∧ pkg0.length ≠ 168 ∧ (5 :: (signed false false).drop 1).length = 168 ∧
      (5 :: (signed false false).drop 1).take 72 ≠ (apr0 false false).message (sApr false false).fab.modId ∧
      goes (exec (.approve false (5 :: (signed false false).drop 1)) (sApr false false)) (fun t => decide ((t.quince.faults).map (·.kind) = [fkApproval])) = true ∧
      goes (exec (.approve true pkg0) (sQ id)) (fun t => t.quince.out = [.done stApproval 0]) = true) ∧
    (AsksQuince (sQ id) .mctp 0 (fun _ => true) ∧ AsksQuince (sApr false true) .mctp 0 (fun _ => true)) ∧
    ((sApr true false).hostReady = true ∧ (sApr true false).quinceServes = true ∧ (sApr true false).quince.approval = some (apr0 true false) ∧
      (apr0 true false).hostDone = true ∧ (apr0 true false).boardDone = false) ∧
    (sApr false true).quince.approval = some (apr0 false true) ∧ (apr0 false true).hostDone = false ∧ (apr0 false true).boardDone = true := by
  and_intros <;> decide

/-- A change to RETIRED that is recorded. -/
def sTurn : State := sQ fun q => { q with long := some (.lifecycle .retired, .mctp), changing := some .retired }

theorem witness_LifecycleChangeOutlivesTheSupply : sTurn.quince.changing = some .retired ∧ sTurn.pins.modRst = true ∧
    goes (exec .vauxBrownout sTurn) (fun t => goes (exec .vauxApplied t) fun u => u.quince.life = .retired && u.quince.start.isSome && u.tiers.mediaKey = 0) = true := by
  and_intros <;> decide

/-- A start in which every check holds. -/
def obs0 : StartObs :=
  { slotA := true, slotB := true, recoveryOk := true, railsOk := true, failedClusters := [], failedCells := [], failedStacks := [], failedDevices := [],
    coldUnits := [], unitTemps := [], slow := [], readyInTime := true }
def start0 (warm recovery : Bool) : StartS := { warm := warm, asked := !warm, recovery := recovery, trial := false, since := 0 }
def sStart (warm recovery : Bool) : State :=
  ((State.reset.upPins fun p => { p with vaux := true, modRst := true }).upHost fun h => { h with linkUp := true }).upQuince fun q =>
    { q with start := some (start0 warm recovery), life := .owned, slotA := { q.slotA with present := true }, activeSlot := false, pending := false,
             retryDue := some 0, storedValid := warm, tapStored := q.tapStored.set 3 9 }

theorem railOn_fit (s : State) (i : Fin 8) : (s.railOn i).clusters = s.clusters ∧ (s.railOn i).time = s.time := ⟨rfl, rfl⟩

theorem advanceTo_fit (s : State) (t : DWord) : (s.advanceTo t).clusters = s.clusters ∧ (s.advanceTo t).time.pairEn = s.time.pairEn := ⟨rfl, rfl⟩

theorem foldl_fit {α : Type} (f : State → α → State) (h : ∀ s x, (f s x).clusters = s.clusters ∧ (f s x).time.pairEn = s.time.pairEn)
    (l : List α) (s : State) : (l.foldl f s).clusters = s.clusters ∧ (l.foldl f s).time.pairEn = s.time.pairEn := by
  induction l generalizing s with
  | nil => exact ⟨rfl, rfl⟩
  | cons x l ih => exact ⟨(ih (f s x)).1.trans (h s x).1, (ih (f s x)).2.trans (h s x).2⟩

/-- Powering up turns rails on and lets time pass; it touches no cluster and no pair. -/
theorem powerUp_fit (s : State) : s.powerUp.clusters = s.clusters ∧ s.powerUp.time.pairEn = s.time.pairEn := by
  unfold State.powerUp
  rw [State.upPins_clusters, State.upPins_time]
  refine foldl_fit _ (fun s i => ?_) _ _
  dsimp only
  rw [(advanceTo_fit _ _).1, (advanceTo_fit _ _).2, (railOn_fit _ _).1, (railOn_fit _ _).2, State.upPwr_clusters, State.upPwr_time]
  exact ⟨rfl, rfl⟩

/-- The state in which the self-test runs. -/
def sTest (w : Bool) : State := (sStart w false).trainLink.powerUp.selfTest obs0

theorem sTest_clusters (w : Bool) (c : Fin 64) : (sTest w).clusters[c].slow = 0 ∧ (sTest w).clusters[c].health = .good := by
  have h : (sStart w false).trainLink.powerUp.clusters = Vector.replicate 64 .reset := by
    rw [(powerUp_fit _).1]; cases w <;> rfl
  simp [sTest, State.selfTest, State.upTime, State.upTiers, h, obs0, Cluster.reset]

theorem fit_start (w : Bool) (c : Fin 64) : 500 ≤ (sTest w).effMax c ∧ (sTest w).clusters[c].health ≠ .failed := by
  have hp : (sTest w).paired c = false := by
    have : (sTest w).time.pairFormed = 0 := by
      have h : (sStart w false).trainLink.powerUp.time.pairEn = 0 := by rw [(powerUp_fit _).2]; cases w <;> rfl
      simp only [sTest, State.selfTest, State.upTime, State.upTiers, h]
      decide
    simp [State.paired, this]
  have hf : 500 ≤ fFuse c.val := by unfold fFuse; omega
  refine ⟨?_, by rw [(sTest_clusters w c).2]; decide⟩
  simp only [State.effMax, State.halves, hp, State.effMax1, (sTest_clusters w c).1, derated, List.map_cons, List.map_nil, List.foldl_cons, List.foldl_nil, Bool.false_eq_true, if_false]
  omega

theorem fit_all (w : Bool) : 32 ≤ (sTest w).eligibleN := by
  unfold State.eligibleN
  rw [List.filter_eq_self.mpr (fun c _ => by
    have h := fit_start w c
    simp only [Bool.and_eq_true, decide_eq_true_eq]
    exact ⟨h.2, h.1⟩)]
  decide

theorem witness_StartsRunAndFail :
    ((State.reset.upPins fun p => { p with modRst := true }).pins.modRst = true ∧ (State.reset.upPins fun p => { p with modRst := false }).pins.modRst = false ∧
      (State.reset.upPins fun p => { p with modRst := false, vaux := true }).pins.vaux = true ∧
      goes (exec .modRstRelease (State.reset.upPins fun p => { p with modRst := false, vaux := true })) (fun t => t.quince.start.isSome) = true) ∧
    (∀ w : Bool, (sStart w false).quince.start = some (start0 w false) ∧ (sStart w false).quince.life ≠ .retired ∧ (start0 w false).recovery = false ∧
      obs0.slotA = true ∧ (sStart w false).quince.slotA.present = true ∧ (sStart w false).quince.activeSlot = false ∧ (sStart w false).quince.pending = false ∧
      obs0.railsOk = true ∧ obs0.readyInTime = true ∧ 32 ≤ (sTest w).eligibleN) ∧
    ((start0 true false).warm = true ∧ (sStart true false).quince.storedValid = true ∧ obs0.coldUnits = []) ∧
    ({ obs0 with railsOk := false } : StartObs).railsOk = false ∧
    goes (exec (.startBegin { obs0 with railsOk := false }) (sStart false false)) (fun t => t.quince.failCount = 1 && t.quince.start.isNone) = true ∧
    (let s := (sStart false false).upQuince fun q => { q with life := .retired };
      s.quince.start.isSome = true ∧ s.quince.life = .retired ∧
      goes (exec (.startBegin obs0) s) (fun t => t.quince.start.isNone && !t.host.deviceReady) = true) := by
  refine ⟨by and_intros <;> decide, fun w => ⟨by cases w <;> rfl, by cases w <;> decide, by cases w <;> rfl, by decide, by cases w <;> decide,
    by cases w <;> decide, by cases w <;> decide, by decide, by decide, fit_all w⟩, ?_⟩
  and_intros <;> decide

/-- No slot verifies: both are below the SVN floor. -/
theorem witness_StartsRunAndFail_slots :
    (let s := (sStart false false).upQuince fun q => { q with svnFloor := 9 };
      s.quince.start = some (start0 false false) ∧ (start0 false false).recovery = false ∧ s.quince.slotVerifies s.quince.slotA = false ∧
      s.quince.slotVerifies s.quince.slotB = false ∧ s.quince.slotA.svn.toNat < s.quince.svnFloor.toNat ∧
      goes (exec (.startBegin obs0) s) (fun t => t.quince.start.isNone && t.quince.failCount = 1) = true) ∧
    (let s := (sStart false false).upQuince fun q => { q with life := .retired };
      s.quince.start = some (start0 false false) ∧ (s.pickSlot obs0 false).isSome = true ∧ s.quince.life = .retired) := by
  and_intros <;> decide

theorem witness_StartsRunAndFail_late :
    goes (exec .startTimeout (sStart false false)) (fun t => t.quince.failCount = 1 && t.now = 1920000000000 && t.quince.retryDue = some 1920000000000) = true ∧
    goes (exec .startTimeout (sStart true false)) (fun t => t.quince.failCount = 1 && t.quince.start.isNone) = true ∧
    goes (exec .startTimeout (sStart false true)) (fun t => t.quince.retryDue.isNone && t.quince.startWaits) = true ∧
    (sStart false false).quince.retryDue = some 0 ∧
    goes (exec .startRetry (sStart false false)) (fun t => t.quince.start.any (fun x => !x.warm && !x.recovery) && t.now = 16000000000) = true ∧
    goes (exec .vauxBrownout (sStart false false)) (fun t => !t.pins.vaux && t.quince.start.isNone && !t.tiers.keysSet) = true := by
  and_intros <;> decide

theorem witness_RegistersAreReadAndWritten :
    ((sRing id).host.linkUp = true ∧ writeSize (0x40010 : BitVec 24).toNat (2 : BitVec 4).toNat (3 : Byte).toNat = none ∧
      writeSize (0x40014 : BitVec 24).toNat (8 : BitVec 4).toNat (0xFF : Byte).toNat = none ∧
      goes (exec (.registerWrite false 0x40010 2 3 9) (sRing id)) (fun t => t.regs.discards = 1 && t.regs.discardLast = 0x40010) = true) ∧
    State.reset.host.linkUp = false ∧
    ((sRing id).host.cfgReady = true ∧ (sRing id).host.deviceReady = true ∧ (0x030201 : Word).toNat < 2 ^ 24 ∧
      goes (exec (.registerWrite false 0x40010 4 0xF 0x030201) (sRing id)) (fun t => t.fab.w1 = 1 && t.fab.w2 = 2 && t.fab.w3 = 3) = true) ∧
    (let s := (sRing id).upRegs fun g => { g with lock := true };
      s.regs.lock = true ∧ (1 : Word) ≠ s.fab.portEn ∧ goes (exec (.portCfg 1) s) (fun t => t.fab.portEn = s.fab.portEn && t.regs.discards = 1) = true) ∧
    (regOf (0x40000 : BitVec 24).toNat = some .portCfg ∧ (sRing id).decodes (0x40000 : BitVec 24).toNat = true ∧ (sRing id).wide .portCfg = none) ∧
    regOf (0x0FFFF0 : BitVec 24).toNat = none ∧ State.reset.decodes 0x40000 = false ∧
    ((sRing id).regs.lock = false ∧ goes (exec (.portCfg 3) (sRing id)) (fun t => t.fab.portEn = 3) = true) ∧
    (let s := (sRing fun g => { g with lostWrite := true }).upHost fun h => { h with linkUp := false };
      s.host.linkUp = false ∧ s.host.cfgReady = true ∧ s.pwr.st ≠ .standby ∧ s.host.rings[(1 : Fin 64)].lostWrite = true ∧
      s.host.rings[(2 : Fin 64)].lostWrite = false ∧
      goes (exec .hostLinkUp s) (fun t => t.host.rings[1].st = .fault && t.host.rings[1].faultCause = 5 && t.host.linkUp) = true) ∧
    (let s := ((sRing id).upPins fun p => { p with vaux := true, modRst := true }).upFab fun b => { b with portEn := 2 };
      s.fab.portEn.getLsbD (3 : Fin 32).val = false ∧ (0xA : Word).getLsbD (3 : Fin 32).val = true ∧ s.lit = true ∧ s.quince.recoveryRuns = false ∧
      goes (exec (.portCfg 0xA) s) (fun t => t.fab.ports[3].st = .training) = true) ∧
    goes (exec (.registerWrite true 0x1000 4 0xF 5) (sRing id)) (fun t => t.host.rings[1].sqTail = 5) = true := by and_intros <;> decide

theorem witness_LatchedReadsAndTheEarlyLock :
    ((sRing id).host.linkUp = true ∧ (sRing id).decodes (0x80000 : BitVec 24).toNat = true ∧ regOf (0x80000 : BitVec 24).toNat = some (.mtime false) ∧
      (sRing id).wide (.mtime false) = some (sRing id).now.toNat ∧
      goes (exec (.loRegisterRead ⟨false, 4, 0x80000⟩) ((sRing id).upTime fun b => { b with now := 0x500000007 }))
        (fun t => t.regs.readData = 7 && getKV 0x80000 t.regs.latches = some 5) = true) ∧
    (let s := (sRing id).upRegs fun g => { g with latches := [(0x80000, 5)] };
      s.decodes ((0x80000 : BitVec 24) + 4).toNat = true ∧ getKV (0x80000 : BitVec 24).toNat s.regs.latches = some 5 ∧ (s.wide (.mtime false)).isSome = true ∧
      goes (exec (.loRegisterRead ⟨false, 4, 0x80004⟩) s) (fun t => t.regs.readData = 5) = true) ∧
    (let s := ((sRing id).upTime fun b => { b with now := 0x500000007 }).upRegs fun g => { g with latches := [(0x80018, 9)] };
      s.decodes (0x80000 : BitVec 24).toNat = true ∧ s.decodes ((0x80000 : BitVec 24).toNat + 4) = true ∧ (s.wide (.mtime false)) = some 0x500000007 ∧
      (regOf ((0x80000 : BitVec 24).toNat + 4)).bind s.wide = none ∧ (0x80018 : Nat) ≠ (0x80000 : BitVec 24).toNat ∧
      goes (exec (.loRegisterRead ⟨false, 8, 0x80000⟩) s) (fun t => t.regs.readData = 0x500000007 && getKV 0x80018 t.regs.latches = some 9) = true ∧
      goes (exec (.loRegisterRead ⟨true, 4, 0x1000⟩) s) (fun t => t.regs.readData = 0 && t.regs.latches = s.regs.latches) = true) ∧
    ((sRing id).host.cfgReady = true ∧ (sRing id).host.deviceReady = true ∧ (0x1F0FFF : Word) &&& 0x1F0FFF = 0x1F0FFF ∧
      (0x00030002 : Word) &&& 0x1F0FFF = 0x00030002 ∧
      goes (exec (.registerWrite false 0x80010 4 0xF 0x00030002) (sRing id)) (fun t => t.regs.latches = [] && goes (exec (.loRegisterRead ⟨false, 4, 0x80018⟩) t) (fun u =>
        u.regs.readData.toNat = t.counter 3 2 % 2 ^ 32)) = true) ∧
    (let s := (sRing id).upHost fun h => { h with deviceReady := false };
      s.host.linkUp = true ∧ s.host.deviceReady = false ∧ goes (exec (.setupLock 1) s) (fun t => !t.regs.lock && t.regs.discards = 1) = true ∧
      goes (exec (.registerWrite false 0x20 4 0xF 1) s) (fun t => !t.regs.lock && t.regs.discardLast = 0x20) = true) := by and_intros <;> decide

/-- A location that no memory has stops the three memory error commands (R250); one that exists does not. -/
def here : ErrLoc := { tier := .capacity, unit := 23, channel := 1, offset := 0 }
def nowhere : ErrLoc := { tier := .capacity, unit := 24, channel := 0, offset := 0 }

theorem witness_EveryCommandCompletes : locValid here = true ∧ locValid nowhere = false ∧
    exec (.correctedError nowhere) State.reset = .fault .noSuchLocation := by and_intros <;> first | decide | rfl

/-- A MCAST_STORE header of module 2 to module 3, and the header of the answer, written out by their tables' places. -/
def hdrReq : Bytes := [0x03, 0x21, 0x00, 0x02, 3, 0, 4, 0, 2, 0, 0, 0, 9, 0, 0, 0, 0, 0x10, 0, 0, 0, 0, 0, 0, 0xAB, 0, 0, 0, 7, 0, 0, 0]
def hdrResp : Bytes := [0x80, 0x61, 0x00, 0x00, 2, 0, 0, 0, 3, 0, 0x28, 5, 9, 0, 0, 0, 0x03, 0, 0, 0, 0, 0, 0, 0, 0, 0, 0, 0, 7, 0, 0, 0]

theorem test_request_header : pktHeader (pktOf hdrReq) = hdrReq ∧ (pktOf hdrReq).cls = 1 ∧ (pktOf hdrReq).hops = 8 ∧ (pktOf hdrReq).len = 512 ∧
    (pktOf hdrReq).dst = 3 ∧ (pktOf hdrReq).ts = 2 ∧ (pktOf hdrReq).src = 2 ∧ (pktOf hdrReq).addr = 0x1000 ∧ (pktOf hdrReq).key = 0xAB := by and_intros <;> decide

theorem test_response_header : pktHeader (pktOf hdrResp) = hdrResp ∧ (pktOf hdrResp).retry = 1 ∧ (pktOf hdrResp).rstatus = 4 ∧ (pktOf hdrResp).cached = true ∧
    (pktOf hdrResp).detail = 5 ∧ (pktOf hdrResp).reqOp = 3 := by and_intros <;> decide

end Sys2Proof.Tests
end

section
/-! PROOFS. The set-up lock (R11): every command but those that begin a start or reach the registers of the host leaves the identification registers as
they were; a register write never clears the lock; and a start that clears it is still in progress when the command ends. -/
namespace Sys2Proof.Machine

/-! ### What a command leaves of the registers -/

/-- The outcome of a command on s leaves the identification registers, and with them the set-up lock, as they were: it is no next state, or one with the
registers of s. -/
def KeepsRegs (s : State) : Res → Prop
  | .next t => t.regs = s.regs
  | _ => True

@[simp] theorem keepsRegs_next (s t : State) : KeepsRegs s (.next t) ↔ t.regs = s.regs := Iff.rfl
@[simp] theorem keepsRegs_fault (s : State) (f : Fault) : KeepsRegs s (.fault f) ↔ True := Iff.rfl
@[simp] theorem keepsRegs_ite (s : State) (p : Prop) [Decidable p] (a b : Res) :
    KeepsRegs s (if p then a else b) ↔ (p → KeepsRegs s a) ∧ (¬ p → KeepsRegs s b) := by
  split <;> simp [*]

/-! ### Shared operations that run a continuation -/

theorem State.laneStep_regs (s : State) (c : Fin 1024) (n : Nest) (k : State) (h : k.regs = s.regs) : (s.laneStep c n k).regs = s.regs := by
  simp [State.laneStep, apply_ite State.regs, h]
theorem State.onInstr_regs (s : State) (c : Fin 1024) (op : Nat) (k : Nat → Nat → Nat → PInstr → State) (h : ∀ i l j p, (k i l j p).regs = s.regs) :
    (s.onInstr c op k).regs = s.regs := by
  unfold State.onInstr
  split
  · rfl
  · simp [apply_ite State.regs, h]
theorem State.withBuf_regs (s : State) (w : Work) (k : Bool → State → State) (h : ∀ b t, (k b t).regs = t.regs) : (s.withBuf w k).regs = s.regs := by
  unfold State.withBuf
  split
  · rfl
  · simp [h]
@[simp] theorem State.arriveHere_regs (s : State) (p : Fin 32) (k : Pkt) : (s.arriveHere p k).regs = s.regs := by
  simp [State.arriveHere, apply_ite State.regs, State.arrivePkt_regs]
theorem State.popToken_regs (s t : State) (i : Nat) (e : s.popToken i = some t) : t.regs = s.regs := by
  unfold State.popToken at e
  repeat' split at e
  · cases e; rfl
  · cases e
  · cases e; simp
  · cases e
@[simp] theorem State.takeToken_regs (s : State) (c : Fin 1024) (queue : BitVec 6) : (s.takeToken c queue).regs = s.regs := by
  unfold State.takeToken
  split
  · rfl
  · next e =>
    obtain ⟨i, -, e⟩ := Option.bind_eq_some_iff.mp e
    simp [State.popToken_regs _ _ _ e]
@[simp] theorem State.perstLow_regs (s : State) : s.perstLow.regs = s.regs := by
  simp [State.perstLow, State.when_regs]
@[simp] theorem State.senses_regs (s : State) : s.senses.2.regs = s.regs := rfl

@[simp] theorem foldl_upCluster_regs {α : Type} (c : State → α → Fin 64) (f : State → α → Cluster → Cluster) (l : List α) (s : State) :
    (l.foldl (fun s a => s.upCluster (c s a) (f s a)) s).regs = s.regs :=
  foldl_regs _ _ _ fun _ _ => rfl

/-! ### Cluster clocks and module time -/

@[simp] theorem execDroopStretch_keepsRegs (c : Fin 64) (overLimit : Bool) (s : State) : KeepsRegs s (execDroopStretch c overLimit s) := by
  simp [execDroopStretch, State.when_regs]
@[simp] theorem execDroopResponseEnd_keepsRegs (c : Fin 64) (s : State) : KeepsRegs s (execDroopResponseEnd c s) := by
  simp [execDroopResponseEnd]
@[simp] theorem execBeacon_keepsRegs (obs : List ClusterObs) (s : State) : KeepsRegs s (execBeacon obs s) := by
  simp [execBeacon, foldl_regs, State.when_regs]
@[simp] theorem execReferenceLoss_keepsRegs (s : State) : KeepsRegs s (execReferenceLoss s) := by
  simp [execReferenceLoss]
@[simp] theorem execHoldoverExit_keepsRegs (s : State) : KeepsRegs s (execHoldoverExit s) := by
  simp [execHoldoverExit]
@[simp] theorem execTime_keepsRegs (p : Fin 32) (m : TimeMsg) (tRx : DWord) (s : State) : KeepsRegs s (execTime p m tRx s) := by
  simp [execTime, State.when_regs]
@[simp] theorem execTimeMsgSend_keepsRegs (s : State) : KeepsRegs s (execTimeMsgSend s) := by
  simp [execTimeMsgSend, foldl_regs]
@[simp] theorem execDelayReqSend_keepsRegs (s : State) : KeepsRegs s (execDelayReqSend s) := by
  simp [execDelayReqSend]
@[simp] theorem execDelayReq_keepsRegs (p : Fin 32) (tTx : DWord) (seqD : Half) (tRx tTxResp : DWord) (s : State) :
    KeepsRegs s (execDelayReq p tTx seqD tRx tTxResp s) := by
  simp [execDelayReq]
@[simp] theorem execDelayResp_keepsRegs (p : Fin 32) (tRxReq tTxResp : DWord) (seqD : Half) (tRx : DWord) (s : State) :
    KeepsRegs s (execDelayResp p tRxReq tTxResp seqD tRx s) := by
  unfold execDelayResp
  split <;> simp
@[simp] theorem execUpstreamLost_keepsRegs (s : State) : KeepsRegs s (execUpstreamLost s) := by
  simp [execUpstreamLost, State.when_regs]
@[simp] theorem execUnlockTimeout_keepsRegs (s : State) : KeepsRegs s (execUnlockTimeout s) := by
  unfold execUnlockTimeout
  split <;> simp
@[simp] theorem execIntervalCounterFault_keepsRegs (s : State) : KeepsRegs s (execIntervalCounterFault s) := by
  simp [execIntervalCounterFault]
@[simp] theorem execTimePulse_keepsRegs (pin : Fin 2) (s : State) : KeepsRegs s (execTimePulse pin s) := by
  simp [execTimePulse]

/-! ### Vector, table and index operations -/

@[simp] theorem execVectorTile_keepsRegs (c : Fin 1024) (s : State) : KeepsRegs s (execVectorTile c s) := by
  unfold execVectorTile
  split <;> simp [State.laneStep_regs]
@[simp] theorem execTableTile_keepsRegs (c : Fin 1024) (s : State) : KeepsRegs s (execTableTile c s) := by
  unfold execTableTile
  split <;> simp [State.laneStep_regs]
@[simp] theorem execIndexMaskTile_keepsRegs (c : Fin 1024) (s : State) : KeepsRegs s (execIndexMaskTile c s) := by
  unfold execIndexMaskTile
  split <;> simp [State.laneStep_regs, apply_ite State.regs]
@[simp] theorem execCompressRows_keepsRegs (c : Fin 1024) (s : State) : KeepsRegs s (execCompressRows c s) := by
  unfold execCompressRows
  split <;> simp
@[simp] theorem execExpandRows_keepsRegs (c : Fin 1024) (s : State) : KeepsRegs s (execExpandRows c s) := by
  unfold execExpandRows
  split <;> simp

/-! ### Finished-tile queues -/

@[simp] theorem execFtqDeliver_keepsRegs (c : Fin 1024) (k : Fin 4) (s : State) : KeepsRegs s (execFtqDeliver c k s) := by
  unfold execFtqDeliver
  split <;> simp
@[simp] theorem execRingTileArrived_keepsRegs (c : Fin 1024) (k : Fin 4) (s : State) : KeepsRegs s (execRingTileArrived c k s) := by
  unfold execRingTileArrived
  dsimp only
  repeat' split
  all_goals simp
@[simp] theorem execRingSlotRelease_keepsRegs (c : Fin 1024) (base : BitVec 15) (s : State) : KeepsRegs s (execRingSlotRelease c base s) := by
  unfold execRingSlotRelease
  split <;> simp
@[simp] theorem execCreditReturnArrival_keepsRegs (c : Fin 1024) (k : Fin 4) (s : State) : KeepsRegs s (execCreditReturnArrival c k s) := by
  unfold execCreditReturnArrival
  dsimp only
  repeat' split
  all_goals simp [State.when_regs]
@[simp] theorem execNestResume_keepsRegs (c : Fin 1024) (s : State) : KeepsRegs s (execNestResume c s) := by
  unfold execNestResume
  dsimp only
  repeat' split
  all_goals simp

/-! ### Ports and links -/

@[simp] theorem execPortUp_keepsRegs (p : Fin 32) (x : PortXchg) (s : State) : KeepsRegs s (execPortUp p x s) := by
  simp [execPortUp, State.when_regs]
@[simp] theorem execPortBringupRetry_keepsRegs (p : Fin 32) (s : State) : KeepsRegs s (execPortBringupRetry p s) := by
  simp [execPortBringupRetry]
@[simp] theorem execPortRetrain_keepsRegs (p : Fin 32) (s : State) : KeepsRegs s (execPortRetrain p s) := by
  simp [execPortRetrain, State.when_regs]
@[simp] theorem execRetrainTimeout_keepsRegs (p : Fin 32) (s : State) : KeepsRegs s (execRetrainTimeout p s) := by
  simp [execRetrainTimeout]
@[simp] theorem execIdleBlock_keepsRegs (p : Fin 32) (w : Fin 8) (s : State) : KeepsRegs s (execIdleBlock p w s) := by
  simp [execIdleBlock]
@[simp] theorem execLinkReplay_keepsRegs (p : Fin 32) (s : State) : KeepsRegs s (execLinkReplay p s) := by
  simp [execLinkReplay]
@[simp] theorem execLinkAck_keepsRegs (p : Fin 32) (s : State) : KeepsRegs s (execLinkAck p s) := by
  unfold execLinkAck
  split <;> simp [State.when_regs]
@[simp] theorem execPartnerLost_keepsRegs (p : Fin 32) (cause : LossCause) (s : State) : KeepsRegs s (execPartnerLost p cause s) := by
  simp [execPartnerLost]
@[simp] theorem execDepartBlocksReceived_keepsRegs (p : Fin 32) (s : State) : KeepsRegs s (execDepartBlocksReceived p s) := by
  simp [execDepartBlocksReceived]
@[simp] theorem execEgressSend_keepsRegs (p : Fin 32) (s : State) : KeepsRegs s (execEgressSend p s) := by
  unfold execEgressSend
  dsimp only
  repeat' split
  all_goals simp
@[simp] theorem execClassCreditReturn_keepsRegs (p : Fin 32) (cls : Fin 4) (n : Nat) (s : State) : KeepsRegs s (execClassCreditReturn p cls n s) := by
  simp [execClassCreditReturn]
@[simp] theorem execPacketForward_keepsRegs (p : Fin 32) (k : Pkt) (s : State) : KeepsRegs s (execPacketForward p k s) := by
  simp [execPacketForward, State.arrivePkt_regs, apply_ite State.regs]
@[simp] theorem execMsg_keepsRegs (p : Fin 32) (k : Pkt) (s : State) : KeepsRegs s (execMsg p k s) := by
  simp [execMsg, State.arrivePkt_regs]
@[simp] theorem execResp_keepsRegs (p : Fin 32) (k : Pkt) (s : State) : KeepsRegs s (execResp p k s) := by
  unfold execResp
  rw [keepsRegs_ite, keepsRegs_next, keepsRegs_next, State.arrivePkt_regs]
  · simp
  · intro s
    split <;> simp
@[simp] theorem execRequestRetry_keepsRegs (dst : BitVec 17) (seq : Word) (s : State) : KeepsRegs s (execRequestRetry dst seq s) := by
  unfold execRequestRetry
  split <;> simp
@[simp] theorem execRequestTimeout_keepsRegs (dst : BitVec 17) (seq : Word) (s : State) : KeepsRegs s (execRequestTimeout dst seq s) := by
  unfold execRequestTimeout
  split <;> simp

/-! ### Matrix nests -/

@[simp] theorem execMatrixTileProduct_keepsRegs (c : Fin 1024) (s : State) : KeepsRegs s (execMatrixTileProduct c s) := by
  unfold execMatrixTileProduct
  split <;> simp [State.when_regs]
@[simp] theorem execPartialLoad_keepsRegs (c : Fin 1024) (s : State) : KeepsRegs s (execPartialLoad c s) := by
  unfold execPartialLoad
  split <;> simp
@[simp] theorem execTileDrainDone_keepsRegs (c : Fin 1024) (s : State) : KeepsRegs s (execTileDrainDone c s) := by
  simp [execTileDrainDone, apply_ite State.regs]
@[simp] theorem execRecordBlockOutput_keepsRegs (c : Fin 1024) (s : State) : KeepsRegs s (execRecordBlockOutput c s) := by
  simp [execRecordBlockOutput, apply_ite State.regs]
@[simp] theorem execNestEnd_keepsRegs (c : Fin 1024) (s : State) : KeepsRegs s (execNestEnd c s) := by
  unfold execNestEnd
  dsimp only
  repeat' split
  all_goals simp [State.when_regs]
@[simp] theorem execCellStoreUe_keepsRegs (c : Fin 1024) (s : State) : KeepsRegs s (execCellStoreUe c s) := by
  unfold execCellStoreUe
  split <;> simp

/-! ### Handshake queues and joins -/

@[simp] theorem execQueueWrite_keepsRegs (q : Fin 7680) (w : BitVec 512) (s : State) : KeepsRegs s (execQueueWrite q w s) := by
  unfold execQueueWrite
  repeat' split
  all_goals simp
@[simp] theorem execQueueWordVisible_keepsRegs (q : Fin 7680) (s : State) : KeepsRegs s (execQueueWordVisible q s) := by
  simp [execQueueWordVisible]
@[simp] theorem execQueueRead_keepsRegs (q : Fin 7680) (s : State) : KeepsRegs s (execQueueRead q s) := by
  unfold execQueueRead
  repeat' split
  all_goals simp
@[simp] theorem execQueueEntryReturn_keepsRegs (q : Fin 7680) (s : State) : KeepsRegs s (execQueueEntryReturn q s) := by
  simp [execQueueEntryReturn]
@[simp] theorem execJoinChannelTakeup_keepsRegs (ch : Fin 1792) (s : State) : KeepsRegs s (execJoinChannelTakeup ch s) := by
  unfold execJoinChannelTakeup
  split <;> simp
@[simp] theorem execJoinCreditReturn_keepsRegs (ch : Fin 1792) (s : State) : KeepsRegs s (execJoinCreditReturn ch s) := by
  simp [execJoinCreditReturn]

/-! ### Region programs and frames -/

@[simp] theorem execRegionRunStart_keepsRegs (r : Fin 4096) (s : State) : KeepsRegs s (execRegionRunStart r s) := by
  simp [execRegionRunStart, apply_ite State.regs]
@[simp] theorem execProgEnd_keepsRegs (c : Fin 1024) (s : State) : KeepsRegs s (execProgEnd c s) := by
  unfold execProgEnd
  rw [keepsRegs_next, State.onInstr_regs]
  simp
@[simp] theorem execProgLoad_keepsRegs (c : Fin 1024) (s : State) : KeepsRegs s (execProgLoad c s) := by
  simp [execProgLoad, State.onInstr_regs, apply_ite State.regs]
@[simp] theorem execFrameLoadDone_keepsRegs (c : Fin 1024) (ue : Bool) (s : State) : KeepsRegs s (execFrameLoadDone c ue s) := by
  unfold execFrameLoadDone
  split <;> simp
@[simp] theorem execProgSwitch_keepsRegs (c : Fin 1024) (s : State) : KeepsRegs s (execProgSwitch c s) := by
  simp [execProgSwitch, State.onInstr_regs, apply_ite State.regs]
@[simp] theorem execSwitchDone_keepsRegs (c : Fin 1024) (s : State) : KeepsRegs s (execSwitchDone c s) := by
  simp [execSwitchDone, apply_ite State.regs]
@[simp] theorem execProgArgs_keepsRegs (c : Fin 1024) (s : State) : KeepsRegs s (execProgArgs c s) := by
  simp [execProgArgs, State.onInstr_regs]
@[simp] theorem execProgStart_keepsRegs (c : Fin 1024) (s : State) : KeepsRegs s (execProgStart c s) := by
  simp [execProgStart, State.onInstr_regs, apply_ite State.regs]
@[simp] theorem execProgSignal_keepsRegs (c : Fin 1024) (s : State) : KeepsRegs s (execProgSignal c s) := by
  unfold execProgSignal
  rw [keepsRegs_next, State.onInstr_regs]
  intro i l j p
  split <;> simp [apply_ite State.regs]
@[simp] theorem execProgAwait_keepsRegs (c : Fin 1024) (s : State) : KeepsRegs s (execProgAwait c s) := by
  simp [execProgAwait, State.onInstr_regs]
@[simp] theorem execAwaitTokenReady_keepsRegs (c : Fin 1024) (s : State) : KeepsRegs s (execAwaitTokenReady c s) := by
  unfold execAwaitTokenReady
  split <;> simp
@[simp] theorem execProgRebind_keepsRegs (c : Fin 1024) (s : State) : KeepsRegs s (execProgRebind c s) := by
  simp [execProgRebind, State.onInstr_regs]
@[simp] theorem execProgLoop_keepsRegs (c : Fin 1024) (s : State) : KeepsRegs s (execProgLoop c s) := by
  simp [execProgLoop, State.onInstr_regs, apply_ite State.regs]
@[simp] theorem execProgMark_keepsRegs (c : Fin 1024) (s : State) : KeepsRegs s (execProgMark c s) := by
  simp [execProgMark, State.onInstr_regs]
@[simp] theorem execRegionRunComplete_keepsRegs (r : Fin 4096) (s : State) : KeepsRegs s (execRegionRunComplete r s) := by
  simp [execRegionRunComplete]
@[simp] theorem execFrameFaultReload_keepsRegs (c : Fin 1024) (s : State) : KeepsRegs s (execFrameFaultReload c s) := by
  unfold execFrameFaultReload
  dsimp only
  split
  · simp
  split
  · simp
  split
  · rw [keepsRegs_next, State.withBuf_regs]
    intro b s
    split <;> simp
  · repeat' split
    all_goals simp

/-! ### Placement and moves -/

@[simp] theorem execPlacementRebind_keepsRegs (s : State) : KeepsRegs s (execPlacementRebind s) := by
  unfold execPlacementRebind
  dsimp only
  repeat' split
  all_goals simp [State.when_regs]
@[simp] theorem execMoveAllocate_keepsRegs (obj : Word) (cause : MoveCause) (s : State) : KeepsRegs s (execMoveAllocate obj cause s) := by
  unfold execMoveAllocate
  dsimp only
  repeat' split
  all_goals simp [foldl_regs]
@[simp] theorem execMoveCopyDone_keepsRegs (obj : Word) (unreadable : List Nat) (newHomeUe : Bool) (s : State) :
    KeepsRegs s (execMoveCopyDone obj unreadable newHomeUe s) := by
  unfold execMoveCopyDone
  repeat' split
  all_goals simp [State.when_regs]
@[simp] theorem execFlipNotice_keepsRegs (unit : SenderUnit) (obj : Word) (s : State) : KeepsRegs s (execFlipNotice unit obj s) := by
  unfold execFlipNotice
  split <;> simp
@[simp] theorem execStubArrival_keepsRegs (obj : Word) (gen : Half) (a : Arrival) (s : State) : KeepsRegs s (execStubArrival obj gen a s) := by
  unfold execStubArrival
  split <;> simp
@[simp] theorem execForwardAck_keepsRegs (obj : Word) (s : State) : KeepsRegs s (execForwardAck obj s) := by
  unfold execForwardAck
  repeat' split
  all_goals simp
@[simp] theorem execDrainedMsg_keepsRegs (unit : SenderUnit) (obj : Word) (s : State) : KeepsRegs s (execDrainedMsg unit obj s) := by
  unfold execDrainedMsg
  split <;> simp
@[simp] theorem execRetireConfirm_keepsRegs (obj : Word) (s : State) : KeepsRegs s (execRetireConfirm obj s) := by
  unfold execRetireConfirm
  split <;> simp

/-! ### Tile mover and memory tiers -/

@[simp] theorem execPrefetchEntryBegin_keepsRegs (s : State) : KeepsRegs s (execPrefetchEntryBegin s) := by
  unfold execPrefetchEntryBegin
  repeat' split
  all_goals simp
@[simp] theorem execPrefetchRecordWrite_keepsRegs (entry : Word) (ue : Bool) (s : State) : KeepsRegs s (execPrefetchRecordWrite entry ue s) := by
  unfold execPrefetchRecordWrite
  dsimp only
  repeat' split
  all_goals simp
@[simp] theorem execWriteBackRead_keepsRegs (entry : Word) (s : State) : KeepsRegs s (execWriteBackRead entry s) := by
  unfold execWriteBackRead
  repeat' split
  all_goals simp [State.withBuf_regs]
@[simp] theorem execStagingBufferReturn_keepsRegs (b : Fin 128) (s : State) : KeepsRegs s (execStagingBufferReturn b s) := by
  simp [execStagingBufferReturn, apply_ite State.regs]
@[simp] theorem execStagingBufferUe_keepsRegs (b : Fin 128) (s : State) : KeepsRegs s (execStagingBufferUe b s) := by
  unfold execStagingBufferUe
  split <;> simp
@[simp] theorem execPatrolScrub_keepsRegs (l : ErrLoc) (corrected : Bool) (s : State) : KeepsRegs s (execPatrolScrub l corrected s) := by
  simp [execPatrolScrub]
@[simp] theorem execCorrectedError_keepsRegs (l : ErrLoc) (s : State) : KeepsRegs s (execCorrectedError l s) := by
  simp [execCorrectedError]
@[simp] theorem execMemoryUe_keepsRegs (l : ErrLoc) (feeds : UeFeeds) (s : State) : KeepsRegs s (execMemoryUe l feeds s) := by
  simp [execMemoryUe]
@[simp] theorem execTierWipeDone_keepsRegs (w : WipeTier) (s : State) : KeepsRegs s (execTierWipeDone w s) := by
  unfold execTierWipeDone
  repeat' split
  all_goals simp
@[simp] theorem execRetentionWrite_keepsRegs (s : State) : KeepsRegs s (execRetentionWrite s) := by
  unfold execRetentionWrite
  split
  · simp
  · rw [keepsRegs_ite, keepsRegs_next, keepsRegs_next, State.withBuf_regs] <;> simp

/-! ### Transforms and outliers -/

@[simp] theorem execTransformTile_keepsRegs (c : Fin 1024) (s : State) : KeepsRegs s (execTransformTile c s) := by
  unfold execTransformTile
  split <;> simp [State.laneStep_regs, apply_ite State.regs]
@[simp] theorem execOutlierMacTile_keepsRegs (c : Fin 1024) (s : State) : KeepsRegs s (execOutlierMacTile c s) := by
  unfold execOutlierMacTile
  split <;> simp [State.laneStep_regs]
@[simp] theorem execRingSlotDrained_keepsRegs (c : Fin 1024) (full : Bool) (s : State) : KeepsRegs s (execRingSlotDrained c full s) := by
  unfold execRingSlotDrained
  dsimp only
  repeat' split
  all_goals simp

/-! ### The update engine -/

@[simp] theorem execUpdatePassStart_keepsRegs (s : State) : KeepsRegs s (execUpdatePassStart s) := by
  unfold execUpdatePassStart
  split <;> simp
@[simp] theorem execMedlarUnit_keepsRegs (k : Fin 12) (s : State) : KeepsRegs s (execMedlarUnit k s) := by
  unfold execMedlarUnit
  split <;> simp
@[simp] theorem execRowWindowBlock_keepsRegs (obj : Word) (s : State) : KeepsRegs s (execRowWindowBlock obj s) := by
  unfold execRowWindowBlock
  repeat' split
  all_goals simp [State.withBuf_regs, apply_ite State.regs]
@[simp] theorem execOutboxHandoff_keepsRegs (obj : Word) (s : State) : KeepsRegs s (execOutboxHandoff obj s) := by
  unfold execOutboxHandoff
  repeat' split
  all_goals simp
@[simp] theorem execOutboxRelease_keepsRegs (obj : Word) (s : State) : KeepsRegs s (execOutboxRelease obj s) := by
  simp [execOutboxRelease]

/-! ### Requests at their target -/

@[simp] theorem execLoad_keepsRegs (p : Fin 32) (k : Pkt) (s : State) : KeepsRegs s (execLoad p k s) := by
  simp [execLoad]
@[simp] theorem execStore_keepsRegs (p : Fin 32) (k : Pkt) (s : State) : KeepsRegs s (execStore p k s) := by
  simp [execStore]
@[simp] theorem execAtomic_keepsRegs (p : Fin 32) (k : Pkt) (s : State) : KeepsRegs s (execAtomic p k s) := by
  simp [execAtomic]
@[simp] theorem execReduce_keepsRegs (p : Fin 32) (k : Pkt) (s : State) : KeepsRegs s (execReduce p k s) := by
  simp [execReduce]
@[simp] theorem execMcastStore_keepsRegs (p : Fin 32) (k : Pkt) (s : State) : KeepsRegs s (execMcastStore p k s) := by
  unfold execMcastStore
  dsimp only
  repeat' split
  all_goals simp [State.arrivePkt_regs]
@[simp] theorem execLineUpdate_keepsRegs (line : BitVec 41) (s : State) : KeepsRegs s (execLineUpdate line s) := by
  unfold execLineUpdate
  split <;> simp
@[simp] theorem execContributionSend_keepsRegs (h : ContribHdr) (payload : Bytes) (s : State) : KeepsRegs s (execContributionSend h payload s) := by
  simp [execContributionSend]
@[simp] theorem execTileCloseTimer_keepsRegs (owner : BitVec 17) (tensor tile : Word) (s : State) : KeepsRegs s (execTileCloseTimer owner tensor tile s) := by
  simp [execTileCloseTimer]

/-! ### Steps, contributions and the integrity record -/

@[simp] theorem execStage4Begin_keepsRegs (s : State) : KeepsRegs s (execStage4Begin s) := by
  simp [execStage4Begin]
@[simp] theorem execSumsqDone_keepsRegs (s : State) : KeepsRegs s (execSumsqDone s) := by
  simp [execSumsqDone]
@[simp] theorem execIntegritySend_keepsRegs (s : State) : KeepsRegs s (execIntegritySend s) := by
  simp [execIntegritySend]
@[simp] theorem execIntegrity_keepsRegs (p : Fin 32) (k : Pkt) (s : State) : KeepsRegs s (execIntegrity p k s) := by
  unfold execIntegrity
  rw [keepsRegs_ite, keepsRegs_next, keepsRegs_next, State.arrivePkt_regs]
  · simp
  · intro s
    dsimp only
    repeat' split
    all_goals simp
@[simp] theorem execStage5End_keepsRegs (s : State) : KeepsRegs s (execStage5End s) := by
  simp [execStage5End]
@[simp] theorem execShedReply_keepsRegs (p : Fin 32) (k : Pkt) (r : ShedAns) (s : State) : KeepsRegs s (execShedReply p k r s) := by
  simp [execShedReply, State.arrivePkt_regs, apply_ite State.regs]
@[simp] theorem execTeardown_keepsRegs (p : Fin 32) (k : Pkt) (s : State) : KeepsRegs s (execTeardown p k s) := by
  simp [execTeardown, State.arrivePkt_regs, apply_ite State.regs]

/-! ### Envelope and power -/

@[simp] theorem execEnvelope_keepsRegs (p : Fin 32) (k : Pkt) (s : State) : KeepsRegs s (execEnvelope p k s) := by
  have h : ∀ s : State, ((s.envelopeMsg k.payload).getD (s.countDiscard p)).regs = s.regs := by
    intro s
    cases e : s.envelopeMsg k.payload with
    | none => simp
    | some t => simp [State.envelopeMsg_regs _ _ _ e]
  simp [execEnvelope, State.arrivePkt_regs, apply_ite State.regs, h]
@[simp] theorem execEnvelopeEffective_keepsRegs (s : State) : KeepsRegs s (execEnvelopeEffective s) := by
  unfold execEnvelopeEffective
  split <;> simp
@[simp] theorem execEnvStepChange_keepsRegs (code : BitVec 3) (s : State) : KeepsRegs s (execEnvStepChange code s) := by
  simp [execEnvStepChange, apply_ite State.regs]
@[simp] theorem execFmodEval_keepsRegs (drawOver : Bool) (s : State) : KeepsRegs s (execFmodEval drawOver s) := by
  simp [execFmodEval]
@[simp] theorem execCreditRoundStart_keepsRegs (pTarget pCore : Nat) (s : State) : KeepsRegs s (execCreditRoundStart pTarget pCore s) := by
  simp [execCreditRoundStart]
@[simp] theorem execCreditRoundVoid_keepsRegs (s : State) : KeepsRegs s (execCreditRoundVoid s) := by
  simp [execCreditRoundVoid]
@[simp] theorem execCreditResultTimeout_keepsRegs (s : State) : KeepsRegs s (execCreditResultTimeout s) := by
  simp [execCreditResultTimeout]
@[simp] theorem execCredit_keepsRegs (p : Fin 32) (k : Pkt) (s : State) : KeepsRegs s (execCredit p k s) := by
  unfold execCredit
  rw [keepsRegs_ite, keepsRegs_next, keepsRegs_next, State.arrivePkt_regs]
  · simp
  · intro s
    dsimp only
    repeat' split
    all_goals simp
@[simp] theorem execVrbFrame_keepsRegs (reply : Option (BitVec 22)) (s : State) : KeepsRegs s (execVrbFrame reply s) := by
  simp [execVrbFrame, State.when_regs]
@[simp] theorem execCurrantEval_keepsRegs (raw : List Nat) (s : State) : KeepsRegs s (execCurrantEval raw s) := by
  simp [execCurrantEval, State.when_regs]
@[simp] theorem execDieCapStep_keepsRegs (d : Fin 4) (s : State) : KeepsRegs s (execDieCapStep d s) := by
  unfold execDieCapStep
  dsimp only
  repeat' split
  all_goals simp
@[simp] theorem execRailOvercurrent_keepsRegs (d : Fin 4) (s : State) : KeepsRegs s (execRailOvercurrent d s) := by
  unfold execRailOvercurrent
  split <;> simp
@[simp] theorem execMonitorRingMeasure_keepsRegs (slow : List Nat) (s : State) : KeepsRegs s (execMonitorRingMeasure slow s) := by
  simp [execMonitorRingMeasure, State.when_regs]
@[simp] theorem execFreqStepStage_keepsRegs (c : Fin 64) (s : State) : KeepsRegs s (execFreqStepStage c s) := by
  unfold execFreqStepStage
  dsimp only
  split <;> simp
@[simp] theorem execClusterCapRelease_keepsRegs (c : Fin 64) (s : State) : KeepsRegs s (execClusterCapRelease c s) := by
  simp [execClusterCapRelease]
@[simp] theorem execThermalSoft_keepsRegs (x : Sensor) (temp draw : Nat) (s : State) : KeepsRegs s (execThermalSoft x temp draw s) := by
  simp [execThermalSoft]
@[simp] theorem execThermalCeilingStep_keepsRegs (s : State) : KeepsRegs s (execThermalCeilingStep s) := by
  unfold execThermalCeilingStep
  split <;> simp
@[simp] theorem execThermalHard_keepsRegs (x : Sensor) (temp : Nat) (s : State) : KeepsRegs s (execThermalHard x temp s) := by
  unfold execThermalHard
  split <;> simp
@[simp] theorem execThermalHardRelease_keepsRegs (x : Sensor) (temp : Nat) (s : State) : KeepsRegs s (execThermalHardRelease x temp s) := by
  simp [execThermalHardRelease]
@[simp] theorem execThermalTrip_keepsRegs (x : Sensor) (temp : Nat) (s : State) : KeepsRegs s (execThermalTrip x temp s) := by
  simp [execThermalTrip, State.when_regs]
@[simp] theorem execEnterParked_keepsRegs (a : Asker) (s : State) : KeepsRegs s (execEnterParked a s) := by
  simp [execEnterParked, State.askPower_regs, apply_ite State.regs]
@[simp] theorem execParkDone_keepsRegs (s : State) : KeepsRegs s (execParkDone s) := by
  simp [execParkDone]
@[simp] theorem execReturnActive_keepsRegs (a : Asker) (s : State) : KeepsRegs s (execReturnActive a s) := by
  simp [execReturnActive, State.askPower_regs, State.when_regs, apply_ite State.regs]
@[simp] theorem execUnparkDone_keepsRegs (s : State) : KeepsRegs s (execUnparkDone s) := by
  simp [execUnparkDone, foldl_regs, State.when_regs]
@[simp] theorem execEnterStandby_keepsRegs (a : Asker) (s : State) : KeepsRegs s (execEnterStandby a s) := by
  simp [execEnterStandby, State.askPower_regs, apply_ite State.regs]
@[simp] theorem execStandbyEntryDone_keepsRegs (s : State) : KeepsRegs s (execStandbyEntryDone s) := by
  simp [execStandbyEntryDone]
@[simp] theorem execStandbyExitDone_keepsRegs (s : State) : KeepsRegs s (execStandbyExitDone s) := by
  simp [execStandbyExitDone]

/-! ### Securing and restore -/

@[simp] theorem execStagingGrant_keepsRegs (s : State) : KeepsRegs s (execStagingGrant s) := by
  unfold execStagingGrant
  dsimp only
  repeat' split
  all_goals simp
@[simp] theorem execPartnerTransferDone_keepsRegs (s : State) : KeepsRegs s (execPartnerTransferDone s) := by
  unfold execPartnerTransferDone
  split <;> simp
@[simp] theorem execFlashTransferDone_keepsRegs (s : State) : KeepsRegs s (execFlashTransferDone s) := by
  unfold execFlashTransferDone
  split <;> simp
@[simp] theorem execEmbeddingBaseDone_keepsRegs (obj : Word) (s : State) : KeepsRegs s (execEmbeddingBaseDone obj s) := by
  unfold execEmbeddingBaseDone
  split <;> simp [State.withBuf_regs]
@[simp] theorem execRestoreReadDone_keepsRegs (sourceOk : Bool) (image : Restored) (s : State) : KeepsRegs s (execRestoreReadDone sourceOk image s) := by
  unfold execRestoreReadDone
  rw [keepsRegs_ite, keepsRegs_next, keepsRegs_next, State.withBuf_regs]
  · simp
  · intro b s
    dsimp only
    repeat' split
    all_goals simp
@[simp] theorem execHandoverImageDone_keepsRegs (member : BitVec 17) (s : State) : KeepsRegs s (execHandoverImageDone member s) := by
  unfold execHandoverImageDone
  dsimp only
  repeat' split
  all_goals simp

/-! ### The host link and the rings -/

@[simp] theorem execPerstDeassert_keepsRegs (gen : Option (BitVec 4)) (width : BitVec 5) (s : State) : KeepsRegs s (execPerstDeassert gen width s) := by
  cases gen <;> simp [execPerstDeassert, State.when_regs]
@[simp] theorem execFunctionLevelReset_keepsRegs (s : State) : KeepsRegs s (execFunctionLevelReset s) := by
  simp [execFunctionLevelReset, State.when_regs]
@[simp] theorem execDescriptorFetch_keepsRegs (r : Fin 64) (desc : Option Fetched) (s : State) : KeepsRegs s (execDescriptorFetch r desc s) := by
  unfold execDescriptorFetch
  dsimp only
  repeat' split
  all_goals simp
@[simp] theorem execMsixModTimer_keepsRegs (r : Fin 64) (s : State) : KeepsRegs s (execMsixModTimer r s) := by
  simp [execMsixModTimer]
@[simp] theorem execNop_keepsRegs (r : Fin 64) (s : State) : KeepsRegs s (execNop r s) := by
  simp [execNop, State.beginDesc_regs]
@[simp] theorem execFabricTables_keepsRegs (r : Fin 64) (route sets : Option Bytes) (s : State) : KeepsRegs s (execFabricTables r route sets s) := by
  unfold execFabricTables
  split <;> simp [State.beginDesc_regs]
@[simp] theorem execFmMsg_keepsRegs (r : Fin 64) (payload : Option Bytes) (s : State) : KeepsRegs s (execFmMsg r payload s) := by
  unfold execFmMsg
  rw [keepsRegs_next, State.beginDesc_regs]
  intro d s
  split
  · simp
  · split
    · next e => simp [State.hostMsg_regs _ _ _ e]
    · simp

/-! ### Requests to Quince -/

@[simp] theorem execLifecycleChange_keepsRegs (a : LongAsk) (target : BitVec 2) (s : State) : KeepsRegs s (execLifecycleChange a target s) := by
  simp [execLifecycleChange, State.askFrom_regs, apply_ite State.regs]
@[simp] theorem execSanitise_keepsRegs (a : LongAsk) (s : State) : KeepsRegs s (execSanitise a s) := by
  simp [execSanitise, State.askFrom_regs]
@[simp] theorem execFirmwareCommit_keepsRegs (a : Asker) (package : Option Bytes) (s : State) : KeepsRegs s (execFirmwareCommit a package s) := by
  unfold execFirmwareCommit
  split <;> simp [State.askFrom_regs]
@[simp] theorem execFlashFormat_keepsRegs (a : LongAsk) (s : State) : KeepsRegs s (execFlashFormat a s) := by
  simp [execFlashFormat, State.askFrom_regs]

/-! ### Quince, supply and starts -/

@[simp] theorem execStageRkt_keepsRegs (table : Bytes) (s : State) : KeepsRegs s (execStageRkt table s) := by
  simp [execStageRkt, State.mailbox_regs, State.when_regs, apply_ite State.regs]
@[simp] theorem execActivateRkt_keepsRegs (s : State) : KeepsRegs s (execActivateRkt s) := by
  simp [execActivateRkt]
@[simp] theorem execApprove_keepsRegs (board : Bool) (msg : Bytes) (s : State) : KeepsRegs s (execApprove board msg s) := by
  simp [execApprove, State.askFrom_regs, State.mailbox_regs]
@[simp] theorem execCancelApproval_keepsRegs (s : State) : KeepsRegs s (execCancelApproval s) := by
  simp [execCancelApproval]
@[simp] theorem execApprovalTimeout_keepsRegs (s : State) : KeepsRegs s (execApprovalTimeout s) := by
  unfold execApprovalTimeout
  split <;> simp
@[simp] theorem execStatus_keepsRegs (s : State) : KeepsRegs s (execStatus s) := by
  simp [execStatus, State.askBoard_regs]
@[simp] theorem execFaultLog_keepsRegs (index : Fin 64) (s : State) : KeepsRegs s (execFaultLog index s) := by
  unfold execFaultLog
  rw [keepsRegs_next, State.askBoard_regs]
  intro s
  split <;> simp [State.when_regs]
@[simp] theorem execPldmRequest_keepsRegs (s : State) : KeepsRegs s (execPldmRequest s) := by
  simp [execPldmRequest, State.askBoard_regs]
@[simp] theorem execSpdmRequest_keepsRegs (s : State) : KeepsRegs s (execSpdmRequest s) := by
  simp [execSpdmRequest, State.askBoard_regs, apply_ite State.regs]
@[simp] theorem execVauxBrownout_keepsRegs (s : State) : KeepsRegs s (execVauxBrownout s) := by
  simp [execVauxBrownout]
@[simp] theorem execModRstAssert_keepsRegs (s : State) : KeepsRegs s (execModRstAssert s) := by
  simp [execModRstAssert]
@[simp] theorem execStartBegin_keepsRegs (o : StartObs) (s : State) : KeepsRegs s (execStartBegin o s) := by
  unfold execStartBegin
  dsimp only
  repeat' split
  all_goals simp
@[simp] theorem execStartTimeout_keepsRegs (s : State) : KeepsRegs s (execStartTimeout s) := by
  unfold execStartTimeout
  split <;> simp

/-! ### Descriptors of a job -/

@[simp] theorem execStepDesc_keepsRegs (r : Fin 64) (input : Option Bytes) (s : State) : KeepsRegs s (execStepDesc r input s) := by
  unfold execStepDesc
  split <;> simp [State.beginJob_regs, apply_ite State.regs]
@[simp] theorem execStepSize_keepsRegs (r : Fin 64) (rec : Option Bytes) (s : State) : KeepsRegs s (execStepSize r rec s) := by
  unfold execStepSize
  split <;> simp [State.beginJob_regs, apply_ite State.regs]
@[simp] theorem execHold_keepsRegs (r : Fin 64) (s : State) : KeepsRegs s (execHold r s) := by
  simp [execHold, State.beginJob_regs, apply_ite State.regs]
@[simp] theorem execExportData_keepsRegs (r : Fin 64) (s : State) : KeepsRegs s (execExportData r s) := by
  unfold execExportData
  rw [keepsRegs_ite, keepsRegs_next, keepsRegs_next, State.beginDesc_regs]
  · simp
  · intro d s
    repeat' split
    all_goals simp
@[simp] theorem execFabricOp_keepsRegs (r : Fin 64) (data : Option Bytes) (s : State) : KeepsRegs s (execFabricOp r data s) := by
  unfold execFabricOp
  rw [keepsRegs_next, State.beginJob_regs]
  intro d s
  dsimp only
  repeat' split
  all_goals simp
@[simp] theorem execRelease_keepsRegs (r : Fin 64) (s : State) : KeepsRegs s (execRelease r s) := by
  simp [execRelease, State.beginDesc_regs, apply_ite State.regs]
@[simp] theorem execJobSetup_keepsRegs (r : Fin 64) (block : Option Bytes) (s : State) : KeepsRegs s (execJobSetup r block s) := by
  unfold execJobSetup
  rw [keepsRegs_next, State.beginDesc_regs]
  intro d s
  dsimp only
  repeat' split
  all_goals simp

/-! ### Reduction -/

@[simp] theorem execReduceInputTile_keepsRegs (c : Fin 1024) (s : State) : KeepsRegs s (execReduceInputTile c s) := by
  unfold execReduceInputTile
  split <;> simp [State.laneStep_regs, State.when_regs, apply_ite State.regs]

/-! ### The loss and return of the host link -/

@[simp] theorem execHostLinkDown_keepsRegs (s : State) : KeepsRegs s (execHostLinkDown s) := by
  simp [execHostLinkDown]
@[simp] theorem execHostLinkUp_keepsRegs (s : State) : KeepsRegs s (execHostLinkUp s) := by
  simp [execHostLinkUp, foldl_regs, State.when_regs]

/-! ### Writes and reads of the host (R9, R543) -/

@[simp] theorem State.discard_lock (s : State) (bar2 : Bool) (off : Nat) : (s.discard bar2 off).regs.lock = s.regs.lock := rfl

theorem State.hostWriteAt_lock (s : State) (bar2 : Bool) (off : Nat) (f : State → State) (h : ∀ t, (f t).regs.lock = t.regs.lock) :
    (s.hostWriteAt bar2 off f).regs.lock = s.regs.lock := by
  unfold State.hostWriteAt
  repeat' split
  · rfl
  · exact h s
  · rfl

@[simp] theorem State.doorbell_lock (s : State) (r : Fin 64) (off : Nat) (v : Word) (f : Half → Ring → Ring) :
    (s.doorbell r off v f).regs.lock = s.regs.lock := by
  unfold State.doorbell
  rw [State.hostWriteAt_lock]
  intro t
  simp [State.when_regs, apply_ite IdRegs.lock]

@[simp] theorem State.writeBar2_lock (s : State) (off data : Nat) : (s.writeBar2 off data).regs.lock = s.regs.lock := by
  unfold State.writeBar2
  repeat' split
  · rw [State.hostWriteAt_lock]
    simp
  · exact State.doorbell_lock ..
  · exact State.doorbell_lock ..
  · rw [State.hostWriteAt_lock]
    simp

@[simp] theorem State.readWord_lock (s : State) (off : Nat) : (s.readWord off).2.regs.lock = s.regs.lock := by
  unfold State.readWord
  repeat' split
  all_goals rfl

/-- A set lock is set after every register write: SETUP_LOCK alone writes it, and only from clear to set. -/
theorem State.store_lock (s : State) (g : Reg) (v w : Nat) (h : s.regs.lock = true) : (s.store g v w).regs.lock = true := by
  unfold State.store
  split <;> simp [apply_ite State.regs, h]

theorem State.writeReg_lock (s : State) (g : Reg) (w : Nat) (h : s.regs.lock = true) : (s.writeReg g w).1.regs.lock = true := by
  unfold State.writeReg
  dsimp only
  split
  · simp [h]
  · simp [h]
  · simp [h]
  · simp [h]
  · split
    · exact s.store_lock _ _ _ h
    · exact h
  · split
    · exact h
    · exact s.store_lock _ _ _ h

theorem State.writeWords_lock (n off data : Nat) (s : State) (h : s.regs.lock = true) : (State.writeWords off data n s).1.regs.lock = true := by
  induction n generalizing s off data with
  | zero => exact h
  | succ n ih =>
    unfold State.writeWords
    apply ih
    split
    · exact s.writeReg_lock _ _ h
    · exact h

theorem State.writeBar0_lock (s : State) (off data words : Nat) (h : s.regs.lock = true) : (s.writeBar0 off data words).regs.lock = true := by
  have hw := State.writeWords_lock words off data s h
  unfold State.writeBar0
  split
  · exact h
  · simp [State.when_regs, apply_ite IdRegs.lock, hw]

theorem execRegisterWrite_lock (bar2 : Bool) (offset : BitVec 24) (size : BitVec 4) (be : Byte) (data : DWord) (s : State) (h : s.regs.lock = true) :
    ∃ t, execRegisterWrite bar2 offset size be data s = .next t ∧ t.regs.lock = true := by
  unfold execRegisterWrite
  dsimp only
  repeat' split
  · exact ⟨_, rfl, h⟩
  · exact ⟨_, rfl, h⟩
  · exact ⟨_, rfl, s.writeBar0_lock _ _ _ h⟩
  · exact ⟨_, rfl, by simp [h]⟩
  · exact ⟨_, rfl, by simp [apply_ite IdRegs.lock, h]⟩
  · exact ⟨_, rfl, h⟩

theorem execSetupLock_lock (v : Word) (s : State) (h : s.regs.lock = true) : ∃ t, execSetupLock v s = .next t ∧ t.regs.lock = true := by
  refine ⟨_, rfl, ?_⟩
  repeat' split
  · exact h
  · exact s.writeBar0_lock _ _ _ h
  · exact h

theorem execPortCfg_lock (v : Word) (s : State) (h : s.regs.lock = true) : ∃ t, execPortCfg v s = .next t ∧ t.regs.lock = true :=
  ⟨_, rfl, s.writeBar0_lock _ _ _ h⟩

/-! ### Starts (R508) -/

theorem State.beginStart_isSome (s : State) (fromReset carryPair : Bool) (st : StartS) :
    (s.beginStart fromReset carryPair st).quince.start.isSome = true := rfl
theorem State.powerStart_isSome (s : State) (cold : Bool) : (s.powerStart cold).quince.start.isSome = true := State.beginStart_isSome ..
theorem State.askedStart_isSome (s : State) (warm carryPair : Bool) : (s.askedStart warm carryPair).quince.start.isSome = true :=
  State.beginStart_isSome ..
theorem State.keepDeparts_quince (s : State) (b : Fabric) : (s.keepDeparts b).quince = s.quince := by
  simp [State.keepDeparts]

/-- A descriptor that does not begin leaves the registers alone; one that begins runs k on a state with the same registers. -/
theorem State.beginDesc_cases (s : State) (r : Fin 64) (op : Nat) (k : Desc → State → State) :
    (s.beginDesc r op k).regs = s.regs ∨ ∃ d t, t.regs = s.regs ∧ s.beginDesc r op k = k d t := by
  unfold State.beginDesc
  split
  · exact .inl rfl
  · next d _ =>
    dsimp only
    repeat' split
    · exact .inl rfl
    · exact .inl (by simp)
    · exact .inr ⟨d, s.upRing r _, State.upRing_regs .., rfl⟩

/-- A request to Quince leaves the registers alone, or runs f on a state with the same registers. -/
theorem State.askFrom_cases (s : State) (a : Asker) (op : Nat) (p : Desc → Bool) (f : State → State) :
    (s.askFrom a op p f).regs = s.regs ∨ ∃ t, t.regs = s.regs ∧ s.askFrom a op p f = f t := by
  unfold State.askFrom
  repeat' split
  · obtain e | ⟨_, t, et, e⟩ := s.beginDesc_cases _ op fun _ s => f s
    · exact .inl e
    · exact .inr ⟨t, et, e⟩
  · exact .inl rfl
  · exact .inl rfl
  · exact .inl rfl
  · exact .inl (by simp)
  · exact .inr ⟨s, rfl, rfl⟩
  · exact .inl rfl

/-! ### R11 -/

/-- R11 for the outcome of a command on s: a set lock is still set, or a start is in progress. -/
def LockKept (s : State) : Res → Prop
  | .next t => s.regs.lock = true → t.regs.lock = true ∨ t.quince.start.isSome = true
  | _ => True

theorem KeepsRegs.lockKept {s : State} {o : Res} (h : KeepsRegs s o) : LockKept s o := by
  cases o with
  | next t => exact fun hl => .inl ((congrArg IdRegs.lock h).trans hl)
  | fault => trivial
  | refused => trivial

theorem lockKept_of_lock {s : State} {o : Res} (h : s.regs.lock = true → ∃ t, o = .next t ∧ t.regs.lock = true) : LockKept s o := by
  cases o with
  | next t =>
    intro hl
    obtain ⟨t', e, ht⟩ := h hl
    cases e
    exact .inl ht
  | fault => trivial
  | refused => trivial

theorem lockKept_of_lock_eq {s t : State} (h : t.regs.lock = s.regs.lock) : LockKept s (.next t) := fun hl => .inl (h.trans hl)
theorem lockKept_of_start {s t : State} (h : t.quince.start.isSome = true) : LockKept s (.next t) := fun _ => .inr h

theorem State.askFrom_lockKept (s : State) (a : Asker) (op : Nat) (p : Desc → Bool) (f : State → State) (h : ∀ t, LockKept t (.next (f t))) :
    LockKept s (.next (s.askFrom a op p f)) := by
  obtain e | ⟨t, et, e⟩ := s.askFrom_cases a op p f
  · exact KeepsRegs.lockKept e
  · rw [e]
    intro hl
    exact h t (et ▸ hl)

theorem State.askStart_lockKept (s : State) (a : Asker) (warm : Bool) : LockKept s (.next (s.askStart a warm)) := by
  apply State.askFrom_lockKept
  intro t
  split
  · exact KeepsRegs.lockKept (by simp)
  · refine lockKept_of_start ?_
    rw [State.keepDeparts_quince]
    exact State.askedStart_isSome ..

theorem execEnrol_lockKept (hostHash boardHash : BitVec 384) (s : State) : LockKept s (execEnrol hostHash boardHash s) := by
  apply State.askFrom_lockKept
  intro t
  split
  · exact lockKept_of_start (State.askedStart_isSome ..)
  · exact KeepsRegs.lockKept (by simp)

theorem execWatchdogExpiry_lockKept (s : State) : LockKept s (execWatchdogExpiry s) := by
  unfold execWatchdogExpiry
  dsimp only
  repeat' split
  · exact KeepsRegs.lockKept (by simp [State.when_regs])
  · exact lockKept_of_start (State.askedStart_isSome ..)
  · exact KeepsRegs.lockKept (by simp [State.when_regs])
  · exact KeepsRegs.lockKept (by simp)

theorem execLongOpDone_lockKept (s : State) : LockKept s (execLongOpDone s) := by
  unfold execLongOpDone
  split
  · exact KeepsRegs.lockKept (by simp)
  · next op a _ =>
    cases op with
    | rkt => exact KeepsRegs.lockKept (by simp)
    | lifecycle => exact lockKept_of_start (State.askedStart_isSome ..)
    | sanitise => exact lockKept_of_start (State.askedStart_isSome ..)
    | format => exact KeepsRegs.lockKept (by simp)
    | firmware => exact KeepsRegs.lockKept (by simp [apply_ite State.regs])

theorem execVauxApplied_lockKept (s : State) : LockKept s (execVauxApplied s) := by
  unfold execVauxApplied
  dsimp only
  split
  · exact lockKept_of_start (State.powerStart_isSome ..)
  · exact KeepsRegs.lockKept (by simp)

theorem execModRstRelease_lockKept (s : State) : LockKept s (execModRstRelease s) := by
  unfold execModRstRelease
  dsimp only
  repeat' split
  · exact KeepsRegs.lockKept (by simp)
  · exact lockKept_of_start (State.powerStart_isSome ..)
  · exact KeepsRegs.lockKept (by simp)

theorem execStartRetry_lockKept (s : State) : LockKept s (execStartRetry s) := by
  unfold execStartRetry
  split
  · exact lockKept_of_start (State.beginStart_isSome ..)
  · exact KeepsRegs.lockKept (by simp)

theorem execLoRegisterRead_lockKept (offset : BarRead) (s : State) : LockKept s (execLoRegisterRead offset s) := by
  unfold execLoRegisterRead
  split
  · exact KeepsRegs.lockKept (by simp)
  split
  · exact lockKept_of_lock_eq rfl
  · dsimp only
    refine lockKept_of_lock_eq ?_
    by_cases h : offset.size = 8#4 <;> simp [h]

/-- R11 for every command: those that begin a start and those by which the host reaches the registers are named; every other one leaves the registers
alone. -/
theorem exec_lockKept (c : Instr) (s : State) : LockKept s (exec c s) := by
  cases c with
  | watchdogExpiry => exact execWatchdogExpiry_lockKept s
  | warmRestart a => exact s.askStart_lockKept a true
  | coldRestart a => exact s.askStart_lockKept a false
  | longOpDone => exact execLongOpDone_lockKept s
  | enrol h b => exact execEnrol_lockKept h b s
  | vauxApplied => exact execVauxApplied_lockKept s
  | modRstRelease => exact execModRstRelease_lockKept s
  | startRetry => exact execStartRetry_lockKept s
  | sqTail r v => exact lockKept_of_lock_eq (s.doorbell_lock r 0 v _)
  | cqHead r v => exact lockKept_of_lock_eq (s.doorbell_lock r 4 v _)
  | ringEnable r => exact lockKept_of_lock_eq (s.hostWriteAt_lock _ _ _ fun t => by simp)
  | ringDisable r => exact lockKept_of_lock_eq (s.hostWriteAt_lock _ _ _ fun t => by simp)
  | setupLock v => exact lockKept_of_lock (execSetupLock_lock v s)
  | portCfg v => exact lockKept_of_lock (execPortCfg_lock v s)
  | loRegisterRead offset => exact execLoRegisterRead_lockKept offset s
  | registerWrite bar2 offset size be data => exact lockKept_of_lock (execRegisterWrite_lock bar2 offset size be data s)
  | _ => exact KeepsRegs.lockKept (by simp [exec])

/-- Settles O5: the lock outlives every command that leaves no start in progress, and SETUP_LOCK is written only from clear to set. -/
theorem lockClearsOnlyAtAStart : Obligations.LockClearsOnlyAtAStart := by
  unfold Obligations.LockClearsOnlyAtAStart
  refine ⟨fun c s t hl e => ?_, execRegisterWrite_lock, fun v s hl => ⟨execSetupLock_lock v s hl, execPortCfg_lock v s hl⟩⟩
  have h := exec_lockKept c s
  rw [e] at h
  exact h hl

end Sys2Proof.Machine
end

section
/-! PROOFS. The order of words through a handshake queue (R64): each operation on a queue conserves the words that pass
through it, so every order of operations does. -/
namespace Sys2Proof.Machine

/-- A word enters at the back while the producer's count shows a free entry, and not at all otherwise. -/
theorem HsQueue.write_words (q : HsQueue) (w : QWord) : (q.write w).words = q.words ++ (if q.canWrite then [w] else []) := by
  unfold HsQueue.write
  split <;> simp

@[simp] theorem HsQueue.show_words (q : HsQueue) : q.show.words = q.words := by
  unfold HsQueue.show
  split <;> rfl

@[simp] theorem HsQueue.giveBack_words (q : HsQueue) : q.giveBack.words = q.words := rfl

/-- The word that the consumer's count shows as present, where there is one, is the oldest word, and a read takes out that word alone. -/
theorem HsQueue.front_append_read_words (q : HsQueue) : q.front.toList ++ q.read.words = q.words := by
  unfold HsQueue.front HsQueue.read
  split
  case isTrue => cases q.words <;> rfl
  case isFalse => rfl

/-- Settles O12: by induction on the operations; a write moves its word from those still to be written to the back of the queue, a read
moves the front word to those read, and the other two leave the words alone. -/
theorem queuePassesEachWordOnceInOrder : Obligations.QueuePassesEachWordOnceInOrder := by
  unfold Obligations.QueuePassesEachWordOnceInOrder
  intro ops
  induction ops with
  | nil => simp [QueueOp.run]
  | cons op ops ih =>
    intro q
    match op with
    | .write w => simp only [QueueOp.run, ih, HsQueue.write_words, List.append_assoc]
    | .show => simp only [QueueOp.run, ih, HsQueue.show_words]
    | .read =>
      simp only [QueueOp.run, List.append_assoc, ih]
      rw [← List.append_assoc, q.front_append_read_words]
    | .giveBack => simp only [QueueOp.run, ih, HsQueue.giveBack_words]

end Sys2Proof.Machine
end

section
/-! PROOFS. Approvals that add nothing (R502): a refused one is logged and answered, and leaves the open record as it is; a second one of the
same party is answered alone. -/
namespace Sys2Proof.Machine

/-! ### The request reaches Quince -/

/-- A request through the mailbox is run when BAR0 decodes, Quince serves and no long operation runs. -/
theorem State.mailbox_run (s : State) (f : State → State) (hr : s.hostReady = true) (hq : s.quinceServes = true)
    (hb : s.host.mgmtBusy = false) : s.mailbox f = f s := by
  simp [State.mailbox, hr, hq, hb]

theorem exec_approve_host (s : State) (msg : Bytes) (hr : s.hostReady = true) (hq : s.quinceServes = true) (hb : s.host.mgmtBusy = false) :
    exec (.approve false msg) s = .next (s.takeApproval false msg) :=
  congrArg Host.Outcome.next (s.mailbox_run _ hr hq hb)

/-- A request of the board controller that Quince takes up is run. -/
theorem State.askFrom_mctp_run (s : State) (op : Nat) (p : Desc → Bool) (f : State → State) (h : AsksQuince s .mctp op p) :
    s.askFrom .mctp op p f = f s := by
  obtain ⟨hq, hb⟩ := h
  simp [State.askFrom, hq, hb]

theorem exec_approve_board (s : State) (msg : Bytes) (h : AsksQuince s .mctp 0 fun _ => true) :
    exec (.approve true msg) s = .next (s.takeApproval true msg) :=
  congrArg Host.Outcome.next (s.askFrom_mctp_run _ _ _ h)

/-! ### The fault log -/

/-- A list from which fewer elements are dropped than it had keeps the one put at its end. -/
theorem getLast?_drop_concat {α : Type} (l : List α) (x : α) (n : Nat) (h : n ≤ l.length) : ((l ++ [x]).drop n).getLast? = some x := by
  rw [List.drop_append_of_le_length h, List.getLast?_concat]

/-- The newest entry of the fault log is the one that was added, also where the log was full (R496). -/
theorem State.logFault_getLast? (s : State) (kind : Nat) (result : Byte) :
    (s.logFault kind result).quince.faults.getLast? = some { kind := kind, at_ := s.now, result := result } :=
  getLast?_drop_concat _ _ _ (by omega)

/-! ### What an approval does -/

/-- Quince refuses an APPROVE (R502): no record is open, or the bytes are not those of the open record, or the signature is not that of the
channel's party. -/
def State.RefusesApproval (s : State) (board : Bool) (msg : Bytes) : Prop :=
  ∀ x, s.quince.approval = some x → msg.length ≠ 168 ∨ msg.take 72 ≠ x.message s.fab.modId ∨
    Config.ecdsaVerify (toLE (if board then s.quince.boardHash else s.quince.hostHash).toNat 48) (msg.take 72) (msg.drop 72) = false

/-- A refused approval is logged and answered with APPROVAL_MISSING, and nothing else. -/
theorem State.takeApproval_refused (s : State) (board : Bool) (msg : Bytes) (h : s.RefusesApproval board msg) :
    s.takeApproval board msg = (s.logFault fkApproval).answerApprove board stApproval := by
  unfold State.takeApproval
  dsimp only
  split
  · rfl
  · next x hx =>
    refine if_neg fun hc => ?_
    simp only [Bool.and_eq_true, decide_eq_true_eq] at hc
    obtain ⟨⟨hlen, hmsg⟩, hsig⟩ := hc
    obtain hl | hm | hs := h x hx
    · exact hl hlen
    · exact hm hmsg
    · exact Bool.false_ne_true (hs.symm.trans hsig)

/-- An approval of a party that has approved, while the other has not, leaves the record as it is and changes Quince alone, whether it is
accepted or refused. -/
theorem State.takeApproval_again (s : State) (board : Bool) (msg : Bytes) (x : Approval) (hx : s.quince.approval = some x)
    (hh : x.hostDone = !board) (hb : x.boardDone = board) :
    (s.takeApproval board msg).quince.approval = some x ∧ s.takeApproval board msg = { s with quince := (s.takeApproval board msg).quince } := by
  have same : { x with hostDone := x.hostDone || !board, boardDone := x.boardDone || board } = x := by
    rw [hh, hb, Bool.or_self, Bool.or_self, ← hh, ← hb]
  have stillOpen : ((x.hostDone || !board) && (x.boardDone || board)) = false := by
    rw [hh, hb, Bool.or_self, Bool.or_self, Bool.not_and_self]
  unfold State.takeApproval
  simp only [hx, same, stillOpen]
  generalize (if board then s.quince.boardHash else s.quince.hostHash) = partyHash
  split
  case isTrue => cases board <;> exact ⟨rfl, rfl⟩
  case isFalse => cases board <;> exact ⟨hx, rfl⟩

/-- Settles O55: a refused approval comes to a log entry and an answer on its channel, and neither touches the record; a repeated one sets a
flag of the record that is set. -/
theorem refusedApprovalsLeaveTheRecord : Obligations.RefusedApprovalsLeaveTheRecord := by
  unfold Obligations.RefusedApprovalsLeaveTheRecord
  refine ⟨fun msg s hr hq hb h => ?_, fun msg s ha h => ?_, fun msg x s hr hq hb hx hh hd => ?_, fun msg x s ha hx hh hd => ?_⟩
  · refine ⟨_, exec_approve_host s msg hr hq hb, ?_⟩
    rw [s.takeApproval_refused false msg h]
    exact ⟨rfl, s.logFault_getLast? _ _, rfl⟩
  · refine ⟨_, exec_approve_board s msg ha, ?_⟩
    rw [s.takeApproval_refused true msg h]
    exact ⟨rfl, s.logFault_getLast? _ _, rfl⟩
  · exact ⟨_, exec_approve_host s msg hr hq hb, s.takeApproval_again false msg x hx hh hd⟩
  · exact ⟨_, exec_approve_board s msg ha, s.takeApproval_again true msg x hx hh hd⟩

end Sys2Proof.Machine
end

section
/-! PROOFS. A lifecycle change through a loss of the supply (R505). What the change is about, its LifeStore, is kept by a job's end, a cut of a
long operation, a stop and a start; the change alone writes it. -/
namespace Sys2Proof.Machine

/-- What a lifecycle change is about and what outlives the supply: the state of R503, the change recorded, the RETIRED fuse, the media key and
the secured data of flash. -/
structure LifeStore where
  life : Life
  changing : Option Life
  retiredFuse : Bool
  mediaKey : BitVec 512
  flash : List FlashImg

def State.lifeStore (s : State) : LifeStore :=
  { life := s.quince.life, changing := s.quince.changing, retiredFuse := s.quince.retiredFuse, mediaKey := s.tiers.mediaKey, flash := s.sec.flash }

/-! ### What keeps it: the updates -/

@[simp] theorem State.upMover_lifeStore (s : State) (f : Mover → Mover) : (s.upMover f).lifeStore = s.lifeStore := rfl
@[simp] theorem State.upJob_lifeStore (s : State) (f : Job → Job) : (s.upJob f).lifeStore = s.lifeStore := rfl
@[simp] theorem State.upMedlar_lifeStore (s : State) (f : Medlar → Medlar) : (s.upMedlar f).lifeStore = s.lifeStore := rfl
@[simp] theorem State.upColl_lifeStore (s : State) (f : Collectives → Collectives) : (s.upColl f).lifeStore = s.lifeStore := rfl
@[simp] theorem State.upFab_lifeStore (s : State) (f : Fabric → Fabric) : (s.upFab f).lifeStore = s.lifeStore := rfl
@[simp] theorem State.upPwr_lifeStore (s : State) (f : Power → Power) : (s.upPwr f).lifeStore = s.lifeStore := rfl
@[simp] theorem State.upHost_lifeStore (s : State) (f : HostIf → HostIf) : (s.upHost f).lifeStore = s.lifeStore := rfl
@[simp] theorem State.upSec_lifeStore (s : State) (f : Resilience → Resilience) (h : ∀ c, (f c).flash = c.flash) :
    (s.upSec f).lifeStore = s.lifeStore := by
  simp [State.lifeStore, h]

theorem State.when_lifeStore (s : State) (b : Bool) (f : State → State) (h : (f s).lifeStore = s.lifeStore) :
    (s.when b f).lifeStore = s.lifeStore := State.when_keeps State.lifeStore s b f h

theorem foldl_lifeStore {α : Type} (f : State → α → State) (h : ∀ s a, (f s a).lifeStore = s.lifeStore) (l : List α) (s : State) :
    (l.foldl f s).lifeStore = s.lifeStore := by
  induction l generalizing s with
  | nil => rfl
  | cons a l ih => rw [List.foldl_cons, ih, h]

/-! ### The end of a job (R396, R452) -/

@[simp] theorem State.complete_lifeStore (s : State) (r : Fin 64) (index : DWord) (status detail : Nat) (result : DWord) :
    (s.complete r index status detail result).lifeStore = s.lifeStore := rfl
@[simp] theorem State.eventFor_lifeStore (s : State) (job : Word) (code : Nat) (arg0 arg1 : DWord) :
    (s.eventFor job code arg0 arg1).lifeStore = s.lifeStore := rfl
@[simp] theorem State.dropShares_lifeStore (s : State) : s.dropShares.lifeStore = s.lifeStore := rfl
@[simp] theorem State.stopRegions_lifeStore (s : State) : s.stopRegions.lifeStore = s.lifeStore := rfl
@[simp] theorem State.hostWrite_lifeStore (s : State) (addr : DWord) (bs : Bytes) : (s.hostWrite addr bs).lifeStore = s.lifeStore :=
  State.when_lifeStore _ _ _ rfl

@[simp] theorem State.returnRecord_lifeStore (s : State) (rc : StepRecord) : (s.returnRecord rc).lifeStore = s.lifeStore := by
  unfold State.returnRecord
  dsimp only
  split <;> simp

@[simp] theorem State.endJobDescs_lifeStore (s : State) : s.endJobDescs.lifeStore = s.lifeStore := by
  refine foldl_lifeStore _ (fun s x => ?_) _ s
  dsimp only
  split <;> simp

@[simp] theorem State.ceilingStep_lifeStore (s : State) : s.ceilingStep.lifeStore = s.lifeStore := by
  simp [State.ceilingStep, apply_ite State.lifeStore]
@[simp] theorem State.noteBind_lifeStore (s : State) : s.noteBind.lifeStore = s.lifeStore :=
  State.when_lifeStore _ _ _ rfl
theorem State.reEnv_lifeStore (s : State) (f : State → State) (h : ∀ s, (f s).lifeStore = s.lifeStore) : (s.reEnv f).lifeStore = s.lifeStore := by
  simp [State.reEnv, h]

/-- Of the securing state, the end of a job clears what runs, not what is in flash. -/
@[simp] theorem State.tearDown_lifeStore (s : State) : s.tearDown.lifeStore = s.lifeStore := by
  unfold State.tearDown
  split
  · rfl
  · refine State.reEnv_lifeStore _ _ fun s => ?_
    simp

/-! ### The module stops (R511, R519, R532) -/

@[simp] theorem State.leaveJobs_dark_lifeStore (s : State) : (s.leaveJobs true).lifeStore = s.lifeStore := by
  simp [State.leaveJobs, apply_ite State.lifeStore]

@[simp] theorem Quince.dropWritten_life (q : Quince) : q.dropWritten.life = q.life := by
  unfold Quince.dropWritten; split <;> rfl
@[simp] theorem Quince.dropWritten_changing (q : Quince) : q.dropWritten.changing = q.changing := by
  unfold Quince.dropWritten; split <;> rfl
@[simp] theorem Quince.dropWritten_retiredFuse (q : Quince) : q.dropWritten.retiredFuse = q.retiredFuse := by
  unfold Quince.dropWritten; split <;> rfl

/-- A cut of a long operation ends the operation, not what it recorded of a change. -/
@[simp] theorem State.cutLong_lifeStore (s : State) : s.cutLong.lifeStore = s.lifeStore := by
  unfold State.cutLong
  split
  · rfl
  · next op _ _ => cases op <;> simp [State.lifeStore]

@[simp] theorem State.goDown_lifeStore (s : State) : s.goDown.lifeStore = s.lifeStore :=
  calc s.goDown.lifeStore = (s.leaveJobs true).cutLong.lifeStore := rfl
    _ = s.lifeStore := by simp

/-! ### A start (R235, R280, R508) -/

/-- What a start keeps: the lifecycle and the media key through reset, and flash. -/
theorem State.beginStart_lifeStore (s : State) (fromReset carryPair : Bool) (st : StartS) :
    (s.beginStart fromReset carryPair st).lifeStore = s.lifeStore := by
  calc (s.beginStart fromReset carryPair st).lifeStore
      = (((s.when s.inJob State.tearDown).when s.quince.approval.isSome State.raiseIbi).when fromReset State.shiftTimes).lifeStore := rfl
    _ = ((s.when s.inJob State.tearDown).when s.quince.approval.isSome State.raiseIbi).lifeStore := State.when_lifeStore _ _ _ rfl
    _ = (s.when s.inJob State.tearDown).lifeStore := State.when_lifeStore _ _ _ rfl
    _ = s.lifeStore := State.when_lifeStore _ _ _ s.tearDown_lifeStore

@[simp] theorem State.powerStart_lifeStore (s : State) (cold : Bool) : (s.powerStart cold).lifeStore = s.lifeStore :=
  s.beginStart_lifeStore ..

/-- A start that ends a change is cold (R504, R519). -/
theorem State.powerStart_cold (s : State) : ∃ st, (s.powerStart true).quince.start = some st ∧ st.warm = false :=
  ⟨_, rfl, Bool.and_false _⟩

/-! ### The change (R503 to R505) -/

/-- After a change to a state: it holds, nothing is recorded any more and flash is erased; RETIRED blows the fuse and zeroes the media key. -/
structure Turned (l : Life) (x : LifeStore) : Prop where
  life : x.life = l
  changing : x.changing = none
  flash : x.flash = []
  retired : l = .retired → x.mediaKey = 0 ∧ x.retiredFuse = true

theorem State.turnLife_turned (s : State) (l : Life) : Turned l (s.turnLife l).lifeStore := by
  by_cases hl : l = .retired
  case pos =>
    subst hl
    exact { life := rfl, changing := rfl, flash := rfl, retired := fun _ => ⟨rfl, Bool.or_true _⟩ }
  case neg =>
    unfold State.turnLife
    rw [decide_eq_false hl]
    exact { life := rfl, changing := rfl, flash := rfl, retired := fun e => absurd e hl }

theorem State.finishChange_turned (s : State) (l : Life) (h : s.quince.changing = some l) : Turned l s.finishChange.lifeStore := by
  have erased := State.when_keeps (fun t => t.quince.changing) s s.quince.erasing
    (fun s => s.replaceMedia.upQuince fun q => { q with erasing := false }) rfl
  unfold State.finishChange
  simp only [erased, h]
  exact State.turnLife_turned _ l

theorem State.changeOpen_of_changing (s : State) (l : Life) (h : s.quince.changing = some l) : s.changeOpen = true := by
  simp [State.changeOpen, h]

/-! ### The supply -/

/-- A brownout keeps what a change is about: in OFF the tiers lose their keys and their content, and keep the media key. -/
theorem execVauxBrownout_lifeStore (s : State) : ∃ t, execVauxBrownout s = .next t ∧ t.pins.vaux = false ∧ t.quince.start = none ∧
    t.lifeStore = s.lifeStore :=
  ⟨_, rfl, rfl, rfl, s.goDown_lifeStore⟩

/-- A module that is not held in reset finishes what was recorded, and starts cold where something was (R505, R519). -/
theorem execVauxApplied_of_modRst (s : State) (hr : s.pins.modRst = true) : execVauxApplied s =
    .next ((s.upPins fun p => { p with vaux := true, vrbClk := true }).finishChange.powerStart s.changeOpen) := if_pos hr

/-- The next power-on completes the change before it begins a cold start. -/
theorem execVauxApplied_turned (s : State) (l : Life) (h : s.quince.changing = some l) (hr : s.pins.modRst = true) :
    ∃ t, execVauxApplied s = .next t ∧ Turned l t.lifeStore ∧ ∃ st, t.quince.start = some st ∧ st.warm = false := by
  refine ⟨_, execVauxApplied_of_modRst s hr, ?_⟩
  rw [s.changeOpen_of_changing l h, State.powerStart_lifeStore]
  exact ⟨State.finishChange_turned _ l h, State.powerStart_cold _⟩

/-- A lifecycle change is recorded when it is accepted (R505): neither the state of R503 nor a tier's key has changed yet. -/
theorem State.acceptLong_lifecycle (s : State) (l : Life) (a : Asker) : (s.acceptLong (.lifecycle l) a).quince.changing = some l ∧
    (s.acceptLong (.lifecycle l) a).quince.life = s.quince.life ∧ (s.acceptLong (.lifecycle l) a).tiers = s.tiers := by
  cases a <;> exact ⟨rfl, rfl, rfl⟩

/-- Settles O56: what a change is about is kept by a loss of the supply, and at the next power-on the change is completed on it before the
start, which is cold because a change was open. -/
theorem lifecycleChangeOutlivesTheSupply : Obligations.LifecycleChangeOutlivesTheSupply := by
  unfold Obligations.LifecycleChangeOutlivesTheSupply
  refine ⟨fun l a s => s.acceptLong_lifecycle l a, fun l s h => ?_, fun l s h hr => ?_⟩
  · obtain ⟨t, e, hv, hs, hk⟩ := execVauxBrownout_lifeStore s
    exact ⟨t, e, hv, (congrArg LifeStore.changing hk).trans h, congrArg LifeStore.life hk, congrArg LifeStore.mediaKey hk, hs⟩
  · obtain ⟨t, e, ht, hs⟩ := execVauxApplied_turned s l h hr
    exact ⟨t, e, ht.life, ht.changing, hs, ht.flash, ht.retired⟩

end Sys2Proof.Machine
end

section
/-! PROOFS. Latched reads (R544, R549): where the LO registers stand, what a read of a word does to what is latched, and that the reads and the
starts alone change it; a write of TLM_INDEX (R548); and a write of SETUP_LOCK before DEVICE_READY (R546). -/
namespace Sys2Proof.Machine

/-! ### Association lists -/

@[simp] theorem getKV_putKV_same {κ α : Type} [DecidableEq κ] (k : κ) (x : α) (l : List (κ × α)) : getKV k (putKV k x l) = some x := by
  induction l with
  | nil => simp [putKV, getKV]
  | cons p l ih =>
    by_cases h : p.1 = k
    case pos => simp [putKV, getKV, h]
    case neg => simp [putKV, getKV, h, ih]

theorem getKV_putKV_ne {κ α : Type} [DecidableEq κ] {j k : κ} (h : j ≠ k) (x : α) (l : List (κ × α)) : getKV j (putKV k x l) = getKV j l := by
  induction l with
  | nil => simp [putKV, getKV, h.symm]
  | cons p l ih =>
    by_cases hk : p.1 = k
    case pos => simp [putKV, getKV, hk, h.symm]
    case neg => simp [putKV, getKV, hk, ih]

/-! ### Where the LO registers stand -/

/-- The LO registers whose HI word is latched: the offset of each, the register, and the HI register of its pair. -/
inductive LoAt : Nat → Reg → Reg → Prop
  | partnerStep : LoAt 0x60018 (.partnerStep false) (.partnerStep true)
  | flashStep : LoAt 0x60020 (.flashStep false) (.flashStep true)
  | exportStep : LoAt 0x60028 (.exportStep false) (.exportStep true)
  | hostedStep : LoAt 0x60038 (.hostedStep false) (.hostedStep true)
  | mtime : LoAt 0x80000 (.mtime false) (.mtime true)
  | tlmValue : LoAt 0x80018 (.tlmValue false) (.tlmValue true)

theorem LoAt.regOf_hi {off : Nat} {lo hi : Reg} (h : LoAt off lo hi) : regOf (off + 4) = some hi := by cases h <;> rfl
theorem LoAt.wide_hi {off : Nat} {lo hi : Reg} (h : LoAt off lo hi) (s : State) : s.wide hi = none := by cases h <;> rfl
theorem LoAt.regRead_hi {off : Nat} {lo hi : Reg} (h : LoAt off lo hi) (s : State) : s.regRead hi = s.latched off := by cases h <;> rfl
theorem LoAt.off_lt {off : Nat} {lo hi : Reg} (h : LoAt off lo hi) : off + 4 < 2 ^ 24 := by cases h <;> decide

/-- A register with a 64-bit value to latch is one of the table. -/
theorem State.wide_loAt (s : State) (x : Reg) (h : (s.wide x).isSome = true) : ∃ off hi, LoAt off x hi := by
  unfold State.wide at h
  split at h
  · exact ⟨_, _, .partnerStep⟩
  · exact ⟨_, _, .flashStep⟩
  · exact ⟨_, _, .exportStep⟩
  · exact ⟨_, _, .hostedStep⟩
  · exact ⟨_, _, .mtime⟩
  · exact ⟨_, _, .tlmValue⟩
  · cases h

theorem ringReg_not_loAt {r : Fin 64} {o off : Nat} {x hi : Reg} (h : ringReg r o = some x) : ¬ LoAt off x hi := by
  unfold ringReg at h
  split at h <;> cases h <;> nofun

/-- The index names each LO register at one offset only. -/
theorem blockReg_loAt {b o off : Nat} {x hi : Reg} (h : blockReg b o = some x) (hat : LoAt off x hi) : 0x10000 * b + o = off := by
  unfold blockReg at h
  split at h
  all_goals repeat' split at h
  any_goals exact absurd hat (ringReg_not_loAt h)
  all_goals cases h
  all_goals cases hat
  all_goals rfl

theorem regOf_loAt {off : Nat} {x : Reg} {s : State} (h : regOf off = some x) (hw : (s.wide x).isSome = true) : ∃ hi, LoAt off x hi := by
  obtain ⟨off', hi, hat⟩ := s.wide_loAt x hw
  unfold regOf at h
  split at h
  · have same := blockReg_loAt h hat
    rw [Nat.div_add_mod] at same
    exact ⟨hi, same ▸ hat⟩
  · cases h

/-! ### Reads of BAR0 (R544, R545) -/

/-- The state in which the upper half of v is latched for the LO register at an offset. -/
def State.latch (s : State) (off v : Nat) : State :=
  s.upRegs fun g => { g with latches := putKV off (BitVec.ofNat 32 (v / 2 ^ 32)) g.latches }

theorem State.readWord_lo {s : State} {off : Nat} {x : Reg} {v : Nat} (hd : s.decodes off = true) (hr : regOf off = some x)
    (hw : s.wide x = some v) : s.readWord off = (v % 2 ^ 32, s.latch off v) := by
  simp [State.readWord, State.latch, hd, hr, hw]

theorem State.readWord_plain {s : State} {off : Nat} {x : Reg} (hd : s.decodes off = true) (hr : regOf off = some x) (hw : s.wide x = none) :
    s.readWord off = (s.regRead x, s) := by
  simp [State.readWord, hd, hr, hw]

/-- A HI register returns what the last read of its LO register latched. -/
theorem State.readWord_hi {s : State} {off : Nat} {lo hi : Reg} (hat : LoAt off lo hi) (hd : s.decodes (off + 4) = true) :
    s.readWord (off + 4) = (s.latched off, s) := by
  rw [State.readWord_plain hd hat.regOf_hi (hat.wide_hi s), hat.regRead_hi]

theorem State.latched_of_getKV {s : State} {off : Nat} {w : Word} (h : getKV off s.regs.latches = some w) : s.latched off = w.toNat := by
  simp [State.latched, h]

theorem State.latch_latched (s : State) (off v : Nat) : (s.latch off v).latched off = v / 2 ^ 32 % 2 ^ 32 := by
  rw [State.latched_of_getKV (getKV_putKV_same off (BitVec.ofNat 32 (v / 2 ^ 32)) s.regs.latches), BitVec.toNat_ofNat]

/-- A read of a word leaves what is latched at every other offset. -/
theorem State.readWord_latches_ne (s : State) {off k : Nat} (h : k ≠ off) : getKV k (s.readWord off).2.regs.latches = getKV k s.regs.latches := by
  unfold State.readWord
  split
  · rfl
  · split
    · exact getKV_putKV_ne h _ _
    · rfl

/-! ### Read commands (R541, R544, R549) -/

theorem exec_read4 {s t : State} {offset : BitVec 24} {v : Nat} (hl : s.host.linkUp = true) (h : s.readWord offset.toNat = (v, t)) :
    exec (.loRegisterRead ⟨false, 4, offset⟩) s = .next (t.upRegs fun g => { g with readData := BitVec.ofNat 64 v }) := by
  simp [exec, execLoRegisterRead, hl, h]

theorem exec_read8 {s t u : State} {offset : BitVec 24} {lo hi : Nat} (hl : s.host.linkUp = true) (h : s.readWord offset.toNat = (lo, t))
    (h' : t.readWord (offset.toNat + 4) = (hi, u)) : exec (.loRegisterRead ⟨false, 8, offset⟩) s =
      .next (u.upRegs fun g => { g with readData := BitVec.ofNat 64 (lo + 2 ^ 32 * hi) }) := by
  simp [exec, execLoRegisterRead, hl, h, h']

theorem exec_read_linkDown {s : State} (x : BarRead) (hl : s.host.linkUp = false) : exec (.loRegisterRead x) s = .next s := by
  simp [exec, execLoRegisterRead, hl]

theorem exec_read_doorbell {s : State} (size : BitVec 4) (offset : BitVec 24) (hl : s.host.linkUp = true) :
    exec (.loRegisterRead ⟨true, size, offset⟩) s = .next (s.upRegs fun g => { g with readData := 0 }) := by
  simp [exec, execLoRegisterRead, hl]

theorem exec_read_hi {s : State} {offset : BitVec 24} {x : Reg} {w : Word} (hl : s.host.linkUp = true)
    (hd : s.decodes (offset + 4).toNat = true) (hr : regOf offset.toNat = some x) (hw : (s.wide x).isSome = true)
    (hk : getKV offset.toNat s.regs.latches = some w) :
    exec (.loRegisterRead ⟨false, 4, offset + 4⟩) s = .next (s.upRegs fun g => { g with readData := BitVec.ofNat 64 w.toNat }) := by
  obtain ⟨hi, hat⟩ := regOf_loAt hr hw
  have nextOff : (offset + 4).toNat = offset.toNat + 4 := BitVec.toNat_add_of_lt hat.off_lt
  rw [nextOff] at hd
  have read := State.readWord_hi hat hd
  rw [← nextOff, State.latched_of_getKV hk] at read
  exact exec_read4 hl read

/-- An aligned read of 8 B returns the two words of one value: the upper one is what the lower one's read has just latched. -/
theorem exec_read_pair {s : State} {offset : BitVec 24} {x : Reg} {v : Nat} (hl : s.host.linkUp = true) (hd : s.decodes offset.toNat = true)
    (hd' : s.decodes (offset.toNat + 4) = true) (hr : regOf offset.toNat = some x) (hw : s.wide x = some v) (hv : v < 2 ^ 64) :
    exec (.loRegisterRead ⟨false, 8, offset⟩) s =
      .next ((s.latch offset.toNat v).upRegs fun g => { g with readData := BitVec.ofNat 64 v }) := by
  obtain ⟨hi, hat⟩ := regOf_loAt hr (Option.isSome_of_eq_some hw)
  have words : v % 2 ^ 32 + 2 ^ 32 * (v / 2 ^ 32 % 2 ^ 32) = v := by omega
  have upper := State.readWord_hi (s := s.latch offset.toNat v) hat hd'
  rw [State.latch_latched] at upper
  rw [exec_read8 hl (State.readWord_lo hd hr hw) upper, words]

theorem exec_read4_latches_ne {s t : State} {offset : BitVec 24} {k : Nat} (e : exec (.loRegisterRead ⟨false, 4, offset⟩) s = .next t)
    (h : k ≠ offset.toNat) : getKV k t.regs.latches = getKV k s.regs.latches := by
  cases hl : s.host.linkUp with
  | false =>
    rw [exec_read_linkDown _ hl] at e
    cases e
    rfl
  | true =>
    rw [exec_read4 hl rfl] at e
    cases e
    exact s.readWord_latches_ne h

/-! ### What writes leave latched -/

@[simp] theorem State.discard_latches (s : State) (bar2 : Bool) (off : Nat) : (s.discard bar2 off).regs.latches = s.regs.latches := rfl

theorem State.hostWriteAt_latches (s : State) (bar2 : Bool) (off : Nat) (f : State → State)
    (h : ∀ t, (f t).regs.latches = t.regs.latches) : (s.hostWriteAt bar2 off f).regs.latches = s.regs.latches := by
  simp [State.hostWriteAt, apply_ite State.regs, apply_ite IdRegs.latches, h]

@[simp] theorem State.doorbell_latches (s : State) (r : Fin 64) (off : Nat) (v : Word) (f : Half → Ring → Ring) :
    (s.doorbell r off v f).regs.latches = s.regs.latches := by
  refine s.hostWriteAt_latches _ _ _ fun t => ?_
  simp [State.when_regs, apply_ite IdRegs.latches]

@[simp] theorem State.writeBar2_latches (s : State) (off data : Nat) : (s.writeBar2 off data).regs.latches = s.regs.latches := by
  unfold State.writeBar2
  repeat' split
  · exact s.hostWriteAt_latches _ _ _ fun t => t.discard_latches ..
  · exact s.doorbell_latches ..
  · exact s.doorbell_latches ..
  · exact s.hostWriteAt_latches _ _ _ fun t => t.discard_latches ..

@[simp] theorem State.setLock_latches (s : State) : s.setLock.regs.latches = s.regs.latches := by
  simp [State.setLock, foldl_regs, State.when_regs]

@[simp] theorem State.store_latches (s : State) (g : Reg) (v w : Nat) : (s.store g v w).regs.latches = s.regs.latches := by
  unfold State.store
  split <;> simp [State.when_regs, apply_ite State.regs, apply_ite IdRegs.latches]

@[simp] theorem State.writeReg_latches (s : State) (g : Reg) (w : Nat) : (s.writeReg g w).1.regs.latches = s.regs.latches := by
  unfold State.writeReg
  split <;> simp [apply_ite Prod.fst, apply_ite State.regs, apply_ite IdRegs.latches]

theorem State.writeWords_latches (n off data : Nat) (s : State) : (State.writeWords off data n s).1.regs.latches = s.regs.latches := by
  induction n generalizing s off data with
  | zero => rfl
  | succ n ih =>
    unfold State.writeWords
    refine (ih _ _ _).trans ?_
    split
    · exact s.writeReg_latches ..
    · rfl

@[simp] theorem State.writeBar0_latches (s : State) (off data words : Nat) : (s.writeBar0 off data words).regs.latches = s.regs.latches := by
  simp [State.writeBar0, State.when_regs, apply_ite State.regs, apply_ite IdRegs.latches, State.writeWords_latches]

theorem execRegisterWrite_latches (bar2 : Bool) (offset : BitVec 24) (size : BitVec 4) (be : Byte) (data : DWord) (s : State) :
    ∃ t, execRegisterWrite bar2 offset size be data s = .next t ∧ t.regs.latches = s.regs.latches := by
  unfold execRegisterWrite
  dsimp only
  repeat' split
  · exact ⟨_, rfl, rfl⟩
  · exact ⟨_, rfl, rfl⟩
  · exact ⟨_, rfl, s.writeBar0_latches ..⟩
  · exact ⟨_, rfl, s.writeBar2_latches ..⟩
  · exact ⟨_, rfl, by simp [apply_ite IdRegs.latches]⟩
  · exact ⟨_, rfl, rfl⟩

theorem execSetupLock_latches (v : Word) (s : State) : ∃ t, execSetupLock v s = .next t ∧ t.regs.latches = s.regs.latches :=
  ⟨_, rfl, by simp [apply_ite State.regs, apply_ite IdRegs.latches]⟩

/-! ### What every other command leaves latched -/

/-- The outcome of a command on s keeps what is latched, or a start is in progress. -/
def LatchesKept (s : State) : Res → Prop
  | .next t => t.regs.latches = s.regs.latches ∨ t.quince.start.isSome = true
  | _ => True

theorem KeepsRegs.latchesKept {s : State} {o : Res} (h : KeepsRegs s o) : LatchesKept s o := by
  cases o with
  | next t => exact .inl (congrArg IdRegs.latches h)
  | fault => trivial
  | refused => trivial

theorem latchesKept_of_eq {s : State} {o : Res} (h : ∃ t, o = .next t ∧ t.regs.latches = s.regs.latches) : LatchesKept s o := by
  obtain ⟨t, rfl, h⟩ := h
  exact .inl h

theorem latchesKept_of_start {s t : State} (h : t.quince.start.isSome = true) : LatchesKept s (.next t) := .inr h

theorem State.askFrom_latchesKept (s : State) (a : Asker) (op : Nat) (p : Desc → Bool) (f : State → State)
    (h : ∀ t, LatchesKept t (.next (f t))) : LatchesKept s (.next (s.askFrom a op p f)) := by
  obtain e | ⟨t, et, e⟩ := s.askFrom_cases a op p f
  · exact KeepsRegs.latchesKept e
  · have ht := h t
    rw [← e, LatchesKept, et] at ht
    exact ht

theorem State.askStart_latchesKept (s : State) (a : Asker) (warm : Bool) : LatchesKept s (.next (s.askStart a warm)) := by
  apply State.askFrom_latchesKept
  intro t
  split
  · exact KeepsRegs.latchesKept (by simp)
  · refine latchesKept_of_start ?_
    rw [State.keepDeparts_quince]
    exact State.askedStart_isSome ..

theorem execEnrol_latchesKept (hostHash boardHash : BitVec 384) (s : State) : LatchesKept s (execEnrol hostHash boardHash s) := by
  apply State.askFrom_latchesKept
  intro t
  split
  · exact latchesKept_of_start (State.askedStart_isSome ..)
  · exact KeepsRegs.latchesKept (by simp)

theorem execWatchdogExpiry_latchesKept (s : State) : LatchesKept s (execWatchdogExpiry s) := by
  unfold execWatchdogExpiry
  dsimp only
  repeat' split
  · exact KeepsRegs.latchesKept (by simp [State.when_regs])
  · exact latchesKept_of_start (State.askedStart_isSome ..)
  · exact KeepsRegs.latchesKept (by simp [State.when_regs])
  · exact KeepsRegs.latchesKept (by simp)

theorem execLongOpDone_latchesKept (s : State) : LatchesKept s (execLongOpDone s) := by
  unfold execLongOpDone
  split
  · exact KeepsRegs.latchesKept (by simp)
  · next op a _ =>
    cases op with
    | rkt => exact KeepsRegs.latchesKept (by simp)
    | lifecycle => exact latchesKept_of_start (State.askedStart_isSome ..)
    | sanitise => exact latchesKept_of_start (State.askedStart_isSome ..)
    | format => exact KeepsRegs.latchesKept (by simp)
    | firmware => exact KeepsRegs.latchesKept (by simp [apply_ite State.regs])

theorem execVauxApplied_latchesKept (s : State) : LatchesKept s (execVauxApplied s) := by
  unfold execVauxApplied
  dsimp only
  split
  · exact latchesKept_of_start (State.powerStart_isSome ..)
  · exact KeepsRegs.latchesKept (by simp)

theorem execModRstRelease_latchesKept (s : State) : LatchesKept s (execModRstRelease s) := by
  unfold execModRstRelease
  dsimp only
  repeat' split
  · exact KeepsRegs.latchesKept (by simp)
  · exact latchesKept_of_start (State.powerStart_isSome ..)
  · exact KeepsRegs.latchesKept (by simp)

theorem execStartRetry_latchesKept (s : State) : LatchesKept s (execStartRetry s) := by
  unfold execStartRetry
  split
  · exact latchesKept_of_start (State.beginStart_isSome ..)
  · exact KeepsRegs.latchesKept (by simp)

/-- What is latched, for every command but a read: those that begin a start and the writes of the host are named, and every other one leaves the
registers alone. -/
theorem exec_latchesKept (c : Instr) (s : State) (hc : ∀ x, c ≠ .loRegisterRead x) : LatchesKept s (exec c s) := by
  cases c with
  | watchdogExpiry => exact execWatchdogExpiry_latchesKept s
  | warmRestart a => exact s.askStart_latchesKept a true
  | coldRestart a => exact s.askStart_latchesKept a false
  | longOpDone => exact execLongOpDone_latchesKept s
  | enrol h b => exact execEnrol_latchesKept h b s
  | vauxApplied => exact execVauxApplied_latchesKept s
  | modRstRelease => exact execModRstRelease_latchesKept s
  | startRetry => exact execStartRetry_latchesKept s
  | sqTail r v => exact .inl (s.doorbell_latches r 0 v _)
  | cqHead r v => exact .inl (s.doorbell_latches r 4 v _)
  | ringEnable r => exact .inl (s.hostWriteAt_latches _ _ _ fun t => by simp)
  | ringDisable r => exact .inl (s.hostWriteAt_latches _ _ _ fun t => by simp)
  | setupLock v => exact latchesKept_of_eq (execSetupLock_latches v s)
  | portCfg v => exact .inl (s.writeBar0_latches ..)
  | loRegisterRead x => exact absurd rfl (hc x)
  | registerWrite bar2 offset size be data => exact latchesKept_of_eq (execRegisterWrite_latches bar2 offset size be data s)
  | _ => exact KeepsRegs.latchesKept (by simp [exec])

/-! ### A write of one word to BAR0 -/

theorem exec_write4 {s : State} (offset : BitVec 24) (data : DWord) (hl : s.host.linkUp = true) (ha : offset.toNat % 4 = 0) :
    exec (.registerWrite false offset 4 0xF data) s = .next (s.writeBar0 offset.toNat data.toNat 1) := by
  simp [exec, execRegisterWrite, writeSize, hl, ha]

/-- A write of one word does to its register what writeReg does, and is counted where that drops something of it. -/
theorem State.writeBar0_word {s t : State} {off data : Nat} {x : Reg} {d : Bool} (hl : s.host.linkUp = true) (hd : s.decodes off = true)
    (hr : regOf off = some x) (h : s.writeReg x (data % 2 ^ 32) = (t, d)) :
    s.writeBar0 off data 1 = t.when d fun s => s.discard false off := by
  simp only [State.writeBar0, State.writeWords, hl, hd, hr, h, Bool.not_true, Bool.false_eq_true, if_false, if_true, Bool.or_false]

theorem State.writeBar0_word_undecoded {s : State} {off : Nat} (data : Nat) (hl : s.host.linkUp = true) (hd : s.decodes off = false) :
    s.writeBar0 off data 1 = s.discard false off := by
  simp [State.writeBar0, State.writeWords, hl, hd, State.when]

/-! ### SETUP_LOCK before DEVICE_READY (R546) -/

theorem exec_setupLock_early {s : State} (v : Word) (hl : s.host.linkUp = true) (hr : s.host.deviceReady = false) :
    exec (.setupLock v) s = .next (s.discard false 0x20) := by
  simp [exec, execSetupLock, hl, hr]

theorem State.writeReg_setupLock_early {s : State} (w : Nat) (hr : s.host.deviceReady = false) : s.writeReg .setupLock w = (s, true) := by
  simp [State.writeReg, hr]

/-- As a register write it is discarded whether the block decodes yet or not. -/
theorem State.writeBar0_setupLock_early {s : State} (data : Nat) (hl : s.host.linkUp = true) (hr : s.host.deviceReady = false) :
    s.writeBar0 0x20 data 1 = s.discard false 0x20 := by
  cases hd : s.decodes 0x20 with
  | false => exact State.writeBar0_word_undecoded data hl hd
  | true => exact State.writeBar0_word hl hd rfl (State.writeReg_setupLock_early _ hr)

/-! ### TLM_INDEX and TLM_VALUE (R548) -/

/-- A bit that a write may set takes the bit written (R9). -/
theorem Access.merge_testBit {a : Access} {lock : Bool} {i : Nat} (cur w : Nat) (hi : i < 32) (ho : (a.open_ lock).testBit i = true) :
    (a.merge lock cur w).testBit i = w.testBit i := by
  have ones : Nat.testBit 0xFFFFFFFF i = true := by
    rw [show 0xFFFFFFFF = 2 ^ 32 - 1 from rfl, Nat.testBit_two_pow_sub_one, decide_eq_true hi]
  simp only [Access.merge, notMask, Nat.testBit_mod_two_pow, Nat.testBit_or, Nat.testBit_and, Nat.testBit_xor, ho, ones, hi,
    decide_true, Bool.true_and, Bool.and_true, Bool.xor_self, Bool.and_false, Bool.false_and, Bool.false_or]

theorem tlmIndex_open (lock : Bool) : Reg.tlmIndex.access.open_ lock = 0x1F0FFF := by cases lock <;> rfl

theorem tlmIndex_merge_inst (lock : Bool) (cur w : Nat) :
    BitVec.ofNat 12 (Reg.tlmIndex.access.merge lock cur w) = BitVec.ofNat 12 w := by
  have opened : ∀ i < 12, Nat.testBit 0x1F0FFF i = true := by decide
  refine BitVec.eq_of_getLsbD_eq fun i hi => ?_
  rw [BitVec.getLsbD_ofNat, BitVec.getLsbD_ofNat, Access.merge_testBit cur w (by omega) (tlmIndex_open lock ▸ opened i hi)]

theorem tlmIndex_merge_group (lock : Bool) (cur w : Nat) :
    BitVec.ofNat 5 (Reg.tlmIndex.access.merge lock cur w / 2 ^ 16) = BitVec.ofNat 5 (w / 2 ^ 16) := by
  have opened : ∀ i < 5, Nat.testBit 0x1F0FFF (i + 16) = true := by decide
  refine BitVec.eq_of_getLsbD_eq fun i hi => ?_
  rw [BitVec.getLsbD_ofNat, BitVec.getLsbD_ofNat, Nat.testBit_div_two_pow, Nat.testBit_div_two_pow,
    Access.merge_testBit cur w (by omega) (tlmIndex_open lock ▸ opened i hi)]

/-- The state in which TLM_INDEX holds an index. -/
def State.setIndex (s : State) (w : Nat) : State :=
  s.upRegs fun g => { g with tlmInstance := BitVec.ofNat 12 w, tlmGroup := BitVec.ofNat 5 (w / 2 ^ 16) }

theorem State.store_tlmIndex (s : State) (v w : Nat) : s.store .tlmIndex v w = s.setIndex v := rfl

theorem State.setIndex_merge (s : State) (lock : Bool) (cur w : Nat) : s.setIndex (Reg.tlmIndex.access.merge lock cur w) = s.setIndex w := by
  simp only [State.setIndex, tlmIndex_merge_inst, tlmIndex_merge_group]

theorem State.writeReg_tlmIndex (s : State) (w : Nat) : ∃ d, s.writeReg .tlmIndex w = (s.setIndex w, d) := by
  have writable : ¬ Reg.tlmIndex.access.open_ s.regs.lock ||| Reg.tlmIndex.access.w1c ||| Reg.tlmIndex.access.wo = 0 := by
    rw [tlmIndex_open]
    decide
  refine ⟨Reg.tlmIndex.access.drops s.regs.lock (s.regRead .tlmIndex) w, (if_neg writable).trans ?_⟩
  rw [State.store_tlmIndex, State.setIndex_merge]

/-- The indexed counters are none of the identification registers. -/
@[simp] theorem State.upRegs_counter (s : State) (f : IdRegs → IdRegs) (group inst : Nat) : (s.upRegs f).counter group inst = s.counter group inst := rfl

theorem State.decodes_of_ready {s : State} (hc : s.host.cfgReady = true) (hr : s.host.deviceReady = true) (off : Nat) : s.decodes off = true := by
  simp [State.decodes, hc, hr]

/-- The state after a write request of an index: counted as well where something of it was dropped. -/
def State.indexed (s : State) (w : Nat) (drop : Bool) : State := (s.setIndex w).when drop fun s => s.discard false 0x80010

theorem State.indexed_host (s : State) (w : Nat) (drop : Bool) : (s.indexed w drop).host = s.host := by cases drop <;> rfl
theorem State.indexed_latches (s : State) (w : Nat) (drop : Bool) : (s.indexed w drop).regs.latches = s.regs.latches := by cases drop <;> rfl

theorem State.indexed_wide (s : State) (w : Nat) (drop : Bool) :
    (s.indexed w drop).wide (.tlmValue false) = some (s.counter (w / 2 ^ 16 % 32) (w % 4096)) := by
  cases drop <;> simp [State.indexed, State.when, State.wide, State.setIndex, State.discard]

theorem exec_write_tlmIndex {s : State} (v : Word) (hl : s.host.linkUp = true) (hc : s.host.cfgReady = true) (hr : s.host.deviceReady = true) :
    ∃ drop, exec (.registerWrite false 0x80010 4 0xF (BitVec.ofNat 64 v.toNat)) s = .next (s.indexed v.toNat drop) := by
  have word : (BitVec.ofNat 64 v.toNat).toNat % 2 ^ 32 = v.toNat := by
    rw [BitVec.toNat_ofNat]
    omega
  obtain ⟨drop, store⟩ := s.writeReg_tlmIndex v.toNat
  refine ⟨drop, (exec_write4 _ _ hl rfl).trans (congrArg Host.Outcome.next ?_)⟩
  exact State.writeBar0_word hl (State.decodes_of_ready hc hr _) rfl (word.symm ▸ store)

/-- An index whose reserved bits are 0 has a group of five bits. -/
theorem tlmIndex_group_lt {v : Word} (h : v &&& 0x1F0FFF = v) : v.toNat / 2 ^ 16 < 32 := by
  have bound : v.toNat ≤ 0x1F0FFF := by
    rw [← h, BitVec.toNat_and]
    exact Nat.and_le_right
  omega

/-- The next read of TLM_VALUE_LO takes the index just written; the write itself latches nothing. -/
theorem exec_tlmIndex_then_value {s : State} {v : Word} (hl : s.host.linkUp = true) (hc : s.host.cfgReady = true) (hr : s.host.deviceReady = true)
    (hv : v &&& 0x1F0FFF = v) : ∃ t, exec (.registerWrite false 0x80010 4 0xF (BitVec.ofNat 64 v.toNat)) s = .next t ∧
      t.regs.latches = s.regs.latches ∧ ∃ u, exec (.loRegisterRead ⟨false, 4, 0x80018⟩) t = .next u ∧
        u.regs.readData = BitVec.ofNat 64 (s.counter (v.toNat / 2 ^ 16) (v.toNat % 4096) % 2 ^ 32) := by
  obtain ⟨drop, e⟩ := exec_write_tlmIndex v hl hc hr
  have value := s.indexed_wide v.toNat drop
  rw [Nat.mod_eq_of_lt (tlmIndex_group_lt hv)] at value
  rw [← s.indexed_host v.toNat drop] at hl hc hr
  exact ⟨_, e, s.indexed_latches _ _, _, exec_read4 hl (State.readWord_lo (State.decodes_of_ready hc hr _) rfl value), rfl⟩

/-- Settles O58: the index names the six LO registers, so a read at their offsets latches and returns the two halves of one value; of the other
commands only those that begin a start, and none of the writes, change what is latched. -/
theorem latchedReadsAndTheEarlyLock : Obligations.LatchedReadsAndTheEarlyLock := by
  unfold Obligations.LatchedReadsAndTheEarlyLock
  refine ⟨fun offset x v s hl hd hr hw => ?_, fun offset x w s hl hd hr hw hk => exec_read_hi hl hd hr hw hk,
    fun offset k s t e hk => exec_read4_latches_ne e hk, fun offset x v s hl hd hd' hr hw hv _ => exec_read_pair hl hd hd' hr hw hv,
    fun size offset s hl => exec_read_doorbell size offset hl, fun c s t hc e => ?_,
    fun v s hl hc hr hv => exec_tlmIndex_then_value hl hc hr hv, fun v s hl hr => exec_setupLock_early v hl hr, fun data s hl hr => ?_⟩
  · exact ⟨_, exec_read4 hl (State.readWord_lo hd hr hw), rfl, getKV_putKV_same .., rfl⟩
  · have kept := exec_latchesKept c s hc
    rwa [e] at kept
  · exact (exec_write4 0x20 data hl rfl).trans (congrArg Host.Outcome.next (State.writeBar0_setupLock_early data.toNat hl hr))

end Sys2Proof.Machine
end

section
/-! PROOFS. Every command answers a next state that keeps the handshake queues within their 8 entries (R63, R65, R66): most commands leave the
queues as they were, and the others write, read, move or empty single queues. -/
namespace Sys2Proof.Machine

/-! ### What a command leaves of the queues -/

/-- The outcome of a command on s is a next state with the queues of s. -/
def KeepsQueues (s : State) : Res → Prop
  | .next t => t.queues = s.queues
  | _ => False

@[simp] theorem keepsQueues_next (s t : State) : KeepsQueues s (.next t) ↔ t.queues = s.queues := Iff.rfl
@[simp] theorem keepsQueues_ite (s : State) (p : Prop) [Decidable p] (a b : Res) :
    KeepsQueues s (if p then a else b) ↔ (p → KeepsQueues s a) ∧ (¬ p → KeepsQueues s b) := by
  split <;> simp [*]

/-! ### Shared operations that run a continuation -/

theorem State.laneStep_queues (s : State) (c : Fin 1024) (n : Nest) (k : State) (h : k.queues = s.queues) : (s.laneStep c n k).queues = s.queues := by
  simp [State.laneStep, apply_ite State.queues, h]
theorem State.onInstr_queues (s : State) (c : Fin 1024) (op : Nat) (k : Nat → Nat → Nat → PInstr → State) (h : ∀ i l j p, (k i l j p).queues = s.queues) :
    (s.onInstr c op k).queues = s.queues := by
  unfold State.onInstr
  split
  · rfl
  · simp [apply_ite State.queues, h]
theorem State.withBuf_queues (s : State) (w : Work) (k : Bool → State → State) (h : ∀ b t, (k b t).queues = t.queues) : (s.withBuf w k).queues = s.queues := by
  unfold State.withBuf
  split
  · rfl
  · simp [h]
@[simp] theorem State.arriveHere_queues (s : State) (p : Fin 32) (k : Pkt) : (s.arriveHere p k).queues = s.queues := by
  simp [State.arriveHere, apply_ite State.queues, State.arrivePkt_queues]
@[simp] theorem State.perstLow_queues (s : State) : s.perstLow.queues = s.queues := by
  simp [State.perstLow, State.when_queues]
@[simp] theorem State.senses_queues (s : State) : s.senses.2.queues = s.queues := rfl

@[simp] theorem foldl_upCluster_queues {α : Type} (c : State → α → Fin 64) (f : State → α → Cluster → Cluster) (l : List α) (s : State) :
    (l.foldl (fun s a => s.upCluster (c s a) (f s a)) s).queues = s.queues :=
  foldl_queues _ _ _ fun _ _ => rfl

/-! ### Cluster clocks and module time -/

@[simp] theorem execDelayResp_keepsQueues (p : Fin 32) (tRxReq tTxResp : DWord) (seqD : Half) (tRx : DWord) (s : State) :
    KeepsQueues s (execDelayResp p tRxReq tTxResp seqD tRx s) := by
  unfold execDelayResp
  split <;> simp
@[simp] theorem execUnlockTimeout_keepsQueues (s : State) : KeepsQueues s (execUnlockTimeout s) := by
  unfold execUnlockTimeout
  split <;> simp

/-! ### Vector, table and index operations -/

@[simp] theorem execVectorTile_keepsQueues (c : Fin 1024) (s : State) : KeepsQueues s (execVectorTile c s) := by
  unfold execVectorTile
  split <;> simp [State.laneStep_queues]
@[simp] theorem execTableTile_keepsQueues (c : Fin 1024) (s : State) : KeepsQueues s (execTableTile c s) := by
  unfold execTableTile
  split <;> simp [State.laneStep_queues]
@[simp] theorem execIndexMaskTile_keepsQueues (c : Fin 1024) (s : State) : KeepsQueues s (execIndexMaskTile c s) := by
  unfold execIndexMaskTile
  split <;> simp [State.laneStep_queues, apply_ite State.queues]
@[simp] theorem execCompressRows_keepsQueues (c : Fin 1024) (s : State) : KeepsQueues s (execCompressRows c s) := by
  unfold execCompressRows
  split <;> simp
@[simp] theorem execExpandRows_keepsQueues (c : Fin 1024) (s : State) : KeepsQueues s (execExpandRows c s) := by
  unfold execExpandRows
  split <;> simp

/-! ### Finished-tile queues -/

@[simp] theorem execFtqDeliver_keepsQueues (c : Fin 1024) (k : Fin 4) (s : State) : KeepsQueues s (execFtqDeliver c k s) := by
  unfold execFtqDeliver
  split <;> simp
@[simp] theorem execRingTileArrived_keepsQueues (c : Fin 1024) (k : Fin 4) (s : State) : KeepsQueues s (execRingTileArrived c k s) := by
  unfold execRingTileArrived
  dsimp only
  repeat' split
  all_goals simp
@[simp] theorem execRingSlotRelease_keepsQueues (c : Fin 1024) (base : BitVec 15) (s : State) : KeepsQueues s (execRingSlotRelease c base s) := by
  unfold execRingSlotRelease
  split <;> simp
@[simp] theorem execCreditReturnArrival_keepsQueues (c : Fin 1024) (k : Fin 4) (s : State) : KeepsQueues s (execCreditReturnArrival c k s) := by
  unfold execCreditReturnArrival
  dsimp only
  repeat' split
  all_goals simp [State.when_queues]
@[simp] theorem execNestResume_keepsQueues (c : Fin 1024) (s : State) : KeepsQueues s (execNestResume c s) := by
  unfold execNestResume
  dsimp only
  repeat' split
  all_goals simp

/-! ### Ports and links -/

@[simp] theorem execLinkAck_keepsQueues (p : Fin 32) (s : State) : KeepsQueues s (execLinkAck p s) := by
  unfold execLinkAck
  split <;> simp [State.when_queues]
@[simp] theorem execEgressSend_keepsQueues (p : Fin 32) (s : State) : KeepsQueues s (execEgressSend p s) := by
  unfold execEgressSend
  dsimp only
  repeat' split
  all_goals simp
@[simp] theorem execResp_keepsQueues (p : Fin 32) (k : Pkt) (s : State) : KeepsQueues s (execResp p k s) := by
  unfold execResp
  rw [keepsQueues_ite, keepsQueues_next, keepsQueues_next, State.arrivePkt_queues]
  · simp
  · intro s
    split <;> simp
@[simp] theorem execRequestRetry_keepsQueues (dst : BitVec 17) (seq : Word) (s : State) : KeepsQueues s (execRequestRetry dst seq s) := by
  unfold execRequestRetry
  split <;> simp
@[simp] theorem execRequestTimeout_keepsQueues (dst : BitVec 17) (seq : Word) (s : State) : KeepsQueues s (execRequestTimeout dst seq s) := by
  unfold execRequestTimeout
  split <;> simp

/-! ### Matrix nests -/

@[simp] theorem execMatrixTileProduct_keepsQueues (c : Fin 1024) (s : State) : KeepsQueues s (execMatrixTileProduct c s) := by
  unfold execMatrixTileProduct
  split <;> simp [State.when_queues]
@[simp] theorem execPartialLoad_keepsQueues (c : Fin 1024) (s : State) : KeepsQueues s (execPartialLoad c s) := by
  unfold execPartialLoad
  split <;> simp
@[simp] theorem execNestEnd_keepsQueues (c : Fin 1024) (s : State) : KeepsQueues s (execNestEnd c s) := by
  unfold execNestEnd
  dsimp only
  repeat' split
  all_goals simp [State.when_queues]
@[simp] theorem execCellStoreUe_keepsQueues (c : Fin 1024) (s : State) : KeepsQueues s (execCellStoreUe c s) := by
  unfold execCellStoreUe
  split <;> simp

/-! ### Region programs and frames -/

@[simp] theorem execProgEnd_keepsQueues (c : Fin 1024) (s : State) : KeepsQueues s (execProgEnd c s) := by
  unfold execProgEnd
  rw [keepsQueues_next, State.onInstr_queues]
  simp
@[simp] theorem execFrameLoadDone_keepsQueues (c : Fin 1024) (ue : Bool) (s : State) : KeepsQueues s (execFrameLoadDone c ue s) := by
  unfold execFrameLoadDone
  split <;> simp

/-! ### Placement and moves -/

@[simp] theorem execPlacementRebind_keepsQueues (s : State) : KeepsQueues s (execPlacementRebind s) := by
  unfold execPlacementRebind
  dsimp only
  repeat' split
  all_goals simp [State.when_queues]
@[simp] theorem execMoveAllocate_keepsQueues (obj : Word) (cause : MoveCause) (s : State) : KeepsQueues s (execMoveAllocate obj cause s) := by
  unfold execMoveAllocate
  dsimp only
  repeat' split
  all_goals simp [foldl_queues]
@[simp] theorem execMoveCopyDone_keepsQueues (obj : Word) (unreadable : List Nat) (newHomeUe : Bool) (s : State) :
    KeepsQueues s (execMoveCopyDone obj unreadable newHomeUe s) := by
  unfold execMoveCopyDone
  repeat' split
  all_goals simp [State.when_queues]
@[simp] theorem execFlipNotice_keepsQueues (unit : SenderUnit) (obj : Word) (s : State) : KeepsQueues s (execFlipNotice unit obj s) := by
  unfold execFlipNotice
  split <;> simp
@[simp] theorem execStubArrival_keepsQueues (obj : Word) (gen : Half) (a : Arrival) (s : State) : KeepsQueues s (execStubArrival obj gen a s) := by
  unfold execStubArrival
  split <;> simp
@[simp] theorem execForwardAck_keepsQueues (obj : Word) (s : State) : KeepsQueues s (execForwardAck obj s) := by
  unfold execForwardAck
  repeat' split
  all_goals simp
@[simp] theorem execDrainedMsg_keepsQueues (unit : SenderUnit) (obj : Word) (s : State) : KeepsQueues s (execDrainedMsg unit obj s) := by
  unfold execDrainedMsg
  split <;> simp
@[simp] theorem execRetireConfirm_keepsQueues (obj : Word) (s : State) : KeepsQueues s (execRetireConfirm obj s) := by
  unfold execRetireConfirm
  split <;> simp

/-! ### Tile mover and memory tiers -/

@[simp] theorem execPrefetchEntryBegin_keepsQueues (s : State) : KeepsQueues s (execPrefetchEntryBegin s) := by
  unfold execPrefetchEntryBegin
  repeat' split
  all_goals simp
@[simp] theorem execPrefetchRecordWrite_keepsQueues (entry : Word) (ue : Bool) (s : State) : KeepsQueues s (execPrefetchRecordWrite entry ue s) := by
  unfold execPrefetchRecordWrite
  dsimp only
  repeat' split
  all_goals simp
@[simp] theorem execWriteBackRead_keepsQueues (entry : Word) (s : State) : KeepsQueues s (execWriteBackRead entry s) := by
  unfold execWriteBackRead
  repeat' split
  all_goals simp [State.withBuf_queues]
@[simp] theorem execStagingBufferUe_keepsQueues (b : Fin 128) (s : State) : KeepsQueues s (execStagingBufferUe b s) := by
  unfold execStagingBufferUe
  split <;> simp
@[simp] theorem execTierWipeDone_keepsQueues (w : WipeTier) (s : State) : KeepsQueues s (execTierWipeDone w s) := by
  unfold execTierWipeDone
  repeat' split
  all_goals simp
@[simp] theorem execRetentionWrite_keepsQueues (s : State) : KeepsQueues s (execRetentionWrite s) := by
  unfold execRetentionWrite
  split
  · simp
  · rw [keepsQueues_ite, keepsQueues_next, keepsQueues_next, State.withBuf_queues] <;> simp

/-! ### Transforms and outliers -/

@[simp] theorem execTransformTile_keepsQueues (c : Fin 1024) (s : State) : KeepsQueues s (execTransformTile c s) := by
  unfold execTransformTile
  split <;> simp [State.laneStep_queues, apply_ite State.queues]
@[simp] theorem execOutlierMacTile_keepsQueues (c : Fin 1024) (s : State) : KeepsQueues s (execOutlierMacTile c s) := by
  unfold execOutlierMacTile
  split <;> simp [State.laneStep_queues]
@[simp] theorem execRingSlotDrained_keepsQueues (c : Fin 1024) (full : Bool) (s : State) : KeepsQueues s (execRingSlotDrained c full s) := by
  unfold execRingSlotDrained
  dsimp only
  repeat' split
  all_goals simp

/-! ### The update engine -/

@[simp] theorem execUpdatePassStart_keepsQueues (s : State) : KeepsQueues s (execUpdatePassStart s) := by
  unfold execUpdatePassStart
  split <;> simp
@[simp] theorem execMedlarUnit_keepsQueues (k : Fin 12) (s : State) : KeepsQueues s (execMedlarUnit k s) := by
  unfold execMedlarUnit
  split <;> simp
@[simp] theorem execRowWindowBlock_keepsQueues (obj : Word) (s : State) : KeepsQueues s (execRowWindowBlock obj s) := by
  unfold execRowWindowBlock
  repeat' split
  all_goals simp [State.withBuf_queues, apply_ite State.queues]
@[simp] theorem execOutboxHandoff_keepsQueues (obj : Word) (s : State) : KeepsQueues s (execOutboxHandoff obj s) := by
  unfold execOutboxHandoff
  repeat' split
  all_goals simp

/-! ### Requests at their target -/

@[simp] theorem execMcastStore_keepsQueues (p : Fin 32) (k : Pkt) (s : State) : KeepsQueues s (execMcastStore p k s) := by
  unfold execMcastStore
  dsimp only
  repeat' split
  all_goals simp [State.arrivePkt_queues]
@[simp] theorem execLineUpdate_keepsQueues (line : BitVec 41) (s : State) : KeepsQueues s (execLineUpdate line s) := by
  unfold execLineUpdate
  split <;> simp

/-! ### Steps, contributions and the integrity record -/

@[simp] theorem execIntegrity_keepsQueues (p : Fin 32) (k : Pkt) (s : State) : KeepsQueues s (execIntegrity p k s) := by
  unfold execIntegrity
  rw [keepsQueues_ite, keepsQueues_next, keepsQueues_next, State.arrivePkt_queues]
  · simp
  · intro s
    dsimp only
    repeat' split
    all_goals simp

/-! ### Envelope and power -/

@[simp] theorem execEnvelope_keepsQueues (p : Fin 32) (k : Pkt) (s : State) : KeepsQueues s (execEnvelope p k s) := by
  have h : ∀ s : State, ((s.envelopeMsg k.payload).getD (s.countDiscard p)).queues = s.queues := by
    intro s
    cases e : s.envelopeMsg k.payload with
    | none => simp
    | some t => simp [State.envelopeMsg_queues _ _ _ e]
  simp [execEnvelope, State.arrivePkt_queues, apply_ite State.queues, h]
@[simp] theorem execEnvelopeEffective_keepsQueues (s : State) : KeepsQueues s (execEnvelopeEffective s) := by
  unfold execEnvelopeEffective
  split <;> simp
@[simp] theorem execCredit_keepsQueues (p : Fin 32) (k : Pkt) (s : State) : KeepsQueues s (execCredit p k s) := by
  unfold execCredit
  rw [keepsQueues_ite, keepsQueues_next, keepsQueues_next, State.arrivePkt_queues]
  · simp
  · intro s
    dsimp only
    repeat' split
    all_goals simp
@[simp] theorem execDieCapStep_keepsQueues (d : Fin 4) (s : State) : KeepsQueues s (execDieCapStep d s) := by
  unfold execDieCapStep
  dsimp only
  repeat' split
  all_goals simp
@[simp] theorem execRailOvercurrent_keepsQueues (d : Fin 4) (s : State) : KeepsQueues s (execRailOvercurrent d s) := by
  unfold execRailOvercurrent
  split <;> simp
@[simp] theorem execFreqStepStage_keepsQueues (c : Fin 64) (s : State) : KeepsQueues s (execFreqStepStage c s) := by
  unfold execFreqStepStage
  dsimp only
  split <;> simp
@[simp] theorem execThermalCeilingStep_keepsQueues (s : State) : KeepsQueues s (execThermalCeilingStep s) := by
  unfold execThermalCeilingStep
  split <;> simp
@[simp] theorem execThermalHard_keepsQueues (x : Sensor) (temp : Nat) (s : State) : KeepsQueues s (execThermalHard x temp s) := by
  unfold execThermalHard
  split <;> simp

/-! ### Securing and restore -/

@[simp] theorem execStagingGrant_keepsQueues (s : State) : KeepsQueues s (execStagingGrant s) := by
  unfold execStagingGrant
  dsimp only
  repeat' split
  all_goals simp
@[simp] theorem execPartnerTransferDone_keepsQueues (s : State) : KeepsQueues s (execPartnerTransferDone s) := by
  unfold execPartnerTransferDone
  split <;> simp
@[simp] theorem execFlashTransferDone_keepsQueues (s : State) : KeepsQueues s (execFlashTransferDone s) := by
  unfold execFlashTransferDone
  split <;> simp
@[simp] theorem execEmbeddingBaseDone_keepsQueues (obj : Word) (s : State) : KeepsQueues s (execEmbeddingBaseDone obj s) := by
  unfold execEmbeddingBaseDone
  split <;> simp [State.withBuf_queues]
@[simp] theorem execRestoreReadDone_keepsQueues (sourceOk : Bool) (image : Restored) (s : State) : KeepsQueues s (execRestoreReadDone sourceOk image s) := by
  unfold execRestoreReadDone
  rw [keepsQueues_ite, keepsQueues_next, keepsQueues_next, State.withBuf_queues]
  · simp
  · intro b s
    dsimp only
    repeat' split
    all_goals simp
@[simp] theorem execHandoverImageDone_keepsQueues (member : BitVec 17) (s : State) : KeepsQueues s (execHandoverImageDone member s) := by
  unfold execHandoverImageDone
  dsimp only
  repeat' split
  all_goals simp

/-! ### The host link and the rings -/

@[simp] theorem execPerstDeassert_keepsQueues (gen : Option (BitVec 4)) (width : BitVec 5) (s : State) : KeepsQueues s (execPerstDeassert gen width s) := by
  cases gen <;> simp [execPerstDeassert, State.when_queues]
@[simp] theorem execDescriptorFetch_keepsQueues (r : Fin 64) (desc : Option Fetched) (s : State) : KeepsQueues s (execDescriptorFetch r desc s) := by
  unfold execDescriptorFetch
  dsimp only
  repeat' split
  all_goals simp
@[simp] theorem execFabricTables_keepsQueues (r : Fin 64) (route sets : Option Bytes) (s : State) : KeepsQueues s (execFabricTables r route sets s) := by
  unfold execFabricTables
  split <;> simp [State.beginDesc_queues]
@[simp] theorem execFmMsg_keepsQueues (r : Fin 64) (payload : Option Bytes) (s : State) : KeepsQueues s (execFmMsg r payload s) := by
  unfold execFmMsg
  rw [keepsQueues_next, State.beginDesc_queues]
  intro d s
  split
  · simp
  · split
    · next e => simp [State.hostMsg_queues _ _ _ e]
    · simp

/-! ### Requests to Quince -/

@[simp] theorem execFirmwareCommit_keepsQueues (a : Asker) (package : Option Bytes) (s : State) : KeepsQueues s (execFirmwareCommit a package s) := by
  unfold execFirmwareCommit
  split <;> simp [State.askFrom_queues]

/-! ### Quince, supply and starts -/

@[simp] theorem execApprovalTimeout_keepsQueues (s : State) : KeepsQueues s (execApprovalTimeout s) := by
  unfold execApprovalTimeout
  split <;> simp
@[simp] theorem execFaultLog_keepsQueues (index : Fin 64) (s : State) : KeepsQueues s (execFaultLog index s) := by
  unfold execFaultLog
  rw [keepsQueues_next, State.askBoard_queues]
  intro s
  split <;> simp [State.when_queues]
@[simp] theorem execStartBegin_keepsQueues (o : StartObs) (s : State) : KeepsQueues s (execStartBegin o s) := by
  unfold execStartBegin
  dsimp only
  repeat' split
  all_goals simp
@[simp] theorem execStartTimeout_keepsQueues (s : State) : KeepsQueues s (execStartTimeout s) := by
  unfold execStartTimeout
  split <;> simp

/-! ### Descriptors of a job -/

@[simp] theorem execStepDesc_keepsQueues (r : Fin 64) (input : Option Bytes) (s : State) : KeepsQueues s (execStepDesc r input s) := by
  unfold execStepDesc
  split <;> simp [State.beginJob_queues, apply_ite State.queues]
@[simp] theorem execStepSize_keepsQueues (r : Fin 64) (rec : Option Bytes) (s : State) : KeepsQueues s (execStepSize r rec s) := by
  unfold execStepSize
  split <;> simp [State.beginJob_queues, apply_ite State.queues]
@[simp] theorem execExportData_keepsQueues (r : Fin 64) (s : State) : KeepsQueues s (execExportData r s) := by
  unfold execExportData
  rw [keepsQueues_ite, keepsQueues_next, keepsQueues_next, State.beginDesc_queues]
  · simp
  · intro d s
    repeat' split
    all_goals simp
@[simp] theorem execFabricOp_keepsQueues (r : Fin 64) (data : Option Bytes) (s : State) : KeepsQueues s (execFabricOp r data s) := by
  unfold execFabricOp
  rw [keepsQueues_next, State.beginJob_queues]
  intro d s
  dsimp only
  repeat' split
  all_goals simp

/-! ### Reduction -/

@[simp] theorem execReduceInputTile_keepsQueues (c : Fin 1024) (s : State) : KeepsQueues s (execReduceInputTile c s) := by
  unfold execReduceInputTile
  split <;> simp [State.laneStep_queues, State.when_queues, apply_ite State.queues]

/-! ### Operations that change a queue -/

theorem State.QueuesOk.of_queues {s t : State} (h : s.QueuesOk) (e : t.queues = s.queues) : t.QueuesOk := by
  intro i
  rw [e]
  exact h i

theorem State.QueuesOk.write {s : State} (h : s.QueuesOk) (q : Fin 7680) (w : QWord) : (s.upQueue q (·.write w)).QueuesOk :=
  s.upQueue_ok q _ h (HsQueue.write_ok _ _ (h q))

/-- Queues that stand as after reset are within their entries. -/
theorem State.queuesOk_of_reset {t : State} (e : t.queues = Vector.replicate 7680 .reset) : t.QueuesOk := by
  intro i
  simpa [e] using HsQueue.reset_ok

theorem foldl_ok {α : Type} (f : State → α → State) (l : List α) (s : State) (h : s.QueuesOk) (hf : ∀ s a, s.QueuesOk → (f s a).QueuesOk) :
    (l.foldl f s).QueuesOk := by
  induction l generalizing s with
  | nil => exact h
  | cons a l ih => exact ih _ (hf s a h)

/-- The queues of a region's crossing are emptied, and what was in them has been taken before. -/
theorem State.flushCross_ok (s : State) (i : Nat) (h : s.QueuesOk) : (s.flushCross i).QueuesOk :=
  foldl_ok _ _ _ (h.of_queues (foldl_queues _ _ _ fun s w => s.takeWord_queues i w)) State.emptyQueue_ok

theorem State.moveRegion_ok (s : State) (i : Nat) (cl : Fin 64) (sym : Nat) (h : s.QueuesOk) : (s.moveRegion i cl sym).QueuesOk := by
  have flushed : ((s.crossingsOf i).foldl State.flushCross s).QueuesOk := foldl_ok _ _ _ h State.flushCross_ok
  refine flushed.of_queues ?_
  unfold State.moveRegion
  dsimp only
  generalize (s.crossingsOf i).foldl State.flushCross s = u
  rw [State.refreq_queues, State.clockBound_queues, foldl_queues _ _ _ State.askFrames_queues, State.askFrames_queues, State.renameAll_queues,
    foldl_queues, foldl_queues, foldl_queues _ _ _ State.attachOne_queues]
  · rfl
  · exact fun _ _ => rfl
  · intro s a
    split <;> rfl

theorem State.moveIfAsked_ok (s : State) (i : Nat) (h : s.QueuesOk) : (s.moveIfAsked i).QueuesOk := by
  unfold State.moveIfAsked
  repeat' split
  · exact h
  · exact s.moveRegion_ok _ _ _ h
  · exact h

theorem State.popToken_ok (s t : State) (i : Nat) (e : s.popToken i = some t) (h : s.QueuesOk) : t.QueuesOk := by
  unfold State.popToken at e
  repeat' split at e
  · cases e; exact h
  · cases e
  · cases e; exact s.consume_ok _ h
  · cases e

theorem State.takeToken_ok (s : State) (c : Fin 1024) (queue : BitVec 6) (h : s.QueuesOk) : (s.takeToken c queue).QueuesOk := by
  unfold State.takeToken
  split
  · exact h
  · next e =>
    obtain ⟨i, -, e⟩ := Option.bind_eq_some_iff.mp e
    exact (State.popToken_ok _ _ _ e h).of_queues (by simp)

theorem State.onInstr_ok (s : State) (c : Fin 1024) (op : Nat) (k : Nat → Nat → Nat → PInstr → State) (h : s.QueuesOk)
    (hk : ∀ i l j p, (k i l j p).QueuesOk) : (s.onInstr c op k).QueuesOk := by
  unfold State.onInstr
  repeat' split
  · exact h
  · exact hk _ _ _ _
  · exact h

theorem State.beginDesc_ok (s : State) (r : Fin 64) (op : Nat) (k : Desc → State → State) (h : s.QueuesOk)
    (hk : ∀ d t, t.QueuesOk → (k d t).QueuesOk) : (s.beginDesc r op k).QueuesOk := by
  unfold State.beginDesc
  dsimp only
  repeat' split
  · exact h
  · exact h
  · exact h.of_queues (by simp)
  · exact hk _ _ (h.of_queues (by simp))

theorem State.askFrom_ok (s : State) (a : Asker) (op : Nat) (p : Desc → Bool) (f : State → State) (h : s.QueuesOk)
    (hf : ∀ t, t.QueuesOk → (f t).QueuesOk) : (s.askFrom a op p f).QueuesOk := by
  unfold State.askFrom
  repeat' split
  · exact s.beginDesc_ok _ _ _ h fun _ => hf
  · exact h
  · exact h
  · exact h
  · exact h.of_queues (by simp)
  · exact hf s h
  · exact h

@[simp] theorem State.standby_queues (s : State) : s.standby.queues = Vector.replicate 7680 .reset := by simp [State.standby]

/-- A start empties every queue (R508). -/
@[simp] theorem State.beginStart_queues (s : State) (fromReset carryPair : Bool) (st : StartS) :
    (s.beginStart fromReset carryPair st).queues = Vector.replicate 7680 .reset := rfl
theorem State.beginStart_ok (s : State) (fromReset carryPair : Bool) (st : StartS) : (s.beginStart fromReset carryPair st).QueuesOk :=
  State.queuesOk_of_reset rfl
theorem State.powerStart_ok (s : State) (cold : Bool) : (s.powerStart cold).QueuesOk := State.beginStart_ok _ _ _ _
theorem State.askedStart_ok (s : State) (warm carryPair : Bool) : (s.askedStart warm carryPair).QueuesOk :=
  State.beginStart_ok _ _ _ _

/-- A new image empties every queue. -/
theorem State.install_ok (s : State) (im : Image) (r : DWord) (t : State) (e : s.install im r = .ok t) : t.QueuesOk := by
  unfold State.install at e
  dsimp only at e
  repeat' split at e
  · cases e
  · cases e
  · cases e
    exact State.queuesOk_of_reset (by simp)

theorem State.setupMember_ok (s : State) (b : Bytes) (p : JobParams) (h : s.QueuesOk) : (s.setupMember b p).QueuesOk := by
  unfold State.setupMember
  dsimp only
  split
  · exact h.of_queues (by simp)
  split
  · exact h.of_queues (by simp)
  · exact h.of_queues (by simp)
  · next e _ =>
    have formed := State.install_ok _ _ _ _ e
    split <;> exact formed.of_queues (by simp)

/-! ### Commands that change a queue -/

/-- The outcome of a command on s is a next state, whose queues are within their entries where those of s are. -/
def StaysOk (s : State) : Res → Prop
  | .next t => s.QueuesOk → t.QueuesOk
  | _ => False

theorem KeepsQueues.staysOk {s : State} {o : Res} (h : KeepsQueues s o) : StaysOk s o := by
  cases o with
  | next t => exact fun hs => hs.of_queues h
  | fault => exact h
  | refused => exact h

theorem execQueueWrite_staysOk (q : Fin 7680) (w : BitVec 512) (s : State) : StaysOk s (execQueueWrite q w s) := by
  unfold execQueueWrite
  repeat' split
  · exact fun h => h.write q _
  · exact fun h => (h.write q _).of_queues (State.upTile_queues ..)
  · exact id
  · exact id
  · exact fun h => (h.write q _).of_queues (State.upJoin_queues ..)
  · exact id

theorem execQueueRead_staysOk (q : Fin 7680) (s : State) : StaysOk s (execQueueRead q s) := by
  unfold execQueueRead
  repeat' split
  · exact id
  · exact fun h => (s.consume_ok q h).write _ _
  · exact id
  · exact s.consume_ok q
  · exact id
  · exact fun h => State.consume_ok _ q (h.of_queues (by simp))

theorem execJoinChannelTakeup_staysOk (ch : Fin 1792) (s : State) : StaysOk s (execJoinChannelTakeup ch s) := by
  unfold execJoinChannelTakeup
  repeat' split
  · exact id
  · exact fun h => (s.upQueue_ok (txQueue ch) _ h (HsQueue.read_ok _ (h _))).of_queues rfl
  · exact id

theorem execProgSignal_staysOk (c : Fin 1024) (s : State) : StaysOk s (execProgSignal c s) := by
  refine fun h => s.onInstr_ok c _ _ h fun i l _ p => ?_
  dsimp only [State.fresh]
  repeat' split
  · exact h
  · exact (State.QueuesOk.write (s := { s with free := s.free + 1 }) h _ _).of_queues (State.issued_queues ..)
  · exact h

theorem execAwaitTokenReady_staysOk (c : Fin 1024) (s : State) : StaysOk s (execAwaitTokenReady c s) := by
  unfold execAwaitTokenReady
  split
  · exact id
  · exact s.takeToken_ok c _

theorem execRegionRunComplete_staysOk (r : Fin 4096) (s : State) : StaysOk s (execRegionRunComplete r s) := by
  unfold execRegionRunComplete
  split
  · exact fun h => (State.moveIfAsked_ok _ r.val (h.of_queues (State.upRegion_queues ..))).of_queues (State.noteStep_queues _)
  · exact id

theorem execFrameFaultReload_staysOk (c : Fin 1024) (s : State) : StaysOk s (execFrameFaultReload c s) := by
  unfold execFrameFaultReload
  dsimp only
  split
  · exact id
  split
  · exact id
  split
  · refine fun h => h.of_queues (s.withBuf_queues _ _ fun b t => ?_)
    split <;> simp
  repeat' split
  · exact id
  · exact id
  · exact fun h => State.moveRegion_ok _ _ _ _ h
  · intro h
    refine State.QueuesOk.of_queues ?_ (State.retry_queues _ _)
    exact State.moveRegion_ok _ _ _ _ h

theorem execThermalTrip_staysOk (x : Sensor) (temp : Nat) (s : State) : StaysOk s (execThermalTrip x temp s) := by
  unfold execThermalTrip
  dsimp only
  split
  · exact fun _ => State.queuesOk_of_reset (by simp)
  · exact fun h => h.of_queues (by simp)

theorem execStandbyEntryDone_staysOk (s : State) : StaysOk s (execStandbyEntryDone s) := by
  unfold execStandbyEntryDone
  split
  · exact fun _ => State.queuesOk_of_reset (by simp)
  · exact id

theorem execJobSetup_staysOk (r : Fin 64) (block : Option Bytes) (s : State) : StaysOk s (execJobSetup r block s) := by
  refine fun h => s.beginDesc_ok r _ _ h fun d t ht => ?_
  dsimp only
  split
  · exact ht.of_queues (by simp)
  split
  · exact ht.of_queues (by simp)
  split
  · exact ht.of_queues (by simp)
  split
  · exact ht.of_queues (by simp)
  · exact ht.of_queues (by simp)
  · exact ht.of_queues (by simp)
  split
  · exact ht.of_queues (by simp)
  · exact State.setupMember_ok _ _ _ (ht.of_queues rfl)

/-! ### Commands that may begin a start, and those of the host -/

theorem State.askStart_staysOk (s : State) (a : Asker) (warm : Bool) : StaysOk s (.next (s.askStart a warm)) := by
  refine fun h => s.askFrom_ok a _ _ _ h fun t ht => ?_
  split
  · exact ht.of_queues (by simp)
  · exact State.queuesOk_of_reset (by simp [State.askedStart])

theorem execEnrol_staysOk (hostHash boardHash : BitVec 384) (s : State) : StaysOk s (execEnrol hostHash boardHash s) := by
  refine fun h => s.askFrom_ok .mctp _ _ _ h fun t ht => ?_
  split
  · exact State.askedStart_ok _ _ _
  · exact ht.of_queues (by simp)

theorem execWatchdogExpiry_staysOk (s : State) : StaysOk s (execWatchdogExpiry s) := by
  unfold execWatchdogExpiry
  dsimp only
  repeat' split
  · exact fun h => h.of_queues (by simp [State.when_queues])
  · exact fun _ => State.askedStart_ok _ _ _
  · exact fun h => h.of_queues (by simp [State.when_queues])
  · exact id

theorem execLongOpDone_staysOk (s : State) : StaysOk s (execLongOpDone s) := by
  unfold execLongOpDone
  split
  · exact id
  · next op a _ =>
    cases op with
    | rkt => exact fun h => h.of_queues (by simp)
    | lifecycle => exact fun _ => State.askedStart_ok _ _ _
    | sanitise => exact fun _ => State.askedStart_ok _ _ _
    | format => exact fun h => h.of_queues (by simp)
    | firmware => exact fun h => h.of_queues (by simp [apply_ite State.queues])

theorem execVauxApplied_staysOk (s : State) : StaysOk s (execVauxApplied s) := by
  unfold execVauxApplied
  dsimp only
  split
  · exact fun _ => State.powerStart_ok _ _
  · exact fun h => h.of_queues rfl

theorem execModRstRelease_staysOk (s : State) : StaysOk s (execModRstRelease s) := by
  unfold execModRstRelease
  dsimp only
  repeat' split
  · exact id
  · exact fun _ => State.powerStart_ok _ _
  · exact fun h => h.of_queues rfl

theorem execStartRetry_staysOk (s : State) : StaysOk s (execStartRetry s) := by
  unfold execStartRetry
  split
  · exact fun _ => State.beginStart_ok _ _ _ _
  · exact id

@[simp] theorem State.readWord_queues (s : State) (off : Nat) : (s.readWord off).2.queues = s.queues := by
  unfold State.readWord
  repeat' split
  all_goals rfl

@[simp] theorem execLoRegisterRead_keepsQueues (x : BarRead) (s : State) : KeepsQueues s (execLoRegisterRead x s) := by
  unfold execLoRegisterRead
  split
  · rfl
  split
  · rfl
  · by_cases h : x.size = 8#4 <;> simp [h]

@[simp] theorem execRegisterWrite_keepsQueues (bar2 : Bool) (offset : BitVec 24) (size : BitVec 4) (be : Byte) (data : DWord) (s : State) :
    KeepsQueues s (execRegisterWrite bar2 offset size be data s) := by
  unfold execRegisterWrite
  dsimp only
  repeat' split
  all_goals simp

/-! ### Every command -/

/-- Every command answers a next state, with its queues within their entries; a memory error has to be at a location that some memory has. The
commands that change a queue or may begin a start are named first; those named together have a meaning that is one expression in operations that
keep the queues; each other one keeps them in every branch of its meaning. -/
theorem exec_staysOk (c : Instr) (s : State) (hscrub : ∀ l b, c = .patrolScrub l b → locValid l = true)
    (hcorr : ∀ l, c = .correctedError l → locValid l = true) (hue : ∀ l f, c = .memoryUe l f → locValid l = true) : StaysOk s (exec c s) := by
  cases c with
  | queueWrite q w => exact execQueueWrite_staysOk q w s
  | queueWordVisible q => exact fun h => s.upQueue_ok q _ h (HsQueue.show_ok _ (h q))
  | queueRead q => exact execQueueRead_staysOk q s
  | queueEntryReturn q => exact fun h => s.upQueue_ok q _ h (HsQueue.giveBack_ok _ (h q))
  | joinChannelTakeup ch => exact execJoinChannelTakeup_staysOk ch s
  | progSignal c => exact execProgSignal_staysOk c s
  | progAwait c => exact fun h => s.onInstr_ok c _ _ h fun _ _ _ _ => s.takeToken_ok c _ h
  | awaitTokenReady c => exact execAwaitTokenReady_staysOk c s
  | progRebind c => exact fun h => s.onInstr_ok c _ _ h fun i _ _ _ => State.moveIfAsked_ok _ i (h.of_queues (State.issued_queues ..))
  | regionRunComplete r => exact execRegionRunComplete_staysOk r s
  | frameFaultReload c => exact execFrameFaultReload_staysOk c s
  | thermalTrip x temp => exact execThermalTrip_staysOk x temp s
  | standbyEntryDone => exact execStandbyEntryDone_staysOk s
  | jobSetup r block => exact execJobSetup_staysOk r block s
  | watchdogExpiry => exact execWatchdogExpiry_staysOk s
  | warmRestart a => exact s.askStart_staysOk a true
  | coldRestart a => exact s.askStart_staysOk a false
  | longOpDone => exact execLongOpDone_staysOk s
  | enrol h b => exact execEnrol_staysOk h b s
  | vauxApplied => exact execVauxApplied_staysOk s
  | modRstRelease => exact execModRstRelease_staysOk s
  | startRetry => exact execStartRetry_staysOk s
  | patrolScrub l corrected => exact KeepsQueues.staysOk (by simp [exec, execPatrolScrub, hscrub l corrected rfl])
  | correctedError l => exact KeepsQueues.staysOk (by simp [exec, execCorrectedError, hcorr l rfl])
  | memoryUe l feeds => exact KeepsQueues.staysOk (by simp [exec, execMemoryUe, hue l feeds rfl])
  | sqTail r v => exact KeepsQueues.staysOk (s.doorbell_queues r 0 v _)
  | cqHead r v => exact KeepsQueues.staysOk (s.doorbell_queues r 4 v _)
  | ringEnable r => exact KeepsQueues.staysOk (s.hostWriteAt_queues _ _ _ fun t => by simp)
  | ringDisable r => exact KeepsQueues.staysOk (s.hostWriteAt_queues _ _ _ fun t => by simp)
  | setupLock v => exact KeepsQueues.staysOk (by simp [exec, execSetupLock, apply_ite State.queues])
  | portCfg v => exact KeepsQueues.staysOk (by simp [exec, execPortCfg])
  | droopStretch _ _ | droopResponseEnd _ | beacon _ | referenceLoss | holdoverExit | time _ _ _ | timeMsgSend | delayReqSend | delayReq _ _ _ _ _
  | upstreamLost | intervalCounterFault | timePulse _ | portUp _ _ | portBringupRetry _ | portRetrain _ | retrainTimeout _ | idleBlock _ _
  | linkReplay _ | partnerLost _ _ | departBlocksReceived _ | classCreditReturn _ _ _ | packetForward _ _ | msg _ _ | tileDrainDone _
  | recordBlockOutput _ | joinCreditReturn _ | regionRunStart _ | progLoad _ | progSwitch _ | switchDone _ | progArgs _ | progStart _ | progLoop _
  | progMark _ | stagingBufferReturn _ | outboxRelease _ | load _ _ | store _ _ | atomic _ _ | reduce _ _ | contributionSend _ _
  | tileCloseTimer _ _ _ | stage4Begin | sumsqDone | integritySend | stage5End | shedReply _ _ _ | teardown _ _ | envStepChange _ | fmodEval _
  | creditRoundStart _ _ | creditRoundVoid | creditResultTimeout | vrbFrame _ | currantEval _ | monitorRingMeasure _ | clusterCapRelease _
  | thermalSoft _ _ _ | thermalHardRelease _ _ | enterParked _ | parkDone | returnActive _ | unparkDone | enterStandby _ | standbyExitDone
  | functionLevelReset | msixModTimer _ | nop _ | lifecycleChange _ _ | sanitise _ | flashFormat _ | stageRkt _ | activateRkt | approve _ _
  | cancelApproval | status | pldmRequest | spdmRequest | vauxBrownout | modRstAssert | hold _ | release _ | hostLinkDown | hostLinkUp =>
    refine KeepsQueues.staysOk ?_
    simp [exec, execDroopStretch, execDroopResponseEnd, execBeacon, execReferenceLoss, execHoldoverExit, execTime, execTimeMsgSend, execDelayReqSend,
      execDelayReq, execUpstreamLost, execIntervalCounterFault, execTimePulse, execPortUp, execPortBringupRetry, execPortRetrain, execRetrainTimeout,
      execIdleBlock, execLinkReplay, execPartnerLost, execDepartBlocksReceived, execClassCreditReturn, execPacketForward, execMsg, execTileDrainDone,
      execRecordBlockOutput, execJoinCreditReturn, execRegionRunStart, execProgLoad, execProgSwitch, execSwitchDone, execProgArgs, execProgStart,
      execProgLoop, execProgMark, execStagingBufferReturn, execOutboxRelease, execLoad, execStore, execAtomic, execReduce, execContributionSend,
      execTileCloseTimer, execStage4Begin, execSumsqDone, execIntegritySend, execStage5End, execShedReply, execTeardown, execEnvStepChange,
      execFmodEval, execCreditRoundStart, execCreditRoundVoid, execCreditResultTimeout, execVrbFrame, execCurrantEval, execMonitorRingMeasure,
      execClusterCapRelease, execThermalSoft, execThermalHardRelease, execEnterParked, execParkDone, execReturnActive, execUnparkDone,
      execEnterStandby, execStandbyExitDone, execFunctionLevelReset, execMsixModTimer, execNop, execLifecycleChange, execSanitise, execFlashFormat,
      execStageRkt, execActivateRkt, execApprove, execCancelApproval, execStatus, execPldmRequest, execSpdmRequest, execVauxBrownout,
      execModRstAssert, execHold, execRelease, execHostLinkDown, execHostLinkUp, State.arrivePkt_queues, State.askBoard_queues, State.askFrom_queues,
      State.askPower_queues, State.beginDesc_queues, State.beginJob_queues, State.mailbox_queues, State.onInstr_queues, State.when_queues,
      apply_ite State.queues, foldl_queues]
  | _ => exact KeepsQueues.staysOk (by simp [exec])

/-- Settles O60: outside the memory errors every branch of every meaning is a next state, and a memory error stops only by name. -/
theorem everyCommandCompletes : Obligations.EveryCommandCompletes := by
  unfold Obligations.EveryCommandCompletes
  intro c s hscrub hcorr hue
  have h := exec_staysOk c s hscrub hcorr hue
  cases e : exec c s with
  | next t => exact ⟨t, rfl⟩
  | fault r => rw [e] at h; exact h.elim
  | refused r => rw [e] at h; exact h.elim

/-- A memory error at a location that no memory has is no next state. -/
theorem locValid_of_next {s t : State} {c : Instr} (e : exec c s = .next t) : (∀ l b, c = .patrolScrub l b → locValid l = true) ∧
    (∀ l, c = .correctedError l → locValid l = true) ∧ (∀ l f, c = .memoryUe l f → locValid l = true) := by
  refine ⟨?_, ?_, ?_⟩
  · rintro l b rfl
    by_contra hl
    rw [Bool.not_eq_true] at hl
    simp [exec, execPatrolScrub, hl] at e
  · rintro l rfl
    by_contra hl
    rw [Bool.not_eq_true] at hl
    simp [exec, execCorrectedError, hl] at e
  · rintro l f rfl
    by_contra hl
    rw [Bool.not_eq_true] at hl
    simp [exec, execMemoryUe, hl] at e

/-- Settles O4: a step is the front command, and what each command does to the queues is writes, reads, moves and resets of single queues, each of
which keeps them within their entries. -/
theorem everyStepKeepsQueuesWithinEightEntries : Obligations.EveryStepKeepsQueuesWithinEightEntries := by
  unfold Obligations.EveryStepKeepsQueuesWithinEightEntries
  intro s t hs e
  unfold step at e
  split at e
  · cases e
    exact hs
  · next c rest _ =>
    obtain ⟨hscrub, hcorr, hue⟩ := locValid_of_next e
    have h := exec_staysOk c { s with pending := rest } hscrub hcorr hue
    rw [e] at h
    exact h hs

end Sys2Proof.Machine
end

section
/-! PROOFS. Steps, the reset state and the staging floors (R63, R272). -/
namespace Sys2Proof.Machine

/-- Settles O1: a step is defined on the two shapes of the queue. -/
theorem stepRunsTheFrontCommand : Obligations.StepRunsTheFrontCommand := by
  unfold Obligations.StepRunsTheFrontCommand
  refine ⟨fun c rest s => rfl, fun s h => ?_⟩
  unfold step
  rw [h]
  rfl

/-- Settles O2: each field is read off the reset state. -/
theorem resetValuesOfTheFieldTables : Obligations.ResetValuesOfTheFieldTables := by
  unfold Obligations.ResetValuesOfTheFieldTables
  repeat' constructor

/-- Settles O3: after reset every queue is empty. -/
theorem resetQueuesWithinEightEntries : Obligations.ResetQueuesWithinEightEntries :=
  State.queuesOk_of_reset rfl

/-! ### The staging arbiter -/

/-- A class that holds fewer buffers than its floor may take one (R272). -/
theorem Mover.mayTake_of_below {m : Mover} {c : StageClass} (h : m.held c < m.floor c) : m.mayTake c = true := by
  simp [Mover.mayTake, h]

/-- While some class below its floor has a claim that a free buffer can serve, and may take one, the class that is served is below its floor. -/
theorem State.grantClass_below {s : State} {c c' : StageClass} (hg : s.grantClass = some c) (hn : (s.nextClaim c').isSome = true)
    (hp : s.moverPaused = false ∨ c' = .m) (hb : s.mover.held c' < s.mover.floor c') : s.mover.held c < s.mover.floor c := by
  have live : ((s.nextClaim c').isSome && (!s.moverPaused || decide (c' = .m)) && s.mover.mayTake c') = true := by
    simp [hn, hp, Mover.mayTake_of_below hb]
  unfold State.grantClass at hg
  dsimp only at hg
  split at hg
  case _ below =>
    cases hg
    have served := List.find?_some below
    simp only [Bool.and_eq_true, decide_eq_true_eq] at served
    exact served.2
  case _ below =>
    have none_below := List.find?_eq_none.mp below c' (by cases c' <;> decide)
    simp [live, hb] at none_below

/-- Settles O31: a class below its floor that can be served makes the arbiter choose among the classes below their floors. -/
theorem floorsAreServedFirst : Obligations.FloorsAreServedFirst := by
  unfold Obligations.FloorsAreServedFirst
  intro c c' s hg hfloor hn hp
  by_contra hb
  exact absurd (State.grantClass_below hg hn hp (by omega)) (by omega)

end Sys2Proof.Machine
end

section
/-! PROOFS. Completions (R480, R482): the descriptors that have ended are written one after another, and what is written stays. -/
namespace Sys2Proof.Machine

/-! ### Little-endian fields (R6) -/

@[simp] theorem toLE_length (v n : Nat) : (toLE v n).length = n := by
  induction n generalizing v with
  | zero => rfl
  | succ n ih => simp [toLE, ih]

theorem byteAt_toLE_append (b : Bytes) {i n : Nat} (v : Nat) (h : i < n) : byteAt (toLE v n ++ b) i = v / 256 ^ i % 256 := by
  induction n generalizing v i with
  | zero => omega
  | succ n ih =>
    cases i with
    | zero => simp [byteAt, toLE]
    | succ i =>
      have shifted : byteAt (toLE v (n + 1) ++ b) (i + 1) = byteAt (toLE (v / 256) n ++ b) i := rfl
      rw [shifted, ih (v / 256) (by omega), Nat.div_div_eq_div_mul, Nat.pow_succ', Nat.mul_comm]

/-- A field inside the bytes of a value. -/
theorem leNat_toLE_append (b : Bytes) {i m n : Nat} (v : Nat) (h : i + m ≤ n) : leNat (toLE v n ++ b) i m = v / 256 ^ i % 256 ^ m := by
  induction m generalizing i with
  | zero => simp [leNat, Nat.mod_one]
  | succ m ih =>
    rw [leNat, byteAt_toLE_append b v (by omega), ih (by omega), Nat.pow_succ, Nat.pow_succ', ← Nat.div_div_eq_div_mul, Nat.mod_mul]

/-- A field behind a byte string. -/
theorem leNat_append (a b : Bytes) {i : Nat} (n : Nat) (h : a.length ≤ i) : leNat (a ++ b) i n = leNat b (i - a.length) n := by
  induction n generalizing i with
  | zero => rfl
  | succ n ih =>
    have moved : i + 1 - a.length = i - a.length + 1 := by omega
    have byte : byteAt (a ++ b) i = byteAt b (i - a.length) := by
      simp [byteAt, List.getD_eq_getElem?_getD, List.getElem?_append_right h]
    rw [leNat, leNat, ih (by omega), moved, byte]

/-- The fields of a completion entry stand at the places of the table (R482). -/
theorem Completion.bytes_fields (c : Completion) : c.bytes.length = 32 ∧ leNat c.bytes 0 2 = c.tag.toNat ∧ leNat c.bytes 2 2 = c.sqHead.toNat ∧
    leNat c.bytes 4 1 = c.status.toNat ∧ leNat c.bytes 5 1 = c.opcode.toNat ∧ leNat c.bytes 6 2 = (if c.phase then 1 else 0) ∧
    leNat c.bytes 8 4 = c.detail.toNat ∧ leNat c.bytes 12 2 = c.sqIndex.toNat ∧ leNat c.bytes 16 8 = c.result.toNat := by
  have htag := c.tag.isLt
  have hhead := c.sqHead.isLt
  have hst := c.status.isLt
  have hop := c.opcode.isLt
  have hdet := c.detail.isLt
  have hidx := c.sqIndex.isLt
  have hres := c.result.isLt
  have hphase : b2n c.phase = if c.phase then 1 else 0 := rfl
  have hbit : b2n c.phase < 2 := by cases c.phase <;> decide
  simp only [Completion.bytes, List.append_assoc, ← hphase]
  refine ⟨by simp, ?_, ?_, ?_, ?_, ?_, ?_, ?_, ?_⟩
  · rw [leNat_toLE_append _ _ (by omega)]; omega
  · rw [leNat_toLE_append _ _ (by omega)]; omega
  all_goals rw [leNat_append _ _ _ (by simp), toLE_length]
  · rw [leNat_toLE_append _ _ (by omega)]; omega
  · rw [leNat_toLE_append _ _ (by omega)]; omega
  · rw [leNat_toLE_append _ _ (by omega)]; omega
  all_goals rw [leNat_append _ _ _ (by simp), toLE_length]
  · rw [leNat_toLE_append _ _ (by omega)]; omega
  all_goals rw [leNat_append _ _ _ (by simp), toLE_length]
  · rw [leNat_toLE_append _ _ (by omega)]; omega
  all_goals rw [leNat_append _ _ _ (by simp), toLE_length]
  · rw [leNat_toLE_append _ _ (by omega)]; omega

/-! ### What a write of a completion leaves -/

@[simp] theorem HostIf.sendVector_rings (h : HostIf) (v : Nat) : (h.sendVector v).rings = h.rings := by
  unfold HostIf.sendVector
  split <;> rfl
@[simp] theorem HostIf.sendVector_dataOut (h : HostIf) (v : Nat) : (h.sendVector v).dataOut = h.dataOut := by
  unfold HostIf.sendVector
  split <;> rfl
@[simp] theorem HostIf.sendVector_linkUp (h : HostIf) (v : Nat) : (h.sendVector v).linkUp = h.linkUp := by
  unfold HostIf.sendVector
  split <;> rfl

@[simp] theorem HostIf.moderate_dataOut (h : HostIf) (r : Fin 64) (irqNow : Bool) : (h.moderate r irqNow).dataOut = h.dataOut := by
  unfold HostIf.moderate
  dsimp only
  split <;> simp
@[simp] theorem HostIf.moderate_linkUp (h : HostIf) (r : Fin 64) (irqNow : Bool) : (h.moderate r irqNow).linkUp = h.linkUp := by
  unfold HostIf.moderate
  dsimp only
  split <;> simp
/-- Moderation changes the count of unsignalled entries of a ring alone. -/
theorem HostIf.moderate_ring (h : HostIf) (r : Fin 64) (irqNow : Bool) :
    (h.moderate r irqNow).rings[r] = h.rings[r] ∨ (h.moderate r irqNow).rings[r] = { h.rings[r] with unsignalled := 0 } := by
  unfold HostIf.moderate
  dsimp only
  split
  · right; simp
  · left; rfl

theorem HostIf.writeCompletion_linkUp (h : HostIf) (r : Fin 64) (now : DWord) (c : Completion) (irqNow : Bool) :
    (h.writeCompletion r now c irqNow).linkUp = h.linkUp := by
  unfold HostIf.writeCompletion
  dsimp only
  split
  · simp
  · rfl

/-- With the link up the entry, with the ring's PHASE, joins what the ring has written and what has gone to the host; the descriptors stay. -/
theorem HostIf.writeCompletion_up (h : HostIf) (r : Fin 64) (now : DWord) (c : Completion) (irqNow : Bool) (hl : h.linkUp = true) :
    (h.writeCompletion r now c irqNow).rings[r].written = h.rings[r].written ++ [{ c with phase := h.rings[r].phase }] ∧
    (h.writeCompletion r now c irqNow).rings[r].descs = h.rings[r].descs ∧
    ∃ a, (h.writeCompletion r now c irqNow).dataOut = h.dataOut ++ [(a, ({ c with phase := h.rings[r].phase } : Completion).bytes)] := by
  unfold HostIf.writeCompletion
  dsimp only
  rw [if_pos hl]
  refine ⟨?_, ?_, _, HostIf.moderate_dataOut ..⟩
  all_goals
    obtain e | e := HostIf.moderate_ring ({ h with
      dataOut := h.dataOut ++ [(h.rings[r].nextEntry, ({ c with phase := h.rings[r].phase } : Completion).bytes)]
      rings := updV h.rings r fun g => { g.wrote now g.wraps with written := g.written ++ [{ c with phase := h.rings[r].phase }] } } : HostIf) r irqNow
    all_goals rw [e]; simp [Ring.wrote]

/-- A completion stands in the ring and its bytes have gone to the host. -/
def HostIf.Delivered (h : HostIf) (r : Fin 64) (c : Completion) : Prop := c ∈ h.rings[r].written ∧ ∃ a, (a, c.bytes) ∈ h.dataOut

theorem HostIf.Delivered.writeCompletion {h : HostIf} {r : Fin 64} {c : Completion} (hc : h.Delivered r c) (now : DWord) (e : Completion)
    (irqNow : Bool) (hl : h.linkUp = true) : (h.writeCompletion r now e irqNow).Delivered r c := by
  obtain ⟨hw, -, a', hd⟩ := h.writeCompletion_up r now e irqNow hl
  obtain ⟨hmem, a, ha⟩ := hc
  exact ⟨by rw [hw]; exact List.mem_append_left _ hmem, a, by rw [hd]; exact List.mem_append_left _ ha⟩

/-- A change of a ring that keeps what it has written keeps what was delivered. -/
theorem HostIf.Delivered.upd {h : HostIf} {r : Fin 64} {c : Completion} (hc : h.Delivered r c) (f : Ring → Ring)
    (hf : (f h.rings[r]).written = h.rings[r].written) : ({ h with rings := updV h.rings r f } : HostIf).Delivered r c := by
  obtain ⟨hmem, ha⟩ := hc
  refine ⟨?_, ha⟩
  simpa using hf ▸ hmem

/-! ### The order of completions -/

theorem takeFirst_some {α : Type} {p : α → Bool} {x : α} {rest : List α} : ∀ {l : List α}, takeFirst p l = some (x, rest) →
    p x = true ∧ l.length = rest.length + 1 ∧ (∀ y, y ∈ l ↔ y = x ∨ y ∈ rest)
  | [], e => by cases e
  | a :: l, e => by
    unfold takeFirst at e
    split at e
    · next hp =>
      cases e
      exact ⟨hp, rfl, fun y => by simp⟩
    · cases h : takeFirst p l with
      | none => rw [h] at e; cases e
      | some w =>
        rw [h] at e
        cases e
        obtain ⟨hp, hlen, hmem⟩ := takeFirst_some h
        exact ⟨hp, by simp [hlen], fun y => by simp only [List.mem_cons, hmem]; tauto⟩

theorem takeFirst_isSome {α : Type} {p : α → Bool} {x : α} : ∀ {l : List α}, x ∈ l → p x = true → (takeFirst p l).isSome = true
  | a :: l, hx, hp => by
    unfold takeFirst
    split
    · rfl
    · next ha =>
      have hx' : x ∈ l := by
        cases hx with
        | head => exact absurd hp ha
        | tail _ h => exact h
      simpa using takeFirst_isSome hx' hp

theorem takeFirst_head {α : Type} {p : α → Bool} {x : α} {l : List α} (h : l.head? = some x) (hp : p x = true) : takeFirst p l = some (x, l.tail) := by
  cases l with
  | nil => cases h
  | cons a l =>
    cases h
    simp [takeFirst, hp]

/-- The turn of a STEP descriptor is read off the descriptors in progress: fewer of them, or more of them ended, leave it its turn. -/
theorem Ring.stepTurn_of_forall {g g' : Ring} {d : Desc} (h : g.stepTurn d = true)
    (hsub : ∀ e ∈ g'.descs, e.fin.isSome = true ∨ e ∈ g.descs) : g'.stepTurn d = true := by
  unfold Ring.stepTurn at *
  rw [Bool.or_eq_true] at *
  refine h.imp id fun hall => List.all_eq_true.mpr fun e he => ?_
  obtain hf | hm := hsub e he
  · simp [hf]
  · exact List.all_eq_true.mp hall e hm

/-- The completion of an ended descriptor as its ring would write it. -/
def Completion.IsOf (c : Completion) (d : Desc) (status : Byte) (detail : Word) (result : DWord) : Prop :=
  c.tag = d.tag ∧ c.opcode = BitVec.ofNat 8 d.opcode ∧ c.status = status ∧ c.detail = detail ∧ c.result = result

theorem HostIf.flush_delivered (r : Fin 64) (now : DWord) (c : Completion) : ∀ (n : Nat) (h : HostIf), h.linkUp = true → h.Delivered r c →
    (HostIf.flush r now n h).Delivered r c ∧ (HostIf.flush r now n h).linkUp = true
  | 0, h, hl, hc => ⟨hc, hl⟩
  | n + 1, h, hl, hc => by
    unfold HostIf.flush
    dsimp only
    split
    · exact ⟨hc, hl⟩
    split
    · exact ⟨hc, hl⟩
    · next rest _ _ _ _ _ _ =>
      have taken : ({ h with rings := updV h.rings r fun g => { g with descs := rest, reserved := g.reserved - 1 } } : HostIf).Delivered r c :=
        hc.upd (fun g => { g with descs := rest, reserved := g.reserved - 1 }) rfl
      refine HostIf.flush_delivered r now c n _ ?_ (taken.writeCompletion now _ _ hl)
      rw [HostIf.writeCompletion_linkUp]
      exact hl

theorem HostIf.settle_delivered (r : Fin 64) (now : DWord) (c : Completion) : ∀ (n : Nat) (h : HostIf), h.linkUp = true → h.Delivered r c →
    (HostIf.settle r now n h).Delivered r c
  | 0, h, _, hc => hc
  | n + 1, h, hl, hc => by
    unfold HostIf.settle
    dsimp only
    split
    · exact hc
    split
    · exact hc
    · next d _ _ cause _ =>
      have ended := hc.upd (fun g => if r.val = 0 && h.mgmtBusy then g.finish d.index stBusy 0x14 0 else g.finish d.index stVersion cause 0)
        (by split <;> rfl)
      obtain ⟨flushed, up⟩ := HostIf.flush_delivered r now c h.rings[r].descs.length _ (by exact hl) ended
      exact HostIf.settle_delivered r now c n _ up flushed

/-- Of a ring but ring 0 a flush writes the completion of every ended descriptor whose turn it is; the first of the ring with the ring's PHASE. -/
theorem HostIf.flush_writes (r : Fin 64) (now : DWord) (hr : r.val ≠ 0) (d : Desc) (st : Byte) (det : Word) (res : DWord)
    (hfin : d.fin = some (st, det, res)) : ∀ (n : Nat) (h : HostIf), h.linkUp = true → h.rings[r].descs.length ≤ n → d ∈ h.rings[r].descs →
    h.rings[r].stepTurn d = true → ∃ c : Completion, c.IsOf d st det res ∧ (h.rings[r].descs.head? = some d → c.phase = h.rings[r].phase) ∧
      (HostIf.flush r now n h).Delivered r c ∧ (HostIf.flush r now n h).linkUp = true
  | 0, h, _, hn, hd, _ => absurd hd (by rw [List.eq_nil_of_length_eq_zero (Nat.le_zero.mp hn)]; exact List.not_mem_nil)
  | n + 1, h, hl, hn, hd, ht => by
    have ready : (d.fin.isSome && h.rings[r].stepTurn d) = true := by rw [hfin, ht]; rfl
    obtain ⟨⟨e, rest⟩, he⟩ := Option.isSome_iff_exists.mp (takeFirst_isSome (p := fun d => d.fin.isSome && h.rings[r].stepTurn d) hd ready)
    obtain ⟨hpe, hlen, hmem⟩ := takeFirst_some he
    have next : h.rings[r].nextDone (decide (r.val = 0)) = some (e, rest) := by
      unfold Ring.nextDone
      rw [decide_eq_false hr]
      exact he
    obtain ⟨⟨st', det', res'⟩, hef⟩ : ∃ f, e.fin = some f := Option.isSome_iff_exists.mp (by simp at hpe; exact hpe.1)
    unfold HostIf.flush
    dsimp only
    rw [next]
    dsimp only
    rw [hef]
    dsimp only
    generalize hh : ({ h with rings := updV h.rings r fun g => { g with descs := rest, reserved := g.reserved - 1 } } : HostIf) = h'
    have hl' : h'.linkUp = true := by rw [← hh]; exact hl
    have hdescs : h'.rings[r].descs = rest := by rw [← hh]; simp
    have hphase : h'.rings[r].phase = h.rings[r].phase := by rw [← hh]; simp
    generalize hx : ({ tag := e.tag, sqHead := h.rings[r].sqHead, status := st', opcode := BitVec.ofNat 8 e.opcode, phase := h.rings[r].phase,
                       detail := det', sqIndex := BitVec.ofNat 16 (e.index.toNat % h.rings[r].sqSize), result := res' } : Completion) = x
    obtain ⟨hw, hds, a, hout⟩ := h'.writeCompletion_up r now x e.irqNow hl'
    have hup : (h'.writeCompletion r now x e.irqNow).linkUp = true := (HostIf.writeCompletion_linkUp ..).trans hl'
    by_cases same : e = d
    · subst same
      rw [hef] at hfin
      cases hfin
      have wrote : (h'.writeCompletion r now x e.irqNow).Delivered r { x with phase := h'.rings[r].phase } :=
        ⟨by rw [hw]; simp, a, by rw [hout]; simp⟩
      refine ⟨_, ?_, fun _ => hphase, HostIf.flush_delivered r now _ n _ hup wrote⟩
      rw [← hx]
      exact ⟨rfl, rfl, rfl, rfl, rfl⟩
    · have hin : d ∈ rest := ((hmem d).mp hd).resolve_left (Ne.symm same)
      have turn : (h'.writeCompletion r now x e.irqNow).rings[r].stepTurn d = true :=
        Ring.stepTurn_of_forall ht fun y hy => .inr ((hmem y).mpr (.inr (by rw [hds, hdescs] at hy; exact hy)))
      obtain ⟨c, hof, -, hdel⟩ := HostIf.flush_writes r now hr d st det res hfin n _ hup (by rw [hds, hdescs]; omega)
        (by rw [hds, hdescs]; exact hin) turn
      refine ⟨c, hof, fun hhead => absurd ?_ same, hdel⟩
      rw [takeFirst_head hhead ready] at he
      cases he
      rfl

/-- The end of a ring's drain keeps what it has written. -/
theorem Ring.drainEnd_written (g : Ring) (job : Option Word) : (g.drainEnd job).written = g.written := by
  unfold Ring.drainEnd
  split <;> rfl

/-- Settles O48: the descriptor's turn comes within one flush, for the flush takes out one descriptor at a time and never one that takes the turn
away; nothing that follows takes back what is written. -/
theorem endedDescriptorIsWritten : Obligations.EndedDescriptorIsWritten := by
  unfold Obligations.EndedDescriptorIsWritten
  refine ⟨fun r d status detail result s hl hr hd hfin ht => ?_, Completion.bytes_fields, fun g now => ⟨fun h => ?_, fun h => ?_⟩⟩
  · generalize hh : ({ s.host with rings := updV s.host.rings r fun g => g.finish d.index status detail result } : HostIf) = h
    have hring : h.rings[r] = s.host.rings[r].finish d.index status detail result := by rw [← hh]; simp
    have hup : h.linkUp = true := by rw [← hh]; exact hl
    have hd' : { d with begun := true, fin := some (BitVec.ofNat 8 status, BitVec.ofNat 32 detail, result) } ∈ h.rings[r].descs := by
      rw [hring]
      exact List.mem_map.mpr ⟨d, hd, by simp [hfin]⟩
    have turn : h.rings[r].stepTurn { d with begun := true, fin := some (BitVec.ofNat 8 status, BitVec.ofNat 32 detail, result) } = true := by
      refine Ring.stepTurn_of_forall (g := s.host.rings[r]) ht fun e he => ?_
      rw [hring] at he
      obtain ⟨y, hy, rfl⟩ := List.mem_map.mp he
      split
      · exact .inl rfl
      · exact .inr hy
    obtain ⟨c, ⟨htag, hop, hst, hdet, hres⟩, hphase, hdel, hup'⟩ :=
      HostIf.flush_writes r s.now hr _ _ _ _ rfl h.rings[r].descs.length h hup le_rfl hd' turn
    have settled := HostIf.settle_delivered r s.now c h.rings[r].descs.length _ hup' hdel
    have written : (s.complete r d.index status detail result).host.Delivered r c := by
      subst hh
      exact settled.upd (fun g => g.drainEnd s.curJob) (Ring.drainEnd_written _ _)
    obtain ⟨hmem, hout⟩ := written
    refine ⟨c, hmem, htag, hop, hst, hdet, hres, fun hhead => ?_, hout⟩
    rw [hphase ?_, hring]
    · rfl
    · rw [hring]
      refine List.head?_map.trans ?_
      rw [hhead]
      simp [hfin]
  · simp [Ring.wrote, Ring.wraps, Nat.not_le.mpr h]
  · simp [Ring.wrote, Ring.wraps, h]

end Sys2Proof.Machine
end

section
/-! PROOFS. The end of a job and of a start, as the other blocks see them; the watchdog, the interval counter and the time pulse (R85, R86, R514,
R525, R526). -/
namespace Sys2Proof.Machine

/-! ### Operations that change the power block under a test -/

/-- What does not look at the power block is kept by a step of the ceiling. -/
theorem State.ceilingStep_keeps {α : Type} (g : State → α) (hp : ∀ s f, g (State.upPwr s f) = g s) (s : State) : g s.ceilingStep = g s := by
  unfold State.ceilingStep
  dsimp only
  repeat' split
  · rfl
  · exact hp ..
  · exact hp ..
  · exact hp ..

theorem State.noteBind_keeps {α : Type} (g : State → α) (hp : ∀ s f, g (State.upPwr s f) = g s) (hh : ∀ s f, g (State.upHost s f) = g s)
    (s : State) : g s.noteBind = g s := by
  unfold State.noteBind
  refine (State.when_keeps g _ _ _ ?_).trans (hp _ _)
  unfold State.thermEvent State.event State.eventFor
  exact hh _ _

theorem foldl_keeps {α β : Type} (g : State → β) (f : State → α → State) (h : ∀ s a, g (f s a) = g s) (l : List α) (s : State) :
    g (l.foldl f s) = g s := by
  induction l generalizing s with
  | nil => rfl
  | cons a l ih => rw [List.foldl_cons, ih, h]

/-- What looks neither at power nor at the host interface sees of a change of the envelope the change alone. -/
theorem State.reEnv_keeps {α : Type} (g : State → α) (hp : ∀ s f, g (State.upPwr s f) = g s) (hh : ∀ s f, g (State.upHost s f) = g s)
    (s : State) (f : State → State) : g (s.reEnv f) = g (f s.ceilingStep) :=
  (State.noteBind_keeps g hp hh _).trans (State.ceilingStep_keeps g hp _)

/-! ### The end of a job (R396, R452) -/

/-- A view of the state that the stop of the regions leaves, and that looks at none of the blocks that the end of a job changes. -/
structure BlindToJob {α : Type} (g : State → α) : Prop where
  stop : ∀ s, g (State.stopRegions s) = g s
  mover : ∀ s f, g (State.upMover s f) = g s
  job : ∀ s f, g (State.upJob s f) = g s
  medlar : ∀ s f, g (State.upMedlar s f) = g s
  coll : ∀ s f, g (State.upColl s f) = g s
  sec : ∀ s f, g (State.upSec s f) = g s
  fab : ∀ s f, g (State.upFab s f) = g s
  pwr : ∀ s f, g (State.upPwr s f) = g s
  host : ∀ s f, g (State.upHost s f) = g s

theorem State.sendPkt_eq (s : State) (k : Pkt) : ∃ f, s.sendPkt k = s.upFab f := by
  unfold State.sendPkt
  split <;> exact ⟨_, rfl⟩

theorem State.fmMsgOut_eq (s : State) (mtype : Nat) (job : Word) (body : Bytes) : ∃ f, s.fmMsgOut mtype job body = s.upFab f := by
  unfold State.fmMsgOut
  split
  · exact State.sendPkt_eq ..
  · exact ⟨_, rfl⟩

theorem State.deadSuspect_eq (s : State) (job : Word) (target : BitVec 17) (seq : Word) (op : Nat) :
    ∃ f, s.deadSuspect job target seq op = s.upFab f := State.fmMsgOut_eq ..

namespace BlindToJob
variable {α : Type} {g : State → α} (b : BlindToJob g)
include b

theorem returnRecord (s : State) (rc : StepRecord) : g (s.returnRecord rc) = g s := by
  unfold State.returnRecord
  dsimp only
  split
  · exact b.job ..
  · exact (b.host ..).trans ((State.when_keeps g _ _ _ (b.host ..)).trans (b.job ..))

theorem endJobDescs (s : State) : g s.endJobDescs = g s := by
  refine foldl_keeps g _ (fun s x => ?_) _ s
  dsimp only
  split
  · exact b.returnRecord ..
  · exact b.host ..

theorem tearDown (s : State) : g s.tearDown = g s := by
  unfold State.tearDown
  split
  · rfl
  · rw [State.reEnv_keeps g b.pwr b.host]
    have event : ∀ s job code x y, g (State.eventFor s job code x y) = g s := fun _ _ _ _ _ => b.host ..
    have shares : ∀ s, g (State.dropShares s) = g s := fun _ => b.pwr ..
    simp only [event, shares, b.host, b.pwr, b.medlar, b.sec, b.job, b.mover, b.coll, b.fab, b.endJobDescs, b.stop]
    exact State.ceilingStep_keeps g b.pwr s

theorem leaveJobs (s : State) (dark : Bool) : g (s.leaveJobs dark) = g s := by
  unfold State.leaveJobs
  split
  · dsimp only
    rw [b.tearDown, b.sec]
    refine State.when_keeps g _ _ _ ?_
    obtain ⟨f, e⟩ := s.deadSuspect_eq s.job.p.jobId s.fab.modId 0 0
    rw [e, b.fab]
  · rfl

end BlindToJob

theorem blindToJob_time : BlindToJob State.time := ⟨fun _ => rfl, fun _ _ => rfl, fun _ _ => rfl, fun _ _ => rfl, fun _ _ => rfl,
  fun _ _ => rfl, fun _ _ => rfl, fun _ _ => rfl, fun _ _ => rfl⟩
theorem blindToJob_quince : BlindToJob State.quince := ⟨fun _ => rfl, fun _ _ => rfl, fun _ _ => rfl, fun _ _ => rfl, fun _ _ => rfl,
  fun _ _ => rfl, fun _ _ => rfl, fun _ _ => rfl, fun _ _ => rfl⟩
theorem blindToJob_pins : BlindToJob State.pins := ⟨fun _ => rfl, fun _ _ => rfl, fun _ _ => rfl, fun _ _ => rfl, fun _ _ => rfl,
  fun _ _ => rfl, fun _ _ => rfl, fun _ _ => rfl, fun _ _ => rfl⟩

/-- A job that is formed or held ends torn down, and its identifier is kept among those that ended. -/
theorem State.tearDown_ended (s : State) (h : s.inJob = true) : s.tearDown.job.phase = .tornDown ∧ s.job.p.jobId ∈ s.tearDown.job.torn := by
  have hp : ¬ (s.job.phase = .none ∨ s.job.phase = .tornDown) := by
    simp only [State.inJob, decide_eq_true_eq] at h
    obtain e | e := h <;> simp [e]
  unfold State.tearDown
  rw [if_neg hp, State.reEnv_keeps State.job (fun _ _ => rfl) (fun _ _ => rfl), ← State.ceilingStep_keeps State.job (fun _ _ => rfl) s]
  generalize s.ceilingStep = u
  refine ⟨rfl, ?_⟩
  simp only [State.eventFor, State.upHost_job, State.dropShares, State.upPwr_job, State.upMedlar_job, State.upSec_job, State.upJob_job]
  split
  · assumption
  · simp

theorem State.tearDown_inJob (s : State) : s.tearDown.inJob = false := by
  cases h : s.inJob with
  | true => simp [State.inJob, (s.tearDown_ended h).1]
  | false =>
    have hp : s.job.phase = .none ∨ s.job.phase = .tornDown := by
      simp only [State.inJob, decide_eq_false_iff_not] at h
      cases e : s.job.phase <;> simp_all
    unfold State.tearDown
    rw [if_pos hp]
    exact h

theorem State.leaveJobs_inJob (s : State) (dark : Bool) : (s.leaveJobs dark).inJob = false := by
  unfold State.leaveJobs
  split
  · exact State.tearDown_inJob _
  · next h => exact Bool.not_eq_true _ ▸ h

/-- A module that leaves its job has it torn down. -/
theorem State.leaveJobs_ended (s : State) (dark : Bool) (h : s.inJob = true) :
    (s.leaveJobs dark).job.phase = .tornDown ∧ s.job.p.jobId ∈ (s.leaveJobs dark).job.torn := by
  unfold State.leaveJobs
  rw [if_pos h]
  dsimp only
  have job : ((s.when (!dark) fun s => s.deadSuspect s.job.p.jobId s.fab.modId 0 0).upSec fun c =>
      { c with serves := if dark then none else some (s.when (!dark) fun s => s.deadSuspect s.job.p.jobId s.fab.modId 0 0).job.p.jobId }).job = s.job := by
    refine State.when_keeps State.job _ _ _ ?_
    obtain ⟨f, e⟩ := s.deadSuspect_eq s.job.p.jobId s.fab.modId 0 0
    rw [e]
    rfl
  generalize hu : State.upSec _ _ = u at job ⊢
  have ended := u.tearDown_ended (by unfold State.inJob at h ⊢; rw [job]; exact h)
  rw [job] at ended
  exact ended

/-! ### The watchdog (R86, R514) -/

/-- An expiry as it is recorded: FAULT#, the log entry, the list of expiries, the event and the advice of the second within a day. -/
def State.expired (s : State) : State :=
  let times := s.now :: within s.now dayU s.quince.wdTimes
  let u := ((((s.assertFault .watchdog).logFault fkWatchdog).upQuince fun q => { q with wdTimes := times }).raiseIbi).event evWatchdog
    (arg times.length) 0
  u.when (decide (times.length = 2)) fun s => s.advise 4

/-- The blocks that an expiry records in are the fault output, Quince, the host interface and the advice. -/
theorem State.expired_facts (s : State) : s.expired.pins.faultLow = true ∧ s.expired.quince.wdTimes = s.now :: within s.now dayU s.quince.wdTimes ∧
    s.expired.quince.faults.getLast? = some { kind := fkWatchdog, at_ := s.now, result := 0 } ∧ s.expired.time = s.time ∧
    s.expired.quince.start = s.quince.start ∧ s.expired.quince.failCount = s.quince.failCount := by
  have last : ((s.assertFault .watchdog).logFault fkWatchdog).quince.faults.getLast? = some { kind := fkWatchdog, at_ := s.now, result := 0 } :=
    State.logFault_getLast? ..
  have low : ((s.assertFault .watchdog).logFault fkWatchdog).pins.faultLow = true := rfl
  have time : ((s.assertFault .watchdog).logFault fkWatchdog).time = s.time := rfl
  have start : ((s.assertFault .watchdog).logFault fkWatchdog).quince.start = s.quince.start := rfl
  have count : ((s.assertFault .watchdog).logFault fkWatchdog).quince.failCount = s.quince.failCount := rfl
  unfold State.expired
  dsimp only
  generalize (s.assertFault .watchdog).logFault fkWatchdog = u at *
  generalize decide ((s.now :: within s.now dayU s.quince.wdTimes).length = 2) = second
  cases second <;>
    simp only [State.when_false, State.when_true, State.advise, State.event, State.eventFor, State.raiseIbi, State.upHost_quince, State.upHost_pins,
      State.upHost_time, State.upQuince_quince, State.upQuince_pins, State.upQuince_time, State.upSec_quince, State.upSec_pins, State.upSec_time]
  all_goals exact ⟨low, trivial, last, time, start, count⟩

theorem execWatchdogExpiry_due (s : State) (ha : s.time.wdArmed = true) (hl : s.time.wdLeft = 0) :
    execWatchdogExpiry s = if s.quince.start.isSome then .next s.expired.failStart
      else if 2 ≤ (within s.now dayU s.quince.wdTimes).length then .next ((s.expired.leaveJobs false).askedStart true false)
      else .next (s.expired.leaveJobs false).armWatchdog := by
  obtain ⟨-, -, -, -, start, -⟩ := s.expired_facts
  have due : (s.time.wdArmed && (decide (s.time.wdLeft = 0) || s.time.quinceTimer)) = true := by simp [ha, hl]
  unfold execWatchdogExpiry
  rw [if_pos due, ← start]
  have third : (s.now :: within s.now dayU s.quince.wdTimes).length ≥ 3 ↔ 2 ≤ (within s.now dayU s.quince.wdTimes).length := by
    simp
  simp only [third]
  rfl

theorem State.failStart_failed (s : State) (st : StartS) (h : s.quince.start = some st) : s.failStart.quince.start = none ∧
    s.failStart.quince.failCount = satAdd s.quince.failCount 1 ∧ (s.pins.faultLow = true → s.failStart.pins.faultLow = true) := by
  unfold State.failStart
  rw [h]
  dsimp only
  rw [State.when_keeps State.quince _ _ _ rfl]
  refine ⟨rfl, rfl, fun hp => ?_⟩
  cases st.recovery
  · exact hp
  · rfl

/-- A start that follows no reset keeps the fault output, the fault log, the expiries and the count of failures. -/
theorem State.askedStart_keeps (s : State) (warm carryPair : Bool) : (s.askedStart warm carryPair).pins.faultLow = s.pins.faultLow ∧
    (s.askedStart warm carryPair).quince.wdTimes = s.quince.wdTimes ∧ (s.askedStart warm carryPair).quince.faults = s.quince.faults ∧
    (s.askedStart warm carryPair).quince.failCount = s.quince.failCount := by
  have pins : ((s.when s.inJob State.tearDown).when s.quince.approval.isSome State.raiseIbi).pins = s.pins :=
    (State.when_keeps State.pins _ _ _ rfl).trans (State.when_keeps State.pins _ _ _ (blindToJob_pins.tearDown s))
  have torn : (s.when s.inJob State.tearDown).quince = s.quince := State.when_keeps State.quince _ _ _ (blindToJob_quince.tearDown s)
  unfold State.askedStart State.beginStart
  dsimp only
  rw [State.when_false, pins]
  generalize (s.when s.inJob State.tearDown) = u at torn ⊢
  cases s.quince.approval.isSome
  · rw [State.when_false, torn]
    exact ⟨rfl, rfl, rfl, rfl⟩
  · rw [State.when_true]
    simp [State.raiseIbi, torn]

/-- Settles O10: an expiry is recorded first, and what is recorded outlives the end of the job and the begin of a start; each other clause is
read off its meaning. -/
theorem watchdogAndTimePulse : Obligations.WatchdogAndTimePulse := by
  unfold Obligations.WatchdogAndTimePulse
  refine ⟨fun s ha hl hs hn => ?_, fun s ha hl hs hn => ?_, fun st s ha hl hs => ?_, fun s hv => ?_, fun s hv => ?_, fun pin s hh hp => ?_⟩
  · obtain ⟨low, times, log, time, -⟩ := s.expired_facts
    refine ⟨(s.expired.leaveJobs false).armWatchdog, ?_, ?_, ?_, ?_, rfl, rfl, State.leaveJobs_inJob _ _⟩
    · exact (execWatchdogExpiry_due s ha hl).trans (by rw [hs, if_neg (by decide), if_neg (by omega)])
    · exact (congrArg Pins.faultLow (blindToJob_pins.leaveJobs _ _)).trans low
    · exact (congrArg Quince.wdTimes (blindToJob_quince.leaveJobs _ _)).trans times
    · exact (congrArg (·.faults.getLast?) (blindToJob_quince.leaveJobs _ _)).trans log
  · obtain ⟨low, times, log, time, -⟩ := s.expired_facts
    obtain ⟨lowKept, timesKept, logKept, -⟩ := (s.expired.leaveJobs false).askedStart_keeps true false
    refine ⟨(s.expired.leaveJobs false).askedStart true false, ?_, ?_, ?_, ?_, ⟨_, rfl, rfl⟩, rfl⟩
    · exact (execWatchdogExpiry_due s ha hl).trans (by rw [hs, if_neg (by decide), if_pos hn])
    · exact (lowKept.trans (congrArg Pins.faultLow (blindToJob_pins.leaveJobs _ _))).trans low
    · exact (timesKept.trans (congrArg Quince.wdTimes (blindToJob_quince.leaveJobs _ _))).trans times
    · exact (congrArg List.getLast? (logKept.trans (congrArg Quince.faults (blindToJob_quince.leaveJobs _ _)))).trans log
  · obtain ⟨low, times, log, time, start, count⟩ := s.expired_facts
    obtain ⟨ended, counted, kept⟩ := s.expired.failStart_failed st (start.trans hs)
    refine ⟨s.expired.failStart, ?_, kept low, ended, counted.trans (by rw [count])⟩
    exact (execWatchdogExpiry_due s ha hl).trans (by rw [hs]; rfl)
  · refine ⟨(s.upTime fun b => { b with quinceTimer := b.wdArmed, ctrFault := true }).logFault fkCounter, ?_, rfl, State.logFault_getLast? .., rfl⟩
    simp [exec, execIntervalCounterFault, hv]
  · simp [exec, execIntervalCounterFault, hv]
  · refine ⟨_, if_pos (by rw [hh, hp]; rfl), rfl, rfl, rfl⟩

end Sys2Proof.Machine
end

section
/-! PROOFS. Words of queues and of join channels (R63 to R66, R70). -/
namespace Sys2Proof.Machine

/-! ### One entry of a vector of the state -/

theorem updV_at {α : Type} {n : Nat} (v : Vector α n) (i : Fin n) (f : α → α) : (updV v i f)[i] = f v[i] := updV_self v i f
theorem updV_ne {α : Type} {n : Nat} (v : Vector α n) {i o : Fin n} (f : α → α) (h : o ≠ i) : (updV v i f)[o] = v[o] := updV_other v i o f h.symm
theorem setV_at {α : Type} {n : Nat} (v : Vector α n) (i : Fin n) (x : α) : (setV v i x)[i] = x := setV_self v i x
theorem setV_ne {α : Type} {n : Nat} (v : Vector α n) {i o : Fin n} (x : α) (h : o ≠ i) : (setV v i x)[o] = v[o] :=
  (setV_get v i o x).trans (if_neg h.symm)

/-- A change of an entry that leaves it as it was leaves the vector as it was. -/
theorem updV_eq_self {α : Type} {n : Nat} (v : Vector α n) (i : Fin n) (f : α → α) (h : f v[i] = v[i]) : updV v i f = v := by
  have e : f v[i.val] = v[i.val] := h
  unfold updV
  rw [e]
  exact Vector.set_getElem_self ..

theorem State.upQueue_at (s : State) (q : Fin 7680) (f : HsQueue → HsQueue) : (s.upQueue q f).queues[q] = f s.queues[q] := updV_at ..
theorem State.upQueue_ne (s : State) (q : Fin 7680) (f : HsQueue → HsQueue) : ∀ o : Fin 7680, o ≠ q → (s.upQueue q f).queues[o] = s.queues[o] :=
  fun _ h => updV_ne _ _ h
theorem State.upCell_at (s : State) (c : Fin 1024) (f : CellS → CellS) : (s.upCell c f).cells[c] = f s.cells[c] := updV_at ..
theorem State.upCell_ne (s : State) (c : Fin 1024) (f : CellS → CellS) : ∀ o : Fin 1024, o ≠ c → (s.upCell c f).cells[o] = s.cells[o] :=
  fun _ h => updV_ne _ _ h
theorem State.upJoin_at (s : State) (c : Fin 1792) (f : JoinCh → JoinCh) : (s.upJoin c f).joins[c] = f s.joins[c] := updV_at ..

/-! ### One queue -/

theorem HsQueue.write_free {q : HsQueue} (w : QWord) (h : q.canWrite = true) : q.write w = { q with words := q.words ++ [w] } := if_pos h
theorem HsQueue.write_full {q : HsQueue} (w : QWord) (h : q.canWrite = false) : q.write w = q := if_neg (Bool.not_eq_true _ ▸ h)
theorem HsQueue.read_visible {q : HsQueue} (h : 0 < q.visible) :
    q.read = { words := q.words.tail, visible := q.visible - 1, returning := q.returning + 1 } := if_pos h

/-- A word stands in front of a queue when one is shown and one is written. -/
theorem HsQueue.front_isSome {q : HsQueue} (hv : 0 < q.visible) (hw : q.words ≠ []) : ∃ w, q.front = some w :=
  ⟨q.words.head hw, (if_pos hv).trans (List.head?_eq_some_head hw)⟩
theorem HsQueue.visible_of_front {q : HsQueue} {w : QWord} (h : q.front = some w) : 0 < q.visible := by
  by_contra hv
  simp [HsQueue.front, hv] at h

theorem State.upQueue_eq_self (s : State) (q : Fin 7680) (f : HsQueue → HsQueue) (h : f s.queues[q] = s.queues[q]) : s.upQueue q f = s := by
  unfold State.upQueue
  rw [updV_eq_self _ _ _ h]

theorem rxChannel_rxQueue (ch : Fin 1792) : rxChannel (rxQueue ch) = some ch := by
  have hq : 4096 ≤ (rxQueue ch).val ∧ (rxQueue ch).val % 2 = 1 := by simp only [rxQueue]; omega
  unfold rxChannel
  rw [dif_pos hq]
  congr 1
  apply Fin.ext
  simp only [rxQueue]
  omega

/-- A full queue takes no word, whoever would write it. -/
theorem execQueueWrite_full (q : Fin 7680) (w : BitVec 512) (s : State) (h : s.queues[q].canWrite = false) : execQueueWrite q w s = .next s := by
  unfold execQueueWrite
  repeat' split
  · exact congrArg Host.Outcome.next (s.upQueue_eq_self q _ (HsQueue.write_full _ h))
  · next hc =>
    rw [h] at hc
    simp at hc
  · rfl
  · rfl
  · next hc =>
    rw [h] at hc
    simp at hc
  · rfl

/-- Settles O11: each event is a change of the queues and channels it names. -/
theorem queueAndJoinWordsMoveInOrder : Obligations.QueueAndJoinWordsMoveInOrder := by
  unfold Obligations.QueueAndJoinWordsMoveInOrder
  refine ⟨⟨fun q w s hr ht hc => ?_, fun q c k x s hr ht hc => ?_, fun q c k x w s hr ht hw => ?_, fun q w s hc => execQueueWrite_full q w s hc,
    fun q s hv => ?_, fun q s hr hy hx hv hw => ?_, fun q s hv => ?_, fun q s => ?_⟩, fun ch w s hf hc => ?_, fun ch s hf => ?_,
    fun ch w rest s hf hc => ?_⟩
  · refine ⟨s.upQueue q (·.write { kind := .other, data := w }), by simp only [exec, execQueueWrite, hr, ht], ?_, s.upQueue_ne q _, rfl⟩
    rw [s.upQueue_at, HsQueue.write_free _ hc]
  · refine ⟨(s.upQueue q (·.write { kind := .tile k x.seq x.word, data := s.tileWord c k x })).upTile c x.seq x.word fun t =>
      { t with put := t.put.modify k (· + 1) }, by simp only [exec, execQueueWrite, hr, ht, hc, decide_true, Bool.and_self, if_true], ?_,
      s.upQueue_ne q _, fun d hd => State.upCell_ne _ _ _ d hd, rfl⟩
    exact (s.upQueue_at q _).trans (HsQueue.write_free _ hc)
  · simp only [exec, execQueueWrite, hr, ht, hw, decide_false, Bool.false_and, Bool.false_eq_true, if_false]
  · refine ⟨s.upQueue q HsQueue.show, rfl, ?_, s.upQueue_ne q _, rfl⟩
    exact (s.upQueue_at q _).trans (if_pos hv)
  · obtain ⟨w, hf⟩ := HsQueue.front_isSome hv hw
    refine ⟨s.upQueue q HsQueue.read, by simp only [exec, execQueueRead, hf, hy, hx, State.consume, hr], ?_, s.upQueue_ne q _, rfl⟩
    exact (s.upQueue_at q _).trans (HsQueue.read_visible hv)
  · have hf : s.queues[q].front = none := if_neg (by omega)
    simp only [exec, execQueueRead, hf]
  · exact ⟨s.upQueue q HsQueue.giveBack, rfl, s.upQueue_at q _, s.upQueue_ne q _, rfl⟩
  · refine ⟨(s.upQueue (txQueue ch) HsQueue.read).upJoin ch fun j => { j with flight := j.flight ++ [w], credits := j.credits - 1 },
      by simp only [exec, execJoinChannelTakeup, hf, gt_iff_lt, hc, if_true], ?_, ?_, ?_, rfl⟩
    · exact congrArg JoinCh.flight (State.upJoin_at ..)
    · exact congrArg JoinCh.credits (State.upJoin_at ..)
    · exact congrArg HsQueue.words ((s.upQueue_at _ _).trans (HsQueue.read_visible (HsQueue.visible_of_front hf)))
  · have freed := (s.upJoin_at ch fun j => if j.freed > 0 then { j with freed := j.freed - 1, credits := j.credits + 1 } else j).trans (if_pos hf)
    exact ⟨_, rfl, congrArg JoinCh.credits freed, congrArg JoinCh.freed freed, rfl⟩
  · refine ⟨(s.upQueue (rxQueue ch) (·.write w)).upJoin ch fun j => { j with flight := rest },
      by simp only [exec, execQueueWrite, rxChannel_rxQueue, hf, hc, decide_true, Bool.and_self, if_true], ?_, ?_, rfl⟩
    · exact congrArg HsQueue.words ((s.upQueue_at _ _).trans (HsQueue.write_free _ hc))
    · exact congrArg JoinCh.flight (State.upJoin_at ..)

end Sys2Proof.Machine
end

section
/-! PROOFS. Region programs (R94, R97, R220, R554): the next instruction of a cell, and what each instruction does to its cell. -/
namespace Sys2Proof.Machine

/-! ### One cell -/

theorem State.upCell_upCell (s : State) (c : Fin 1024) (f g : CellS → CellS) : (s.upCell c f).upCell c g = s.upCell c fun k => g (f k) := by
  simp [State.upCell, updV]

theorem State.upCell_alone (s : State) (c : Fin 1024) (f : CellS → CellS) : CellAlone s (s.upCell c f) c := ⟨rfl, s.upCell_ne c f⟩
theorem CellAlone.onlyCell {s t : State} {c : Fin 1024} (h : CellAlone s t c) : OnlyCell s t c := by
  obtain ⟨e, ho⟩ := h
  refine ⟨?_, ho⟩
  rw [e]
theorem State.upCell_onlyCell (s : State) (c : Fin 1024) (f : CellS → CellS) : OnlyCell s (s.upCell c f) c := (s.upCell_alone c f).onlyCell

theorem field_eq (x hi lo : Nat) : field x hi lo = x / 2 ^ lo % 2 ^ (hi + 1 - lo) := by
  unfold field
  rw [Nat.shiftRight_eq_div_pow]

theorem getKV_delKV {κ α : Type} [DecidableEq κ] (k : κ) (l : List (κ × α)) : getKV k (delKV k l) = none := by
  induction l with
  | nil => rfl
  | cons x l ih =>
    unfold delKV at ih ⊢
    rw [List.filter_cons]
    split
    · next h => simpa [getKV, of_decide_eq_true h] using ih
    · exact ih

/-! ### The next instruction (R220) -/

/-- A cell with a next instruction holds nothing back: it has an owner whose region runs, and its program counter is at the instruction. -/
theorem State.nextInstr_some {s : State} {c : Fin 1024} {i l j : Nat} {p : PInstr} (h : s.nextInstr c = some (i, l, j, p)) :
    s.cells[c].held = none ∧ s.cells[c].awaiting = none ∧ s.cells[c].frameFault = false ∧ s.ownerOf c = some (i, l) ∧ s.cells[c].pc = some j := by
  unfold State.nextInstr at h
  dsimp only at h
  split at h
  · cases h
  · next hb =>
    simp only [Bool.or_eq_true, not_or, Bool.not_eq_true, Option.isSome_eq_false_iff, Option.isNone_iff_eq_none] at hb
    obtain ⟨⟨hheld, hawait⟩, hfault⟩ := hb
    split at h
    · next ho hp =>
      split at h
      · obtain ⟨x, -, hx⟩ := Option.map_eq_some_iff.mp h
        cases hx
        exact ⟨hheld, hawait, hfault, ho, hp⟩
      · cases h
    · cases h

theorem State.onInstr_run {s : State} {c : Fin 1024} {i l j op : Nat} {p : PInstr} (h : s.nextInstr c = some (i, l, j, p)) (hop : p.op = op)
    (k : Nat → Nat → Nat → PInstr → State) : s.onInstr c op k = k i l j p := by
  unfold State.onInstr
  rw [h]
  exact if_pos hop

/-- The cell after an instruction that has issued. -/
def CellS.issuedTo (k : CellS) (next : Option Nat) : CellS := { k with pc := next, held := none, issued := k.issued + 1 }

theorem State.issued_of {s : State} {c : Fin 1024} {i l j : Nat} (ho : s.ownerOf c = some (i, l)) (hp : s.cells[c].pc = some j) :
    s.issued c = s.upCell c (·.issuedTo (nextOf (s.progOf i) l j)) := by
  unfold State.issued
  rw [ho, hp]
  rfl

/-- A change of a cell that leaves its program counter, and then the next instruction: one change of the cell. -/
theorem State.upCell_issued {s : State} {c : Fin 1024} {i l j : Nat} (ho : s.ownerOf c = some (i, l)) (hp : s.cells[c].pc = some j)
    (f : CellS → CellS) (hf : (f s.cells[c]).pc = s.cells[c].pc) :
    (s.upCell c f).issued c = s.upCell c fun k => (f k).issuedTo (nextOf (s.progOf i) l j) := by
  have hp' : (s.upCell c f).cells[c].pc = some j := by rw [s.upCell_at, hf, hp]
  rw [State.issued_of (s := s.upCell c f) ho hp', s.upCell_upCell]
  rfl

/-- Settles O13: each instruction is one change of its cell. -/
theorem programInstructionsAdvanceTheCell : Obligations.ProgramInstructionsAdvanceTheCell := by
  unfold Obligations.ProgramInstructionsAdvanceTheCell
  refine ⟨fun c i l j p s hn hop => ?_, fun c i l j p s hn hop => ?_, fun c i l j p s hn hop => ?_, fun c i l j p s hn hop hm => ?_,
    fun c i l j p s hn hop hm => ?_⟩
  all_goals obtain ⟨-, -, -, ho, hp⟩ := State.nextInstr_some hn
  · exact ⟨_, congrArg Host.Outcome.next (State.onInstr_run hn hop _), s.upCell_at c _, s.upCell_alone c _⟩
  · refine ⟨_, congrArg Host.Outcome.next ((State.onInstr_run hn hop _).trans (State.upCell_issued ho hp _ rfl)), ?_, ?_, s.upCell_alone c _⟩
    · rw [s.upCell_at, field_eq, field_eq, Nat.pow_zero, Nat.div_one]
      rfl
    · rw [s.upCell_at]
      rfl
  · refine ⟨_, congrArg Host.Outcome.next ((State.onInstr_run hn hop _).trans (State.upCell_issued ho hp _ rfl)), ?_, ?_, s.upCell_alone c _⟩
    all_goals rw [s.upCell_at]; rfl
  · refine ⟨_, congrArg Host.Outcome.next ((State.onInstr_run hn hop _).trans (if_pos ?_)), ?_, ?_, s.upCell_alone c _⟩
    · rw [field_eq]
      exact hm
    · rw [s.upCell_at, field_eq, Nat.pow_zero, Nat.div_one]
      rfl
    · rw [s.upCell_at]
      exact getKV_putKV_same ..
  · refine ⟨_, congrArg Host.Outcome.next ((State.onInstr_run hn hop _).trans ((if_neg ?_).trans (State.upCell_issued ho hp _ rfl))), ?_, ?_,
      s.upCell_alone c _⟩
    · rw [field_eq]
      exact Nat.not_lt.mpr hm
    · rw [s.upCell_at]
      rfl
    · rw [s.upCell_at]
      exact getKV_delKV ..

end Sys2Proof.Machine
end

section
/-! PROOFS. LOAD, SWITCH and START, their waits and their ends (R94, R96, R97). -/
namespace Sys2Proof.Machine

/-! ### Credits and back-pressure of a cell -/

/-- Between two states of a cell only its back-pressure and the credits on their way may differ. -/
def CellS.CreditsOnly (k k' : CellS) : Prop :=
  k' = { k with backPressure := k'.backPressure, bpCycles := k'.bpCycles, withheld := k'.withheld, creditFlight := k'.creditFlight }

theorem CellS.CreditsOnly.rfl' {k : CellS} : k.CreditsOnly k := rfl
theorem CellS.CreditsOnly.trans {k l m : CellS} (h : k.CreditsOnly l) (h' : l.CreditsOnly m) : k.CreditsOnly m := by
  unfold CellS.CreditsOnly at *
  rw [h', h]

/-- Only the credits of the cells differ. -/
def State.CreditsOnly (s t : State) : Prop := (∃ v, t = { s with cells := v }) ∧ ∀ d : Fin 1024, s.cells[d].CreditsOnly t.cells[d]

theorem State.CreditsOnly.rfl' {s : State} : s.CreditsOnly s := ⟨⟨_, rfl⟩, fun _ => rfl⟩
theorem State.CreditsOnly.trans {s t u : State} (h : s.CreditsOnly t) (h' : t.CreditsOnly u) : s.CreditsOnly u := by
  obtain ⟨⟨v, rfl⟩, hd⟩ := h
  obtain ⟨⟨w, rfl⟩, hd'⟩ := h'
  exact ⟨⟨w, rfl⟩, fun d => (hd d).trans (hd' d)⟩

/-- A change of one cell's credits. -/
theorem State.upCell_creditsOnly (s : State) (c : Fin 1024) (f : CellS → CellS) (hf : ∀ k : CellS, k.CreditsOnly (f k)) :
    s.CreditsOnly (s.upCell c f) := by
  refine ⟨⟨_, rfl⟩, fun d => ?_⟩
  by_cases h : d = c
  · subst h
    rw [s.upCell_at]
    exact hf _
  · rw [s.upCell_ne c f d h]
    exact .rfl'

theorem State.returnCredit_creditsOnly (s : State) (c : Fin 1024) (x : Nat × Word) : s.CreditsOnly (s.returnCredit c x) := by
  unfold State.returnCredit
  repeat' split
  · exact s.upCell_creditsOnly _ _ fun _ => rfl
  · exact s.upCell_creditsOnly _ _ fun _ => rfl
  · exact .rfl'

theorem State.freeCredits_creditsOnly (s : State) (c : Fin 1024) : s.CreditsOnly (s.freeCredits c) := by
  unfold State.freeCredits
  dsimp only
  refine (s.upCell_creditsOnly c (fun k => { k with withheld := [] }) fun _ => rfl).trans ?_
  generalize s.upCell c _ = u
  generalize s.cells[c].withheld = l
  induction l generalizing u with
  | nil => exact .rfl'
  | cons x l ih => exact (u.returnCredit_creditsOnly c x).trans (ih _)

/-- Back-pressure is noted, or ends with its count and frees what was withheld: only credits differ, and a free value may have been used. -/
theorem State.pressure_creditsOnly (s : State) (c : Fin 1024) : ∃ n, { s with free := n }.CreditsOnly (s.pressure c) := by
  unfold State.pressure
  dsimp only
  generalize (hasQueue s.cells[c].active.bytes && s.cells[c].active.valid && decide (s.cells[c].occupancy ≥ ftqHwm s.cells[c].active.bytes)) = on
  by_cases h : on = s.cells[c].backPressure
  · rw [if_pos h]
    exact ⟨s.free, .rfl'⟩
  rw [if_neg h]
  cases on with
  | true => exact ⟨s.free, s.upCell_creditsOnly c _ fun _ => rfl⟩
  | false =>
    refine ⟨s.free + 1, State.CreditsOnly.trans ?_ (State.freeCredits_creditsOnly _ c)⟩
    exact State.upCell_creditsOnly { s with free := s.free + 1 } c _ fun _ => rfl

/-! ### What a waiting command does when its cell holds none -/

theorem State.retry_of_none {s : State} {c : Fin 1024} (h : s.cells[c].held = none) : s.retry c = s := by
  unfold State.retry
  dsimp only
  rw [h]

/-! ### The nest that a START begins -/

theorem State.upCell_fault_onlyCell (s : State) (c : Fin 1024) (f : CellS → CellS) (cause : Nat) : OnlyCell s ((s.upCell c f).cellFault c cause) c :=
  ⟨rfl, s.upCell_ne c f⟩

theorem updV_updV {α : Type} {n : Nat} (v : Vector α n) (i : Fin n) (f g : α → α) : updV (updV v i f) i g = updV v i fun x => g (f x) := by
  simp [updV]

theorem State.nestFault_eq (s : State) (c : Fin 1024) : ∃ h, s.nestFault c =
    { s with cells := updV s.cells c fun k => { k with nest := k.nest.map fun n => { n with stopped := true } }, host := h } := ⟨_, rfl⟩

/-- A START of a cell with an owner begins a nest at its first step; the transform nests are counted, and an illegal one is stopped. -/
theorem State.beginNest_begun {s : State} {c : Fin 1024} {i l : Nat} (a : StartArgs) (ho : s.ownerOf c = some (i, l)) :
    ∃ n r h, (n.pos = 0 ∧ n.step = (s.regionS i).step ∧ n.args = a) ∧
      s.beginNest c a = { s with cells := updV s.cells c fun k => { k with nest := some n }, rt := { s.rt with nestsStarted := r }, host := h } ∧
      (s.beginNest c a).cells[c] = { s.cells[c] with nest := some n } ∧ ∀ o : Fin 1024, o ≠ c → (s.beginNest c a).cells[o] = s.cells[o] := by
  suffices begun : ∃ n r h, (n.pos = 0 ∧ n.step = (s.regionS i).step ∧ n.args = a) ∧
      s.beginNest c a = { s with cells := updV s.cells c fun k => { k with nest := some n }, rt := { s.rt with nestsStarted := r }, host := h } by
    obtain ⟨n, r, h, hn, hu⟩ := begun
    refine ⟨n, r, h, hn, hu, ?_, fun o ho => ?_⟩
    · rw [hu]
      exact updV_at ..
    · rw [hu]
      exact updV_ne _ _ ho
  unfold State.beginNest
  rw [ho]
  dsimp only
  obtain ⟨r, hr⟩ : ∃ r, ((s.upCell c fun k => { k with nest := some (newNest a k.active.bytes i (s.regionS i)) }).when
      (fPers s.cells[c].active.bytes = 3) fun s => s.upRt fun t => { t with nestsStarted := t.nestsStarted + 1 }) =
      { s with cells := updV s.cells c fun k => { k with nest := some (newNest a s.cells[c].active.bytes i (s.regionS i)) },
               rt := { s.rt with nestsStarted := r } } := by
    cases decide (fPers s.cells[c].active.bytes = 3)
    · exact ⟨s.rt.nestsStarted, rfl⟩
    · exact ⟨s.rt.nestsStarted + 1, rfl⟩
  rw [hr]
  cases badRotateStart s.cells[c].active.bytes a
  · exact ⟨_, r, s.host, ⟨rfl, rfl, rfl⟩, rfl⟩
  · obtain ⟨h, hh⟩ := State.nestFault_eq { s with cells := updV s.cells c fun k => { k with nest := some (newNest a s.cells[c].active.bytes i (s.regionS i)) },
                                                   rt := { s.rt with nestsStarted := r } } c
    rw [State.when_true, hh]
    refine ⟨{ newNest a s.cells[c].active.bytes i (s.regionS i) with stopped := true }, r, h, ⟨rfl, rfl, rfl⟩, ?_⟩
    simp only [updV_updV]
    rfl

/-- A cell that finds its program or its frame at fault leaves the module's job (R236). -/
theorem State.programFault_ended (s : State) (c : Fin 1024) (h : s.inJob = true) : (s.programFault c).job.phase = .tornDown :=
  ((s.cellFault c 2).leaveJobs_ended false h).1

/-- The cell whose LOAD has ended with a frame in its shadow (R96). -/
def CellS.shadowed (k : CellS) (f : Bytes) (ue : Bool) : CellS :=
  { k with loading := none, shadow := { loaded := true, valid := !ue && frameValid f, bytes := f } }

/-- Writes of a slot that waited, and the cure of a frame fault, leave what a cell holds back and its frames. -/
theorem CellS.cured_keeps (k : CellS) : k.cured.held = k.held ∧ k.cured.shadow = k.shadow ∧ k.cured.active = k.active ∧ k.cured.loading = k.loading ∧
    k.cured.slotWrites = k.slotWrites ∧ k.cured.store = k.store := by
  unfold CellS.cured
  split <;> exact ⟨rfl, rfl, rfl, rfl, rfl, rfl⟩

theorem startOperand_low (x : Nat) : (BitVec.ofNat 15 (field x 14 0)).toNat = x % 32768 := by
  rw [BitVec.toNat_ofNat, field_eq]
  omega
theorem startOperand_high (x : Nat) : (BitVec.ofNat 15 (field x 30 16)).toNat = x / 65536 % 32768 := by
  rw [BitVec.toNat_ofNat, field_eq]
  omega
theorem startOperand_low_eq (x : Nat) : BitVec.ofNat 15 (field x 14 0) = BitVec.ofNat 15 x :=
  BitVec.eq_of_toNat_eq ((startOperand_low x).trans (BitVec.toNat_ofNat x 15).symm)
theorem startOperand_high_eq (x : Nat) : BitVec.ofNat 15 (field x 30 16) = BitVec.ofNat 15 (x / 65536) :=
  BitVec.eq_of_toNat_eq ((startOperand_high x).trans (BitVec.toNat_ofNat (x / 65536) 15).symm)

/-- The operands of a START as a cell holds or runs it: those of the instruction's operand, with the cell's origin and generation. -/
def State.startArgs (s : State) (c : Fin 1024) (x : Nat) : StartArgs :=
  { aBase := (BitVec.ofNat 15 (field x 14 0)).toNat, bBase := (BitVec.ofNat 15 (field x 30 16)).toNat, m0 := s.cells[c].origin.1.toNat,
    n0 := s.cells[c].origin.2.toNat, gen := s.genOf c }

/-- The operands lie at the places that R103 and R555 give them. -/
theorem State.startArgs_eq {s : State} {c : Fin 1024} {i l : Nat} (x : Nat) (ho : s.ownerOf c = some (i, l)) : s.startArgs c x =
    { aBase := x % 32768, bBase := x / 65536 % 32768, m0 := s.cells[c].origin.1.toNat, n0 := s.cells[c].origin.2.toNat, gen := (s.regionS i).gen } := by
  unfold State.startArgs State.genOf
  rw [startOperand_low, startOperand_high, ho]
  rfl

/-- Settles O14: LOAD, SWITCH and START are each a change of their cell and, where they issue, the next instruction; the two ends leave a cell
that holds no command as they made it. -/
theorem loadAndSwitchBeginAndEnd : Obligations.LoadAndSwitchBeginAndEnd := by
  unfold Obligations.LoadAndSwitchBeginAndEnd
  refine ⟨⟨fun c i l j p s hn hop hpl hld hsw => ?_, fun c i l j p s hn hop hpl hw => ?_, fun c i l j p s hn hop hw hv => ?_,
    fun c i l j p s hn hop hw => ?_, fun c i l j p s hn hop hw hv hl => ?_, fun c i l j p s hn hop hw hv hl hj => ?_⟩,
    ⟨fun c i l j p s hn hop hsw hh hv hnest => ?_, fun c i l j p s hn hop hsw hh hv hnest => ?_, fun c i l j p s hn hop hw => ?_,
    fun c i l j p s hn hop hsw hh hv hj => ?_⟩, fun c ue slot s hl hh => ?_, fun c s hsw hh => ?_⟩
  · obtain ⟨-, -, -, ho, hp⟩ := State.nextInstr_some hn
    refine ⟨s.upCell c fun k => ({ k with loading := some (BitVec.ofNat 3 p.operand), lastSlot := BitVec.ofNat 3 p.operand } : CellS).issuedTo
      (nextOf (s.progOf i) l j), congrArg Host.Outcome.next ((State.onInstr_run hn hop _).trans ?_), ?_, ?_, s.upCell_onlyCell c _⟩
    · simp only [hpl, hld, hsw, Bool.not_true, Option.isSome_none, Bool.or_self, Bool.false_eq_true, if_false, State.doLoad]
      exact State.upCell_issued ho hp _ rfl
    all_goals rw [s.upCell_at]; rfl
  · refine ⟨_, congrArg Host.Outcome.next ((State.onInstr_run hn hop _).trans ((if_neg (by rw [hpl]; decide)).trans (if_pos ?_))), s.upCell_at c _,
      s.upCell_onlyCell c _⟩
    rw [Bool.or_eq_true]
    exact hw
  · obtain ⟨-, -, -, ho, hp⟩ := State.nextInstr_some hn
    refine ⟨s.upCell c fun k => ({ k with switching := true } : CellS).issuedTo (nextOf (s.progOf i) l j),
      congrArg Host.Outcome.next ((State.onInstr_run hn hop _).trans ((if_neg (by rw [hw]; decide)).trans ((if_pos hv).trans ?_))), ?_, ?_,
      s.upCell_onlyCell c _⟩
    · exact State.upCell_issued ho hp _ rfl
    all_goals rw [s.upCell_at]; rfl
  · exact ⟨_, congrArg Host.Outcome.next ((State.onInstr_run hn hop _).trans (if_pos hw)), s.upCell_at c _, s.upCell_onlyCell c _⟩
  · obtain ⟨-, -, hf, -, -⟩ := State.nextInstr_some hn
    refine ⟨(s.upCell c fun k => { k with held := some .switch, frameFault := true }).cellFault c 1,
      congrArg Host.Outcome.next ((State.onInstr_run hn hop _).trans ((if_neg (by rw [hw]; decide)).trans ?_)), s.upCell_at c _,
      s.upCell_fault_onlyCell c _ 1⟩
    exact (if_neg (by rw [hv]; decide)).trans ((if_pos hl).trans (if_neg (by rw [hf]; decide)))
  · refine ⟨s.programFault c, congrArg Host.Outcome.next ((State.onInstr_run hn hop _).trans ((if_neg (by rw [hw]; decide)).trans ?_)),
      s.programFault_ended c hj⟩
    exact (if_neg (by rw [hv]; decide)).trans (if_neg (by rw [hl]; decide))
  · obtain ⟨-, -, -, ho, hp⟩ := State.nextInstr_some hn
    obtain ⟨n, r, h, ⟨hpos, hstep, hargs⟩, hu, hat, hne⟩ := State.beginNest_begun (s.startArgs c p.operand) ho
    have issued := State.issued_of (s := s.beginNest c (s.startArgs c p.operand)) (i := i) (l := l) (j := j) (by rw [hu]; exact ho)
      ((congrArg CellS.pc hat).trans hp)
    refine ⟨(s.beginNest c (s.startArgs c p.operand)).issued c, congrArg Host.Outcome.next ((State.onInstr_run hn hop _).trans ((if_neg (by rw [hsw, hh]; decide)).trans
      ((if_neg (by rw [hv]; decide)).trans
      (if_neg (by rw [hnest]; decide))))), ⟨n, ?_, hpos, hstep, hargs.trans (State.startArgs_eq _ ho)⟩, ?_, ?_, fun o h => ?_, ?_⟩
    all_goals rw [issued]
    · rw [State.upCell_at, hat]
      rfl
    · rw [State.upCell_at, hat, hu]
      rfl
    · rw [State.upCell_at, hat]
      rfl
    · exact (State.upCell_ne _ c _ o h).trans (hne o h)
    · rw [hu]
      rfl
  · obtain ⟨-, -, -, ho, hp⟩ := State.nextInstr_some hn
    refine ⟨_, congrArg Host.Outcome.next ((State.onInstr_run hn hop _).trans ((if_neg (by rw [hsw, hh]; decide)).trans
      ((if_neg (by rw [hv]; decide)).trans
      ((if_pos hnest).trans (State.upCell_issued ho hp _ rfl))))), ?_, ?_, ?_, s.upCell_onlyCell c _⟩
    · rw [s.upCell_at]
      exact congrArg some (State.startArgs_eq _ ho)
    all_goals rw [s.upCell_at]; rfl
  · refine ⟨_, congrArg Host.Outcome.next ((State.onInstr_run hn hop _).trans (if_pos ?_)), ?_, s.upCell_onlyCell c _⟩
    · rw [Bool.or_eq_true]
      exact hw
    · rw [s.upCell_at, startOperand_low_eq, startOperand_high_eq]
  · refine ⟨s.programFault c, congrArg Host.Outcome.next ((State.onInstr_run hn hop _).trans ((if_neg (by rw [hsw, hh]; decide)).trans
      (if_pos ?_))),
      s.programFault_ended c hj⟩
    rw [hv]
    rfl
  · obtain ⟨held, shadow, active, loading, writes, store⟩ := CellS.cured_keeps 
      (s.cells[c].shadowed (s.cells[c].slotFrame slot) ue).writeSlots
    have none_held : (s.upCell c fun k => (k.shadowed (s.cells[c].slotFrame slot) ue).writeSlots.cured).cells[c].held = none := by
      rw [s.upCell_at]
      exact held.trans hh
    refine ⟨s.upCell c fun k => (k.shadowed (s.cells[c].slotFrame slot) ue).writeSlots.cured, ?_, ?_, ?_, ?_, ?_, ?_,
      s.upCell_onlyCell c _⟩
    · simp only [exec, execFrameLoadDone, hl]
      exact congrArg Host.Outcome.next (State.retry_of_none none_held)
    all_goals rw [s.upCell_at]
    · exact shadow
    · exact active
    · exact loading
    · exact writes
    · exact store
  · obtain ⟨m, ⟨v, hv⟩, only⟩ := (s.upCell c CellS.exchange).pressure_creditsOnly c
    have hc : ((s.upCell c CellS.exchange).pressure c).cells[c] = _ := only c
    have at_ : ({ s.upCell c CellS.exchange with free := m } : State).cells[c] = s.cells[c].exchange := s.upCell_at c _
    rw [at_] at hc
    have none_held : ((s.upCell c CellS.exchange).pressure c).cells[c].held = none := (congrArg CellS.held hc).trans hh
    refine ⟨(s.upCell c CellS.exchange).pressure c, ?_, congrArg CellS.active hc, congrArg CellS.shadow hc, congrArg CellS.seq hc,
      congrArg CellS.outCount hc, congrArg CellS.ringPos hc, congrArg CellS.switching hc, (congrArg CellS.store hc).trans rfl, ?_⟩
    · exact congrArg Host.Outcome.next ((if_pos hsw).trans (State.retry_of_none none_held))
    · rw [hv]
      rfl

end Sys2Proof.Machine
end

section
/-! PROOFS. The reload of an invalid frame (R236, R263) and the tokens of SIGNAL and AWAIT (R65, R67, R220). -/
namespace Sys2Proof.Machine

/-! ### The health of a cell -/

/-- A change of cells that keeps their health keeps the health of every one. -/
theorem State.upCell_health (s : State) (d c : Fin 1024) (f : CellS → CellS) (hf : (f s.cells[d]).health = s.cells[d].health) :
    (s.upCell d f).cells[c].health = s.cells[c].health := by
  by_cases h : c = d
  · subst h
    rw [s.upCell_at, hf]
  · rw [s.upCell_ne d f c h]

@[simp] theorem CellS.put_health (k : CellS) (w : Nat) (bs : Bytes) : (k.put w bs).health = k.health := rfl

theorem State.upTile_health (s : State) (d c : Fin 1024) (seq : Word) (slot : Nat) (g : QTile → QTile) :
    (s.upTile d seq slot g).cells[c].health = s.cells[c].health := s.upCell_health d c _ rfl

theorem State.takeWord_health (c : Fin 1024) (s : State) (i : Nat) (w : QWord) : (s.takeWord i w).cells[c].health = s.cells[c].health := by
  unfold State.takeWord
  dsimp only
  repeat' split
  · rfl
  · rfl
  · exact State.upTile_health ..
  · rw [State.upTile_health]
    refine State.when_keeps (fun t : State => t.cells[c].health) _ _ _ ?_
    exact State.upCell_health _ _ _ (fun r => CellS.put r _ _) (CellS.put_health ..)
  · rfl

theorem State.emptyQueue_cells (s : State) (q : Fin 7680) : (s.emptyQueue q).cells = s.cells := by
  unfold State.emptyQueue
  dsimp only
  split <;> rfl

theorem State.flushCross_health (c : Fin 1024) (s : State) (i : Nat) : (s.flushCross i).cells[c].health = s.cells[c].health := by
  refine (foldl_keeps (fun t : State => t.cells[c].health) _ (fun t q => ?_) _ _).trans ?_
  · rw [State.emptyQueue_cells]
  · exact foldl_keeps (fun t : State => t.cells[c].health) _ (fun t w => t.takeWord_health c i w) _ _

theorem State.renameAll_health (c : Fin 1024) (b s : State) : (State.renameAll b s).cells[c].health = s.cells[c].health := by
  refine foldl_keeps (fun t : State => t.cells[c].health) _ (fun t r => ?_) _ _
  refine foldl_keeps (fun t : State => t.cells[c].health) _ (fun t l => ?_) _ _
  split
  · exact State.upCell_health _ _ _ _ rfl
  · rfl

theorem State.retarget_cells (s : State) (d : Fin 4) : (s.retarget d).cells = s.cells := by
  unfold State.retarget
  dsimp only
  repeat' split
  all_goals rfl

theorem State.refreqCluster_cells (s : State) (c : Fin 64) : (s.refreqCluster c).cells = s.cells := by
  unfold State.refreqCluster
  dsimp only
  repeat' split
  all_goals rfl

theorem State.refreq_cells (s : State) : s.refreq.cells = s.cells := by
  unfold State.refreq
  split
  · rfl
  · exact (foldl_keeps State.cells _ State.retarget_cells _ _).trans (foldl_keeps State.cells _ State.refreqCluster_cells _ _)

theorem State.clockBound_cells (s : State) : s.clockBound.cells = s.cells := by
  unfold State.clockBound
  split
  · rfl
  · exact foldl_keeps State.cells _ (fun s c => s.upCluster_cells c _) _ _

/-- A region that moves keeps the health of every cell: what it takes along is of its program, not of the silicon. -/
theorem State.moveRegion_health (c : Fin 1024) (s : State) (i : Nat) (cl : Fin 64) (sym : Nat) :
    (s.moveRegion i cl sym).cells[c].health = s.cells[c].health := by
  unfold State.moveRegion
  dsimp only
  rw [State.refreq_cells, State.clockBound_cells, foldl_keeps State.cells State.askFrames fun _ _ => rfl]
  refine (State.renameAll_health c _ _).trans ?_
  refine (foldl_keeps (fun t : State => t.cells[c].health) _ (fun t x => ?_) _ _).trans ?_
  · split
    · rfl
    · next d _ => exact t.upCell_health d c (fun k => x.2.2.carry k) rfl
  refine (foldl_keeps (fun t : State => t.cells[c].health) _ (fun t x => ?_) _ _).trans ?_
  · exact t.upCell_health x.2.1 c CellS.unbind rfl
  rw [foldl_keeps State.cells State.attachOne fun _ _ => rfl]
  exact foldl_keeps (fun t : State => t.cells[c].health) _ (fun t j => t.flushCross_health c j) _ _

theorem State.issued_health (c d : Fin 1024) (s : State) : (s.issued d).cells[c].health = s.cells[c].health := by
  unfold State.issued
  split
  · exact State.upCell_health _ _ _ _ rfl
  · rfl

theorem blindToJob_health (c : Fin 1024) : BlindToJob fun s : State => s.cells[c].health := by
  refine ⟨fun s => ?_, fun _ _ => rfl, fun _ _ => rfl, fun _ _ => rfl, fun _ _ => rfl, fun _ _ => rfl, fun _ _ => rfl, fun _ _ => rfl, fun _ _ => rfl⟩
  simp [State.stopRegions]

theorem State.programFault_health (c d : Fin 1024) (s : State) : (s.programFault d).cells[c].health = s.cells[c].health :=
  (blindToJob_health c).leaveJobs (s.cellFault d 2) false

theorem State.beginNest_health (c d : Fin 1024) (a : StartArgs) (s : State) : (s.beginNest d a).cells[c].health = s.cells[c].health := by
  cases ho : s.ownerOf d with
  | none =>
    unfold State.beginNest
    rw [ho]
  | some x =>
    obtain ⟨n, r, h, -, e, -, -⟩ := State.beginNest_begun (s := s) (c := d) (i := x.1) (l := x.2) a ho
    rw [e]
    exact s.upCell_health d c (fun k => { k with nest := some n }) rfl

/-- A command that a cell held back, issued at last, keeps the health of every cell. -/
theorem State.retry_health (c d : Fin 1024) (s : State) : (s.retry d).cells[c].health = s.cells[c].health := by
  unfold State.retry State.doLoad State.doSwitch State.doStart
  dsimp only
  repeat' split
  · rfl
  · rfl
  · exact (State.issued_health ..).trans (State.upCell_health _ _ _ _ rfl)
  · rfl
  · exact (State.issued_health ..).trans (State.upCell_health _ _ _ _ rfl)
  · rfl
  · exact State.upCell_health s d c (fun k => { k with held := some .switch, frameFault := true }) rfl
  · exact State.programFault_health ..
  · rfl
  · exact State.programFault_health ..
  · exact (State.issued_health ..).trans (State.upCell_health _ _ _ _ rfl)
  · exact (State.issued_health ..).trans (State.beginNest_health ..)

/-! ### The reload -/

theorem State.withBuf_some {s : State} {w : Work} {b : Fin 128 × StageBuf} (h : s.mover.bufOf w = some b) (k : Bool → State → State) :
    s.withBuf w k = k b.2.bad (s.upMover fun m => m.land w) := by
  unfold State.withBuf
  rw [h]
theorem State.withBuf_none {s : State} {w : Work} (h : s.mover.bufOf w = none) (k : Bool → State → State) :
    s.withBuf w k = s.upMover fun m => m.claim w := by
  unfold State.withBuf
  rw [h]

/-- Placing a frame writes a slot of one cell. -/
theorem State.placeFrame_eq (s : State) (i : Nat) (f : Bytes) : ∃ v, s.placeFrame i f = { s with cells := v } := by
  unfold State.placeFrame
  split
  · exact ⟨s.cells, rfl⟩
  · exact ⟨_, rfl⟩

/-- The state in which the image copy of a frame is in its slot again. -/
def State.reloadedFrom (s : State) (i l : Nat) (slot : BitVec 3) : State :=
  match s.imageFrame i l slot with
  | none => s
  | some f => s.placeFrame i f

theorem State.reloadedFrom_eq (s : State) (i l : Nat) (slot : BitVec 3) : ∃ v, s.reloadedFrom i l slot = { s with cells := v } := by
  unfold State.reloadedFrom
  split
  · exact ⟨s.cells, rfl⟩
  · exact s.placeFrame_eq ..

theorem State.reloadedFrom_lastSlot (s : State) (c : Fin 1024) (i l : Nat) (slot : BitVec 3) :
    (s.reloadedFrom i l slot).cells[c].lastSlot = s.cells[c].lastSlot := by
  have kept : ∀ (k : CellS) (n : Nat) (bs : Bytes), (k.writeSlot n bs).lastSlot = k.lastSlot := fun k n bs => by
    unfold CellS.writeSlot
    split <;> rfl
  unfold State.reloadedFrom State.placeFrame
  repeat' split
  · rfl
  · rfl
  · next d _ =>
    by_cases h : c = d
    · subst h
      rw [s.upCell_at, kept]
    · rw [s.upCell_ne d _ c h]

theorem State.reloadedFrom_store {s : State} {c : Fin 1024} {i l : Nat} {slot : BitVec 3} {f : Bytes} (hi : s.imageFrame i l slot = some f)
    (hc : s.physCell i (fCell f) = some c) (hl : s.cells[c].loading = none) :
    (s.reloadedFrom i l slot).cells[c].store = s.cells[c].store.writeN (slotAddr (fSlot f)) (rewriteFrame f (s.bindEntry i (fCell f))) := by
  unfold State.reloadedFrom State.placeFrame
  rw [hi]
  dsimp only
  rw [hc]
  dsimp only
  rw [s.upCell_at]
  unfold CellS.writeSlot
  rw [if_neg (by rw [hl]; exact nofun)]

/-- Settles O15: with a buffer the reload writes the slot of the cell's own frame, which nothing loads meanwhile; a second invalid frame fails the
cell first, and no later part of the command makes it good again. -/
theorem frameFaultReloadedOnce : Obligations.FrameFaultReloadedOnce := by
  unfold Obligations.FrameFaultReloadedOnce
  refine ⟨fun c i l b s hf hl ho hr hb => ?_, fun c i l s hf hl ho hr hb => ?_, fun c i l s hf hl ho hr hn => ?_, fun c i l s hf hl ho hr => ?_⟩
  · have run : exec (.frameFaultReload c) s = .next (((s.upMover fun m => m.land (.reload c)).reloadedFrom i l s.cells[c].lastSlot).upCell c fun k =>
        { k with loading := some k.lastSlot, reloaded := true }) := by
      simp only [exec, execFrameFaultReload, hf, hl, ho, hr, Bool.not_true, Bool.not_false, Option.isSome_none, Bool.or_self, Bool.false_eq_true, if_false,
        if_true, State.withBuf_some hb]
      rfl
    obtain ⟨v, hv⟩ := (s.upMover fun m => m.land (.reload c)).reloadedFrom_eq i l s.cells[c].lastSlot
    refine ⟨_, run, ?_, ?_, fun f hi hc => ?_, ?_, ?_⟩
    · rw [State.upCell_at]
      exact congrArg some (State.reloadedFrom_lastSlot ..)
    · rw [State.upCell_at]
    · rw [State.upCell_at]
      exact State.reloadedFrom_store (s := s.upMover fun m => m.land (.reload c)) hi hc hl
    · rw [hv]
      rfl
    · rw [hv]
      rfl
  · simp only [exec, execFrameFaultReload, hf, hl, ho, hr, Bool.not_true, Bool.not_false, Option.isSome_none, Bool.or_self, Bool.false_eq_true, if_false,
      if_true, State.withBuf_none hb]
    rfl
  · simp only [exec, execFrameFaultReload, hf, hl, ho, hr, Bool.not_true, Option.isSome_none, Bool.or_self, Bool.false_eq_true, if_false, hn]
  · have failed : (s.upCell c fun k => { k with health := .failed }).cells[c].health = .failed := by rw [s.upCell_at]
    simp only [exec, execFrameFaultReload, hf, hl, ho, hr, Bool.not_true, Option.isSome_none, Bool.or_self, Bool.false_eq_true, if_false]
    generalize (s.upCell c fun k => { k with health := .failed }) = u at failed ⊢
    split
    · exact ⟨u, rfl, failed⟩
    split
    · exact ⟨u, rfl, failed⟩
    split
    · exact ⟨_, rfl, (State.moveRegion_health ..).trans ((State.upCell_health _ _ _ _ rfl).trans failed)⟩
    · exact ⟨_, rfl, (State.retry_health ..).trans ((State.moveRegion_health ..).trans ((State.upCell_health _ _ _ _ rfl).trans failed))⟩

/-! ### Tokens (R65, R67, R220) -/

theorem HsQueue.readRx_visible {q : HsQueue} (h : 0 < q.visible) : q.readRx = { q with words := q.words.tail, visible := q.visible - 1 } := if_pos h

/-- Taking the front word of a queue takes it from that queue alone. -/
theorem State.consume_front {s : State} {q : Fin 7680} (h : 0 < s.queues[q].visible) : (s.consume q).queues[q].words = s.queues[q].words.tail ∧
    (∀ o : Fin 7680, o ≠ q → (s.consume q).queues[o] = s.queues[o]) ∧ ∃ v w, s.consume q = { s with queues := v, joins := w } := by
  unfold State.consume
  split
  · refine ⟨?_, s.upQueue_ne q _, _, s.joins, rfl⟩
    rw [s.upQueue_at, HsQueue.read_visible h]
  · rw [if_pos h]
    refine ⟨?_, s.upQueue_ne q _, _, _, rfl⟩
    exact congrArg HsQueue.words ((s.upQueue_at q _).trans (HsQueue.readRx_visible h))

/-- A cell that takes a token goes on with its program. -/
theorem State.takeToken_some {s t : State} {c : Fin 1024} {a : BitVec 6} {i l j x : Nat} (hx : s.awaitCross c a.toNat = some x)
    (ht : s.popToken x = some t) (ho : t.ownerOf c = some (i, l)) (hp : t.cells[c].pc = some j) :
    s.takeToken c a = t.upCell c fun k => ({ k with awaiting := none } : CellS).issuedTo (nextOf (t.progOf i) l j) := by
  unfold State.takeToken
  rw [hx, Option.bind_some, ht]
  exact State.upCell_issued ho hp _ rfl

theorem State.takeToken_none {s : State} {c : Fin 1024} {a : BitVec 6} {x : Nat} (hx : s.awaitCross c a.toNat = some x) (ht : s.popToken x = none) :
    s.takeToken c a = s.upCell c fun k => { k with awaiting := some a } := by
  unfold State.takeToken
  rw [hx, Option.bind_some, ht]

theorem State.popToken_kept {s : State} {x : Nat} (h : 0 < s.rt.tokens.getD x 0) :
    s.popToken x = some (s.upRt fun t => { t with tokens := t.tokens.modify x (· - 1) }) := if_pos h

theorem State.popToken_front {s : State} {x : Nat} {q q' : Fin 7680} {w : QWord} (h : s.rt.tokens.getD x 0 = 0) (hq : s.crossQueues x = some (q', q))
    (hf : s.queues[q].front = some w) (hk : w.kind = .token) : s.popToken x = some (s.consume q) := by
  unfold State.popToken
  rw [if_neg (by omega), hq]
  dsimp only
  rw [hf]
  exact if_pos (congrArg some hk)

theorem State.popToken_none {s : State} {x : Nat} {q q' : Fin 7680} (h : s.rt.tokens.getD x 0 = 0) (hq : s.crossQueues x = some (q', q))
    (hf : (s.queues[q].front).map (·.kind) ≠ some .token) : s.popToken x = none := by
  unfold State.popToken
  rw [if_neg (by omega), hq]
  exact if_neg hf

theorem awaitOperand (x : Nat) : (BitVec.ofNat 6 x).toNat = x % 64 := BitVec.toNat_ofNat x 6

/-- A token in front of its queue is taken for a cell that awaits it: the queue gives its front word, and the cell's program goes on. -/
theorem State.takeToken_front {s : State} {c : Fin 1024} {a : BitVec 6} {i l j x : Nat} {q q' : Fin 7680} {w : QWord}
    (ho : s.ownerOf c = some (i, l)) (hp : s.cells[c].pc = some j) (hx : s.awaitCross c a.toNat = some x) (h : s.rt.tokens.getD x 0 = 0)
    (hq : s.crossQueues x = some (q', q)) (hf : s.queues[q].front = some w) (hk : w.kind = .token) :
    (s.takeToken c a).queues[q].words = s.queues[q].words.tail ∧ (s.takeToken c a).cells[c].awaiting = none ∧
    (s.takeToken c a).cells[c].pc = nextOf (s.progOf i) l j ∧ (∀ o : Fin 7680, o ≠ q → (s.takeToken c a).queues[o] = s.queues[o]) ∧
    s.takeToken c a = { s with queues := (s.takeToken c a).queues, joins := (s.takeToken c a).joins, cells := (s.takeToken c a).cells } := by
  obtain ⟨words, others, v, u, hs⟩ := State.consume_front (HsQueue.visible_of_front hf)
  have run := State.takeToken_some (i := i) (l := l) (j := j) hx (State.popToken_front h hq hf hk) (by rw [hs]; exact ho) (by rw [hs]; exact hp)
  rw [run]
  refine ⟨words, ?_, ?_, others, ?_⟩
  · rw [State.upCell_at]
    rfl
  · rw [State.upCell_at, hs]
    rfl
  · rw [hs]
    rfl

/-- Settles O16: SIGNAL is a write of one word and the next instruction; AWAIT takes a kept token, or the front one, or marks its cell as waiting. -/
theorem tokensSignalledAndAwaited : Obligations.TokensSignalledAndAwaited := by
  unfold Obligations.TokensSignalledAndAwaited
  refine ⟨⟨fun c i l j x p q q' s hn hop hx hq hw => ?_, fun c i l j x p q q' s hn hop hx hq hw => ?_⟩, fun c i l j x p s hn hop hx ht => ?_,
    fun c i l j x p q q' w s hn hop hx ht hq hf hk => ?_, fun c i l j x p q q' s hn hop hx ht hq hf => ?_,
    fun c i l j x a q q' w s ha ho hp hx ht hq hf hk => ?_⟩
  · obtain ⟨-, -, -, ho, hp⟩ := State.nextInstr_some hn
    have run : exec (.progSignal c) s = .next (State.issued (State.upQueue { s with free := s.free + 1 } q
        (·.write { kind := .token, data := (s.fresh 512).1 })) c) := by
      refine congrArg Host.Outcome.next ((State.onInstr_run hn hop _).trans ?_)
      simp only [hx, hq, Option.bind_some, hw, if_true]
      rfl
    have issued := State.issued_of (s := State.upQueue { s with free := s.free + 1 } q (·.write { kind := .token, data := (s.fresh 512).1 })) ho hp
    rw [issued] at run
    refine ⟨_, run, ⟨{ kind := .token, data := (s.fresh 512).1 }, rfl, ?_⟩, ?_, State.upQueue_ne { s with free := s.free + 1 } q _, rfl⟩
    · exact congrArg HsQueue.words ((State.upQueue_at { s with free := s.free + 1 } q _).trans (HsQueue.write_free _ hw))
    · rw [State.upCell_at]
      rfl
  · refine congrArg Host.Outcome.next ((State.onInstr_run hn hop _).trans ?_)
    simp only [hx, hq, Option.bind_some, hw, Bool.false_eq_true, if_false]
  · obtain ⟨-, -, -, ho, hp⟩ := State.nextInstr_some hn
    rw [← awaitOperand] at hx
    refine ⟨_, congrArg Host.Outcome.next ((State.onInstr_run hn hop _).trans (State.takeToken_some (i := i) (l := l) (j := j) hx (State.popToken_kept ht) ho hp)),
      rfl, ?_, ?_, rfl⟩
    all_goals rw [State.upCell_at]; rfl
  · obtain ⟨-, -, -, ho, hp⟩ := State.nextInstr_some hn
    rw [← awaitOperand] at hx
    exact ⟨_, congrArg Host.Outcome.next (State.onInstr_run hn hop _), State.takeToken_front ho hp hx ht hq hf hk⟩
  · rw [← awaitOperand] at hx
    refine ⟨_, congrArg Host.Outcome.next ((State.onInstr_run hn hop _).trans (State.takeToken_none hx (State.popToken_none ht hq hf))), ?_,
      s.upCell_onlyCell c _⟩
    rw [s.upCell_at]
  · obtain ⟨words, awaiting, pc, -, frame⟩ := State.takeToken_front ho hp hx ht hq hf hk
    refine ⟨s.takeToken c a, ?_, words, awaiting, pc, frame⟩
    simp only [exec, execAwaitTokenReady, ha]

end Sys2Proof.Machine
end

section
/-! PROOFS. Runs of regions, and their moves at REBIND or at the end of a run (R219, R221, R237, R263, R554). -/
namespace Sys2Proof.Machine

/-! ### The runtime's note of a region -/

theorem getD_modify {α : Type} (l : List α) (i j : Nat) (f : α → α) (d : α) :
    (l.modify i f).getD j d = if i = j ∧ j < l.length then f (l.getD j d) else l.getD j d := by
  by_cases hj : j < l.length
  · by_cases h : i = j
    · subst h
      simp [List.getD_eq_getElem?_getD, hj]
    · simp [List.getD_eq_getElem?_getD, hj, h]
  · simp [List.getD_eq_getElem?_getD, hj]

theorem State.upRegion_regionS (s : State) (i : Nat) (f : RegionS → RegionS) (h : i < s.rt.regions.length) :
    (s.upRegion i f).regionS i = f (s.regionS i) := (getD_modify ..).trans (if_pos ⟨rfl, h⟩)

theorem State.upRegion_length (s : State) (i : Nat) (f : RegionS → RegionS) : (s.upRegion i f).rt.regions.length = s.rt.regions.length :=
  List.length_modify ..

/-- What a change of a region keeps of it, it keeps of every region. -/
theorem State.upRegion_keeps {α : Type} (g : RegionS → α) (s : State) (i j : Nat) (f : RegionS → RegionS) (h : ∀ r, g (f r) = g r) :
    g ((s.upRegion i f).regionS j) = g (s.regionS j) := by
  refine (congrArg g (getD_modify s.rt.regions i j f .reset)).trans ?_
  split
  · exact h _
  · rfl

/-- A region that runs is one of the image's. -/
theorem State.lt_of_running {s : State} {i : Nat} (h : (s.regionS i).running = true) : i < s.rt.regions.length := by
  by_contra hi
  unfold State.regionS at h
  rw [List.getD_eq_getElem?_getD, List.getElem?_eq_none (Nat.le_of_not_lt hi)] at h
  cases h

theorem State.lt_of_canRun {s : State} {r : Nat} (h : s.canRun r = true) : r < s.rt.regions.length := by
  unfold State.canRun at h
  simp only [Bool.and_eq_true, decide_eq_true_eq] at h
  obtain ⟨⟨⟨⟨⟨⟨⟨⟨hr, -⟩, -⟩, -⟩, -⟩, -⟩, -⟩, -⟩, -⟩ := h
  exact hr

/-! ### A run begins -/

/-- A fold of changes of cells changes cells alone. -/
theorem foldl_cells {α : Type} (f : State → α → State) (h : ∀ s a, ∃ v, f s a = { s with cells := v }) (l : List α) (s : State) :
    ∃ v, l.foldl f s = { s with cells := v } := by
  induction l generalizing s with
  | nil => exact ⟨s.cells, rfl⟩
  | cons a l ih =>
    obtain ⟨v, hv⟩ := h s a
    obtain ⟨w, hw⟩ := ih (f s a)
    refine ⟨w, ?_⟩
    rw [List.foldl_cons, hw, hv]

theorem State.startRegion_eq (s : State) (r : Nat) : ∃ v at_, s.startRegion r =
    State.upRegion { s with cells := v } r fun g => { g with running := true, step := s.job.step, replay := s.job.replay, startCycle := at_ } := by
  unfold State.startRegion
  dsimp only
  generalize started : List.foldl _ s _ = u
  obtain ⟨v, rfl⟩ : ∃ v, u = { s with cells := v } := started ▸ foldl_cells _ (fun s' l => by
    split
    · exact ⟨s'.cells, rfl⟩
    · exact ⟨_, rfl⟩) _ _
  exact ⟨v, _, rfl⟩

/-! ### The end of a run -/

theorem State.noteWait_eq (s : State) : ∃ f, s.noteWait = s.upJob f := by
  unfold State.noteWait
  split
  · exact ⟨_, rfl⟩
  · exact ⟨_, rfl⟩
  · exact ⟨id, rfl⟩

theorem State.holdCheck_eq (s : State) : ∃ j h, s.holdCheck = { s with job := j, host := h } := by
  unfold State.holdCheck
  dsimp only
  repeat' split
  · exact ⟨_, s.host, rfl⟩
  · exact ⟨_, _, rfl⟩
  · exact ⟨s.job, s.host, rfl⟩

/-- What a step notes of a run's end is of the job, and the completion of a HOLD. -/
theorem State.noteStep_eq (s : State) : ∃ j h, s.noteStep = { s with job := j, host := h } := by
  obtain ⟨f, hf⟩ := s.noteWait_eq
  obtain ⟨j, h, hh⟩ := s.noteWait.holdCheck_eq
  refine ⟨j, h, hh.trans ?_⟩
  rw [hf]
  rfl

/-! ### A region moves -/

/-- Of a region: where it is bound, its generation, and whether it runs or is to move. -/
structure RegionPlace where
  cluster : Option (Fin 64)
  sym : Nat
  gen : Half
  running : Bool
  moveTo : Option (Fin 64 × Nat)

def RegionS.place (g : RegionS) : RegionPlace := { cluster := g.cluster, sym := g.sym, gen := g.gen, running := g.running, moveTo := g.moveTo }

theorem State.refreq_rt (s : State) : s.refreq.rt = s.rt := by
  have cluster : ∀ (t : State) c, (t.refreqCluster c).rt = t.rt := fun t c => by
    unfold State.refreqCluster
    dsimp only
    repeat' split
    all_goals rfl
  have rail : ∀ (t : State) d, (t.retarget d).rt = t.rt := fun t d => by
    unfold State.retarget
    dsimp only
    repeat' split
    all_goals rfl
  unfold State.refreq
  split
  · rfl
  · exact (foldl_keeps State.rt _ rail _ _).trans (foldl_keeps State.rt _ cluster _ _)

theorem State.clockBound_rt (s : State) : s.clockBound.rt = s.rt := by
  unfold State.clockBound
  split
  · rfl
  · exact foldl_keeps State.rt _ (fun s c => s.upCluster_rt c _) _ _

theorem State.takeWord_rt (s : State) (i : Nat) (w : QWord) : (s.takeWord i w).rt = s.rt := by
  unfold State.takeWord
  dsimp only
  repeat' split
  · rfl
  · rfl
  · rfl
  · exact State.when_keeps State.rt _ _ _ rfl
  · rfl

theorem State.emptyQueue_rt (s : State) (q : Fin 7680) : (s.emptyQueue q).rt = s.rt := by
  unfold State.emptyQueue
  dsimp only
  split <;> rfl

theorem State.flushCross_regions (s : State) (i : Nat) : (s.flushCross i).rt.regions = s.rt.regions := by
  have taken := foldl_keeps State.rt (fun s w => s.takeWord i w) (fun t w => t.takeWord_rt i w) ((s.crossPath i).reverse.flatMap s.wordsAt) s
  unfold State.flushCross
  dsimp only
  rw [foldl_keeps State.rt State.emptyQueue State.emptyQueue_rt]
  have regions := congrArg (fun t : Runtime => t.regions) taken
  exact regions

theorem State.askFrames_place (s : State) (i j : Nat) : ((s.askFrames i).regionS j).place = (s.regionS j).place :=
  State.upRegion_keeps RegionS.place s i j _ fun _ => rfl

theorem State.renameAll_rt (b s : State) : (State.renameAll b s).rt = s.rt := by
  refine foldl_keeps State.rt _ (fun t r => foldl_keeps State.rt _ (fun t l => ?_) _ _) _ _
  split <;> rfl

theorem State.foldl_unbind_rt {α : Type} (c : α → Fin 1024) (l : List α) (s : State) :
    (l.foldl (fun s x => s.upCell (c x) CellS.unbind) s).rt = s.rt := foldl_keeps State.rt _ (fun t x => t.upCell_rt (c x) _) l s

/-- A region that moves is bound where it was to go, with the next generation, and is no longer to move; whether it runs does not change. -/
theorem State.moveRegion_place (s : State) (i : Nat) (cl : Fin 64) (sym : Nat) (h : i < s.rt.regions.length) :
    ((s.moveRegion i cl sym).regionS i).place =
      { cluster := some cl, sym := sym, gen := (s.regionS i).gen + 1, running := (s.regionS i).running, moveTo := none } := by
  have flushed := foldl_keeps (fun t : State => t.rt.regions) State.flushCross State.flushCross_regions (s.crossingsOf i) s
  unfold State.moveRegion
  dsimp only
  generalize (s.crossingsOf i).foldl State.flushCross s = u at flushed ⊢
  have here : i < u.rt.regions.length := flushed ▸ h
  have now : u.regionS i = s.regionS i := congrArg (·.getD i .reset) flushed
  unfold State.regionS
  rw [State.refreq_rt, State.clockBound_rt]
  change RegionS.place ((List.foldl State.askFrames _ _).regionS i) = _
  refine (foldl_keeps (fun t : State => (t.regionS i).place) State.askFrames (fun t p => t.askFrames_place p i) _ _).trans ?_
  refine (State.askFrames_place _ i i).trans ?_
  unfold State.regionS
  rw [State.renameAll_rt, foldl_keeps State.rt _ fun t x => ?carried, foldl_unbind_rt,
    foldl_keeps (fun t : State => t.rt.regions) State.attachOne fun _ _ => rfl]
  case carried => split <;> rfl
  change RegionS.place (((u.upRegion i _).upRegion i _).regionS i) = _
  rw [State.upRegion_regionS _ _ _ ((u.upRegion_length i _).symm ▸ here), State.upRegion_regionS _ _ _ here, now]
  rfl

theorem State.noteStep_regionS (s : State) (i : Nat) : s.noteStep.regionS i = s.regionS i := by
  obtain ⟨j, h, hs⟩ := s.noteStep_eq
  rw [hs]
  rfl

/-- A cell's owner is one of the image's regions. -/
theorem State.lt_of_owner {s : State} {c : Fin 1024} {i l : Nat} (h : s.ownerOf c = some (i, l)) : i < s.rt.regions.length := by
  obtain ⟨j, hj, hf⟩ := List.exists_of_findSome?_eq_some h
  obtain ⟨m, -, hm⟩ := Option.map_eq_some_iff.mp hf
  cases hm
  exact List.mem_range.mp hj

/-- A region that is not to move stays, and one that is to move and may goes to its new cells. -/
theorem State.moveIfAsked_none {s : State} {i : Nat} (h : (s.regionS i).moveTo = none) : s.moveIfAsked i = s := by
  unfold State.moveIfAsked
  rw [h]

theorem State.moveIfAsked_place {s : State} {i sym : Nat} {cl : Fin 64} (hi : i < s.rt.regions.length)
    (h : (s.regionS i).moveTo = some (cl, sym)) (hfree : s.cellsFree i cl sym = true) (hmay : s.mayMoveRegion i = true) :
    ((s.moveIfAsked i).regionS i).place =
      { cluster := some cl, sym := sym, gen := (s.regionS i).gen + 1, running := (s.regionS i).running, moveTo := none } := by
  refine .trans (congrArg (fun t : State => (t.regionS i).place) ?_) (s.moveRegion_place i cl sym hi)
  unfold State.moveIfAsked
  rw [h]
  simp only [hfree, hmay, Bool.and_self, if_true]

/-- Whether cells are free is said by where the regions are bound. -/
theorem State.upRegion_cellsFree (s : State) (r i sym : Nat) (cl : Fin 64) (f : RegionS → RegionS)
    (hc : ∀ g, (f g).cluster = g.cluster) (hs : ∀ g, (f g).sym = g.sym) : (s.upRegion r f).cellsFree i cl sym = s.cellsFree i cl sym := by
  have phys : (s.upRegion r f).physCell = s.physCell := by
    funext j l
    unfold State.physCell
    rw [State.upRegion_keeps RegionS.cluster s r j f hc, State.upRegion_keeps RegionS.sym s r j f hs]
  have owner : (s.upRegion r f).ownerOf = s.ownerOf := by
    funext c
    unfold State.ownerOf
    rw [phys, s.upRegion_length]
    rfl
  unfold State.cellsFree
  rw [owner]
  rfl

theorem State.upRegion_mayMove (s : State) (r i : Nat) (f : RegionS → RegionS) : (s.upRegion r f).mayMoveRegion i = s.mayMoveRegion i := rfl

/-- The region after its run: it runs no longer, and has run once more. -/
def RegionS.ended (g : RegionS) (beyond : Word) : RegionS := { g with running := false, doneRuns := g.doneRuns + 1, beyond := beyond }

theorem State.regionRunComplete_over {r : Fin 4096} {s : State} (h : s.runOver r.val = true) :
    ∃ b, exec (.regionRunComplete r) s = .next (((s.upRegion r.val (·.ended b)).moveIfAsked r.val).noteStep) := ⟨_, if_pos h⟩

theorem State.running_of_runOver {s : State} {r : Nat} (h : s.runOver r = true) : (s.regionS r).running = true := (Bool.and_eq_true_iff.mp h).1

/-- Settles O17. -/
theorem regionRunsOnceAndMovesAtItsEnd : Obligations.RegionRunsOnceAndMovesAtItsEnd := by
  unfold Obligations.RegionRunsOnceAndMovesAtItsEnd
  refine ⟨fun r s hrun hplaced => ?_, fun r s hrun hplaced => ?_, fun r s hrun => ?_, fun r s hover hstay => ?_,
    fun r cl sym s hover hmove hfree hmay => ?_, fun c i l j p s hn hop hstay => ?_, fun c i l j p cl sym s hn hop hmove hfree hmay => ?_⟩
  · obtain ⟨v, at_, ht⟩ := s.startRegion_eq r.val
    refine ⟨s.startRegion r.val, ?_, ?_, ?_, ?_⟩
    · change Host.Outcome.next _ = _
      rw [hrun, hplaced]
      rfl
    · rw [ht]
      exact congrArg RegionS.running (State.upRegion_regionS { s with cells := v } r.val _ (State.lt_of_canRun hrun))
    · rw [ht]
      exact congrArg RegionS.step (State.upRegion_regionS { s with cells := v } r.val _ (State.lt_of_canRun hrun))
    · rw [ht]
      rfl
  · refine ⟨s.askFrames r.val, ?_, rfl, rfl⟩
    change Host.Outcome.next _ = _
    rw [hrun, hplaced]
    rfl
  · change Host.Outcome.next _ = _
    rw [hrun]
    rfl
  · obtain ⟨b, hb⟩ := State.regionRunComplete_over hover
    have ended := s.upRegion_regionS r.val (·.ended b) (State.lt_of_running (State.running_of_runOver hover))
    rw [State.moveIfAsked_none ((congrArg RegionS.moveTo ended).trans hstay)] at hb
    refine ⟨_, hb, ?_, ?_, ?_⟩
    · rw [State.noteStep_regionS, ended]
      rfl
    · rw [State.noteStep_regionS, ended]
      rfl
    · obtain ⟨j, h, hs⟩ := (s.upRegion r.val (·.ended b)).noteStep_eq
      rw [hs]
      rfl
  · obtain ⟨b, hb⟩ := State.regionRunComplete_over hover
    have here := State.lt_of_running (State.running_of_runOver hover)
    have ended := s.upRegion_regionS r.val (·.ended b) here
    have free := (s.upRegion_cellsFree r.val r.val sym cl (·.ended b) (fun _ => rfl) fun _ => rfl).trans hfree
    have may := (s.upRegion_mayMove r.val r.val (·.ended b)).trans hmay
    have asked := (congrArg RegionS.moveTo ended).trans hmove
    rw [← s.upRegion_length r.val (·.ended b)] at here
    generalize s.upRegion r.val (·.ended b) = u at hb ended here free may asked
    have moved := State.moveIfAsked_place here asked free may
    rw [ended, ← State.noteStep_regionS] at moved
    exact ⟨_, hb, congrArg RegionPlace.running moved, congrArg RegionPlace.cluster moved, congrArg RegionPlace.sym moved,
      congrArg RegionPlace.gen moved, congrArg RegionPlace.moveTo moved⟩
  · obtain ⟨-, -, -, ho, hp⟩ := State.nextInstr_some hn
    refine ⟨_, congrArg Host.Outcome.next ((State.onInstr_run hn hop _).trans ((congrArg (·.moveIfAsked i) (State.issued_of ho hp)).trans
      (State.moveIfAsked_none (s := s.upCell c _) hstay))), ?_, s.upCell_onlyCell c _⟩
    rw [State.upCell_at]
    rfl
  · obtain ⟨-, -, -, ho, hp⟩ := State.nextInstr_some hn
    have issued : s.issued c = s.upCell c _ := State.issued_of ho hp
    have same : (s.issued c).regionS i = s.regionS i := congrArg (·.regionS i) issued
    have here : i < (s.issued c).rt.regions.length := issued ▸ State.lt_of_owner ho
    have free : (s.issued c).cellsFree i cl sym = true := (congrArg (fun t : State => t.cellsFree i cl sym) issued).trans hfree
    have may : (s.issued c).mayMoveRegion i = true := (congrArg (fun t : State => t.mayMoveRegion i) issued).trans hmay
    have moved := State.moveIfAsked_place here (same ▸ hmove) free may
    rw [same] at moved
    exact ⟨_, congrArg Host.Outcome.next (State.onInstr_run hn hop _), congrArg RegionPlace.cluster moved, congrArg RegionPlace.sym moved,
      congrArg RegionPlace.gen moved, congrArg RegionPlace.moveTo moved⟩

end Sys2Proof.Machine
end

section
/-! PROOFS. Partial accumulators, the end and the resumption of nests, and an uncorrectable error of a cell store (R83, R92, R103, R133). -/
namespace Sys2Proof.Machine

/-! ### The accumulator set in use -/

theorem CellS.withAcc_setSt (k : CellS) (a : Vector Word 4096) (st : SetState) : (k.withAcc a st).setSt = st := by
  cases h : k.setNow <;> simp [CellS.setSt, CellS.withAcc, h]

theorem CellS.withAcc_acc (k : CellS) (a : Vector Word 4096) (st : SetState) : (k.withAcc a st).acc = a := by
  cases h : k.setNow <;> simp [CellS.acc, CellS.withAcc, h]

theorem CellS.withAcc_store (k : CellS) (a : Vector Word 4096) (st : SetState) : (k.withAcc a st).store = k.store := by
  cases h : k.setNow <;> simp [CellS.withAcc, h]

/-- The words of partial o in the cell store. -/
def CellS.partialWords (k : CellS) (f : Bytes) (o : Nat) : Vector Word 4096 :=
  .ofFn fun e => BitVec.ofNat 32 (k.store.readLE (64 * partWord f o + 4 * e.val) 4)

/-- Settles O19. -/
theorem partialLoadsTheWrittenWords : Obligations.PartialLoadsTheWrittenWords := by
  unfold Obligations.PartialLoadsTheWrittenWords
  intro c n s hn hdone hk hv hset hpart
  refine ⟨s.upCell c fun k => { k.withAcc (s.cells[c].partialWords s.cells[c].active.bytes (ordinalOf s.cells[c].active.bytes n.pos)) .ready with
      partials := k.partials.filter (· ≠ ordinalOf s.cells[c].active.bytes n.pos) }, ?_, ?_, fun e => ?_, ?_, ?_, s.upCell_onlyCell c _⟩
  · change execPartialLoad c s = _
    unfold execPartialLoad
    rw [hn]
    refine if_neg ?_
    have inside := List.contains_iff_mem.mpr hpart
    rw [hdone, hset, inside, decide_eq_false (not_not.mpr hk), decide_eq_false hv]
    decide
  all_goals rw [State.upCell_at]
  · exact CellS.withAcc_setSt s.cells[c] _ .ready
  · refine (congrArg (·[e]) (CellS.withAcc_acc s.cells[c] _ .ready)).trans ?_
    exact Vector.getElem_ofFn e.isLt
  · exact fun h => (of_decide_eq_true (List.mem_filter.mp h).2) rfl
  · exact CellS.withAcc_store s.cells[c] _ .ready

/-! ### The end of a nest -/

/-- The cell once its nest is over: the records that the nest read again have lost their marks. -/
def CellS.nestOver (k : CellS) (f : Bytes) (n : Nest) : CellS := { k.readRecords (k.repeated f n) with nest := none, heldStart := none }

/-- The state once a nest is over: the results of a transform nest are reported. -/
def State.nestOver (s : State) (c : Fin 1024) (n : Nest) : State :=
  (s.when (fPers s.cells[c].active.bytes = 3) fun s => s.reportNest n s.cells[c].active.bytes).upCell c (·.nestOver s.cells[c].active.bytes n)

theorem State.nestOver_eq (s : State) (c : Fin 1024) (n : Nest) : ∃ r, r.regions = s.rt.regions ∧ r.image = s.rt.image ∧
    s.nestOver c n = { s.upCell c (·.nestOver s.cells[c].active.bytes n) with rt := r } := by
  unfold State.nestOver
  cases fPers s.cells[c].active.bytes = 3 |> decide
  · exact ⟨s.rt, rfl, rfl, rfl⟩
  · exact ⟨(s.reportNest n s.cells[c].active.bytes).rt, rfl, rfl, rfl⟩

section
variable {c : Fin 1024} {n : Nest} {s : State} (hn : s.cells[c].nest = some n) (hs : n.stopped = false) (hw : n.waiting = false)
  (hd : nestDone s.cells[c].active.bytes n = true)
include hn hs hw hd

theorem State.execNestEnd_over (hh : s.cells[c].heldStart = none) : exec (.nestEnd c) s = .next ((s.nestOver c n).retry c) := by
  change execNestEnd c s = _
  unfold execNestEnd
  rw [hn]
  dsimp only
  rw [hs, hw, hd, hh]
  rfl

theorem State.execNestEnd_next {a : StartArgs} (hh : s.cells[c].heldStart = some a) :
    exec (.nestEnd c) s = .next (((s.nestOver c n).beginNest c a).retry c) := by
  change execNestEnd c s = _
  unfold execNestEnd
  rw [hn]
  dsimp only
  rw [hs, hw, hd, hh]
  rfl

end

/-- Who owns a cell is said by where the regions are bound, and by the image. -/
theorem State.ownerOf_of_rt {s t : State} (hr : t.rt.regions = s.rt.regions) (hi : t.rt.image = s.rt.image) : t.ownerOf = s.ownerOf := by
  unfold State.ownerOf State.regionCells State.regionE State.physCell State.regionS
  rw [hr, hi]

/-- The cell once its nest goes on, after a wait of v cycles. -/
def CellS.resumed (k : CellS) (v : Word) : CellS :=
  { k.upNest (fun n => { n with waiting := false }) with waitCycles := satAdd k.waitCycles v.toNat }

theorem State.addWait_resumed (s : State) (c : Fin 1024) : ∃ v : Word,
    (s.upCell c (·.upNest fun n => { n with waiting := false })).addWait c = { s.upCell c (·.resumed v) with free := s.free + 1 } := by
  refine ⟨(s.fresh 32).1, ?_⟩
  rw [show s.upCell c (·.resumed (s.fresh 32).1) = _ from (s.upCell_upCell c (·.upNest fun n => { n with waiting := false }) fun k =>
    { k with waitCycles := satAdd k.waitCycles (s.fresh 32).1.toNat }).symm]
  rfl

theorem State.execNestResume_ready {c : Fin 1024} {n : Nest} {s : State} (hn : s.cells[c].nest = some n) (hw : n.waiting = true)
    (hs : n.stopped = false) (h : (s.cells[c].needs s.cells[c].active.bytes n).all s.cells[c].present = true) :
    exec (.nestResume c) s = .next ((s.upCell c (·.upNest fun n => { n with waiting := false })).addWait c).noteWait := by
  change execNestResume c s = _
  unfold execNestResume
  dsimp only
  rw [hn]
  refine if_pos ?_
  rw [hw, hs, h]
  rfl

/-- Settles O23. -/
theorem nestsEndAndResume : Obligations.NestsEndAndResume := by
  unfold Obligations.NestsEndAndResume
  refine ⟨fun c n s hn hs hw hd hh hheld => ?_, fun c n a i l s hn hs hw hd hh hheld ho => ?_, fun c n s hn hw hs hneeds => ?_⟩
  · obtain ⟨r, -, -, hr⟩ := s.nestOver_eq c n
    have ends := State.execNestEnd_over hn hs hw hd hh
    have here : (s.nestOver c n).cells[c] = s.cells[c].nestOver s.cells[c].active.bytes n := by
      rw [hr]
      exact s.upCell_at c _
    rw [State.retry_of_none ((congrArg CellS.held here).trans hheld)] at ends
    refine ⟨_, ends, here, fun o ho => ?_, ?_⟩
    · rw [hr]
      exact s.upCell_ne c _ o ho
    · rw [hr]
      rfl
  · obtain ⟨r, hregions, himage, hr⟩ := s.nestOver_eq c n
    have here : (s.nestOver c n).cells[c] = s.cells[c].nestOver s.cells[c].active.bytes n := by
      rw [hr]
      exact s.upCell_at c _
    have owner : (s.nestOver c n).ownerOf c = some (i, l) :=
      (congrFun (State.ownerOf_of_rt (hr ▸ hregions) (hr ▸ himage)) c).trans ho
    obtain ⟨n', r', h, ⟨hpos, -, hargs⟩, hu, hat, -⟩ := State.beginNest_begun a owner
    have next := State.execNestEnd_next hn hs hw hd hh
    rw [State.retry_of_none ((congrArg CellS.held hat).trans ((congrArg CellS.held here).trans hheld))] at next
    refine ⟨_, next, ⟨n', congrArg CellS.nest hat, hargs, hpos⟩, ?_, ?_, ?_⟩
    · rw [hat, here]
      rfl
    · rw [hat, here]
      rfl
    · rw [hu, hr]
      rfl
  · obtain ⟨v, hv⟩ := s.addWait_resumed c
    obtain ⟨f, hf⟩ := ((s.upCell c (·.upNest fun n => { n with waiting := false })).addWait c).noteWait_eq
    rw [hv] at hf
    have here := s.upCell_at c (·.resumed v)
    refine ⟨_, (State.execNestResume_ready hn hw hs hneeds).trans (congrArg Host.Outcome.next ((congrArg State.noteWait hv).trans hf)), ?_, ⟨v, ?_⟩, ?_, fun o ho => ?_, ?_⟩
    · exact (congrArg CellS.nest here).trans (congrArg (Option.map _) hn)
    · exact congrArg CellS.waitCycles here
    · exact (congrArg CellS.store here).trans rfl
    · exact s.upCell_ne c _ o ho
    · rfl

/-! ### An uncorrectable error of a cell store -/

/-- The cell after an uncorrectable error of its store under a nest. -/
def CellS.storeUe (k : CellS) (now : DWord) (n : Nest) (f : Bytes) : CellS :=
  { k.upNest (fun _ => { n with spoiled := n.feeds f ++ n.spoiled }) with
    ueTimes := now :: within now dayU k.ueTimes
    health := if (now :: within now dayU k.ueTimes).length ≥ 2 then .failed else k.health }

/-- The error record of an uncorrectable error of a cell store. -/
def cellUe (c : Fin 1024) (off : Nat) (now : DWord) : ErrRec :=
  { loc := { tier := .cell, unit := c.val, channel := 0, offset := off }, uncorrectable := true, at_ := now }

theorem State.execCellStoreUe_nest {c : Fin 1024} {n : Nest} {s : State} (hn : s.cells[c].nest = some n) :
    ∃ off h, exec (.cellStoreUe c) s = .next { s.upCell c (·.storeUe s.now n s.cells[c].active.bytes) with
      tiers := { s.tiers with ueTotal := satAdd s.tiers.ueTotal 1, errors := s.tiers.errors ++ [cellUe c off s.now] }
      rt := { s.rt with nonfinite := true }, host := h, free := s.free + 1 } := by
  suffices run : ∃ t, exec (.cellStoreUe c) s = .next t ∧ t = { s.upCell c (·.storeUe s.now n s.cells[c].active.bytes) with
      tiers := { s.tiers with ueTotal := satAdd s.tiers.ueTotal 1, errors := s.tiers.errors ++ [cellUe c (s.fresh 21).1.toNat s.now] }
      rt := { s.rt with nonfinite := true }, host := t.host, free := s.free + 1 } by
    obtain ⟨t, ht, hframe⟩ := run
    exact ⟨_, t.host, ht.trans (congrArg Host.Outcome.next hframe)⟩
  change ∃ t, execCellStoreUe c s = .next t ∧ _
  unfold execCellStoreUe
  rw [hn]
  exact ⟨_, rfl, rfl⟩

theorem mem_within {now t : DWord} {span : Nat} {l : List DWord} : t ∈ within now span l ↔ t ∈ l ∧ (now - t).toNat ≤ span := by
  simp only [within, List.mem_filter, recent, ago]
  exact and_congr_right' decide_eq_true_iff

/-- Settles O25: of the errors of the cell that are at most 24 h old, one makes its unit FAILED. -/
theorem cellStoreErrorFlagsItsTiles : Obligations.CellStoreErrorFlagsItsTiles := by
  unfold Obligations.CellStoreErrorFlagsItsTiles
  intro c n s hn
  obtain ⟨off, h, ht⟩ := State.execCellStoreUe_nest hn
  have here := s.upCell_at c (·.storeUe s.now n s.cells[c].active.bytes)
  refine ⟨_, ht, ?_, rfl, rfl, ⟨cellUe c off s.now, rfl, rfl, rfl, rfl, rfl⟩, fun ⟨u, hu, hago⟩ => ?_, fun hold => ?_, ?_, fun o ho => ?_, rfl⟩
  · exact (congrArg CellS.nest here).trans (congrArg (Option.map _) hn)
  · refine (congrArg CellS.health here).trans (if_pos ?_)
    have some := List.length_pos_of_mem (mem_within.mpr ⟨hu, hago⟩ : u ∈ within s.now dayU s.cells[c].ueTimes)
    rw [List.length_cons]
    exact Nat.succ_le_succ some
  · refine (congrArg CellS.health here).trans (if_neg ?_)
    have none : within s.now dayU s.cells[c].ueTimes = [] := List.eq_nil_iff_forall_not_mem.mpr fun u hu =>
      absurd (mem_within.mp hu).2 (Nat.not_le_of_lt (hold u (mem_within.mp hu).1))
    rw [none]
    exact Nat.not_le_of_lt Nat.one_lt_two
  · exact (congrArg CellS.store here).trans rfl
  · exact s.upCell_ne c _ o ho

end Sys2Proof.Machine
end

section
/-! PROOFS. What queues a packet at a port changes its queues alone (R357, R382, R397). -/
namespace Sys2Proof.Machine

/-! ### Packets queued at ports -/

/-- A port but for the packets that wait at it and its discard counts. -/
def Port.link (q : Port) : Port := { q with queues := .replicate 4 [], discards := 0 }

/-- The fabric but for what waits to leave, and the discard counts. -/
def Fabric.rest (b : Fabric) : Fabric := { b with ports := b.ports.map Port.link, loop := [], msgDiscards := 0 }

/-- The states differ in packets that wait to leave, and in discard counts, alone. -/
def SendsOnly (s t : State) : Prop := ∃ b, b.rest = s.fab.rest ∧ t = { s with fab := b }

theorem SendsOnly.refl (s : State) : SendsOnly s s := ⟨s.fab, rfl, rfl⟩

theorem SendsOnly.trans {s t u : State} (h : SendsOnly s t) (h' : SendsOnly t u) : SendsOnly s u := by
  obtain ⟨b, hb, rfl⟩ := h
  obtain ⟨b', hb', rfl⟩ := h'
  exact ⟨b', hb'.trans hb, rfl⟩

theorem SendsOnly.foldl {α : Type} {f : State → α → State} (h : ∀ s a, SendsOnly s (f s a)) (l : List α) (s : State) : SendsOnly s (l.foldl f s) := by
  induction l generalizing s with
  | nil => exact .refl s
  | cons a l ih => exact (h s a).trans (ih (f s a))

theorem updV_map {α β : Type} {n : Nat} (v : Vector α n) (i : Fin n) (f : α → α) (g : α → β) (h : ∀ x, g (f x) = g x) :
    (updV v i f).map g = v.map g := by
  ext j hj
  rw [Vector.getElem_map, Vector.getElem_map]
  by_cases hij : (⟨j, hj⟩ : Fin n) = i
  · subst hij
    exact (congrArg g (updV_at ..)).trans (h _)
  · exact congrArg g (updV_ne v f hij)

/-- A change of a port's queues and discard count. -/
theorem State.upPort_sendsOnly (s : State) (p : Fin 32) (f : Port → Port) (h : ∀ q, (f q).link = q.link) : SendsOnly s (s.upPort p f) :=
  ⟨(s.upPort p f).fab, congrArg (fun v => ({ s.fab with ports := v, loop := [], msgDiscards := 0 } : Fabric)) (updV_map s.fab.ports p f Port.link h), rfl⟩

theorem Fabric.enqueue_rest (b : Fabric) (p : Fin 32) (k : Pkt) (tag : Nat) : (b.enqueue p k tag).rest = b.rest :=
  congrArg (fun v => ({ b with ports := v, loop := [], msgDiscards := 0 } : Fabric)) (updV_map b.ports p _ Port.link fun _ => rfl)

theorem Fabric.put_rest (b : Fabric) (k : Pkt) : (b.put k).rest = b.rest := by
  unfold Fabric.put
  split
  · rfl
  · split
    · exact Fabric.enqueue_rest ..
    · rfl

theorem State.upFab_sendsOnly (s : State) (f : Fabric → Fabric) (h : (f s.fab).rest = s.fab.rest) : SendsOnly s (s.upFab f) := ⟨_, h, rfl⟩

theorem State.sendPkt_sendsOnly (s : State) (k : Pkt) : SendsOnly s (s.sendPkt k) := by
  unfold State.sendPkt
  split
  · exact s.upFab_sendsOnly _ (Fabric.put_rest ..)
  · exact s.upFab_sendsOnly _ (Fabric.put_rest ..)

theorem State.respond_sendsOnly (s : State) (k : Pkt) (status detail : Nat) (data : Bytes) : SendsOnly s (s.respond k status detail data) :=
  State.sendPkt_sendsOnly ..

theorem State.respondAll_sendsOnly (s : State) (k : Pkt) (status detail : Nat) : SendsOnly s (s.respondAll k status detail) := by
  unfold State.respondAll
  split
  · exact .foldl (fun _ _ => State.sendPkt_sendsOnly ..) _ s
  · exact State.respond_sendsOnly ..

theorem State.countDiscard_sendsOnly (s : State) (p : Fin 32) : SendsOnly s (s.countDiscard p) := s.upPort_sendsOnly p _ fun _ => rfl

theorem State.putAt_sendsOnly (s : State) (q : Fin 32) (sent : Bool) (k : Pkt) (tag : Nat) : SendsOnly s (s.putAt q sent k tag) := by
  unfold State.putAt
  split
  · exact s.upPort_sendsOnly q _ fun _ => rfl
  · exact s.upFab_sendsOnly _ (Fabric.enqueue_rest ..)

theorem State.resend_sendsOnly (s : State) (p : Fin 32) (sent : Bool) (x : Pkt × Nat) : SendsOnly s (s.resend p sent x) := by
  unfold State.resend
  split
  · exact .foldl (fun _ _ => State.putAt_sendsOnly ..) _ s
  · dsimp only
    split
    · exact State.putAt_sendsOnly ..
    · split
      · exact State.countDiscard_sendsOnly ..
      · exact State.respond_sendsOnly ..

/-- The fabric once a port has left its sets and holds no packet. -/
def Fabric.vacated (b : Fabric) (p : Fin 32) : Fabric :=
  ({ b with ports := updV b.ports p fun q => { q with replay := [], queues := .replicate 4 [] } } : Fabric).leaveSets p

/-- A port that is vacated leaves its sets and holds no packet; what it held waits elsewhere. -/
theorem State.vacate_sendsOnly (s : State) (p : Fin 32) : SendsOnly (s.upFab (·.vacated p)) (s.vacate p) :=
  (SendsOnly.foldl (fun _ _ => State.resend_sendsOnly ..) _ _).trans (.foldl (fun _ _ => State.resend_sendsOnly ..) _ _)

section
variable {s t : State} (h : SendsOnly s t)
include h

theorem SendsOnly.link (q : Fin 32) : t.fab.ports[q].link = s.fab.ports[q].link := by
  obtain ⟨b, hb, rfl⟩ := h
  have at_ : (b.ports.map Port.link)[q.val] = (s.fab.ports.map Port.link)[q.val] := congrArg (fun x : Fabric => x.ports[q.val]) hb
  rwa [Vector.getElem_map, Vector.getElem_map] at at_

/-- What a port has but its queues and its discard count stays. -/
theorem SendsOnly.port {α : Type} (g : Port → α) (hg : ∀ q, g q = g q.link) (q : Fin 32) : g t.fab.ports[q] = g s.fab.ports[q] := by
  rw [hg, h.link, ← hg]

/-- What the fabric has but packets that wait to leave, and discard counts, stays. -/
theorem SendsOnly.fabric {α : Type} (g : Fabric → α) (hg : ∀ b, g b = g b.rest) : g t.fab = g s.fab := by
  obtain ⟨b, hb, rfl⟩ := h
  rw [hg, hb, ← hg]

theorem SendsOnly.frame : t = { s with fab := t.fab } := by
  obtain ⟨b, -, rfl⟩ := h
  rfl

end

/-- What a vacated port has but its packets stays. -/
theorem State.vacate_port {α : Type} (s : State) (p q : Fin 32) (g : Port → α) (hg : ∀ x, g x = g x.link) (hr : ∀ x : Port, g { x with replay := [] } = g x) :
    g (s.vacate p).fab.ports[q] = g s.fab.ports[q] := by
  refine ((s.vacate_sendsOnly p).port g hg q).trans ?_
  change g (updV s.fab.ports p _)[q] = _
  by_cases h : q = p
  · subst h
    rw [updV_at, hg]
    exact (hr _).trans (hg _).symm
  · rw [updV_ne _ _ h]

theorem State.vacate_frame (s : State) (p : Fin 32) : s.vacate p = { s with fab := (s.vacate p).fab } := (s.vacate_sendsOnly p).frame

theorem State.vacate_replay (s : State) (p : Fin 32) : (s.vacate p).fab.ports[p].replay = [] := by
  refine ((s.vacate_sendsOnly p).port Port.replay (fun _ => rfl) p).trans ?_
  exact congrArg Port.replay (updV_at s.fab.ports p _)

end Sys2Proof.Machine
end

section
/-! PROOFS. Register writes: floors at the lock, PORT_CFG, CLASS_WRR, and the return of the host link (R9, R274, R469, R492, R541 to R547). -/
namespace Sys2Proof.Machine

/-! ### Access codes (R9) -/

/-- A field of which every bit may be written takes its bits of the word. -/
theorem Access.merge_field {a : Access} {lock : Bool} (cur w : Nat) {off width : Nat} (hb : off + width ≤ 32)
    (ho : ∀ i < width, (a.open_ lock).testBit (off + i) = true) :
    BitVec.ofNat width (a.merge lock cur w / 2 ^ off) = BitVec.ofNat width (w / 2 ^ off) := by
  refine BitVec.eq_of_getLsbD_eq fun i hi => ?_
  rw [BitVec.getLsbD_ofNat, BitVec.getLsbD_ofNat, Nat.testBit_div_two_pow, Nat.testBit_div_two_pow, Nat.add_comm i off,
    Access.merge_testBit cur w (by omega) (ho i hi)]

theorem notMask_testBit (m i : Nat) (h : i < 32) : (notMask m).testBit i = !m.testBit i := by
  have ones : Nat.testBit 0xFFFFFFFF i = true := by
    rw [show 0xFFFFFFFF = 2 ^ 32 - 1 from rfl, Nat.testBit_two_pow_sub_one, decide_eq_true h]
  unfold notMask
  rw [Nat.testBit_xor, ones, Nat.testBit_mod_two_pow, decide_eq_true h, Bool.true_and, Bool.true_xor]

/-- A write is dropped where it differs from what a register reads in a bit that no write reaches. -/
theorem Access.drops_eq_false {a : Access} {lock : Bool} {cur w : Nat} (hc : cur < 2 ^ 32) (hw : w < 2 ^ 32)
    (h : ∀ i < 32, (a.open_ lock ||| a.w1c ||| a.wo).testBit i = false → cur.testBit i = w.testBit i) : a.drops lock cur w = false := by
  unfold Access.drops
  refine decide_eq_false (not_not.mpr (Nat.eq_of_testBit_eq fun i => ?_))
  rw [Nat.testBit_and, Nat.testBit_xor, Nat.zero_testBit]
  by_cases hi : i < 32
  · rw [notMask_testBit _ _ hi]
    cases hb : (a.open_ lock ||| a.w1c ||| a.wo).testBit i
    · rw [h i hi hb, Bool.xor_self, Bool.false_and]
    · exact Bool.and_false _
  · have high : 2 ^ 32 ≤ 2 ^ i := Nat.pow_le_pow_right (by decide) (by omega)
    rw [Nat.testBit_lt_two_pow (hc.trans_le high), Nat.testBit_lt_two_pow (hw.trans_le high)]
    rfl

theorem Access.drops_eq_true {a : Access} {lock : Bool} {cur w : Nat} (ha : a.open_ lock ||| a.w1c ||| a.wo = 0) (hc : cur < 2 ^ 32) (hw : w < 2 ^ 32)
    (h : cur ≠ w) : a.drops lock cur w = true := by
  unfold Access.drops
  refine decide_eq_true fun hz => h (Nat.eq_of_testBit_eq fun i => ?_)
  by_cases hi : i < 32
  · have bit := congrArg (Nat.testBit · i) hz
    simp only [Nat.testBit_and, Nat.testBit_xor, notMask_testBit _ _ hi, ha, Nat.zero_testBit, Bool.not_false, Bool.and_true] at bit
    exact bne_eq_false_iff_eq.mp bit
  · have high : 2 ^ 32 ≤ 2 ^ i := Nat.pow_le_pow_right (by decide) (by omega)
    rw [Nat.testBit_lt_two_pow (hc.trans_le high), Nat.testBit_lt_two_pow (hw.trans_le high)]

/-! ### The lock takes the floors (R274) -/

/-- The states differ in the fabric alone. -/
def FabOnly (s t : State) : Prop := ∃ b, t = { s with fab := b }

theorem FabOnly.refl (s : State) : FabOnly s s := ⟨s.fab, rfl⟩

theorem FabOnly.trans {s t u : State} (h : FabOnly s t) (h' : FabOnly t u) : FabOnly s u := by
  obtain ⟨b, rfl⟩ := h
  obtain ⟨b', rfl⟩ := h'
  exact ⟨b', rfl⟩

theorem FabOnly.foldl {α : Type} {f : State → α → State} (h : ∀ s a, FabOnly s (f s a)) (l : List α) (s : State) : FabOnly s (l.foldl f s) := by
  induction l generalizing s with
  | nil => exact .refl s
  | cons a l ih => exact (h s a).trans (ih (f s a))

theorem FabOnly.when {f : State → State} {s : State} (b : Bool) (h : FabOnly s (f s)) : FabOnly s (s.when b f) := by
  cases b
  · exact .refl s
  · exact h

theorem SendsOnly.fabOnly {s t : State} (h : SendsOnly s t) : FabOnly s t := ⟨t.fab, h.frame⟩

theorem State.vacate_fabOnly (s : State) (p : Fin 32) : FabOnly s (s.vacate p) := ⟨_, s.vacate_frame p⟩

theorem State.retrain_fabOnly (s : State) (p : Fin 32) : FabOnly s (s.retrain p) :=
  FabOnly.trans ⟨_, rfl⟩ (State.vacate_fabOnly ..)

/-- What the lock takes up, before the ports that exchanged other values retrain. -/
def State.lockTaken (s : State) : State :=
  { s with regs := { s.regs with lock := true }, mover := s.mover.lockFloors
           sec := { s.sec with areaGib := min 2048 s.sec.partnerGib.toNat, imgGb := s.sec.flashGb.toNat } }

theorem State.setLock_fabOnly (s : State) : FabOnly s.lockTaken s.setLock :=
  FabOnly.foldl (fun t p => FabOnly.when _ (t.retrain_fabOnly p)) _ s.lockTaken

theorem State.writeReg_setupLock {s : State} (hd : s.host.deviceReady = true) (hl : s.regs.lock = false) :
    s.writeReg .setupLock 1 = (s.setLock, false) := by
  have cur : s.regRead .setupLock = 0 := by
    unfold State.regRead
    dsimp only
    rw [hl]
    rfl
  have merged : Reg.setupLock.access.merge false 0 1 = 1 := by decide
  have kept : Reg.setupLock.access.drops false 0 1 = false := by decide
  have store : s.store .setupLock 1 1 = s.setLock := by
    change s.when (bit 1 0 && !s.regs.lock) State.setLock = _
    rw [hl]
    rfl
  unfold State.writeReg
  dsimp only
  rw [if_pos hd, cur, hl, merged, kept, store]

/-- Settles O32. -/
theorem stageFloorsTakenAtTheLock : Obligations.StageFloorsTakenAtTheLock := by
  unfold Obligations.StageFloorsTakenAtTheLock
  intro s hup hcfg hdev hlock
  obtain ⟨b, hb⟩ := s.setLock_fabOnly
  have written := State.writeBar0_word (data := 1) hup (State.decodes_of_ready hcfg hdev 0x20) rfl (State.writeReg_setupLock hdev hlock)
  refine ⟨s.setLock, ?_, ?_, ?_⟩
  · change Host.Outcome.next _ = _
    rw [hup, hdev]
    exact congrArg Host.Outcome.next written
  · rw [hb]
    rfl
  · rw [hb]
    dsimp only [State.lockTaken]
    unfold Mover.lockFloors
    dsimp only
    split
    · exact ⟨rfl, rfl, rfl, rfl⟩
    · exact ⟨rfl, rfl, rfl, rfl⟩

/-! ### CLASS_WRR and PORT_CFG (R492, R547) -/

theorem State.writeReg_classWrr {s : State} {v : Nat} (hv : v < 2 ^ 24) : s.writeReg .classWrr v = (s.upFab fun b =>
    { b with w1 := BitVec.ofNat 8 v, w2 := BitVec.ofNat 8 (v / 2 ^ 8), w3 := BitVec.ofNat 8 (v / 2 ^ 16) }, false) := by
  have opened : ∀ lock, Reg.classWrr.access.open_ lock = 0xFFFFFF := by decide
  have bits : ∀ off i, off + i < 24 → Nat.testBit 0xFFFFFF (off + i) = true := fun off i h => by
    rw [show 0xFFFFFF = 2 ^ 24 - 1 from rfl, Nat.testBit_two_pow_sub_one, decide_eq_true h]
  have cur : s.regRead .classWrr < 2 ^ 24 := by
    have h1 := s.fab.w1.isLt
    have h2 := s.fab.w2.isLt
    have h3 := s.fab.w3.isLt
    change s.fab.w1.toNat + 2 ^ 8 * s.fab.w2.toNat + 2 ^ 16 * s.fab.w3.toNat < 2 ^ 24
    omega
  have kept : Reg.classWrr.access.drops s.regs.lock (s.regRead .classWrr) v = false := by
    refine Access.drops_eq_false (by omega) (by omega) fun i hi h => ?_
    have high : 24 ≤ i := by
      by_contra hlow
      have open_ := bits 0 i (by omega)
      rw [opened, show Reg.classWrr.access.w1c = 0 from rfl, show Reg.classWrr.access.wo = 0 from rfl, Nat.or_zero, Nat.or_zero, ← Nat.zero_add i, open_] at h
      cases h
    have above : 2 ^ 24 ≤ 2 ^ i := Nat.pow_le_pow_right (by decide) high
    rw [Nat.testBit_lt_two_pow (cur.trans_le above), Nat.testBit_lt_two_pow (hv.trans_le above)]
  have field : ∀ off, off + 8 ≤ 24 → BitVec.ofNat 8 (Reg.classWrr.access.merge s.regs.lock (s.regRead .classWrr) v / 2 ^ off) = BitVec.ofNat 8 (v / 2 ^ off) :=
    fun off h => Access.merge_field _ v (by omega) fun i hi => by
      rw [opened]
      exact bits off i (by omega)
  have f1 := field 0 (by decide)
  rw [Nat.pow_zero, Nat.div_one, Nat.div_one] at f1
  unfold State.writeReg
  dsimp only
  rw [if_neg, kept]
  · refine congrArg (·, false) ?_
    unfold State.store
    dsimp only
    rw [f1, field 8 (by decide), field 16 (by decide)]
  · rw [opened]
    decide

/-- PORT_CFG takes no other value while the lock is set. -/
theorem State.writeReg_portCfg_locked {s : State} {v : Nat} (hl : s.regs.lock = true) (hv : v < 2 ^ 32) (hne : s.fab.portEn.toNat ≠ v) :
    s.writeReg .portCfg v = (s, true) := by
  have closed : Reg.portCfg.access.open_ true ||| Reg.portCfg.access.w1c ||| Reg.portCfg.access.wo = 0 := by decide
  have dropped : Reg.portCfg.access.drops true (s.regRead .portCfg) v = true := Access.drops_eq_true closed s.fab.portEn.isLt hv hne
  unfold State.writeReg
  dsimp only
  rw [hl, if_pos closed, dropped]

theorem State.writeReg_portCfg_open {s : State} (v : Word) (hl : s.regs.lock = false) : s.writeReg .portCfg v.toNat = (s.setPortEn v, false) := by
  have opened : Reg.portCfg.access.open_ false = 0xFFFFFFFF := by decide
  have bits : ∀ i < 32, Nat.testBit 0xFFFFFFFF i = true := fun i h => by
    rw [show 0xFFFFFFFF = 2 ^ 32 - 1 from rfl, Nat.testBit_two_pow_sub_one, decide_eq_true h]
  have kept : Reg.portCfg.access.drops false (s.regRead .portCfg) v.toNat = false :=
    Access.drops_eq_false s.fab.portEn.isLt v.isLt fun i hi h => by
      rw [opened, show Reg.portCfg.access.w1c = 0 from rfl, show Reg.portCfg.access.wo = 0 from rfl, Nat.or_zero, Nat.or_zero, bits i hi] at h
      cases h
  have whole := Access.merge_field (a := Reg.portCfg.access) (lock := false) (s.regRead .portCfg) v.toNat (off := 0) (width := 32) (by decide)
    fun i hi => by rw [opened, Nat.zero_add, bits i hi]
  rw [Nat.pow_zero, Nat.div_one, Nat.div_one, BitVec.ofNat_toNat, BitVec.setWidth_eq] at whole
  unfold State.writeReg
  dsimp only
  rw [hl, if_neg, kept]
  · refine congrArg (·, false) ?_
    exact congrArg s.setPortEn whole
  · rw [opened]
    decide

/-- A fold over the entries of a table, of which each step changes its own entry: an entry is changed once. -/
theorem foldl_entry {ι β : Type} (P : State → Prop) (g : State → ι → β) (f : State → ι → State) (F : ι → β → β)
    (keeps : ∀ s a, P s → P (f s a)) (ne : ∀ s a b, b ≠ a → g (f s a) b = g s b) (own : ∀ s a, P s → g (f s a) a = F a (g s a))
    {l : List ι} (hl : l.Nodup) {b : ι} (hb : b ∈ l) {s : State} (h : P s) : g (l.foldl f s) b = F b (g s b) := by
  have others : ∀ (l : List ι) (s : State), b ∉ l → g (l.foldl f s) b = g s b := by
    intro l
    induction l with
    | nil => exact fun _ _ => rfl
    | cons a l ih =>
      intro s hn
      rw [List.foldl_cons, ih _ (List.not_mem_of_not_mem_cons hn), ne _ _ _ (List.ne_of_not_mem_cons hn)]
  induction l generalizing s with
  | nil => cases hb
  | cons a l ih =>
    obtain ⟨hna, hl⟩ := List.nodup_cons.mp hl
    rw [List.foldl_cons]
    rcases List.mem_cons.mp hb with rfl | hb
    · rw [others l _ hna, own _ _ h]
    · rw [ih hl hb (keeps _ _ h), ne _ _ _ fun e : b = a => hna (e ▸ hb)]

/-- The state of a port after a write of PORT_CFG. -/
def portStAfter (lit runs old new : Bool) (st : PortSt) : PortSt :=
  match old, new with
  | true, false => .disabled
  | false, true => if lit && !runs then .training else if runs then st else .dark
  | _, _ => st

/-- One port of a write of PORT_CFG. -/
def State.setPort (old v : Word) (s : State) (p : Fin 32) : State :=
  match old.getLsbD p.val, v.getLsbD p.val with
  | true, false =>
    let up := decide (s.fab.ports[p].st = .up)
    (s.upPort p fun q => { q with st := .disabled, level := 0, departSent := up }).vacate p
  | false, true =>
    if s.lit && !s.quince.recoveryRuns then s.upPort p fun q => { q with st := .training, trainSince := s.now }
    else if s.quince.recoveryRuns then s
    else s.upPort p fun q => { q with st := .dark }
  | _, _ => s

theorem State.setPortEn_eq (s : State) (v : Word) :
    s.setPortEn v = (List.finRange 32).foldl (State.setPort s.fab.portEn v) (s.upFab fun b => { b with portEn := v }) := rfl

theorem State.setPort_fabOnly (old v : Word) (s : State) (p : Fin 32) : FabOnly s (State.setPort old v s p) := by
  unfold State.setPort
  dsimp only
  split
  · exact FabOnly.trans ⟨_, rfl⟩ (State.vacate_fabOnly ..)
  · repeat' split
    · exact ⟨_, rfl⟩
    · exact .refl s
    · exact ⟨_, rfl⟩
  · exact .refl s

theorem State.upPort_at (s : State) (p : Fin 32) (f : Port → Port) : (s.upPort p f).fab.ports[p] = f s.fab.ports[p] := updV_at ..
theorem State.upPort_ne (s : State) (p : Fin 32) (f : Port → Port) : ∀ o : Fin 32, o ≠ p → (s.upPort p f).fab.ports[o] = s.fab.ports[o] :=
  fun _ h => updV_ne _ _ h

theorem State.vacate_st (s : State) (p q : Fin 32) : (s.vacate p).fab.ports[q].st = s.fab.ports[q].st :=
  s.vacate_port p q Port.st (fun _ => rfl) fun _ => rfl

theorem State.setPort_ne (old v : Word) (s : State) (p o : Fin 32) (h : o ≠ p) : (State.setPort old v s p).fab.ports[o].st = s.fab.ports[o].st := by
  unfold State.setPort
  dsimp only
  split
  · rw [State.vacate_st, State.upPort_ne _ _ _ _ h]
  · repeat' split
    · rw [State.upPort_ne _ _ _ _ h]
    · rfl
    · rw [State.upPort_ne _ _ _ _ h]
  · rfl

theorem State.setPort_own (old v : Word) (s : State) (p : Fin 32) : (State.setPort old v s p).fab.ports[p].st =
    portStAfter s.lit s.quince.recoveryRuns (old.getLsbD p.val) (v.getLsbD p.val) s.fab.ports[p].st := by
  unfold State.setPort portStAfter
  dsimp only
  split
  · rw [State.vacate_st, State.upPort_at]
  · repeat' split
    · rw [State.upPort_at]
    · rfl
    · rw [State.upPort_at]
  · rfl

theorem State.setPort_portEn (old v : Word) (s : State) (p : Fin 32) : (State.setPort old v s p).fab.portEn = s.fab.portEn := by
  have vacated : ∀ u : State, (u.vacate p).fab.portEn = u.fab.portEn := fun u => (u.vacate_sendsOnly p).fabric Fabric.portEn fun _ => rfl
  unfold State.setPort
  dsimp only
  split
  · exact vacated _
  · repeat' split
    all_goals rfl
  · rfl

theorem State.setPortEn_st (s : State) (v : Word) (p : Fin 32) : (s.setPortEn v).fab.ports[p].st =
    portStAfter s.lit s.quince.recoveryRuns (s.fab.portEn.getLsbD p.val) (v.getLsbD p.val) s.fab.ports[p].st := by
  rw [State.setPortEn_eq]
  refine foldl_entry (fun t => t.lit = s.lit ∧ t.quince = s.quince) (fun t (q : Fin 32) => t.fab.ports[q].st) (State.setPort s.fab.portEn v)
    (fun q st => portStAfter s.lit s.quince.recoveryRuns (s.fab.portEn.getLsbD q.val) (v.getLsbD q.val) st) (fun t q h => ?_)
    (fun t q o h => t.setPort_ne _ _ q o h) (fun t q h => ?_) (List.nodup_finRange 32) (List.mem_finRange p) ⟨rfl, rfl⟩
  · obtain ⟨b, hb⟩ := State.setPort_fabOnly s.fab.portEn v t q
    rw [hb]
    exact h
  · obtain ⟨hlit, hq⟩ := h
    rw [State.setPort_own, hlit, hq]

/-! ### Doorbells (R469, R478) -/

theorem State.writeSize_word (off : Nat) (h : off % 4 = 0) : writeSize off (4 : BitVec 4).toNat (0xF : Byte).toNat = some 1 :=
  if_pos ⟨rfl, rfl, h⟩

theorem State.writeBar2_tail (s : State) (r : Fin 64) (v : Word) :
    s.writeBar2 (0x1000 * r.val) v.toNat = s.doorbell r 0 v fun x g => { g with sqTail := x, tailNew := true } := by
  have hr := r.isLt
  unfold State.writeBar2
  dsimp only
  rw [if_neg (by omega), show 0x1000 * r.val % 0x1000 = 0 from Nat.mul_mod_right ..]
  have ring : Fin.ofNat 64 (0x1000 * r.val / 0x1000) = r := Fin.ext ((congrArg (· % 64) (Nat.mul_div_cancel_left r.val (by decide))).trans (Nat.mod_eq_of_lt hr))
  rw [ring, BitVec.ofNat_toNat, BitVec.setWidth_eq]
  rfl

/-! ### The return of the host link (R469, R492) -/

/-- A ring after the return of the link: one that lost a write is in fault. -/
def Ring.linked (g : Ring) : Ring := if g.lostWrite then { g with lostWrite := false, st := .fault, faultCause := 5 } else g

/-- One ring at the return of the link. -/
def State.linkRing (s : State) (r : Fin 64) : State :=
  s.when s.host.rings[r].lostWrite fun s => (s.upRing r fun g => { g with lostWrite := false }).ringFault r 5

theorem State.ringFault_rings (s : State) (r : Fin 64) (cause : Nat) : (s.ringFault r cause).host.rings =
    updV s.host.rings r fun g => { g with st := .fault, faultCause := BitVec.ofNat 8 cause } := HostIf.sendVector_rings ..

theorem Ring.linked_of_lost {g : Ring} (h : g.lostWrite = true) : g.linked = { g with lostWrite := false, st := .fault, faultCause := 5 } := if_pos h
theorem Ring.linked_of_kept {g : Ring} (h : g.lostWrite = false) : g.linked = g := if_neg (h ▸ Bool.false_ne_true)

theorem State.linkRing_rings (s : State) (r : Fin 64) : (s.linkRing r).host.rings = updV s.host.rings r Ring.linked := by
  unfold State.linkRing
  cases h : s.host.rings[r].lostWrite
  · exact (updV_eq_self _ _ _ (Ring.linked_of_kept h)).symm
  · rw [State.when_true, State.ringFault_rings]
    rw [show (s.upRing r fun g => { g with lostWrite := false }).host.rings = updV s.host.rings r fun g => { g with lostWrite := false } from rfl,
      updV_updV]
    refine congrArg (fun g => s.host.rings.set r.val g r.isLt) ?_
    exact (Ring.linked_of_lost (g := s.host.rings[r.val]) h).symm

/-- The states differ in the host interface alone. -/
def HostOnly (s t : State) : Prop := ∃ h, t = { s with host := h }

theorem HostOnly.refl (s : State) : HostOnly s s := ⟨s.host, rfl⟩

theorem HostOnly.trans {s t u : State} (h : HostOnly s t) (h' : HostOnly t u) : HostOnly s u := by
  obtain ⟨b, rfl⟩ := h
  obtain ⟨b', rfl⟩ := h'
  exact ⟨b', rfl⟩

theorem HostOnly.foldl {α : Type} {f : State → α → State} (h : ∀ s a, HostOnly s (f s a)) (l : List α) (s : State) : HostOnly s (l.foldl f s) := by
  induction l generalizing s with
  | nil => exact .refl s
  | cons a l ih => exact (h s a).trans (ih (f s a))

theorem HostOnly.when {f : State → State} {s : State} (b : Bool) (h : HostOnly s (f s)) : HostOnly s (s.when b f) := by
  cases b
  · exact .refl s
  · exact h

theorem State.linkRing_hostOnly (s : State) (r : Fin 64) : HostOnly s (s.linkRing r) := .when _ ⟨_, rfl⟩

theorem State.linkRing_linkUp (s : State) (r : Fin 64) : (s.linkRing r).host.linkUp = s.host.linkUp := by
  refine State.when_keeps (fun t : State => t.host.linkUp) _ _ _ ?_
  exact HostIf.sendVector_linkUp ..

theorem State.foldl_linkRing (s : State) (r : Fin 64) : ((List.finRange 64).foldl State.linkRing s).host.rings[r] = s.host.rings[r].linked :=
  foldl_entry (fun _ => True) (fun t (r : Fin 64) => t.host.rings[r]) State.linkRing (fun _ g => g.linked) (fun _ _ _ => trivial)
    (fun t a b h => by rw [State.linkRing_rings]; exact updV_ne _ _ h) (fun t a _ => by rw [State.linkRing_rings]; exact updV_at ..)
    (List.nodup_finRange 64) (List.mem_finRange r) trivial

/-- Settles O59. -/
theorem registersAreReadAndWritten : Obligations.RegistersAreReadAndWritten := by
  unfold Obligations.RegistersAreReadAndWritten
  refine ⟨fun bar2 offset size be data s hup hsize => ?_, fun bar2 offset size be data s hdown => ?_, fun v s hup hcfg hdev hv => ?_,
    fun v s hup hcfg hdev hlock hne => ?_, fun r v s hup => ?_, fun offset x s hup hdec hreg hwide => ?_, fun offset s hup hno => ?_,
    fun v s hup hcfg hdev hlock => ?_, fun s => rfl, fun s hdown hcfg hst => ?_⟩
  · refine ⟨s.discard bar2 offset.toNat, ?_, rfl, ?_, rfl⟩
    · change execRegisterWrite bar2 offset size be data s = _
      unfold execRegisterWrite
      dsimp only
      rw [hup, hsize]
      rfl
    · change BitVec.ofNat 25 (offset.toNat % 2 ^ 24 + 2 ^ 24 * b2n bar2) = _
      rw [Nat.mod_eq_of_lt offset.isLt]
  · change execRegisterWrite bar2 offset size be data s = _
    unfold execRegisterWrite
    dsimp only
    rw [hdown]
    rfl
  · have data : (BitVec.ofNat 64 v.toNat).toNat = v.toNat := (BitVec.toNat_ofNat ..).trans (Nat.mod_eq_of_lt (v.isLt.trans (by decide)))
    have word : (BitVec.ofNat 64 v.toNat).toNat % 2 ^ 32 = v.toNat := by rw [data, Nat.mod_eq_of_lt v.isLt]
    rw [exec_write4 _ _ hup rfl, State.writeBar0_word hup (State.decodes_of_ready hcfg hdev _) rfl (word.symm ▸ State.writeReg_classWrr hv), word]
    rfl
  · have word : v.toNat % 2 ^ 32 = v.toNat := Nat.mod_eq_of_lt v.isLt
    have written := State.writeBar0_word (off := 0x40000) (data := v.toNat) hup (State.decodes_of_ready hcfg hdev _) rfl
      (word.symm ▸ State.writeReg_portCfg_locked hlock v.isLt fun e => hne (BitVec.eq_of_toNat_eq e.symm))
    exact ⟨_, congrArg Host.Outcome.next written, rfl, rfl, rfl, rfl⟩
  · have low : 0x1000 * r.val < 2 ^ 18 := by
      have := r.isLt
      omega
    have off : (BitVec.ofNat 24 (0x1000 * r.val)).toNat = 0x1000 * r.val :=
      (BitVec.toNat_ofNat ..).trans (Nat.mod_eq_of_lt (low.trans (by decide)))
    change execRegisterWrite true _ 4 0xF _ s = execSqTail r v s
    unfold execRegisterWrite
    dsimp only
    rw [off, hup, State.writeSize_word (0x1000 * r.val) (by omega)]
    refine (if_neg Bool.false_ne_true).trans (congrArg Host.Outcome.next ?_)
    have word : (BitVec.ofNat 64 v.toNat).toNat % 2 ^ 32 = v.toNat := by
      rw [BitVec.toNat_ofNat, Nat.mod_eq_of_lt (v.isLt.trans (by decide)), Nat.mod_eq_of_lt v.isLt]
    rw [word]
    exact s.writeBar2_tail r v
  · exact exec_read4 hup (State.readWord_plain hdec hreg hwide)
  · refine exec_read4 hup ?_
    unfold State.readWord
    rcases hno with hdec | hreg
    · rw [hdec]
      rfl
    · rw [hreg, ite_self]
  · have word : v.toNat % 2 ^ 32 = v.toNat := Nat.mod_eq_of_lt v.isLt
    have written := State.writeBar0_word (off := 0x40000) (data := v.toNat) hup (State.decodes_of_ready hcfg hdev _) rfl
      (word.symm ▸ State.writeReg_portCfg_open v hlock)
    obtain ⟨b, hb⟩ : FabOnly (s.upFab fun b => { b with portEn := v }) (s.setPortEn v) := .foldl (State.setPort_fabOnly _ _) _ _
    refine ⟨s.setPortEn v, congrArg Host.Outcome.next written, ?_, fun p hold hnew => ?_, fun p hold hnew hlit hruns => ?_, ?_, ?_, ?_⟩
    · exact foldl_keeps (fun t : State => t.fab.portEn) _ (State.setPort_portEn _ _) _ _
    · rw [State.setPortEn_st, hold, hnew]
      rfl
    · rw [State.setPortEn_st, hold, hnew, hlit, hruns]
      rfl
    all_goals rw [hb]; rfl
  · have rings := fun r => (s.upHost fun h => { h with linkUp := true }).foldl_linkRing r
    obtain ⟨h, hh⟩ : HostOnly (s.upHost fun h => { h with linkUp := true }) ((List.finRange 64).foldl State.linkRing _) :=
      .foldl State.linkRing_hostOnly _ _
    refine ⟨(List.finRange 64).foldl State.linkRing (s.upHost fun h => { h with linkUp := true }), if_neg ?_, ?_, fun r hr => ?_, fun r hr => ?_, ?_⟩
    · rw [hdown, hcfg, decide_eq_false hst]
      decide
    · exact foldl_keeps (fun t : State => t.host.linkUp) _ State.linkRing_linkUp _ _
    · have ring := (rings r).trans (Ring.linked_of_lost (g := s.host.rings[r]) hr)
      exact ⟨congrArg Ring.st ring, congrArg Ring.faultCause ring, congrArg Ring.lostWrite ring⟩
    · rw [rings]
      exact Ring.linked_of_kept hr
    · rw [hh]
      rfl

end Sys2Proof.Machine
end

section
/-! PROOFS. What a request of the module changes (R387, R388, R394), the hand-off of an outbox (R302), and descriptors that need no job. -/
namespace Sys2Proof.Machine

/-! ### Requests of the module -/

/-- The states differ in the fabric, in the host interface and in the drain alone. -/
def Talks (s t : State) : Prop := ∃ b h c, t = { s with fab := b, host := h, sec := c }

theorem Talks.refl (s : State) : Talks s s := ⟨s.fab, s.host, s.sec, rfl⟩

theorem Talks.trans {s t u : State} (h : Talks s t) (h' : Talks t u) : Talks s u := by
  obtain ⟨b, i, c, rfl⟩ := h
  obtain ⟨b', i', c', rfl⟩ := h'
  exact ⟨b', i', c', rfl⟩

theorem Talks.foldl {α : Type} {f : State → α → State} (h : ∀ s a, Talks s (f s a)) (l : List α) (s : State) : Talks s (l.foldl f s) := by
  induction l generalizing s with
  | nil => exact .refl s
  | cons a l ih => exact (h s a).trans (ih (f s a))

theorem Talks.when {f : State → State} {s : State} (b : Bool) (h : Talks s (f s)) : Talks s (s.when b f) := by
  cases b
  · exact .refl s
  · exact h

/-- A projection that sees neither the fabric nor the host interface nor the drain stays. -/
theorem Talks.keeps {α : Type} {s t : State} (h : Talks s t) (g : State → α) (hg : ∀ b i c, g { s with fab := b, host := i, sec := c } = g s) :
    g t = g s := by
  obtain ⟨b, i, c, rfl⟩ := h
  exact hg b i c

theorem FabOnly.talks {s t : State} (h : FabOnly s t) : Talks s t := by
  obtain ⟨b, rfl⟩ := h
  exact ⟨b, s.host, s.sec, rfl⟩

theorem HostOnly.talks {s t : State} (h : HostOnly s t) : Talks s t := by
  obtain ⟨i, rfl⟩ := h
  exact ⟨s.fab, i, s.sec, rfl⟩

theorem State.upFab_fabOnly (s : State) (f : Fabric → Fabric) : FabOnly s (s.upFab f) := ⟨_, rfl⟩

theorem State.sendPkt_fabOnly (s : State) (k : Pkt) : FabOnly s (s.sendPkt k) := (s.sendPkt_sendsOnly k).fabOnly

theorem State.sendMcast_fabOnly (s : State) (k : Pkt) (ts : List (BitVec 17 × Word)) (data : Bytes) : FabOnly s (s.sendMcast k ts data) := by
  unfold State.sendMcast
  dsimp only
  refine .trans (.trans (.when _ ?own) (.foldl (fun s g => ?far) _ _)) (.foldl (fun _ _ => State.sendPkt_fabOnly ..) _ _)
  case own => exact State.upFab_fabOnly ..
  case far => exact State.upFab_fabOnly ..

theorem State.issue_fabOnly (s : State) (o : OutReq) : FabOnly s (s.issue o) := by
  unfold State.issue
  dsimp only
  split
  · exact .trans (.foldl (fun s t => State.upFab_fabOnly ..) _ _) (State.sendMcast_fabOnly ..)
  · exact .trans (State.upFab_fabOnly ..) (State.sendPkt_fabOnly ..)

theorem State.endRing_hostOnly (s : State) (ring : Option (Fin 64 × DWord)) (status : Nat) (result : DWord) : HostOnly s (s.endRing ring status result) := by
  unfold State.endRing
  split
  · exact .refl s
  · exact ⟨_, rfl⟩

theorem State.pumpGo_talks (before waiting : List OutReq) (s : State) : Talks s (s.pumpGo before waiting) := by
  induction waiting generalizing before s with
  | nil => exact ⟨_, s.host, s.sec, rfl⟩
  | cons o rest ih =>
    unfold State.pumpGo
    split
    · exact .trans (.trans (State.endRing_hostOnly ..).talks (.when _ ⟨_, _, _, rfl⟩)) (ih ..)
    · split
      · exact .trans (State.issue_fabOnly ..).talks (ih ..)
      · exact ih ..

theorem State.pump_talks (s : State) : Talks s s.pump := by
  unfold State.pump
  split
  · exact State.pumpGo_talks ..
  · exact .refl s

theorem State.request_talks (s : State) (k : Pkt) (ring : Option (Fin 64 × DWord)) : Talks s (s.request k ring) :=
  (State.upFab_fabOnly ..).talks.trans (State.pump_talks _)

theorem State.sendDown_talks (s : State) (m : TileMsg) (off : Nat) (data : Bytes) : Talks s (s.sendDown m off data) := by
  unfold State.sendDown
  dsimp only
  repeat' split
  · exact .refl s
  · exact State.request_talks ..
  · exact .foldl (fun _ _ => State.request_talks ..) _ s

theorem State.sendTile_talks (s : State) (m : TileMsg) (off : Nat) (bs : Bytes) : Talks s (s.sendTile m off bs) :=
  .foldl (fun _ _ => State.sendDown_talks ..) _ s

/-! ### Arrivals at an object -/

section
variable {α : Type} (g : State → α) (htiers : ∀ s h off d, g (s.upTiers fun t => t.writeHome h off d) = g s) (hrt : ∀ s f, g (s.upRt f) = g s) (hmover : ∀ s f, g (s.upMover f) = g s)
include htiers hrt hmover

/-- An arrival changes the tiers, what is noted of the objects and what the mover was answered, alone. -/
theorem State.applyArr_keeps (s : State) (id : Nat) (h : Home) (a : Arrival) : g (s.applyArr id h a) = g s := by
  unfold State.applyArr
  split
  · exact (hrt ..).trans (htiers ..)
  · exact hmover ..
  · rfl

theorem State.arriveNew_keeps (s : State) (o : ObjS) (a : Arrival) : g (s.arriveNew o a) = g s := by
  unfold State.arriveNew
  split
  · split
    · exact State.applyArr_keeps g htiers hrt hmover ..
    · exact hrt ..
  · exact State.applyArr_keeps g htiers hrt hmover ..

theorem State.arriveNow_keeps (s : State) (o : ObjS) (a : Arrival) : g (s.arriveNow o a) = g s := by
  unfold State.arriveNow
  split
  · split
    · unfold State.arriveOld State.upObj
      exact hrt s _
    · exact State.arriveNew_keeps g htiers hrt hmover ..
  · exact State.arriveNew_keeps g htiers hrt hmover ..

end

/-! ### Outboxes (R302) -/

/-- What an outbox that is handed off leaves alone. -/
theorem State.handOff_keeps {α : Type} (g : State → α) (htiers : ∀ s h off d, g (s.upTiers fun t => t.writeHome h off d) = g s) (hrt : ∀ s f, g (s.upRt f) = g s)
    (hmover : ∀ s f, g (s.upMover f) = g s) (hcoll : ∀ s f, g (s.upColl f) = g s) (htalk : ∀ s t, Talks s t → g t = g s)
    (s : State) (o w : ObjS) : g (s.handOff o w) = g s := by
  refine foldl_keeps g _ (fun u t => ?_) _ s
  dsimp only
  split
  · rfl
  · exact (htalk _ _ (State.sendTile_talks ..)).trans ((hcoll ..).trans (State.arriveNow_keeps g htiers hrt hmover ..))

theorem State.noteStep_keeps {α : Type} (g : State → α) (hg : ∀ (s : State) j h, g { s with job := j, host := h } = g s) (s : State) : g s.noteStep = g s := by
  obtain ⟨j, h, hs⟩ := s.noteStep_eq
  rw [hs]
  exact hg s j h

/-- Settles O35. -/
theorem outboxHandedOffAndReleased : Obligations.OutboxHandedOffAndReleased := by
  unfold Obligations.OutboxHandedOffAndReleased
  refine ⟨fun obj o w s ho hw hon hready => ?_, fun obj s => rfl⟩
  have keeps := fun {α : Type} (g : State → α) h1 h2 h3 h4 h5 => State.handOff_keeps g h1 h2 h3 h4 h5 s o w
  refine ⟨((s.handOff o w).upMedlar fun m => { m with pass := m.pass.filter fun p => p.obj ≠ obj, outboxes := m.outboxes ++ [obj] }).noteStep, ?_, ?_, ?_, ?_, ?_⟩
  · change execOutboxHandoff obj s = _
    unfold execOutboxHandoff
    rw [ho]
    dsimp only
    rw [hw]
    dsimp only
    rw [hon, hready]
    rfl
  all_goals refine (State.noteStep_keeps _ (fun _ _ _ => rfl) _).trans ?_
  · have same := keeps State.medlar (fun _ _ _ _ => rfl) (fun _ _ => rfl) (fun _ _ => rfl) (fun _ _ => rfl) fun _ _ h => h.keeps State.medlar fun _ _ _ => rfl
    exact congrArg (fun m : Medlar => { m with pass := m.pass.filter fun p => decide (p.obj ≠ obj), outboxes := m.outboxes ++ [obj] }) same
  · exact keeps State.cells (fun _ _ _ _ => rfl) (fun _ _ => rfl) (fun _ _ => rfl) (fun _ _ => rfl) fun _ _ h => h.keeps State.cells fun _ _ _ => rfl
  · exact keeps State.queues (fun _ _ _ _ => rfl) (fun _ _ => rfl) (fun _ _ => rfl) (fun _ _ => rfl) fun _ _ h => h.keeps State.queues fun _ _ _ => rfl
  · exact keeps State.pwr (fun _ _ _ _ => rfl) (fun _ _ => rfl) (fun _ _ => rfl) (fun _ _ => rfl) fun _ _ h => h.keeps State.pwr fun _ _ _ => rfl

/-! ### Descriptors that need no job -/

/-- The descriptor in progress of a ring is taken up. -/
theorem State.beginDesc_begins {s : State} {r : Fin 64} {op : Nat} {d : Desc} (h : Begins s r op d) (k : Desc → State → State) :
    s.beginDesc r op k = k d (s.begun r d) := by
  obtain ⟨hnext, hop, hfree⟩ := h
  unfold State.beginDesc
  rw [hnext]
  dsimp only
  rw [if_neg (not_not.mpr hop), if_neg]
  · rfl
  · rcases hfree with hr | hb
    · rw [decide_eq_false hr]
      exact Bool.false_ne_true
    · change ¬ (decide (r.val = 0) && s.host.mgmtBusy) = true
      rw [hb, Bool.and_false]
      exact Bool.false_ne_true

/-- Settles O50. -/
theorem descriptorsWithoutAJobComplete : Obligations.DescriptorsWithoutAJobComplete := by
  unfold Obligations.DescriptorsWithoutAJobComplete
  refine ⟨fun r d s h => congrArg Host.Outcome.next (State.beginDesc_begins h _), fun r d a b s h => ?_,
    fun r d b s h => congrArg Host.Outcome.next (State.beginDesc_begins h _), fun r d b t s h hmsg => ?_, fun r d b s h hmsg => ?_⟩
  · exact ⟨_, congrArg Host.Outcome.next (State.beginDesc_begins h _), rfl, rfl, rfl, rfl, rfl, rfl⟩
  · refine congrArg Host.Outcome.next ((State.beginDesc_begins h _).trans ?_)
    dsimp only
    rw [hmsg]
  · refine ⟨_, congrArg Host.Outcome.next (State.beginDesc_begins h _), ?_⟩
    dsimp only
    rw [hmsg]
    exact ⟨rfl, rfl, rfl⟩

end Sys2Proof.Machine
end

section
/-! PROOFS. Memory errors, wipes of the tiers and the retention slots (R214, R215, R246, R280 to R283). -/
namespace Sys2Proof.Machine

/-! ### What an error leaves alone -/

section
variable {α : Type} {g : State → α} (b : BlindToJob g)
include b

theorem State.advise_keeps (s : State) (cause : Nat) : g (s.advise cause) = g s := by
  unfold State.advise State.event State.eventFor
  exact (b.host ..).trans (b.sec ..)

theorem State.adviseNew_keeps (s : State) (cause : Nat) : g (s.adviseNew cause) = g s := by
  unfold State.adviseNew
  split
  · rfl
  · exact State.advise_keeps b s cause

variable (hrt : ∀ s f, g (State.upRt s f) = g s)
include hrt

theorem State.unitFollows_keeps (s : State) (h : Health) : g (s.unitFollows h) = g s := by
  unfold State.unitFollows
  split
  · rfl
  · refine (State.when_keeps g _ _ _ (State.adviseNew_keeps b ..)).trans ?_
    unfold State.askHealthMoves
    exact hrt ..
  · exact b.leaveJobs ..

variable (hwrite : ∀ s h off d, g (State.upTiers s fun t => t.writeHome h off d) = g s)
include hwrite

theorem State.abortOne_keeps (s : State) (o : ObjS) : g (s.abortOne o) = g s := by
  unfold State.abortOne
  split
  · rfl
  · split
    · rfl
    · refine (hrt _ _).trans ?_
      exact foldl_keeps g _ (fun t a => State.applyArr_keeps g hwrite hrt b.mover t _ _ a) _ s

theorem State.abortMove_keeps (s : State) (id : Nat) : g (s.abortMove id) = g s := by
  have copyOver : ∀ (t : State) o, g (t.copyOver o) = g t := fun t o => by
    unfold State.copyOver
    dsimp only
    split
    · rfl
    · exact foldl_keeps g _ (fun t x => b.mover t _) _ t
  have askMove : ∀ (t : State) obj cause, g (t.askMove obj cause) = g t := fun t obj cause => by
    unfold State.askMove
    split
    · rfl
    · exact hrt t _
  unfold State.abortMove
  split
  · rfl
  · split
    · rfl
    · dsimp only
      split
      · rfl
      · refine (copyOver ..).trans ((State.when_keeps g _ _ _ (askMove ..)).trans ?_)
        exact foldl_keeps g _ (State.abortOne_keeps b hrt hwrite) _ s

/-- What an uncorrectable error feeds leaves alone, where no cell record is fed. -/
theorem State.ueFeeds_keeps (s : State) (l : ErrLoc) (feeds : UeFeeds) (hcell : ∀ c f, g (s.upCell c f) = g s) : g (s.ueFeeds l feeds) = g s := by
  unfold State.ueFeeds
  split
  · split
    · exact b.leaveJobs ..
    · exact hcell ..
  · exact b.leaveJobs ..
  · exact b.sec ..
  · split
    · rfl
    · split
      · exact b.leaveJobs ..
      · split
        · exact State.abortMove_keeps b hrt hwrite ..
        · exact (hrt _ _).trans (hrt _ _)
  · unfold State.poisonReq
    split
    · rfl
    · obtain ⟨f, hf⟩ := State.sendPkt_eq (s.upFab _) _
      refine (congrArg g hf).trans ((b.fab ..).trans (b.fab ..))
  · rfl
  · rfl

end

/-! ### Entries of a table that an index may leave -/

theorem modV_at {α : Type} {n : Nat} (v : Vector α n) (i : Fin n) (f : α → α) : (modV v i.val f)[i] = f v[i] := by
  unfold modV
  rw [dif_pos i.isLt]
  exact Vector.getElem_set_self ..

/-- What a change of an entry keeps of it, it keeps of every entry. -/
theorem modV_keeps {α β : Type} {n : Nat} (v : Vector α n) (i : Nat) (k : Fin n) (f : α → α) (p : α → β) (h : ∀ x, p (f x) = p x) :
    p (modV v i f)[k] = p v[k] := by
  by_cases hk : k.val = i
  · subst hk
    rw [modV_at, h]
  · unfold modV
    split
    · exact congrArg p (Vector.getElem_set_ne _ _ fun e => hk e.symm)
    · rfl

/-! ### Error counts and records -/

theorem blindToJob_tiers : BlindToJob State.tiers := ⟨fun _ => rfl, fun _ _ => rfl, fun _ _ => rfl, fun _ _ => rfl, fun _ _ => rfl,
  fun _ _ => rfl, fun _ _ => rfl, fun _ _ => rfl, fun _ _ => rfl⟩

/-- The counts of uncorrectable errors, and the error records. -/
def State.ueLog (s : State) : Word × List ErrRec := (s.tiers.ueTotal, s.tiers.errors)

theorem blindToJob_ueLog : BlindToJob State.ueLog := ⟨fun _ => rfl, fun _ _ => rfl, fun _ _ => rfl, fun _ _ => rfl, fun _ _ => rfl,
  fun _ _ => rfl, fun _ _ => rfl, fun _ _ => rfl, fun _ _ => rfl⟩

theorem Tiers.writeHome_keeps {β : Type} (p : Tiers → β) (hs : ∀ t m, p { t with stackMem := m } = p t) (hc : ∀ t m, p { t with capMem := m } = p t)
    (h : Home) (bs : Bytes) (t : Tiers) (off : Nat) : p (t.writeHome h off bs) = p t := by
  induction bs generalizing t off with
  | nil => rfl
  | cons v bs ih =>
    refine (ih ..).trans ?_
    unfold Tiers.writeByte
    repeat' split
    · rfl
    · exact hc ..
    · exact hs ..

theorem State.ueLog_writeHome (s : State) (h : Home) (off : Nat) (d : Bytes) : (s.upTiers fun t => t.writeHome h off d).ueLog = s.ueLog :=
  Tiers.writeHome_keeps (fun t => (t.ueTotal, t.errors)) (fun _ _ => rfl) (fun _ _ => rfl) h d s.tiers off

/-- The marks of the records of a cell. -/
def State.marksOf (c : Fin 1024) (s : State) : List Mark := s.cells[c].marks

theorem blindToJob_marksOf (c : Fin 1024) : BlindToJob (State.marksOf c) :=
  ⟨fun _ => (congrArg CellS.marks (Vector.getElem_map ..)).trans rfl, fun _ _ => rfl, fun _ _ => rfl, fun _ _ => rfl, fun _ _ => rfl,
    fun _ _ => rfl, fun _ _ => rfl, fun _ _ => rfl, fun _ _ => rfl⟩

/-- What an error does to its unit leaves alone, but in the tiers' healths and in the cell that has it. -/
theorem State.ueHealth_keeps {α : Type} {g : State → α} (b : BlindToJob g) (hrt : ∀ s f, g (State.upRt s f) = g s)
    (hstk : ∀ s i f, g (State.upTiers s fun t => t.upStack i f) = g s) (hdev : ∀ s i f, g (State.upTiers s fun t => t.upDev i f) = g s)
    (hcell : ∀ (s : State) i, g { s with cells := modV s.cells i fun k => k.uncorrected s.now } = g s) (s : State) (l : ErrLoc) (dead : Bool) :
    g (s.ueHealth l dead) = g s := by
  unfold State.ueHealth
  dsimp only
  split
  · exact (State.unitFollows_keeps b hrt ..).trans (hstk ..)
  · exact (State.unitFollows_keeps b hrt ..).trans (hdev ..)
  · exact hcell ..
  · rfl

/-- A corrected error changes of the tiers the healths of its unit, beside the count and the record. -/
theorem State.correctedErr_tiers (s : State) (l : ErrLoc) : ∃ v w, (s.correctedErr l).tiers = { (s.errRecord l false).tiers with stkUnits := v, devUnits := w } := by
  have follows := fun (t : State) h => State.unitFollows_keeps blindToJob_tiers (fun _ _ => rfl) t h
  unfold State.correctedErr
  dsimp only
  split
  · exact ⟨_, _, rfl⟩
  · exact ⟨_, _, follows ..⟩
  · exact ⟨_, _, follows ..⟩
  · exact ⟨_, _, rfl⟩

/-- The state once an uncorrectable error is recorded. -/
def State.ueRecorded (s : State) (l : ErrLoc) : State :=
  (s.errRecord l true).event evMemoryUe (arg (tierCode l.tier + l.unit % 256 * 16 + l.channel % 256 * 4096)) (arg l.offset)

theorem exec_memoryUe {l : ErrLoc} (f : UeFeeds) (s : State) (h : locValid l = true) :
    exec (.memoryUe l f) s = .next (((s.ueRecorded l).ueFeeds l f).ueHealth l (f = .noResponse)) := by
  change execMemoryUe l f s = _
  unfold execMemoryUe
  rw [h]
  rfl

theorem State.memoryUe_ueLog (s : State) (l : ErrLoc) (f : UeFeeds) (dead : Bool) :
    (((s.ueRecorded l).ueFeeds l f).ueHealth l dead).ueLog =
      (satAdd s.tiers.ueTotal 1, s.tiers.errors ++ [{ loc := l, uncorrectable := true, at_ := s.now }]) :=
  (State.ueHealth_keeps blindToJob_ueLog (fun _ _ => rfl) (fun _ _ _ => rfl) (fun _ _ _ => rfl) (fun _ _ => rfl) ..).trans
    (State.ueFeeds_keeps blindToJob_ueLog (fun _ _ => rfl) State.ueLog_writeHome _ l f fun _ _ => rfl)

/-- A cell record that an uncorrectable error feeds is poisoned. -/
theorem State.memoryUe_marks (s : State) (l : ErrLoc) (c : Fin 1024) (pos : BitVec 15) (dead : Bool) (h : s.job.replay = false) :
    (((s.ueRecorded l).ueFeeds l (.cellRecord c pos)).ueHealth l dead).cells[c].marks =
      s.cells[c].marks.map fun m => if m.word = pos.toNat then { m with poison := true } else m := by
  have health := State.ueHealth_keeps (blindToJob_marksOf c) (fun _ _ => rfl) (fun _ _ _ => rfl) (fun _ _ _ => rfl)
    (fun s i => modV_keeps s.cells i c _ CellS.marks fun _ => rfl) ((s.ueRecorded l).ueFeeds l (.cellRecord c pos)) l dead
  have fed : (s.ueRecorded l).ueFeeds l (.cellRecord c pos) = (s.ueRecorded l).upCell c fun k =>
      { k with marks := k.marks.map fun m => if m.word = pos.toNat then { m with poison := true } else m } := by
    refine if_neg ?_
    rw [show (s.ueRecorded l).job.replay = false from h]
    exact Bool.false_ne_true
  rw [fed] at health ⊢
  exact health.trans (congrArg CellS.marks (State.upCell_at ..))

/-- A stack or device whose channel does not respond is FAILED. -/
theorem State.deadStack (s : State) (l : ErrLoc) (k : Fin 12) (ht : l.tier = .stack) (hk : k.val = l.unit) :
    (s.ueHealth l true).tiers.stkUnits[k].health = .failed := by
  unfold State.ueHealth
  rw [ht]
  dsimp only
  rw [State.unitFollows_keeps blindToJob_tiers (fun _ _ => rfl), ← hk]
  exact congrArg UnitHealth.health (modV_at s.tiers.stkUnits k _)

theorem State.deadDevice (s : State) (l : ErrLoc) (d : Fin 24) (ht : l.tier = .capacity) (hd : d.val = l.unit) :
    (s.ueHealth l true).tiers.devUnits[d].health = .failed := by
  unfold State.ueHealth
  rw [ht]
  dsimp only
  rw [State.unitFollows_keeps blindToJob_tiers (fun _ _ => rfl), ← hd]
  exact congrArg UnitHealth.health (modV_at s.tiers.devUnits d _)

/-- Settles O33. -/
theorem memoryErrorsWipesAndRetention : Obligations.MemoryErrorsWipesAndRetention := by
  unfold Obligations.MemoryErrorsWipesAndRetention
  refine ⟨⟨fun l s hl => ?_, fun l s hl ht => ?_, fun l s hl => ?_, fun l f s hl => ?_, fun l f b s hl => ?_⟩,
    ⟨fun s hk hw => ?_, fun s hk hw => ?_, fun s hk hw => ?_, fun w s hk => ?_⟩, fun r rest s hwait hroom => ?_, fun s hfull => ?_⟩
  · obtain ⟨v, w, ht⟩ := s.correctedErr_tiers l
    refine ⟨_, if_pos hl, ?_, ?_, ?_, ?_, s.correctedErr_queues l⟩
    all_goals rw [ht]; rfl
  · obtain ⟨v, w, hv⟩ := s.correctedErr_tiers l
    refine ⟨s.correctedErr l, ?_, ?_, ?_, ?_, s.correctedErr_queues l⟩
    · change execPatrolScrub l true s = _
      unfold execPatrolScrub
      rw [hl, decide_eq_true ht]
      rfl
    all_goals rw [hv]; rfl
  · change execPatrolScrub l false s = _
    unfold execPatrolScrub
    rw [hl]
    rfl
  · have log := s.memoryUe_ueLog l f (f = .noResponse)
    refine ⟨_, exec_memoryUe f s hl, congrArg Prod.fst log, congrArg Prod.snd log, ?_, fun c pos hf hr => ?_, fun k hf ht hk => ?_, fun d hf ht hd => ?_⟩
    · simp [State.ueRecorded, State.event, State.eventFor]
    · subst hf
      exact s.memoryUe_marks l c pos _ hr
    · subst hf
      exact State.deadStack _ l k ht hk
    · subst hf
      exact State.deadDevice _ l d ht hd
  · refine ⟨if_neg (hl ▸ Bool.false_ne_true), ?_, ?_⟩
    · change execPatrolScrub l b s = _
      unfold execPatrolScrub
      rw [hl]
      rfl
    · change execMemoryUe l f s = _
      unfold execMemoryUe
      rw [hl]
      rfl
  · change execTierWipeDone .stk s = _
    unfold execTierWipeDone
    rw [hk, hw]
    rfl
  · change execTierWipeDone .cap s = _
    unfold execTierWipeDone
    rw [hk, hw]
    rfl
  · refine ⟨{ s with cells := s.cells.map fun k => { k with store := [], marks := [] }, mover := { s.mover with bufs := .replicate 128 none },
                      tiers := { s.tiers with wipeCell := true } }, ?_, rfl, fun c => ?_, fun b => Vector.getElem_replicate .., rfl⟩
    · change execTierWipeDone .cell s = _
      unfold execTierWipeDone
      rw [hk]
      dsimp only
      rw [hw]
      rfl
    · have here : (s.cells.map fun k => { k with store := [], marks := [] })[c] = { s.cells[c] with store := [], marks := [] } := Vector.getElem_map ..
      exact ⟨congrArg CellS.store here, congrArg CellS.marks here⟩
  · change execTierWipeDone w s = _
    unfold execTierWipeDone
    rw [hk]
    rfl
  · have room : ¬ decide (s.tiers.retention.length ≥ 2) = true := by
      rw [decide_eq_false (Nat.not_le_of_lt hroom)]
      exact Bool.false_ne_true
    have run : exec .retentionWrite s = .next (s.withBuf (.retention r.step) fun bad s =>
        s.upTiers fun t => { t with retention := t.retention ++ [{ r with bad := bad }], retWait := rest }) := by
      change execRetentionWrite s = _
      unfold execRetentionWrite
      rw [hwait]
      exact if_neg room
    refine ⟨fun b hb => ⟨_, run.trans (congrArg Host.Outcome.next (State.withBuf_some hb _)), rfl, rfl, rfl⟩, fun hn => ?_⟩
    exact run.trans (congrArg Host.Outcome.next (State.withBuf_none hn _))
  · change execRetentionWrite s = _
    unfold execRetentionWrite
    split
    · rfl
    · exact if_pos (decide_eq_true hfull)

end Sys2Proof.Machine
end

section
/-! PROOFS. The ceiling of the envelope, its messages and its pins, and the credit rounds (R400 to R404, R425 to R428). -/
namespace Sys2Proof.Machine

/-! ### Packets that arrive -/

theorem State.arrivePkt_arrives {s : State} {p : Fin 32} {k : Pkt} (h : Arrives s p k) (f : State → State) : s.arrivePkt p k f = f s := by
  obtain ⟨hloop, hup, hroom, haged, hlevel⟩ := h
  unfold State.arrivePkt
  rw [if_neg (hloop ▸ Bool.false_ne_true), if_neg, if_neg (haged ▸ Bool.false_ne_true), if_neg (Nat.not_lt.mpr hlevel)]
  rw [hup, hroom]
  decide

/-! ### Changes under which the ceiling is found anew -/

/-- The power block but for where the ceiling stands. -/
def Power.plan (p : Power) : Power := { p with ceilNow := 0, ceilAt := 0, rampDown := 0, thermBinds := false }

theorem Power.fall_plan (p : Power) (now : DWord) (e other : Nat) : (p.fall now e other).plan = p.plan := by
  unfold Power.fall
  split <;> rfl

theorem Power.rise_plan (p : Power) (now : DWord) (e : Nat) : (p.rise now e).plan = p.plan := by
  unfold Power.rise
  dsimp only
  split <;> rfl

/-- A step of the ceiling moves the ceiling alone. -/
theorem State.ceilingStep_plan (s : State) : ∃ p, p.plan = s.pwr.plan ∧ s.ceilingStep = { s with pwr := p } := by
  unfold State.ceilingStep
  dsimp only
  repeat' split
  · exact ⟨s.pwr, rfl, rfl⟩
  · exact ⟨_, Power.fall_plan .., rfl⟩
  · exact ⟨{ s.pwr with ceilAt := s.now, rampDown := 0 }, rfl, rfl⟩
  · exact ⟨_, Power.rise_plan .., rfl⟩

theorem State.noteBind_plan (s : State) : ∃ p h, p.plan = s.pwr.plan ∧ s.noteBind = { s with pwr := p, host := h } := by
  unfold State.noteBind
  dsimp only
  cases s.thermSetsE && !s.pwr.thermBinds
  · exact ⟨{ s.pwr with thermBinds := s.thermSetsE }, s.host, rfl, rfl⟩
  · exact ⟨{ s.pwr with thermBinds := s.thermSetsE }, _, rfl, rfl⟩

/-- A change of the power block that finds the ceiling anew: beside the change the ceiling moves, and a bound by heat is told. -/
theorem State.changeEnv_plan (s : State) (f : Power → Power) : ∃ q p h, q.plan = s.pwr.plan ∧ p.plan = (f q).plan ∧
    s.changeEnv f = { s with pwr := p, host := h } := by
  obtain ⟨q, hq, h1⟩ := s.ceilingStep_plan
  obtain ⟨p1, hp1, h2⟩ := State.ceilingStep_plan { s with pwr := f q }
  obtain ⟨p, h, hp, h3⟩ := State.noteBind_plan { s with pwr := p1 }
  refine ⟨q, p, h, hq, hp.trans hp1, ?_⟩
  unfold State.changeEnv State.reEnv
  rw [h1]
  refine (congrArg State.noteBind h2).trans h3

/-! ### ENVELOPE messages and the pins -/

/-- The message of an ENVELOPE packet. -/
def envOf (b : Bytes) : EnvMsg := { ceiling := leNat b 16 2, rampDown := leNat b 18 2, effective := BitVec.ofNat 64 (leNat b 8 8) }

/-- A message is newer than the last one. -/
def State.envNew (s : State) (b : Bytes) : Prop := ∀ last, s.pwr.msgSeq = some last → seqNewer (BitVec.ofNat 32 (leNat b 4 4)) last = true

theorem State.applyCeiling_plan (s : State) (m : EnvMsg) : ∃ p h, s.applyCeiling m = { s with pwr := p, host := h } ∧ p.msgCeil = some m.ceiling ∧
    p.msgPend = none ∧ p.msgSeq = s.pwr.msgSeq := by
  obtain ⟨q, p, h, hq, hp, hs⟩ := s.changeEnv_plan _
  refine ⟨p, h, hs, congrArg Power.msgCeil hp, congrArg Power.msgPend hp, ?_⟩
  have after := congrArg Power.msgSeq hp
  have before := congrArg Power.msgSeq hq
  exact after.trans before

section
variable {s : State} {b : Bytes} (hnew : s.envNew b) (hlow : 250 ≤ leNat b 16 2) (hhigh : leNat b 16 2 ≤ 1500)
include hnew hlow hhigh

/-- A message that is newer than the last one and within the range takes effect, at once or at its time. -/
theorem State.envelopeMsg_taken : s.envelopeMsg b = some
    (if (envOf b).effective.toNat ≤ s.now.toNat then (s.upPwr fun p => { p with msgSeq := some (BitVec.ofNat 32 (leNat b 4 4)) }).applyCeiling (envOf b)
     else (s.upPwr fun p => { p with msgSeq := some (BitVec.ofNat 32 (leNat b 4 4)) }).upPwr fun p => { p with msgPend := some (envOf b) }) := by
  unfold State.envelopeMsg
  dsimp only
  rw [if_pos]
  · split
    · next h => exact congrArg some (if_pos h).symm
    · next h => exact congrArg some (if_neg h).symm
  · rw [decide_eq_true hlow, decide_eq_true hhigh, Bool.and_true, Bool.and_true]
    split
    · rfl
    · next last h => exact hnew last h

end

theorem State.envelopeMsg_refused {s : State} {b : Bytes} (h : leNat b 16 2 < 250 ∨ 1500 < leNat b 16 2 ∨
    ∃ last, s.pwr.msgSeq = some last ∧ seqNewer (BitVec.ofNat 32 (leNat b 4 4)) last = false) : s.envelopeMsg b = none := by
  unfold State.envelopeMsg
  dsimp only
  refine if_neg ?_
  rw [Bool.and_eq_true_iff, Bool.and_eq_true_iff, decide_eq_true_iff, decide_eq_true_iff]
  rintro ⟨⟨hnew, hlow⟩, hhigh⟩
  rcases h with h | h | ⟨last, hs, hold⟩
  · omega
  · omega
  · rw [hs] at hnew
    exact Bool.false_ne_true (hold.symm.trans hnew)

theorem execEnvelope_arrives {p : Fin 32} {k : Pkt} {s : State} (ha : Arrives s p k) (hop : k.op = 0x10) (hm : s.fab.mine p k = true)
    (ht : msgType k = 0x04) (hk : msgKnown k = true) : exec (.envelope p k) s =
      .next (if s.fromRelay k then (s.envelopeMsg k.payload).getD (s.countDiscard p) else s.countDiscard p) := by
  change execEnvelope p k s = _
  unfold execEnvelope
  rw [hop, hm, ht, hk, State.arrivePkt_arrives ha]
  rfl

/-! ### f_mod -/

/-- A relation that every step of a fold keeps. -/
theorem foldl_rel {α : Type} {R : State → State → Prop} (hr : ∀ s, R s s) (ht : ∀ s t u, R s t → R t u → R s u) {f : State → α → State}
    (h : ∀ s a, R s (f s a)) (l : List α) (s : State) : R s (l.foldl f s) := by
  induction l generalizing s with
  | nil => exact hr s
  | cons a l ih => exact ht _ _ _ (h s a) (ih (f s a))

/-- The states differ in the clusters, and in what the rails are to reach, alone. -/
def Refreqs (s t : State) : Prop := ∃ v r, t = { s with clusters := v, pwr := { s.pwr with rails := r } }

theorem Refreqs.refl (s : State) : Refreqs s s := ⟨s.clusters, s.pwr.rails, rfl⟩

theorem Refreqs.trans (s t u : State) (h : Refreqs s t) (h' : Refreqs t u) : Refreqs s u := by
  obtain ⟨v, r, rfl⟩ := h
  obtain ⟨v', r', rfl⟩ := h'
  exact ⟨v', r', rfl⟩

theorem State.refreqCluster_refreqs (s : State) (c : Fin 64) : Refreqs s (s.refreqCluster c) := by
  unfold State.refreqCluster
  dsimp only
  repeat' split
  · exact .refl s
  · exact .refl s
  · exact ⟨_, s.pwr.rails, rfl⟩

theorem State.retarget_refreqs (s : State) (d : Fin 4) : Refreqs s (s.retarget d) := by
  unfold State.retarget
  dsimp only
  repeat' split
  · exact .refl s
  · exact .refl s
  · exact ⟨s.clusters, _, rfl⟩
  · exact .refl s
  · exact ⟨s.clusters, _, rfl⟩

theorem State.refreq_refreqs (s : State) : Refreqs s s.refreq := by
  unfold State.refreq
  split
  · exact .refl s
  · exact .trans _ _ _ (foldl_rel Refreqs.refl Refreqs.trans State.refreqCluster_refreqs ..) (foldl_rel Refreqs.refl Refreqs.trans State.retarget_refreqs ..)

theorem State.ceilingStep_idle {s : State} (h : s.pwr.st ≠ .active) : s.ceilingStep = s := if_pos h

theorem State.ceilingE_bounds (s : State) : 250 ≤ s.ceilingE ∧ s.ceilingE ≤ 1500 := by
  unfold State.ceilingE State.ceilingWith
  dsimp only
  omega

/-- Settles O43. -/
theorem envelopeMessagesMoveTheCeiling : Obligations.EnvelopeMessagesMoveTheCeiling := by
  unfold Obligations.EnvelopeMessagesMoveTheCeiling
  refine ⟨fun p k s ha hop hm ht hk hr hnew hlow hhigh => ?_, fun p k s ha hop hm ht hk hbad => ?_, fun m s hp => ?_,
    fun code s hrun hv hr hst => ?_, fun code s hoff => ?_, fun s hst => ?_, fun s hst => ?_, fun b s hst => ?_, State.ceilingE_bounds⟩
  · have run := execEnvelope_arrives ha hop hm ht hk
    rw [if_pos hr, State.envelopeMsg_taken hnew hlow hhigh] at run
    by_cases hnow : (envOf k.payload).effective.toNat ≤ s.now.toNat
    · rw [if_pos hnow] at run
      obtain ⟨q, h, hs, hceil, hpend, hseq⟩ := (s.upPwr fun p => { p with msgSeq := some (BitVec.ofNat 32 (leNat k.payload 4 4)) }).applyCeiling_plan (envOf k.payload)
      refine ⟨_, run.trans (congrArg Host.Outcome.next hs), hseq, rfl, fun _ => ⟨hceil, hpend⟩, fun hlater => absurd hnow (Nat.not_le_of_lt hlater)⟩
    · rw [if_neg hnow] at run
      exact ⟨_, run, rfl, rfl, fun h => absurd h hnow, fun _ => ⟨rfl, rfl⟩⟩
  · rw [execEnvelope_arrives ha hop hm ht hk]
    rcases hbad with hr | hbad
    · rw [hr]
      rfl
    · rw [State.envelopeMsg_refused hbad]
      exact congrArg Host.Outcome.next (ite_self _)
  · obtain ⟨q, h, hs, hceil, hpend, -⟩ := (s.advanceTo m.effective).applyCeiling_plan m
    have run : exec .envelopeEffective s = .next ((s.advanceTo m.effective).applyCeiling m) := by
      change execEnvelopeEffective s = _
      unfold execEnvelopeEffective
      rw [hp]
    exact ⟨_, run.trans (congrArg Host.Outcome.next hs), rfl, hceil, hpend, rfl⟩
  · obtain ⟨q, p, h, -, hp, hs⟩ := (s.upPins fun p => { p with envCode := code }).changeEnv_plan fun p => { p with pinCode := code }
    refine ⟨_, congrArg Host.Outcome.next ((if_pos ?_).trans hs), congrArg Power.pinCode hp, rfl, rfl⟩
    change (s.quince.running && s.pins.vaux && s.pins.modRst && s.quince.start.isNone) = true
    rw [hrun, hv, hr, hst]
    rfl
  · refine congrArg Host.Outcome.next (if_neg ?_)
    change ¬ (s.quince.running && s.pins.vaux && s.pins.modRst && s.quince.start.isNone) = true
    simp only [Bool.and_eq_true, not_and_or, Bool.not_eq_true]
    rcases hoff with h | h | h | h
    · exact .inr (by rw [← Option.not_isSome, h]; rfl)
    · exact .inl (.inl (.inl h))
    · exact .inl (.inl (.inr h))
    · exact .inl (.inr h)
  · obtain ⟨q, hq, hs⟩ := s.ceilingStep_plan
    have st := congrArg Power.st hq
    have fMod := congrArg Power.fMod hq
    replace st : q.st = .active := st.trans hst
    replace fMod : q.fMod = s.pwr.fMod := fMod
    obtain ⟨v, r, hf⟩ := State.refreq_refreqs { s with pwr := { q with fMod := BitVec.ofNat 11 (max 500 (q.fMod.toNat - 25)) } }
    rw [fMod] at hf
    have run : exec (.fmodEval true) s =
        .next (State.refreq { s with pwr := { q with fMod := BitVec.ofNat 11 (max 500 (s.pwr.fMod.toNat - 25)) } }) := by
      change execFmodEval true s = _
      unfold execFmodEval
      rw [hs, ← fMod]
      exact if_neg (not_not.mpr st)
    exact ⟨_, run.trans (congrArg Host.Outcome.next hf), rfl, rfl⟩
  · obtain ⟨q, hq, hs⟩ := s.ceilingStep_plan
    have st := congrArg Power.st hq
    replace st : q.st = .active := st.trans hst
    obtain ⟨v, r, hf⟩ := State.refreq_refreqs { s with pwr := { q with fMod := BitVec.ofNat 11 (fmodFor s.free q.ceilNow) }, free := s.free + 1 }
    have run : exec (.fmodEval false) s =
        .next (State.refreq { s with pwr := { q with fMod := BitVec.ofNat 11 (fmodFor s.free q.ceilNow) }, free := s.free + 1 }) := by
      change execFmodEval false s = _
      unfold execFmodEval
      rw [hs]
      exact if_neg (not_not.mpr st)
    refine ⟨_, run.trans (congrArg Host.Outcome.next hf), rfl, ?_, rfl, rfl⟩
    rw [hs]
  · change execFmodEval b s = _
    unfold execFmodEval
    rw [State.ceilingStep_idle hst]
    exact if_pos hst

/-! ### Credit rounds -/

/-- A round without a result leaves a borrower without a grant. -/
theorem State.dropGrant_plan (s : State) : ∃ p h, s.dropGrant = { s with pwr := p, host := h } ∧ (s.pwr.borrower = true → p.grant = 0) ∧
    p.upSent = s.pwr.upSent := by
  unfold State.dropGrant
  cases hb : s.pwr.borrower
  · exact ⟨s.pwr, s.host, rfl, nofun, rfl⟩
  · obtain ⟨q, p, h, hq, hp, hs⟩ := s.changeEnv_plan fun p => { p with grant := 0 }
    have after := congrArg Power.upSent hp
    have before := congrArg Power.upSent hq
    exact ⟨p, h, hs, fun _ => congrArg Power.grant hp, after.trans before⟩

/-- What is not of the ceiling is said by the plan. -/
theorem Power.of_plan {α : Type} (g : Power → α) (hg : ∀ p : Power, g p.plan = g p) {p q : Power} (h : p.plan = q.plan) : g p = g q := by
  rw [← hg p, h, hg]

theorem State.applyCredit_plan (s : State) (o a : Nat) : ∃ p h, s.applyCredit o a = { s with pwr := p, host := h } ∧
    p.grant = BitVec.ofNat 16 (s.pwr.ask * min a o / a) ∧ p.lend = BitVec.ofNat 16 (ceilDiv (s.pwr.offer * min a o) o) ∧ p.roundOn = false := by
  obtain ⟨q, p, h, hq, hp, hs⟩ := s.changeEnv_plan fun p =>
    { p with roundOn := false
             grant := BitVec.ofNat 16 (p.ask * min a o / a)
             lend := BitVec.ofNat 16 (ceilDiv (p.offer * min a o) o) }
  rw [Power.of_plan Power.ask (fun _ => rfl) hq, Power.of_plan Power.offer (fun _ => rfl) hq] at hp
  exact ⟨p, h, hs, congrArg Power.grant hp, congrArg Power.lend hp, congrArg Power.roundOn hp⟩

theorem State.tryCredit_sent {s : State} (h : s.pwr.upSent = true) : s.tryCredit = s := by
  unfold State.tryCredit
  dsimp only
  refine if_pos ?_
  rw [h, Bool.or_true, Bool.true_or, Bool.true_or]

/-- A member that waits for a child's message of the round says nothing yet. -/
theorem State.tryCredit_waits {s : State} (hc : s.pwr.childCredits = []) (hk : s.kids ≠ []) : s.tryCredit = s := by
  have waits : (s.kids.map s.pwr.childOf).any Option.isNone = true := by
    obtain ⟨k, ks, hks⟩ := List.exists_cons_of_ne_nil hk
    have none : s.pwr.childOf k = none := by
      unfold Power.childOf
      rw [hc]
      rfl
    rw [hks, List.map_cons, List.any_cons, none]
    rfl
  unfold State.tryCredit
  dsimp only
  refine if_pos ?_
  rw [waits, Bool.or_true]

theorem State.jobMsg_fabOnly (s : State) (dst : BitVec 17) (mtype : Nat) (body : Bytes) : FabOnly s (s.jobMsg dst mtype body) :=
  State.sendPkt_fabOnly ..

theorem execCredit_arrives {p : Fin 32} {k : Pkt} {c : Nat} {s : State} (ha : Arrives s p k) (hop : k.op = 0x10) (hm : s.fab.mine p k = true)
    (ht : msgType k = 0x05) (hk : msgKnown k = true) (hin : s.inJob = true) (hsh : s.job.p.shift = true) (hjob : k.job = s.job.p.jobId)
    (hbody : leNat k.payload 4 4 = s.job.p.jobId.toNat) (hok : s.fab.collOk k = true) (hpos : s.posOf k.src = some c) :
    exec (.credit p k) s = .next
      (if bit (byteAt k.payload 12) 0 then
        (if decide (s.treePos 0 ≠ 0) && decide (c = s.job.p.parentPos (s.treePos 0)) && s.pwr.roundOn && decide (BitVec.ofNat 32 (leNat k.payload 8 4) = s.pwr.round)
          then s.creditDown (leNat k.payload 16 8) (leNat k.payload 24 8) (leNat k.payload 32 4)
          else s.countDiscard p)
      else if s.kids.contains c then
        s.creditUp c (BitVec.ofNat 32 (leNat k.payload 8 4)) (leNat k.payload 16 8) (leNat k.payload 24 8) (leNat k.payload 32 4)
      else s.countDiscard p) := by
  change execCredit p k s = _
  unfold execCredit
  rw [hop, hm, ht, hk, State.arrivePkt_arrives ha, if_pos (by decide)]
  dsimp only
  rw [hin, hsh, hjob, hbody, hok, hpos, if_neg]
  rw [decide_eq_true rfl, decide_eq_true rfl]
  decide

/-- Settles O44. -/
theorem creditRoundsShareTheOffers : Obligations.CreditRoundsShareTheOffers := by
  unfold Obligations.CreditRoundsShareTheOffers
  refine ⟨fun pTarget pCore s hrun hnone hkids => ?_, fun s hon hup => ?_, fun s hon => ?_,
    fun p k c s ha hop hm ht hk hin hsh hjob hbody hok hpos hc hdown hround hsent => ?_,
    fun p k s ha hop hm ht hk hin hsh hjob hbody hok htree hpos hdown hon hround => ?_⟩
  · obtain ⟨q, p, h, hq, hp, hs⟩ := (s.advanceTo (BitVec.ofNat 64 (max (s.now.toNat / 2 ^ 24) (s.pwr.roundAt.toNat / 2 ^ 24 + 1) * 2 ^ 24))).changeEnv_plan
      fun p => { p with capNow := p.shiftCap }
    have credits : p.childCredits = [] :=
      (Power.of_plan Power.childCredits (fun _ => rfl) hp).trans ((Power.of_plan Power.childCredits (fun _ => rfl) hq).trans hnone)
    have lends := Power.of_plan Power.borrower (fun _ => rfl) hp
    have lent := Power.of_plan Power.borrower (fun _ => rfl) hq
    have borrower : p.borrower = s.pwr.borrower := lends.trans lent
    have caps := Power.of_plan Power.capNow (fun _ => rfl) hp
    have shift := Power.of_plan Power.shiftCap (fun _ => rfl) hq
    have cap : p.capNow = s.pwr.shiftCap := caps.trans shift
    have run : exec (.creditRoundStart pTarget pCore) s = _ := if_pos hrun
    rw [hs] at run
    refine ⟨_, run.trans (congrArg Host.Outcome.next (State.tryCredit_waits (congrArg (List.filter _) credits) hkids)), ⟨rfl, rfl, rfl⟩, rfl, rfl, cap, fun hb => ?_, fun hb => ?_, rfl⟩
    · exact if_pos (borrower.trans hb)
    · exact if_neg ((borrower.trans hb).symm ▸ Bool.false_ne_true)
  · obtain ⟨p, h, hs, hgrant, hsent⟩ := ((s.advanceTo (after s.pwr.roundAt (400 * usU))).upPwr fun p => { p with upSent := true }).dropGrant_plan
    refine ⟨_, (if_pos ?_).trans (congrArg Host.Outcome.next hs), hsent, hgrant, rfl, rfl⟩
    rw [hon, hup]
    rfl
  · obtain ⟨p, h, hs, hgrant, -⟩ := (s.advanceTo (after s.pwr.roundAt msU)).dropGrant_plan
    exact ⟨_, (if_pos hon).trans (congrArg Host.Outcome.next hs), hgrant, rfl, rfl⟩
  · have run := execCredit_arrives ha hop hm ht hk hin hsh hjob hbody hok hpos
    have up : s.creditUp c (s.pwr.round + 1) (leNat k.payload 16 8) (leNat k.payload 24 8) (leNat k.payload 32 4) =
        s.upPwr fun p => { p with childCredits := p.childCredits ++ [(c, s.pwr.round + 1, leNat k.payload 16 8, leNat k.payload 24 8, leNat k.payload 32 4)] } := by
      refine (if_pos ?_).trans (State.tryCredit_sent hsent)
      rw [decide_eq_true rfl, Bool.or_true]
    rw [if_neg (hdown ▸ Bool.false_ne_true), if_pos (List.contains_iff_mem.mpr hc), hround, up] at run
    exact ⟨_, run, rfl, rfl⟩
  · have run := execCredit_arrives ha hop hm ht hk hin hsh hjob hbody hok hpos
    rw [if_pos hdown, if_pos] at run
    · obtain ⟨b, hb, hsame⟩ : ∃ b, (s.when s.roundsRun fun s => s.kids.foldl (fun s c => s.jobMsg (s.job.p.moduleOf (s.job.p.memberAt 0 c)) 0x05
          (creditBytes s.job.p.jobId s.pwr.round true (leNat k.payload 16 8) (leNat k.payload 24 8) (leNat k.payload 32 4))) s) = { s with fab := b } ∧
          (s.time.locked = false → b = s.fab) := by
        cases hr : s.roundsRun
        · exact ⟨s.fab, rfl, fun _ => rfl⟩
        · obtain ⟨b, hb⟩ : FabOnly s (s.kids.foldl _ s) := .foldl (fun _ _ => State.jobMsg_fabOnly ..) _ s
          refine ⟨b, hb, fun hl => absurd hr ?_⟩
          unfold State.roundsRun
          rw [hl, Bool.and_false]
          exact Bool.false_ne_true
      obtain ⟨p, h, hs, hgrant, hlend, hoff⟩ := State.applyCredit_plan { s with fab := b } (leNat k.payload 16 8) (leNat k.payload 24 8)
      unfold State.creditDown at run
      rw [hb, hs] at run
      exact ⟨_, run, ⟨hgrant, hlend⟩, hoff, hsame, rfl⟩
    · rw [decide_eq_true htree, hon, decide_eq_true hround, decide_eq_true rfl]
      rfl

end Sys2Proof.Machine
end

section
/-! PROOFS. Ports that come up, fail their checks and retrain, and what waited at them (R352 to R354, R357, R358, R384). -/
namespace Sys2Proof.Machine

/-! ### Bring-up -/

/-- A port after an exchange that meets every check; n is what its C0 bucket holds. -/
def Fabric.portUpAfter (b : Fabric) (now : DWord) (fw : Word) (q : Port) (x : PortXchg) (n : Nat) : Port :=
  { q with st := .up, level := b.linkLevel x.partnerLevel, delay := x.delay, partnerMod := x.partnerMod, partnerPort := x.partnerPort
           partnerFw := x.partnerFw, sentId := b.modId, sentLevel := b.offer, sentFw := fw
           credits := #v[x.credits.1, x.credits.2.1, x.credits.2.2.1, x.credits.2.2.2]
           deficit := .replicate 4 0, departSent := false, idleAt := .replicate 8 now, c0Level := n, c0At := now }

theorem Fabric.upPort_up {b : Fabric} (now : DWord) (fw : Word) (q : Port) {x : PortXchg} (hl : x.lanes = 255#8) (hd : x.delay.toNat ≤ 4800)
    (hp : x.partnerLevel ≠ 0) : ∃ n, b.upPort now fw q x = b.portUpAfter now fw q x n := by
  unfold Fabric.upPort
  rw [if_neg (not_not.mpr hl), if_neg (Nat.not_lt.mpr hd), if_neg hp]
  exact ⟨_, rfl⟩

/-- The reason of a port whose exchange lacks something. -/
def lackOf (x : PortXchg) : Nat := if x.lanes ≠ 255#8 then 4 else if 4800 < x.delay.toNat then 5 else 6

theorem Fabric.upPort_fail {b : Fabric} (now : DWord) (fw : Word) (q : Port) {x : PortXchg}
    (h : x.lanes ≠ 255#8 ∨ 4800 < x.delay.toNat ∨ x.partnerLevel = 0) : b.upPort now fw q x = q.fail (lackOf x) := by
  unfold Fabric.upPort lackOf
  by_cases hl : x.lanes ≠ 255#8
  · rw [if_pos hl, if_pos hl]
  · rw [if_neg hl, if_neg hl]
    by_cases hd : 4800 < x.delay.toNat
    · rw [if_pos hd, if_pos hd]
    · rw [if_neg hd, if_neg hd, if_pos ((h.resolve_left hl).resolve_left hd)]

section
variable {p : Fin 32} {x : PortXchg} {s : State} {q : Port} (hlit : s.lit = true) (hst : s.fab.ports[p].st = .training ∨ s.fab.ports[p].st = .retraining)
  (hq : s.fab.upPort s.now s.quince.fwVersion s.fab.ports[p] x = q)
include hlit hst hq

theorem State.execPortUp_up (hup : q.st = .up) : exec (.portUp p x) s =
    .next (((s.upPort p fun q => s.fab.upPort s.now s.quince.fwVersion q x).upFab Fabric.returnPort).when (decide (s.time.upstream.toNat = p.val)) fun s =>
      s.upTime fun b => { b with msgsSinceDelay := 1024 }) := by
  change execPortUp p x s = _
  unfold execPortUp
  dsimp only
  rw [decide_eq_true hst, hlit, if_pos (by decide), s.upPort_at p, hq, if_pos hup]
  rfl

theorem State.execPortUp_down (hdown : q.st ≠ .up) : exec (.portUp p x) s =
    .next ((s.upPort p fun q => s.fab.upPort s.now s.quince.fwVersion q x).upPort p fun q => { q with trainSince := s.now }) := by
  change execPortUp p x s = _
  unfold execPortUp
  dsimp only
  rw [decide_eq_true hst, hlit, if_pos (by decide), s.upPort_at p, hq, if_neg hdown]
  rfl

end

/-! ### Retrain -/

/-- A port that enters retrain. -/
def Port.retraining (q : Port) (now : DWord) : Port :=
  { q with st := .retraining, trainSince := now, retrains := now :: within now hourU q.retrains }

theorem State.retrain_eq (s : State) (p : Fin 32) : s.retrain p = (s.upPort p (·.retraining s.now)).vacate p := rfl

/-- What a port in retrain has but its packets. -/
theorem State.retrain_port {α : Type} (s : State) (p : Fin 32) (g : Port → α) (hg : ∀ x, g x = g x.link) (hr : ∀ x : Port, g { x with replay := [] } = g x) :
    g (s.retrain p).fab.ports[p] = g (s.fab.ports[p].retraining s.now) :=
  (State.vacate_port _ p p g hg hr).trans (congrArg g (s.upPort_at p _))

/-- More than eight retrains within an hour raise departure advice. -/
def State.retrainAdvice (s : State) (p : Fin 32) : State :=
  s.when (decide (s.fab.ports[p].retrains.length > 8) && !s.sec.departAdvice.getLsbD 3) fun s => s.advise 3

theorem State.execPortRetrain_up {p : Fin 32} {s : State} (h : s.fab.ports[p].st = .up) : exec (.portRetrain p) s = .next ((s.retrain p).retrainAdvice p) :=
  if_pos h

theorem State.retrainAdvice_frame (s : State) (p : Fin 32) : ∃ h, s.retrainAdvice p = { s with
    sec := { s.sec with departAdvice := if 8 < s.fab.ports[p].retrains.length then s.sec.departAdvice ||| 8 else s.sec.departAdvice }, host := h } := by
  unfold State.retrainAdvice
  by_cases hn : 8 < s.fab.ports[p].retrains.length
  · rw [if_pos hn, decide_eq_true hn]
    cases hb : s.sec.departAdvice.getLsbD 3
    · exact ⟨_, rfl⟩
    · refine ⟨s.host, ?_⟩
      have told : s.sec.departAdvice ||| 8 = s.sec.departAdvice := by
        refine BitVec.eq_of_getLsbD_eq fun i hi => ?_
        rw [BitVec.getLsbD_or]
        by_cases h3 : i = 3
        · rw [h3, hb, Bool.true_or]
        · have clear : (8 : BitVec 6).getLsbD i = false := by
            interval_cases i <;> simp_all
          rw [clear, Bool.or_false]
      rw [told]
      rfl
  · rw [if_neg hn, decide_eq_false hn]
    exact ⟨s.host, rfl⟩

/-! ### What waited at a port that is vacated (R357) -/

/-- What waits at the ports' queues says which packets a list of packets sends to a queue: its own bucket's port and its class. -/
def Fabric.goesTo (b : Fabric) (p q : Fin 32) (c : Fin 4) (l : List (Pkt × Nat)) : List (Pkt × Nat) :=
  (l.filter fun x => decide (b.bucketPort (x.2 / 64) (x.2 % 64) = some q) && decide (x.1.cls = c)).map fun x => (b.named q (b.unnamed p x.1), x.2)

/-- A packet that leaves by its bucket's port. -/
def Fabric.bucketed (b : Fabric) (x : Pkt × Nat) : Prop := x.1.op ≠ 0x05 ∧ x.2 ≠ noBucket ∧ (b.bucketPort (x.2 / 64) (x.2 % 64)).isSome = true

theorem Fabric.unnamed_op (b : Fabric) (p : Fin 32) (k : Pkt) : (b.unnamed p k).op = k.op := by
  unfold Fabric.unnamed
  split <;> rfl

theorem Fabric.unnamed_cls (b : Fabric) (p : Fin 32) (k : Pkt) : (b.unnamed p k).cls = k.cls := by
  unfold Fabric.unnamed
  split <;> rfl

section
variable {s t : State} (h : SendsOnly s t)
include h

theorem SendsOnly.named (q : Fin 32) (k : Pkt) : t.fab.named q k = s.fab.named q k := by
  unfold Fabric.named
  rw [h.fabric Fabric.modId fun _ => rfl, h.port Port.sentId (fun _ => rfl) q]

theorem SendsOnly.unnamed (q : Fin 32) (k : Pkt) : t.fab.unnamed q k = s.fab.unnamed q k := by
  unfold Fabric.unnamed
  rw [h.fabric Fabric.modId fun _ => rfl, h.port Port.sentId (fun _ => rfl) q]

theorem SendsOnly.bucketPort (set i : Nat) : t.fab.bucketPort set i = s.fab.bucketPort set i := by
  unfold Fabric.bucketPort
  rw [h.fabric Fabric.buckets fun _ => rfl]

end

/-- A packet that is put at a port stands before or behind what waits there in its class. -/
theorem State.putAt_queue (s : State) (r q : Fin 32) (sent : Bool) (k : Pkt) (tag : Nat) (c : Fin 4) :
    (s.putAt r sent k tag).fab.ports[q].queues[c] =
      if r = q ∧ k.cls = c then (if sent then (s.fab.named r k, tag) :: s.fab.ports[q].queues[c] else s.fab.ports[q].queues[c] ++ [(s.fab.named r k, tag)])
      else s.fab.ports[q].queues[c] := by
  have cls : (s.fab.named r k).cls = k.cls := by
    unfold Fabric.named
    split <;> rfl
  have put : (s.putAt r sent k tag).fab.ports = updV s.fab.ports r fun x => { x with queues := updV x.queues k.cls fun l =>
      if sent then (s.fab.named r k, tag) :: l else l ++ [(s.fab.named r k, tag)] } := by
    cases sent
    · rfl
    · rw [← cls]
      rfl
  rw [put]
  by_cases hq : r = q
  · subst hq
    rw [updV_at]
    by_cases hc : k.cls = c
    · subst hc
      rw [if_pos ⟨rfl, rfl⟩]
      exact updV_at ..
    · rw [if_neg fun h => hc h.2]
      exact updV_ne _ _ fun h => hc h.symm
  · rw [if_neg fun h => hq h.1, updV_ne _ _ fun h => hq h.symm]

theorem State.resend_bucketed {s : State} (p : Fin 32) (sent : Bool) {k : Pkt} {tag : Nat} {r : Fin 32} (hop : k.op ≠ 0x05) (htag : tag ≠ noBucket)
    (hr : s.fab.bucketPort (tag / 64) (tag % 64) = some r) : s.resend p sent (k, tag) = s.putAt r sent k tag := by
  unfold State.resend
  refine (if_neg hop).trans ?_
  dsimp only
  rw [if_neg htag, hr]

/-- One packet of a vacated port: it stands at the port of its bucket. -/
theorem State.resend_queue {u s : State} (hu : SendsOnly u s) (p q : Fin 32) (c : Fin 4) (sent : Bool) {x : Pkt × Nat} (hx : u.fab.bucketed x) :
    (s.resend p sent (s.fab.unnamed p x.1, x.2)).fab.ports[q].queues[c] =
      if sent then u.fab.goesTo p q c [x] ++ s.fab.ports[q].queues[c] else s.fab.ports[q].queues[c] ++ u.fab.goesTo p q c [x] := by
  obtain ⟨hop, htag, hport⟩ := hx
  obtain ⟨r, hr⟩ := Option.isSome_iff_exists.mp hport
  rw [State.resend_bucketed p sent ((Fabric.unnamed_op ..).symm ▸ hop) htag ((hu.bucketPort ..).trans hr), State.putAt_queue, hu.named, hu.unnamed,
    Fabric.unnamed_cls]
  unfold Fabric.goesTo
  rw [List.filter_singleton, hr]
  by_cases hq : r = q ∧ x.1.cls = c
  · obtain ⟨rfl, hc⟩ := hq
    rw [if_pos ⟨rfl, hc⟩, decide_eq_true rfl, decide_eq_true hc]
    rfl
  · have stays : (decide (some r = some q) && decide (x.1.cls = c)) = false := by
      rw [← Bool.decide_and]
      exact decide_eq_false fun h => hq ⟨Option.some_inj.mp h.1, h.2⟩
    rw [if_neg hq, stays]
    cases sent
    · exact (List.append_nil _).symm
    · rfl

theorem State.foldl_resend_sent (u : State) (p q : Fin 32) (c : Fin 4) (l : List (Pkt × Nat)) (h : ∀ x ∈ l, u.fab.bucketed x) :
    (l.reverse.foldl (fun s x => s.resend p true (s.fab.unnamed p x.1, x.2)) u).fab.ports[q].queues[c] =
      u.fab.goesTo p q c l ++ u.fab.ports[q].queues[c] := by
  induction l with
  | nil => rfl
  | cons x l ih =>
    obtain ⟨hx, hl⟩ := List.forall_mem_cons.mp h
    rw [List.reverse_cons, List.foldl_append, List.foldl_cons, List.foldl_nil,
      State.resend_queue (.foldl (fun _ _ => State.resend_sendsOnly ..) _ u) p q c true hx, if_pos rfl, ih hl, ← List.append_assoc]
    refine congrArg (· ++ _) ?_
    unfold Fabric.goesTo
    rw [← List.map_append, ← List.filter_append, List.singleton_append]

theorem State.foldl_resend_waits {u s : State} (hu : SendsOnly u s) (p q : Fin 32) (c : Fin 4) (l : List (Pkt × Nat)) (h : ∀ x ∈ l, u.fab.bucketed x) :
    (l.foldl (fun s x => s.resend p false (s.fab.unnamed p x.1, x.2)) s).fab.ports[q].queues[c] =
      s.fab.ports[q].queues[c] ++ u.fab.goesTo p q c l := by
  induction l generalizing s with
  | nil => exact (List.append_nil _).symm
  | cons x l ih =>
    obtain ⟨hx, hl⟩ := List.forall_mem_cons.mp h
    rw [List.foldl_cons, ih (hu.trans (State.resend_sendsOnly ..)) hl, State.resend_queue hu p q c false hx, if_neg Bool.false_ne_true, List.append_assoc]
    refine congrArg (HAppend.hAppend _) ?_
    unfold Fabric.goesTo
    rw [← List.map_append, ← List.filter_append, List.singleton_append]

/-- What a port that leaves its sets hands its buckets to does not depend on the port itself. -/
theorem Fabric.leaveSets_buckets {b b' : Fabric} {p : Fin 32} (hb : b'.buckets = b.buckets) (hs : b'.sets = b.sets)
    (hp : ∀ q : Fin 32, q ≠ p → b'.ports[q].st = b.ports[q].st) : (b'.leaveSets p).buckets = (b.leaveSets p).buckets := by
  have live : ∀ set, b'.cyclicFrom set p = b.cyclicFrom set p := fun set => by
    have at_ : ∀ q : Fin 32, q ≠ p → ((b'.sets.getD set 0).getLsbD q.val && decide (b'.ports[q].st = .up)) =
        ((b.sets.getD set 0).getLsbD q.val && decide (b.ports[q].st = .up)) := fun q hq => by rw [hs, hp q hq]
    unfold Fabric.cyclicFrom Fabric.livePorts
    dsimp only
    rw [List.filter_filter, List.filter_filter, List.filter_filter, List.filter_filter]
    refine congrArg₂ (· ++ ·) (List.filter_congr fun q _ => ?_) (List.filter_congr fun q _ => ?_)
    · by_cases h : p.val < q.val
      · rw [at_ q fun e => absurd h (e ▸ Nat.lt_irrefl _)]
      · rw [decide_eq_false h, Bool.false_and, Bool.false_and]
    · by_cases h : q.val < p.val
      · rw [at_ q fun e => absurd h (e ▸ Nat.lt_irrefl _)]
      · rw [decide_eq_false h, Bool.false_and, Bool.false_and]
  unfold Fabric.leaveSets
  dsimp only
  rw [hb]
  exact congrArg (b.buckets.zipIdx.map ·) (funext fun x => by rw [live])

/-- What a change of an entry keeps of it, it keeps of every entry. -/
theorem updV_keeps {α β : Type} {n : Nat} (g : α → β) (v : Vector α n) (i o : Fin n) (f : α → α) (h : ∀ x, g (f x) = g x) : g (updV v i f)[o] = g v[o] := by
  by_cases ho : o = i
  · subst ho
    rw [updV_at, h]
  · rw [updV_ne _ _ ho]

/-- The fabric once a port in retrain has left its sets. -/
def State.retrainLeft (s : State) (p : Fin 32) : Fabric := (s.upPort p (·.retraining s.now)).fab.vacated p

theorem State.retrainLeft_bucketPort (s : State) (p : Fin 32) : (s.retrainLeft p).bucketPort = (s.fab.leaveSets p).bucketPort := by
  have buckets : (s.retrainLeft p).buckets = (s.fab.leaveSets p).buckets := Fabric.leaveSets_buckets rfl rfl fun q hq =>
    (congrArg Port.st (updV_ne _ _ hq)).trans (congrArg Port.st (s.upPort_ne p _ q hq))
  funext set i
  unfold Fabric.bucketPort
  rw [buckets]

theorem State.retrainLeft_sentId (s : State) (p q : Fin 32) : (s.retrainLeft p).ports[q].sentId = s.fab.ports[q].sentId :=
  (updV_keeps Port.sentId (s.upPort p (·.retraining s.now)).fab.ports p q (fun x => { x with replay := [], queues := .replicate 4 [] }) fun _ => rfl).trans
    (updV_keeps Port.sentId s.fab.ports p q (·.retraining s.now) fun _ => rfl)

/-- The packets of a port in retrain go where the sets that the port has left send them. -/
theorem State.retrainLeft_goesTo (s : State) (p q : Fin 32) (c : Fin 4) (l : List (Pkt × Nat)) : (s.retrainLeft p).goesTo p q c l =
      (l.filter fun x => decide ((s.fab.leaveSets p).bucketPort (x.2 / 64) (x.2 % 64) = some q) && decide (x.1.cls = c)).map fun x =>
        (s.fab.named q (s.fab.unnamed p x.1), x.2) := by
  have named : (s.retrainLeft p).named q = s.fab.named q := by
    funext k
    unfold Fabric.named
    rw [State.retrainLeft_sentId]
    rfl
  have unnamed : (s.retrainLeft p).unnamed p = s.fab.unnamed p := by
    funext k
    unfold Fabric.unnamed
    rw [State.retrainLeft_sentId]
    rfl
  unfold Fabric.goesTo
  rw [named, unnamed, State.retrainLeft_bucketPort]

/-- What waited at a vacated port, or was sent and not acknowledged, waits at the ports of its buckets. -/
theorem State.vacate_queue (s : State) (p q : Fin 32) (c : Fin 4) (hq : q ≠ p)
    (h : ∀ x ∈ s.fab.ports[p].replay ++ s.fab.ports[p].queues.toList.flatten, (s.fab.vacated p).bucketed x) :
    (s.vacate p).fab.ports[q].queues[c] = (s.fab.vacated p).goesTo p q c s.fab.ports[p].replay ++ s.fab.ports[q].queues[c] ++
      (s.fab.vacated p).goesTo p q c s.fab.ports[p].queues.toList.flatten := by
  obtain ⟨hsent, hwaits⟩ := List.forall_mem_append.mp h
  refine (State.foldl_resend_waits (u := s.upFab (·.vacated p)) (.foldl (fun _ _ => State.resend_sendsOnly ..) _ _) p q c _ hwaits).trans ?_
  refine congrArg (· ++ _) ((State.foldl_resend_sent (s.upFab (·.vacated p)) p q c _ hsent).trans (congrArg (HAppend.hAppend _) ?_))
  exact congrArg (fun x : Port => x.queues[c]) (updV_ne s.fab.ports _ hq)

/-- Settles O36. -/
theorem portsComeUpAndRetrain : Obligations.PortsComeUpAndRetrain := by
  unfold Obligations.PortsComeUpAndRetrain
  refine ⟨fun p x s hlit hst hl hd hp => ?_, fun p x s hlit hst hbad => ?_, fun p s hlit hst hen => ?_, fun p s hst => ?_, fun p s hst => ?_, fun p s hst => ?_⟩
  · obtain ⟨n, hq⟩ := Fabric.upPort_up (b := s.fab) s.now s.quince.fwVersion s.fab.ports[p] hl hd hp
    have run := State.execPortUp_up hlit hst hq rfl
    have here := (s.upPort_at p fun q => s.fab.upPort s.now s.quince.fwVersion q x).trans hq
    have others := s.upPort_ne p fun q => s.fab.upPort s.now s.quince.fwVersion q x
    by_cases hup : s.time.upstream.toNat = p.val
    · rw [decide_eq_true hup] at run
      exact ⟨_, run, congrArg Port.st here, congrArg Port.level here, congrArg Port.partnerMod here, congrArg Port.partnerPort here, congrArg Port.partnerFw here,
        congrArg Port.delay here, congrArg Port.sentId here, congrArg Port.sentLevel here, congrArg Port.sentFw here, congrArg Port.credits here,
        (if_pos hup).symm, others, rfl⟩
    · rw [decide_eq_false hup] at run
      exact ⟨_, run, congrArg Port.st here, congrArg Port.level here, congrArg Port.partnerMod here, congrArg Port.partnerPort here, congrArg Port.partnerFw here,
        congrArg Port.delay here, congrArg Port.sentId here, congrArg Port.sentLevel here, congrArg Port.sentFw here, congrArg Port.credits here,
        (if_neg hup).symm, others, rfl⟩
  · have hq := Fabric.upPort_fail (b := s.fab) s.now s.quince.fwVersion s.fab.ports[p] hbad
    have run := State.execPortUp_down hlit hst hq nofun
    have here := ((s.upPort p fun q => s.fab.upPort s.now s.quince.fwVersion q x).upPort_at p fun q => { q with trainSince := s.now }).trans
      (congrArg (fun q : Port => { q with trainSince := s.now }) ((s.upPort_at p _).trans hq))
    refine ⟨_, run, congrArg Port.st here, (congrArg Port.reason here).trans ?_, congrArg Port.trainSince here, fun o ho => ?_, rfl⟩
    · exact (apply_ite (BitVec.ofNat 4) ..).trans (if_congr Iff.rfl rfl (apply_ite (BitVec.ofNat 4) ..))
    · exact (State.upPort_ne _ p _ o ho).trans (s.upPort_ne p _ o ho)
  · have here := (s.advanceTo (after s.fab.ports[p].trainSince (100 * msU))).upPort_at p fun q =>
      { q with st := .training, trainSince := (s.advanceTo (after s.fab.ports[p].trainSince (100 * msU))).now }
    refine ⟨_, if_pos ?_, congrArg Port.st here, rfl, congrArg Port.trainSince here, State.upPort_ne _ p _, rfl⟩
    rw [decide_eq_true hst, hen, hlit]
    rfl
  · obtain ⟨h, ha⟩ := (s.retrain p).retrainAdvice_frame p
    obtain ⟨b, hb⟩ := s.retrain_fabOnly p
    have sec : (s.retrain p).sec = s.sec := by rw [hb]
    refine ⟨_, (State.execPortRetrain_up hst).trans (congrArg Host.Outcome.next ha), ?_, ?_, ?_, ?_, ?_, ?_⟩
    · exact s.retrain_port p Port.st (fun _ => rfl) fun _ => rfl
    · exact s.retrain_port p Port.trainSince (fun _ => rfl) fun _ => rfl
    · exact s.retrain_port p Port.retrains (fun _ => rfl) fun _ => rfl
    · exact State.vacate_replay ..
    · rw [sec]
    · rw [hb]
  · intro left goesTo waits good
    obtain ⟨h, ha⟩ := (s.retrain p).retrainAdvice_frame p
    refine ⟨_, (State.execPortRetrain_up hst).trans (congrArg Host.Outcome.next ha), fun q c hq => ?_⟩
    have ports : (s.upPort p (·.retraining s.now)).fab.ports[p] = s.fab.ports[p].retraining s.now := s.upPort_at p _
    have other : (s.upPort p (·.retraining s.now)).fab.ports[q] = s.fab.ports[q] := s.upPort_ne p _ q hq
    have vacated := (s.upPort p (·.retraining s.now)).vacate_queue p q c hq
    rw [ports, other] at vacated
    refine (vacated fun x hx => ?_).trans (congrArg₂ (· ++ ·) (congrArg (· ++ _) (s.retrainLeft_goesTo p q c _)) (s.retrainLeft_goesTo p q c _))
    obtain ⟨hop, htag, hport⟩ := good x hx
    exact ⟨hop, htag, by rw [← hport]; exact congrArg (fun f => (f (x.2 / 64) (x.2 % 64)).isSome) (s.retrainLeft_bucketPort p)⟩
  · have here := (s.advanceTo (after s.fab.ports[p].trainSince (100 * msU))).upPort_at p fun q =>
      { q.fail 4 with trainSince := (s.advanceTo (after s.fab.ports[p].trainSince (100 * msU))).now }
    exact ⟨_, if_pos hst, congrArg Port.st here, congrArg Port.reason here, rfl, congrArg Port.trainSince here, State.upPort_ne _ p _, rfl⟩

end Sys2Proof.Machine
end

section
/-! PROOFS. What leaves a link, what is acknowledged, and the loss of a partner (R355 to R357, R376, R379, R380, R384). -/
namespace Sys2Proof.Machine

/-! ### What leaves a port -/

theorem stampTx_src (now : DWord) (k : Pkt) : (stampTx now k).src = k.src := by
  unfold stampTx
  split <;> rfl

/-- A packet that leaves is taken from its class, in the replay buffer and paid for. -/
theorem Port.sent_eq (q : Port) (now : DWord) {x : Pkt × Nat} {c : Fin 4} (hc : x.1.cls = c) : q.sent now x =
    { q with queues := updV q.queues c (·.erase x), replay := q.replay ++ [(stampTx now x.1, x.2)], credits := updV q.credits c (· - pktBytes x.1) } := by
  subst hc
  rfl

/-- The port once the C0 packet at its head has left; an own one takes its share of the meter. -/
def Fabric.c0Left (b : Fabric) (q : Port) (now : DWord) (x : Pkt × Nat) : Port :=
  (if x.1.src = q.sentId then { q with c0Level := b.c0Now q now - b.c0Need q x.1, c0At := now } else q).sent now x

section
variable {b : Fabric} {q : Port} {now : DWord} {x : Pkt × Nat} {rest : List (Pkt × Nat)} (hq : q.queues[0] = x :: rest)
include hq

theorem Fabric.c0Pick_foreign (h : ∀ y ∈ x :: rest, y.1.src ≠ q.sentId) : b.c0Pick q now = some x := by
  unfold Fabric.c0Pick
  dsimp only
  rw [hq, List.find?_eq_none.mpr fun y hy => by rw [decide_eq_true_eq]; exact h y hy]
  rfl

theorem Fabric.c0Pick_own (h : x.1.src = q.sentId) (hmeter : b.c0Need q x.1 ≤ b.c0Now q now) : b.c0Pick q now = some x := by
  unfold Fabric.c0Pick
  dsimp only
  have own : (x :: rest).find? (fun y => decide (y.1.src = q.sentId)) = some x := List.find?_cons_of_pos (decide_eq_true h)
  rw [hq, own]
  exact if_pos hmeter

omit hq in
theorem Fabric.egress_c0 (hpick : b.c0Pick q now = some x) (hfits : q.fits x.1 = true) : b.egress q now = b.c0Left q now x := by
  unfold Fabric.egress
  rw [hpick]
  exact if_pos hfits

theorem Fabric.c0Left_queue (hc : x.1.cls = 0) : (b.c0Left q now x).queues[0] = rest := by
  have erased : (updV q.queues 0 (·.erase x))[(0 : Fin 4)] = rest := (updV_at ..).trans ((congrArg (·.erase x) hq).trans (List.erase_cons_head ..))
  have gone : ∀ p : Port, p.queues = q.queues → (p.sent now x).queues[(0 : Fin 4)] = rest := fun p hp =>
    (congrArg (fun p : Port => p.queues[(0 : Fin 4)]) (p.sent_eq now hc)).trans
      ((congrArg (fun v : Vector (List (Pkt × Nat)) 4 => (updV v 0 (·.erase x))[(0 : Fin 4)]) hp).trans erased)
  unfold Fabric.c0Left
  refine gone _ ?_
  split <;> rfl

end

theorem Fabric.c0Left_replay (b : Fabric) (q : Port) (now : DWord) (x : Pkt × Nat) : (b.c0Left q now x).replay = q.replay ++ [(stampTx now x.1, x.2)] := by
  unfold Fabric.c0Left
  split <;> rfl

theorem Fabric.c0Left_foreign {b : Fabric} {q : Port} {x : Pkt × Nat} (now : DWord) (h : x.1.src ≠ q.sentId) : b.c0Left q now x = q.sent now x :=
  congrArg (Port.sent · now x) (if_neg h)

theorem Fabric.c0Left_own {b : Fabric} {q : Port} {x : Pkt × Nat} (now : DWord) (h : x.1.src = q.sentId) :
    b.c0Left q now x = ({ q with c0Level := b.c0Now q now - b.c0Need q x.1, c0At := now } : Port).sent now x :=
  congrArg (Port.sent · now x) (if_pos h)

theorem Port.sent_other {q : Port} (now : DWord) {x : Pkt × Nat} (hc : x.1.cls = 0) (c : Fin 4) (h : c ≠ 0) :
    (q.sent now x).queues[c] = q.queues[c] ∧ (q.sent now x).credits[c] = q.credits[c] :=
  ⟨updV_ne _ _ (hc ▸ h), updV_ne _ _ (hc ▸ h)⟩

theorem Port.sent_credits {q : Port} (now : DWord) {x : Pkt × Nat} (hc : x.1.cls = 0) : (q.sent now x).credits[0] = q.credits[0] - pktBytes x.1 := by
  exact (congrArg (fun p : Port => p.credits[(0 : Fin 4)]) (q.sent_eq now hc)).trans (updV_at q.credits (0 : Fin 4) _)

/-- What a port's head sends where it takes the packet from its C0 queue: a delay request that leaves is noted with its time. -/
theorem State.egressSend_c0 {p : Fin 32} {x : Pkt × Nat} {s : State} (hup : s.fab.ports[p].st = .up)
    (hpick : s.fab.c0Pick s.fab.ports[p] s.now = some x) (hfits : s.fab.ports[p].fits x.1 = true) :
    ∃ b, exec (.egressSend p) s = .next { s.upPort p (fun q => s.fab.egress q s.now) with time := b } ∧
      (x.1.src ≠ s.fab.ports[p].sentId → b = s.time) := by
  have left := (s.upPort_at p fun q => s.fab.egress q s.now).trans (Fabric.egress_c0 hpick hfits)
  have grown : (s.upPort p fun q => s.fab.egress q s.now).fab.ports[p].replay.length ≠ s.fab.ports[p].replay.length := by
    rw [left, Fabric.c0Left_replay, List.length_append]
    simp
  change ∃ b, execEgressSend p s = _ ∧ _
  unfold execEgressSend
  dsimp only
  rw [if_pos hup, if_neg grown]
  split
  · exact ⟨s.time, rfl, fun _ => rfl⟩
  · next seq hseq =>
    refine ⟨_, rfl, fun hsrc => absurd hseq ?_⟩
    rw [left, Fabric.c0Left_foreign _ hsrc]
    unfold Port.leftDelayReq
    have last : (s.fab.ports[p].sent s.now x).replay.getLast? = some (stampTx s.now x.1, x.2) := List.getLast?_concat ..
    rw [last, Option.bind_some, stampTx_src, show (s.fab.ports[p].sent s.now x).sentId = s.fab.ports[p].sentId from rfl, decide_eq_false hsrc]
    simp

/-- A port whose only packet waits for the meter sends nothing. -/
theorem Fabric.egress_metered {b : Fabric} {q : Port} {now : DWord} {x : Pkt × Nat} (hq : q.queues = #v[[x], [], [], []]) (hown : x.1.src = q.sentId)
    (hmeter : b.c0Now q now < b.c0Need q x.1) : b.egress q now = q := by
  have pick : b.c0Pick q now = none := by
    have own : [x].find? (fun y => decide (y.1.src = q.sentId)) = some x := List.find?_cons_of_pos (decide_eq_true hown)
    unfold Fabric.c0Pick
    dsimp only
    rw [hq]
    change (match [x].find? (fun y => decide (y.1.src = q.sentId)) with
      | none => [x].head?
      | some own => if b.c0Need q own.1 ≤ b.c0Now q now then [x].head? else [x].find? fun x => x.1.src ≠ q.sentId) = none
    rw [own]
    dsimp only
    rw [if_neg (Nat.not_le_of_lt hmeter)]
    simp [hown]
  have none_ready : ∀ d, ({ q with deficit := d } : Port).ready = [] := fun d => by
    unfold Port.ready
    rw [hq]
    rfl
  have wrr : b.wrr q = none := by
    unfold Fabric.wrr
    dsimp only
    simp only [none_ready, List.find?_nil, List.foldl_nil, Option.map_none]
  unfold Fabric.egress
  rw [pick]
  dsimp only
  unfold Fabric.egress.data
  rw [wrr]

/-! ### The loss of a partner -/

theorem State.partnered_of {s : State} {p : Fin 32} (h : s.fab.ports[p].st = .up ∨ s.fab.ports[p].st = .retraining) : s.fab.ports[p].partnered = true :=
  decide_eq_true h

/-- The port whose partner is lost. -/
def Port.lostAt (q : Port) (planned : Bool) (reason : Nat) (now : DWord) : Port :=
  { q with st := if planned then .downPlanned else .downLost, lost := true, level := 0
           reason := if planned then q.reason else BitVec.ofNat 4 reason, trainSince := now }

/-- The module once a port is down and vacated, and the fabric manager and the host are told. -/
def State.lostPort (s : State) (p : Fin 32) (planned : Bool) (reason : Nat) : State :=
  ((s.upPort p (·.lostAt planned reason s.now)).vacate p).portDown p reason

theorem State.loseP_eq (s : State) (p : Fin 32) (planned : Bool) (reason : Nat) : s.loseP p planned reason =
    (s.lostPort p planned reason).when ((s.lostPort p planned reason).time.timeEn && !(s.lostPort p planned reason).time.timeRoot &&
      decide ((s.lostPort p planned reason).time.upstream.toNat = p.val)) State.loseUpstream := rfl

theorem State.portDown_told (s : State) (p : Fin 32) (reason : Nat) : ∃ m b h, s.portDown p reason = { s with fab := b, host := h } ∧
    { s with fab := b } = s.fmMsgOut 0x09 0 m := by
  obtain ⟨f, hf⟩ := s.fmMsgOut_eq 0x09 0 (toLE p.val 4 ++ toLE s.fab.ports[p].partnerMod.toNat 4 ++ toLE reason 4 ++ toLE s.now.toNat 8)
  refine ⟨_, f s.fab, ((s.upFab f).event evPortDown (arg p.val) (arg (s.fab.ports[p].partnerMod.toNat + 2 ^ 32 * reason))).host, ?_, hf.symm⟩
  unfold State.portDown
  dsimp only
  rw [hf]
  rfl

theorem State.lostPort_frame (s : State) (p : Fin 32) (planned : Bool) (reason : Nat) : ∃ b h, s.lostPort p planned reason = { s with fab := b, host := h } := by
  obtain ⟨v, hv⟩ := (s.upPort p (·.lostAt planned reason s.now)).vacate_fabOnly p
  obtain ⟨m, b, h, hd, -⟩ := ((s.upPort p (·.lostAt planned reason s.now)).vacate p).portDown_told p reason
  rw [hv] at hd
  exact ⟨b, h, (congrArg (·.portDown p reason) hv).trans hd⟩

theorem State.lostPort_self (s : State) (p : Fin 32) (planned : Bool) (reason : Nat) : s.lostPort p planned reason =
    { s with fab := (s.lostPort p planned reason).fab, host := (s.lostPort p planned reason).host } := by
  obtain ⟨b, h, hf⟩ := s.lostPort_frame p planned reason
  rw [hf]

/-- What a message to the fabric manager leaves of a port: it is queued there at most. -/
theorem State.fmMsgOut_port {α : Type} (s : State) (mtype : Nat) (job : Word) (m : Bytes) (q : Fin 32) (g : Port → α) (hg : ∀ x, g x = g x.link) :
    g (s.fmMsgOut mtype job m).fab.ports[q] = g s.fab.ports[q] := by
  unfold State.fmMsgOut
  split
  · exact (State.sendPkt_sendsOnly ..).port g hg q
  · rfl

/-- What the port whose partner is lost has but packets. -/
theorem State.lostPort_port {α : Type} (s : State) (p : Fin 32) (planned : Bool) (reason : Nat) (g : Port → α) (hg : ∀ x, g x = g x.link)
    (hr : ∀ x : Port, g { x with replay := [] } = g x) : g (s.lostPort p planned reason).fab.ports[p] = g (s.fab.ports[p].lostAt planned reason s.now) := by
  obtain ⟨m, b, h, hd, hm⟩ := ((s.upPort p (·.lostAt planned reason s.now)).vacate p).portDown_told p reason
  have told : b = (((s.upPort p (·.lostAt planned reason s.now)).vacate p).fmMsgOut 0x09 0 m).fab := congrArg State.fab hm
  have port : g b.ports[p] = g (s.fab.ports[p].lostAt planned reason s.now) := by
    rw [told, State.fmMsgOut_port _ _ _ _ _ g hg, State.vacate_port _ p p g hg hr, s.upPort_at]
  exact (congrArg (fun t : State => g t.fab.ports[p]) hd).trans port

theorem State.lostPort_replay (s : State) (p : Fin 32) (planned : Bool) (reason : Nat) : (s.lostPort p planned reason).fab.ports[p].replay = [] := by
  obtain ⟨m, b, h, hd, hm⟩ := ((s.upPort p (·.lostAt planned reason s.now)).vacate p).portDown_told p reason
  have told : b = (((s.upPort p (·.lostAt planned reason s.now)).vacate p).fmMsgOut 0x09 0 m).fab := congrArg State.fab hm
  have port : b.ports[p].replay = [] := by
    rw [told, State.fmMsgOut_port _ _ _ _ _ Port.replay fun _ => rfl, State.vacate_replay]
  exact (congrArg (fun t : State => t.fab.ports[p].replay) hd).trans port

/-- Without a relay the fabric manager's message is kept for it. -/
theorem State.lostPort_fmOut {s : State} (p : Fin 32) (planned : Bool) (reason : Nat) (h : s.fab.relayEn = false) :
    (s.lostPort p planned reason).fab.fmOut.length = s.fab.fmOut.length + 1 := by
  obtain ⟨m, b, i, hd, hm⟩ := ((s.upPort p (·.lostAt planned reason s.now)).vacate p).portDown_told p reason
  have sends := (s.upPort p (·.lostAt planned reason s.now)).vacate_sendsOnly p
  have relay : ((s.upPort p (·.lostAt planned reason s.now)).vacate p).fab.relayEn = false := (sends.fabric Fabric.relayEn fun _ => rfl).trans h
  have out : ((s.upPort p (·.lostAt planned reason s.now)).vacate p).fab.fmOut = s.fab.fmOut := sends.fabric Fabric.fmOut fun _ => rfl
  have told : b = (((s.upPort p (·.lostAt planned reason s.now)).vacate p).fmMsgOut 0x09 0 m).fab := congrArg State.fab hm
  have kept : b.fmOut.length = s.fab.fmOut.length + 1 := by
    rw [told, ← out]
    unfold State.fmMsgOut
    rw [relay, if_neg Bool.false_ne_true]
    exact List.length_append ..
  exact (congrArg (fun t : State => t.fab.fmOut.length) hd).trans kept

/-- Where the port that is lost is not the time upstream, the loss stays with the fabric and its reports. -/
theorem State.loseP_aside {s : State} {p : Fin 32} (planned : Bool) (reason : Nat)
    (h : s.time.timeEn = false ∨ s.time.timeRoot = true ∨ s.time.upstream.toNat ≠ p.val) : s.loseP p planned reason = s.lostPort p planned reason := by
  have aside : (s.time.timeEn && !s.time.timeRoot && decide (s.time.upstream.toNat = p.val)) = false := by
    rcases h with h | h | h
    · rw [h]
      rfl
    · rw [h, Bool.not_true, Bool.and_false, Bool.false_and]
    · rw [decide_eq_false h, Bool.and_false]
  obtain ⟨b, i, hb⟩ := s.lostPort_frame p planned reason
  have time : (s.lostPort p planned reason).time = s.time := by rw [hb]
  rw [State.loseP_eq, time, aside]
  rfl

/-- On the time upstream the upstream is lost too. -/
theorem State.loseP_upstream {s : State} {p : Fin 32} (planned : Bool) (reason : Nat) (he : s.time.timeEn = true) (hr : s.time.timeRoot = false)
    (hu : s.time.upstream.toNat = p.val) : s.loseP p planned reason = (s.lostPort p planned reason).loseUpstream := by
  obtain ⟨b, i, hb⟩ := s.lostPort_frame p planned reason
  have time : (s.lostPort p planned reason).time = s.time := by rw [hb]
  rw [State.loseP_eq, time, he, hr, decide_eq_true hu]
  rfl

theorem State.unlock_upLost (s : State) (port : BitVec 5) (backup : Bool) : (s.unlock port backup).time.upLost = s.time.upLost := by
  unfold State.unlock
  split
  · dsimp only
    exact State.when_keeps (fun t : State => t.time.upLost) _ _ _ rfl
  · rfl

theorem State.unlock_fab (s : State) (port : BitVec 5) (backup : Bool) : (s.unlock port backup).fab = s.fab := by
  unfold State.unlock
  split
  · exact State.when_keeps State.fab _ _ _ rfl
  · rfl

theorem State.loseUpstream_lost (s : State) : s.loseUpstream.time.upLost = true ∧ s.loseUpstream.fab = s.fab := by
  unfold State.loseUpstream
  dsimp only
  split
  · exact ⟨rfl, rfl⟩
  · exact ⟨State.unlock_upLost .., State.unlock_fab ..⟩

/-- An acknowledgment takes the oldest packet out of the replay buffer; its bucket comes back where it waited for the packet. -/
theorem State.execLinkAck_first {p : Fin 32} {x : Pkt × Nat} {rest : List (Pkt × Nat)} {s : State} (h : s.fab.ports[p].replay = x :: rest) :
    exec (.linkAck p) s = .next ((s.upPort p fun q => { q with replay := rest }).when
      (s.fab.backWait.contains x.2 && !(s.upPort p fun q => { q with replay := rest }).fab.inReplay x.2) fun s => s.upFab fun b =>
        { b.restoreBucket x.2 with backWait := b.backWait.erase x.2 }) := by
  change execLinkAck p s = _
  unfold execLinkAck
  rw [h]
  rfl

/-- Settles O37. -/
theorem linksSendInOrderUntilTheirLoss : Obligations.LinksSendInOrderUntilTheirLoss := by
  unfold Obligations.LinksSendInOrderUntilTheirLoss
  refine ⟨fun p w s hup => ?_, fun p s => rfl, fun p x rest s hrep => ?_, fun p x rest s hup hq hc hsrc hfits => ?_,
    fun p x rest s hup hq hc hown hmeter hfits => ?_, fun p x s hup hq hown hmeter => ?_, fun p cls n s hup => ?_, fun p cause s hst hrelay htime => ?_,
    fun p s hst htime => ?_, fun p s hst he hr hu => ?_, fun p s hup hre => ?_⟩
  · have idle := (congrArg (fun q : Port => q.idleAt[w]) (s.upPort_at p fun q =>
      { q with idleAt := setV q.idleAt w (if s.now.toNat ≤ q.idleAt[w].toNat + 4000 then s.now else after q.idleAt[w] 4000) })).trans (setV_at ..)
    exact ⟨_, if_pos hup, fun h => idle.trans (if_pos h), fun h => idle.trans (if_neg (Nat.not_le_of_lt h)), s.upPort_ne p _, rfl⟩
  · have run := State.execLinkAck_first hrep
    have here : (s.upPort p fun q => { q with replay := rest }).fab.ports[p] = { s.fab.ports[p] with replay := rest } := s.upPort_at p _
    cases hw : s.fab.backWait.contains x.2 && !(s.upPort p fun q => { q with replay := rest }).fab.inReplay x.2
    · rw [hw] at run
      refine ⟨_, run, here, s.upPort_ne p _, ?_, rfl⟩
      split
      · rfl
      · next hn =>
        refine (List.erase_of_not_mem fun hm => ?_).symm
        have waits : s.fab.backWait.contains x.2 = true := List.contains_iff_mem.mpr hm
        rw [waits, Bool.true_and, Bool.not_eq_false'] at hw
        exact hn hw
    · rw [hw] at run
      refine ⟨_, run, here, s.upPort_ne p _, (if_neg ?_).symm, rfl⟩
      obtain ⟨-, hn⟩ := Bool.and_eq_true_iff.mp hw
      exact fun h => absurd h (Bool.not_eq_true _ ▸ (Bool.not_eq_true' _).mp hn)
  · obtain ⟨b, run, hb⟩ := State.egressSend_c0 hup (Fabric.c0Pick_foreign hq hsrc) hfits
    have left := (s.upPort_at p fun q => s.fab.egress q s.now).trans (Fabric.egress_c0 (Fabric.c0Pick_foreign hq hsrc) hfits)
    have foreign := left.trans (Fabric.c0Left_foreign s.now (hsrc x List.mem_cons_self))
    rw [hb (hsrc x List.mem_cons_self)] at run
    refine ⟨_, run, ?_, ?_, ?_, fun c h => ?_, s.upPort_ne p _, rfl⟩
    · exact (congrArg (fun q : Port => q.queues[0]) left).trans (Fabric.c0Left_queue hq hc)
    · exact (congrArg Port.replay left).trans (Fabric.c0Left_replay ..)
    · exact (congrArg (fun q : Port => q.credits[0]) foreign).trans (Port.sent_credits s.now hc)
    · obtain ⟨hqueue, hcredit⟩ := Port.sent_other (q := s.fab.ports[p]) s.now hc c h
      exact ⟨(congrArg (fun q : Port => q.queues[c]) foreign).trans hqueue, (congrArg (fun q : Port => q.credits[c]) foreign).trans hcredit⟩
  · obtain ⟨b, run, -⟩ := State.egressSend_c0 hup (Fabric.c0Pick_own hq hown hmeter) hfits
    have left := (s.upPort_at p fun q => s.fab.egress q s.now).trans (Fabric.egress_c0 (Fabric.c0Pick_own hq hown hmeter) hfits)
    have own := left.trans (Fabric.c0Left_own s.now hown)
    refine ⟨_, run, ?_, ?_, ?_, ?_, s.upPort_ne p _, rfl⟩
    · exact (congrArg (fun q : Port => q.queues[0]) left).trans (Fabric.c0Left_queue hq hc)
    · exact (congrArg Port.replay left).trans (Fabric.c0Left_replay ..)
    · exact congrArg Port.c0Level own
    · exact congrArg Port.c0At own
  · have stays : (s.upPort p fun q => s.fab.egress q s.now) = s := by
      unfold State.upPort
      rw [State.upFab, updV_eq_self _ _ _ (Fabric.egress_metered hq hown hmeter)]
    change execEgressSend p s = _
    unfold execEgressSend
    dsimp only
    rw [if_pos hup, stays, if_pos rfl]
  · have credits := (congrArg Port.credits (s.upPort_at p fun q => { q with credits := updV q.credits cls (· + n) }))
    refine ⟨_, if_pos hup, ?_, fun c h => ?_, s.upPort_ne p _, rfl⟩
    · exact (congrArg (fun v : Vector Nat 4 => v[cls]) credits).trans (updV_at ..)
    · exact (congrArg (fun v : Vector Nat 4 => v[c]) credits).trans (updV_ne _ _ h)
  · have run : exec (.partnerLost p cause) s = _ := if_pos (State.partnered_of hst)
    rw [State.loseP_aside _ _ htime] at run
    refine ⟨_, run, ?_, ?_, ?_, ?_, State.lostPort_replay .., ?_, State.lostPort_fmOut _ _ _ hrelay, ?_⟩
    · exact s.lostPort_port p _ _ Port.st (fun _ => rfl) fun _ => rfl
    · exact s.lostPort_port p _ _ Port.lost (fun _ => rfl) fun _ => rfl
    · exact s.lostPort_port p _ _ Port.level (fun _ => rfl) fun _ => rfl
    · refine (s.lostPort_port p _ _ Port.reason (fun _ => rfl) fun _ => rfl).trans ?_
      cases cause <;> rfl
    · exact s.lostPort_port p _ _ Port.trainSince (fun _ => rfl) fun _ => rfl
    · exact State.lostPort_self ..
  · have run : exec (.departBlocksReceived p) s = _ := if_pos (State.partnered_of hst)
    rw [State.loseP_aside _ _ htime] at run
    refine ⟨_, run, ?_, ?_, ?_, State.lostPort_replay .., State.lostPort_self ..⟩
    · exact s.lostPort_port p _ _ Port.st (fun _ => rfl) fun _ => rfl
    · exact s.lostPort_port p _ _ Port.lost (fun _ => rfl) fun _ => rfl
    · exact s.lostPort_port p _ _ Port.level (fun _ => rfl) fun _ => rfl
  · have run : exec (.departBlocksReceived p) s = _ := if_pos (State.partnered_of hst)
    rw [State.loseP_upstream _ _ he hr hu] at run
    obtain ⟨hlost, hfab⟩ := (s.lostPort p true 0).loseUpstream_lost
    refine ⟨_, run, ?_, hlost⟩
    rw [hfab]
    exact s.lostPort_port p _ _ Port.st (fun _ => rfl) fun _ => rfl
  · refine if_neg (Bool.not_eq_true _ ▸ decide_eq_false ?_)
    rintro (h | h)
    · exact hup h
    · exact hre h

end Sys2Proof.Machine
end

section
/-! PROOFS. Requests of the module end once (R373 to R375, R377, R387, R392 to R394). -/
namespace Sys2Proof.Machine

/-! ### A request that ends -/

/-- Where no request waits, none is put. -/
theorem State.pump_nil {s : State} (h : s.fab.waiting = []) : s.pump = s := by
  unfold State.pump
  split
  · rw [h]
    change { s with fab := { s.fab with waiting := [] } } = s
    rw [← h]
  · rfl

theorem State.imageAnswered_other {s : State} {k : Pkt} (ok : Bool) (h : s.imageStore k = false) : s.imageAnswered k ok = s := by
  unfold State.imageAnswered
  rw [h]
  rfl

/-- A request of a STORE that no ring asked for ends with its response alone. -/
theorem State.endBy_store {s : State} {o : OutReq} {k : Pkt} (hk : k.rstatus = 0) (hop : o.op = 0x02) (hring : o.ring = none) (hw : s.fab.waiting = []) :
    s.endBy o k = s.dropOut o := by
  have load : decide (o.op = 0x01#8) = false := by
    rw [hop]
    rfl
  unfold State.endBy
  rw [hk]
  change (s.dropOut o).endOk o k = _
  unfold State.endOk
  rw [load, hring]
  exact State.pump_nil hw

/-- A request whose target gives no answer: the target is dead for the job, and the fabric manager and the host are told. -/
theorem State.targetDead_told {s : State} {o : OutReq} (hring : o.ring = none) (hw : s.fab.waiting = []) (hrelay : s.fab.relayEn = false) :
    ∃ h, s.targetDead o = { s with host := h, fab := { s.fab with
      outstanding := s.fab.outstanding.erase o
      dead := if s.fab.dead.contains (o.pkt.job, o.pkt.dst) then s.fab.dead else s.fab.dead ++ [(o.pkt.job, o.pkt.dst)]
      fmOut := s.fab.fmOut ++ [(o.pkt.job, toLE 0x0A 4 ++ (toLE o.pkt.job.toNat 4 ++ toLE o.pkt.dst.toNat 4 ++ toLE o.pkt.seq.toNat 4 ++
        toLE o.op.toNat 4 ++ toLE s.now.toNat 8))] } } := by
  have told : ∀ u : State, u.fab.relayEn = false → ∀ m, u.fmMsgOut 0x0A o.pkt.job m =
      u.upFab fun b => { b with fmOut := b.fmOut ++ [(o.pkt.job, toLE 0x0A 4 ++ m)] } := fun u hu m => if_neg (hu ▸ Bool.false_ne_true)
  have pumped : ∀ u : State, u.fab.waiting = [] → (u.endRing none stTargetDead 0).pump = u := fun u hu => State.pump_nil hu
  unfold State.targetDead State.deadSuspect
  dsimp only
  generalize he : State.eventFor _ _ _ _ _ = u
  obtain ⟨h, eq⟩ : ∃ h, u = { s with host := h, fab := { s.fab with
      outstanding := s.fab.outstanding.erase o
      dead := if s.fab.dead.contains (o.pkt.job, o.pkt.dst) then s.fab.dead else s.fab.dead ++ [(o.pkt.job, o.pkt.dst)] } } := by
    rw [← he]
    dsimp only [State.eventFor, State.upHost, State.upFab, State.dropOut]
    exact ⟨_, rfl⟩
  have relay : u.fab.relayEn = false := eq ▸ hrelay
  have wait : u.fab.waiting = [] := eq ▸ hw
  rw [hring, told u relay, pumped]
  · rw [eq]
    exact ⟨h, rfl⟩
  · exact wait

/-! ### A retry -/

/-- A packet that has a port is queued there. -/
theorem State.sendPkt_queued {s : State} {k : Pkt} {q : Fin 32} {tag : Nat} (hself : s.fab.toSelf k = false)
    (hport : s.fab.portFor k.dst (pktBucket k) = some (q, tag)) : s.sendPkt k = s.upFab fun b => b.enqueue q k tag := by
  have put : s.fab.put k = s.fab.enqueue q k tag := by
    unfold Fabric.put
    rw [hself, hport]
    rfl
  have route : s.fab.hasRoute k = true := by
    unfold Fabric.hasRoute
    rw [hself, hport]
    rfl
  unfold State.sendPkt
  rw [route, Bool.true_or, if_pos rfl]
  exact congrArg (fun b : Fabric => { s with fab := b }) put

theorem Fabric.enqueue_at (b : Fabric) (q : Fin 32) (k : Pkt) (tag : Nat) :
    (b.enqueue q k tag).ports[q].queues[k.cls] = b.ports[q].queues[k.cls] ++ [(b.named q k, tag)] :=
  (congrArg (fun p : Port => p.queues[k.cls]) (updV_at b.ports q _)).trans (updV_at ..)

theorem Fabric.enqueue_ne (b : Fabric) (q : Fin 32) (k : Pkt) (tag : Nat) (p : Fin 32) (h : p ≠ q) : (b.enqueue q k tag).ports[p] = b.ports[p] := updV_ne _ _ h

/-- The state in which a request is put again. -/
def State.retried (s : State) (o : OutReq) : State :=
  (s.advanceTo (after o.issued (20 * usU * (o.retries + 1)))).upFab fun b =>
    { b with outstanding := b.outstanding.map fun x => if x = o then { x with retries := x.retries + 1 } else x }

/-- The packet of a retry. -/
def State.retryPkt (s : State) (o : OutReq) : Pkt := { o.pkt with retry := BitVec.ofNat 2 (o.retries + 1), ts := (s.retried o).ts }

theorem State.execRequestRetry_puts {dst : BitVec 17} {seq : Word} {o : OutReq} {s : State} (ho : s.fab.findOut dst seq = some o) (hn : o.retries < 3)
    (hj : s.jobOpen = true) (hd : s.fab.deadFor o.pkt = false) : exec (.requestRetry dst seq) s = .next ((s.retried o).sendPkt (s.retryPkt o)) := by
  change execRequestRetry dst seq s = _
  unfold execRequestRetry
  rw [ho]
  dsimp only
  rw [decide_eq_true hn, hj, hd]
  rfl

/-- Settles O40. -/
theorem requestsEndOnce : Obligations.RequestsEndOnce := by
  unfold Obligations.RequestsEndOnce
  refine ⟨fun p k o s ha hop hm hans hk hst hring hi hw => ?_, fun p k s ha hop hm hans => ?_, fun dst seq o s ho hn hj hd => ?_,
    fun dst seq o s ho hno => ?_, fun dst seq o s ho hring hw hi hrelay => ?_, fun p k s ha hop hm hno => ?_,
    fun p k r s ha hop hm ht hk => ?_, fun p k s ha hop hm ht hk hr => ?_⟩
  · refine ⟨s.dropOut o, ?_, rfl, rfl⟩
    change execResp p k s = _
    unfold execResp
    rw [hop, hm, State.arrivePkt_arrives ha, hans]
    refine (if_pos (by decide)).trans (congrArg Host.Outcome.next ?_)
    dsimp only
    rw [State.endBy_store hk hst hring hw]
    exact State.imageAnswered_other _ hi
  · change execResp p k s = _
    unfold execResp
    rw [hop, hm, State.arrivePkt_arrives ha, hans]
    rfl
  · have sends := (s.retried o).sendPkt_sendsOnly (s.retryPkt o)
    refine ⟨_, State.execRequestRetry_puts ho hn hj hd, ?_, ?_, fun q tag hself hport => ?_, ?_⟩
    · rw [sends.frame]
      rfl
    · exact sends.fabric Fabric.outstanding fun _ => rfl
    · rw [State.sendPkt_queued (s := s.retried o) (k := s.retryPkt o) hself hport]
      exact ⟨Fabric.enqueue_at .., fun p h => Fabric.enqueue_ne _ _ _ _ p h⟩
    · rw [sends.frame]
      rfl
  · change execRequestRetry dst seq s = _
    unfold execRequestRetry
    rw [ho]
    refine if_neg ?_
    rcases hno with h | h
    · rw [decide_eq_false (Nat.not_lt.mpr h)]
      exact Bool.false_ne_true
    · rw [h, Bool.not_true, Bool.and_false]
      exact Bool.false_ne_true
  · obtain ⟨h, hs⟩ := State.targetDead_told (s := s.advanceTo (after o.issued (100 * usU))) hring hw hrelay
    have run : exec (.requestTimeout dst seq) s = .next (((s.advanceTo (after o.issued (100 * usU))).targetDead o).imageAnswered o.pkt false) := by
      change execRequestTimeout dst seq s = _
      unfold execRequestTimeout
      rw [ho]
    rw [hs] at run
    refine ⟨_, run.trans (congrArg Host.Outcome.next (State.imageAnswered_other _ hi)), rfl, ?_, rfl, rfl, rfl⟩
    change (o.pkt.job, o.pkt.dst) ∈ if s.fab.dead.contains (o.pkt.job, o.pkt.dst) then s.fab.dead else s.fab.dead ++ [(o.pkt.job, o.pkt.dst)]
    split
    · next hc => exact List.contains_iff_mem.mp hc
    · exact List.mem_append_right _ List.mem_cons_self
  · refine ⟨s.countDiscard p, ?_, s.upPort_at p _, s.upPort_ne p _, rfl⟩
    change execMsg p k s = _
    unfold execMsg
    rw [hop, hm, State.arrivePkt_arrives ha]
    rcases hno with h | h
    · rw [h]
      rfl
    · rw [h, Bool.not_false, Bool.or_true]
      rfl
  · change execShedReply p k r s = _
    unfold execShedReply
    rw [hop, hm, decide_eq_true ht, hk, State.arrivePkt_arrives ha]
    rfl
  · change execTeardown p k s = _
    unfold execTeardown
    rw [hop, hm, decide_eq_true ht, hk, State.arrivePkt_arrives ha, hr]
    rfl

end Sys2Proof.Machine
end

section
/-! PROOFS. The oldest output of a cell lands or finds no room (R102, R106, R115, R116, R201). -/
namespace Sys2Proof.Machine

/-! ### The cell that an output lands in -/

/-- What the rings of outlier blocks and full copies take of a landing output. -/
theorem CellS.landRings_eq (k : CellS) (o : OutTile) : k.landRings o = { k with
    store := k.ringsWritten o, oblkNext := (k.landRings o).oblkNext, oblkFull := k.oblkFull ++ (o.oblk.map fun _ => k.oblkSlot).toList,
    fullNext := (k.landRings o).fullNext, fullFull := k.fullFull ++ (o.full.map fun _ => k.fullSlot).toList } := by
  unfold CellS.landRings CellS.ringsWritten
  cases o.oblk with
  | none =>
    cases o.full with
    | none => simp
    | some _ => simp [CellS.put]
  | some _ =>
    cases o.full with
    | none => simp [CellS.put]
    | some _ =>
      simp [CellS.put]
      exact ⟨rfl, rfl⟩

/-- Freeing an accumulator set changes the sets alone. -/
theorem CellS.freeSet_keeps {α : Type} (g : CellS → α) (hg : ∀ (k : CellS) a b, g { k with set0 := a, set1 := b } = g k) (k : CellS) (o : OutTile) :
    g (k.freeSet o) = g k := by
  unfold CellS.freeSet
  split
  · rfl
  · exact hg k k.set0 .idle
  · exact hg k .idle k.set1

theorem CellS.freeSet_set0 (k : CellS) {o : OutTile} (h : o.set = some false) : (k.freeSet o).set0 = .idle := by
  unfold CellS.freeSet
  rw [h]

theorem CellS.freeSet_set1 (k : CellS) {o : OutTile} (h : o.set = some true) : (k.freeSet o).set1 = .idle := by
  unfold CellS.freeSet
  rw [h]

/-- The cell that its oldest output has landed in. -/
def CellS.landed (k : CellS) (o : OutTile) (rest : List OutTile) : CellS := { (k.landRings o).landMain o with outs := rest }.freeSet o

/-- A part of a cell that its accumulator sets and outputs do not touch is, in the cell landed in, what the main landing makes of it. -/
theorem CellS.landed_keeps {α : Type} (g : CellS → α) (hg : ∀ (k : CellS) a b r, g { k with set0 := a, set1 := b, outs := r } = g k) (k : CellS)
    (o : OutTile) (rest : List OutTile) : g (k.landed o rest) = g ((k.landRings o).landMain o) :=
  (CellS.freeSet_keeps g (fun k a b => hg k a b k.outs) _ o).trans (hg ((k.landRings o).landMain o) _ _ rest)

/-- The main landing leaves the rings' lists of filled slots and a held command alone. -/
theorem CellS.landMain_rings (k : CellS) (o : OutTile) :
    (k.landMain o).oblkFull = k.oblkFull ∧ (k.landMain o).fullFull = k.fullFull ∧ (k.landMain o).held = k.held := by
  unfold CellS.landMain
  split <;> exact ⟨rfl, rfl, rfl⟩

theorem CellS.landMain_queue (k : CellS) {o : OutTile} (h : o.dest = .queue) : (k.landMain o).seq = k.seq + 1 ∧
    (k.landMain o).store = k.store.writeN (64 * k.slotWord) (withSeq o.hdr k.seq ++ o.data) ∧
    ∃ q, (k.landMain o).ftq = k.ftq ++ [q] ∧ q.seq = k.seq ∧ q.word = k.slotWord := by
  unfold CellS.landMain
  rw [h]
  exact ⟨rfl, rfl, _, rfl, rfl, rfl⟩

/-- A record that has been marked is present. -/
theorem CellS.setMark_present (k : CellS) (w n : Nat) (p : Bool) : (k.setMark w n p).present w = true := by
  simp [CellS.present, CellS.setMark]

theorem CellS.landMain_area (k : CellS) {o : OutTile} {w : Nat} (h : o.dest = .area w) :
    (k.landMain o).store = k.store.writeN (64 * w) o.data ∧ (k.landMain o).present w = true ∧ (k.landMain o).outCount = k.outCount + 1 := by
  unfold CellS.landMain
  rw [h]
  exact ⟨rfl, (k.put w o.data).setMark_present w _ _, rfl⟩

theorem CellS.landMain_partial (k : CellS) {o : OutTile} {w n : Nat} (h : o.dest = .partialArea w n) :
    (k.landMain o).store = k.store.writeN (64 * w) o.data ∧ n ∈ (k.landMain o).partials := by
  unfold CellS.landMain
  rw [h]
  exact ⟨rfl, List.mem_cons_self⟩

/-! ### The landing in the state -/

/-- Where cycles waited are counted, they are added to the cell's count alone. -/
theorem State.whenWaited_eq (s : State) (b : Bool) (c : Fin 1024) :
    ∃ w n, (s.when b fun s => s.addWait c) = { s.upCell c (fun k => { k with waitCycles := w }) with free := n } ∧
      (b = false → w = s.cells[c].waitCycles) ∧ (b = true → ∃ v : Word, w = satAdd s.cells[c].waitCycles v.toNat) := by
  cases b with
  | false =>
    refine ⟨s.cells[c].waitCycles, s.free, ?_, fun _ => rfl, fun h => absurd h Bool.false_ne_true⟩
    show s = { s with cells := updV s.cells c fun k => { k with waitCycles := s.cells[c].waitCycles } }
    rw [updV_eq_self _ _ _ rfl]
  | true =>
    exact ⟨satAdd s.cells[c].waitCycles (Config.freeValue 32 s.free).toNat, s.free + 1, rfl, fun h => absurd h.symm Bool.false_ne_true, fun _ => ⟨_, rfl⟩⟩

theorem State.noteProduced_eq (s : State) (f : Bytes) (o : OutTile) :
    s.noteProduced f o = s.upColl fun c => { c with toSend := c.toSend ++ (s.producedBy f o).toList } := by
  unfold State.noteProduced
  split
  next h =>
    simp [h, State.upColl]
  next p h =>
    rw [h]
    rfl

/-- A part of a cell that no credit touches. -/
theorem CellS.CreditsOnly.keeps {α : Type} {k k' : CellS} (h : k.CreditsOnly k') (g : CellS → α)
    (hg : ∀ (k : CellS) a b c d, g { k with backPressure := a, bpCycles := b, withheld := c, creditFlight := d } = g k) : g k' = g k :=
  (congrArg g h).trans (hg k _ _ _ _)

/-- The clauses of a landing on its cell, from the cell landed in, whose cycles waited and credits may differ. -/
theorem Landed.of_cell {s t : State} {c : Fin 1024} {o : OutTile} {rest : List OutTile} (w : Word)
    (here : ({ s.cells[c] with waitCycles := w }.landed o rest).CreditsOnly t.cells[c])
    (others : ∀ d : Fin 1024, d ≠ c → t.cells[d].store = s.cells[d].store)
    (sent : t.coll.toSend = s.coll.toSend ++ (s.producedBy s.cells[c].active.bytes o).toList)
    (frame : t = { s with cells := t.cells, coll := t.coll, free := t.free }) : Landed s t c o rest := by
  generalize hk : { s.cells[c] with waitCycles := w } = k at here
  have rings := k.landRings_eq o
  have main : ∀ {α : Type} (g : CellS → α), (∀ (k : CellS) a b c d, g { k with backPressure := a, bpCycles := b, withheld := c, creditFlight := d } = g k) →
      (∀ (k : CellS) a b r, g { k with set0 := a, set1 := b, outs := r } = g k) → g t.cells[c] = g ((k.landRings o).landMain o) :=
    fun g hg hg' => (here.keeps g hg).trans (k.landed_keeps g hg' o rest)
  have mainStore := main CellS.store (fun _ _ _ _ _ => rfl) fun _ _ _ _ => rfl
  have ringStore : (k.landRings o).store = s.cells[c].ringsWritten o := (congrArg CellS.store rings).trans (hk ▸ rfl)
  have ringSeq : (k.landRings o).seq = s.cells[c].seq := (congrArg CellS.seq rings).trans (hk ▸ rfl)
  have ringSlot : (k.landRings o).slotWord = s.cells[c].slotWord := (congrArg CellS.slotWord rings).trans (hk ▸ rfl)
  have ringFtq : (k.landRings o).ftq = s.cells[c].ftq := (congrArg CellS.ftq rings).trans (hk ▸ rfl)
  have ringCount : (k.landRings o).outCount = s.cells[c].outCount := (congrArg CellS.outCount rings).trans (hk ▸ rfl)
  refine ⟨?outs, fun h => ?queue, fun x h => ?area, fun x n h => ?part, ?oblk, ?full, fun h => ?set0, fun h => ?set1, others, sent, frame⟩
  case outs =>
    exact (here.keeps CellS.outs fun _ _ _ _ _ => rfl).trans (CellS.freeSet_keeps CellS.outs (fun _ _ _ => rfl) _ o)
  case queue =>
    obtain ⟨seq, store, q, ftq, qseq, qword⟩ := (k.landRings o).landMain_queue h
    rw [ringSeq, ringSlot, ringStore] at store
    exact ⟨(main CellS.seq (fun _ _ _ _ _ => rfl) fun _ _ _ _ => rfl).trans (seq.trans (congrArg (· + 1) ringSeq)), mainStore.trans store, q,
      (main CellS.ftq (fun _ _ _ _ _ => rfl) fun _ _ _ _ => rfl).trans (ftq.trans (congrArg (· ++ [q]) ringFtq)), qseq.trans ringSeq,
      qword.trans ringSlot⟩
  case area =>
    obtain ⟨store, marked, count⟩ := (k.landRings o).landMain_area h
    rw [ringStore] at store
    exact ⟨mainStore.trans store, (main (·.present x) (fun _ _ _ _ _ => rfl) fun _ _ _ _ => rfl).trans marked,
      (main CellS.outCount (fun _ _ _ _ _ => rfl) fun _ _ _ _ => rfl).trans (count.trans (congrArg (· + 1) ringCount))⟩
  case part =>
    obtain ⟨store, waits⟩ := (k.landRings o).landMain_partial h
    rw [ringStore] at store
    exact ⟨mainStore.trans store, (main CellS.partials (fun _ _ _ _ _ => rfl) fun _ _ _ _ => rfl).symm ▸ waits⟩
  case oblk =>
    exact (main CellS.oblkFull (fun _ _ _ _ _ => rfl) fun _ _ _ _ => rfl).trans
      ((CellS.landMain_rings _ o).1.trans ((congrArg CellS.oblkFull rings).trans (hk ▸ rfl)))
  case full =>
    exact (main CellS.fullFull (fun _ _ _ _ _ => rfl) fun _ _ _ _ => rfl).trans
      ((CellS.landMain_rings _ o).2.1.trans ((congrArg CellS.fullFull rings).trans (hk ▸ rfl)))
  case set0 => exact (here.keeps CellS.set0 fun _ _ _ _ _ => rfl).trans (CellS.freeSet_set0 _ h)
  case set1 => exact (here.keeps CellS.set1 fun _ _ _ _ _ => rfl).trans (CellS.freeSet_set1 _ h)

/-- The oldest output lands (R102, R106, R115, R116, R201). -/
theorem State.land_landed {s : State} {c : Fin 1024} {o : OutTile} {rest : List OutTile} (houts : s.cells[c].outs = o :: rest)
    (hheld : s.cells[c].held = none) (hroom : s.cells[c].noRoom o = false) (hin : s.cells[c].landsInside o = true) :
    Landed s (s.land c) c o rest := by
  obtain ⟨w, n, hwait, -⟩ := s.whenWaited_eq o.refused c
  have run : s.land c = (((((s.when o.refused fun s => s.addWait c).noteProduced s.cells[c].active.bytes o).upCell c fun k =>
      k.landed o rest).pressure c).retry c) := by
    unfold State.land
    rw [houts]
    simp only [hroom, hin]
    rfl
  rw [run, hwait, State.noteProduced_eq]
  generalize hu : State.upCell (State.upColl _ _) c _ = u
  have here : u.cells[c] = { s.cells[c] with waitCycles := w }.landed o rest := by
    rw [← hu, State.upCell_at]
    exact congrArg (CellS.landed · o rest) (s.upCell_at c _)
  have others : ∀ d : Fin 1024, d ≠ c → u.cells[d] = s.cells[d] := fun d hd => by
    rw [← hu, State.upCell_ne _ c _ d hd]
    exact s.upCell_ne c _ d hd
  obtain ⟨m, ⟨v, frame⟩, credits⟩ := u.pressure_creditsOnly c
  have none_held : (u.pressure c).cells[c].held = none := by
    refine ((credits c).keeps CellS.held fun _ _ _ _ _ => rfl).trans ((congrArg CellS.held here).trans ?_)
    refine (CellS.landed_keeps CellS.held (fun _ _ _ _ => rfl) _ o rest).trans ?_
    exact (CellS.landMain_rings _ o).2.2.trans ((congrArg CellS.held (CellS.landRings_eq _ o)).trans hheld)
  rw [State.retry_of_none none_held]
  refine .of_cell w (here ▸ credits c) (fun d hd => ?_) ?_ ?_
  · exact ((credits d).keeps CellS.store fun _ _ _ _ _ => rfl).trans (congrArg CellS.store (others d hd))
  · rw [frame, ← hu]
    rfl
  · rw [frame, ← hu]
    rfl

/-- An output without room stays and is marked so (R115, R201). -/
theorem State.land_refused {s : State} {c : Fin 1024} {o : OutTile} {rest : List OutTile} (houts : s.cells[c].outs = o :: rest)
    (hroom : s.cells[c].noRoom o = true) : (s.land c).cells[c] = { s.cells[c] with outs := { o with refused := true } :: rest } ∧ OnlyCell s (s.land c) c := by
  have run : s.land c = s.upCell c fun k => { k with outs := { o with refused := true } :: rest } := by
    unfold State.land
    rw [houts]
    exact if_pos hroom
  rw [run]
  exact ⟨s.upCell_at c _, s.upCell_onlyCell c _⟩

/-- Settles O22: the oldest output of a cell lands with all that goes with it, or stays where there is no room; a reduce cell has a row of its own. -/
theorem outputsLandInOrder : Obligations.OutputsLandInOrder := by
  have drain : ∀ {c s}, fPers s.cells[c].active.bytes ≠ 2 → exec (.tileDrainDone c) s = .next (s.land c) :=
    fun h => congrArg Host.Outcome.next (if_neg h)
  have block : ∀ {c s}, fPers s.cells[c].active.bytes = 2 → exec (.recordBlockOutput c) s = .next (s.land c) :=
    fun h => congrArg Host.Outcome.next (if_pos h)
  exact ⟨fun c o rest s hp houts hheld hroom hin => ⟨_, drain hp, State.land_landed houts hheld hroom hin⟩,
    fun c o rest s hp houts hroom => ⟨_, drain hp, State.land_refused houts hroom⟩,
    fun c o rest s hp houts hheld hroom hin => ⟨_, block hp, State.land_landed houts hheld hroom hin⟩,
    fun c o rest s hp houts hroom => ⟨_, block hp, State.land_refused houts hroom⟩,
    fun c s hp => congrArg Host.Outcome.next (if_pos hp), fun c s hp => congrArg Host.Outcome.next (if_neg hp)⟩

end Sys2Proof.Machine
end

section
/-! PROOFS. A new binding asks the regions that it changes to move; the reply to a request to shed work (R237, R246, R248, R249). -/
namespace Sys2Proof.Machine

/-! ### Advice -/

/-- Departure advice sets its bit and puts an event before the host. -/
theorem State.adviseNew_eq (s : State) (cause : Nat) : ∃ a h, s.adviseNew cause = { s with sec := { s.sec with departAdvice := a }, host := h } := by
  unfold State.adviseNew
  split
  · exact ⟨s.sec.departAdvice, s.host, rfl⟩
  · exact ⟨_, _, rfl⟩

/-- Cause 1 of departure advice stands once it has been advised. -/
theorem State.adviseNew_one (s : State) : (s.adviseNew 1).sec.departAdvice.getLsbD 1 = true := by
  unfold State.adviseNew
  split
  next h => exact h
  next =>
    show (s.sec.departAdvice ||| BitVec.ofNat 6 (2 ^ 1)).getLsbD 1 = true
    rw [BitVec.getLsbD_or, show (BitVec.ofNat 6 (2 ^ 1)).getLsbD 1 = true from by decide, Bool.or_true]

/-! ### A new binding -/

/-- What the moves asked for health and their advice leave: the queue of moves, the advice and the host differ alone. -/
theorem State.askedHealth_eq (s : State) : ∃ l a h, (let s := s.askHealthMoves; s.when s.stuckHomes fun s => s.adviseNew 0) =
    { s with rt := { s.rt with moveQueue := l }, sec := { s.sec with departAdvice := a }, host := h } := by
  dsimp only
  generalize s.askHealthMoves.stuckHomes = b
  cases b with
  | false => exact ⟨_, s.sec.departAdvice, s.host, rfl⟩
  | true =>
    obtain ⟨a, h, advised⟩ := s.askHealthMoves.adviseNew_eq 0
    exact ⟨_, a, h, advised⟩

/-- A binding asked for: a region keeps its cluster and is asked to move where the binding would change it. -/
theorem State.askBinding_regionS (s : State) (b : Binding) {i : Nat} (hi : i < s.rt.regions.length) :
    (s.askBinding b).regionS i = { s.regionS i with
      moveTo := if b.getD i none = (s.regionS i).cluster.map (fun c => (c, (s.regionS i).sym)) then none else b.getD i none } := by
  unfold State.askBinding State.regionS State.upRt
  rw [List.getD_eq_getElem _ _ hi, List.getD_eq_getElem _ _ (by simpa using hi)]
  simp

/-- Settles O26: a new binding asks the regions that it changes to move, one that cannot be had raises advice; a shed reply ends the wait for it. -/
theorem rebindAndShedReply : Obligations.RebindAndShedReply := by
  have asked : ∀ {s : State} {im : Image}, s.rt.image = some im →
      ∃ u : State, u.rt.regions = s.rt.regions ∧ u = { s with rt := u.rt, sec := u.sec, host := u.host } ∧
        (s.bindImage im = none → execPlacementRebind s = .next (u.adviseNew 1)) ∧
        ∀ b, s.bindImage im = some b → execPlacementRebind s = .next (u.askBinding b) := by
    intro s im him
    obtain ⟨l, a, h, eq⟩ := s.askedHealth_eq
    refine ⟨{ s with rt := { s.rt with moveQueue := l }, sec := { s.sec with departAdvice := a }, host := h }, rfl, rfl, ?_⟩
    unfold execPlacementRebind
    rw [him]
    dsimp only at eq ⊢
    rw [eq]
    generalize hu : ({ s with rt := _, sec := _, host := _ } : State) = u
    have bound : u.bindImage im = s.bindImage im := hu ▸ rfl
    rw [bound]
    exact ⟨fun h => by rw [h], fun b h => by rw [h]⟩
  refine ⟨fun im b s him hb => ?_, fun im s him hb => ?_, fun s him => ?_, fun p k r s ha hop hm ht hk => ?_⟩
  · obtain ⟨u, regions, frame, -, run⟩ := asked him
    refine ⟨_, run b hb, fun i hi => ?_, ?_⟩
    · rw [u.askBinding_regionS b (regions ▸ hi), show u.regionS i = s.regionS i from congrArg (fun l => l.getD i RegionS.reset) regions]
      exact ⟨rfl, rfl⟩
    · exact frame ▸ rfl
  · obtain ⟨u, regions, frame, run, -⟩ := asked him
    obtain ⟨a, h, eq⟩ := u.adviseNew_eq 1
    refine ⟨_, run hb, u.adviseNew_one, eq ▸ regions, ?_⟩
    rw [eq]
    exact frame ▸ rfl
  · change execPlacementRebind s = _
    unfold execPlacementRebind
    rw [him]
  · have run : exec (.shedReply p k r) s =
        .next (if s.fromRelay k then s.shedAnswer r.grant r.firstStep r.share else s.countDiscard p) := by
      change execShedReply p k r s = _
      unfold execShedReply
      rw [hop, hm, ht, hk, State.arrivePkt_arrives ha]
      rfl
    refine ⟨fun hr hw hg => ?_, fun hr hw hg => ?_, fun hr hw => ?_, fun hr => ⟨_, run, ?_⟩⟩
    · rw [run, hr, if_pos rfl]
      unfold State.shedAnswer
      rw [hw, hg]
      rfl
    · rw [run, hr, if_pos rfl]
      unfold State.shedAnswer
      rw [hw, hg]
      rfl
    · rw [run, hr, if_pos rfl]
      unfold State.shedAnswer
      rw [hw]
      rfl
    · rw [hr, if_neg Bool.false_ne_true]
      exact ⟨s.upPort_at p _, fun q hq => s.upPort_ne p _ q hq, rfl⟩

end Sys2Proof.Machine
end

section
/-! PROOFS. Staging buffers are granted, returned and withdrawn on an error (R272, R273). -/
namespace Sys2Proof.Machine

/-! ### What a buffer is held for -/

/-- A work holds a buffer where one that has not landed is its. -/
theorem Mover.bufOf_isSome {m : Mover} {w : Work} {b : Fin 128} {x : StageBuf} (h : m.bufs[b] = some x) (hw : x.work = w) (hl : x.landed = false) :
    (m.bufOf w).isSome = true := by
  unfold Mover.bufOf
  rw [List.findSome?_isSome_iff]
  refine ⟨b, List.mem_finRange b, ?_⟩
  rw [h]
  simp [hw, hl]

/-- A work to which no buffer is given holds one as before. -/
theorem Mover.bufOf_give_ne {m : Mover} {b : Fin 128} {q : Claim} {w : Work} (h : q.work ≠ w) (hn : m.bufOf w = none) : (m.give b q).bufOf w = none := by
  unfold Mover.bufOf at hn ⊢
  rw [List.findSome?_eq_none_iff] at hn ⊢
  intro y hy
  have old := hn y hy
  by_cases hb : y = b
  · subst hb
    rw [show (m.give y q).bufs[y] = some { work := q.work, again := q.failed.isSome, bad := false, landed := false } from setV_at ..]
    simp [h]
  · rw [show (m.give b q).bufs[y] = m.bufs[y] from setV_ne _ _ hb]
    exact old

/-! ### A grant -/

theorem State.grant_given {s : State} {cl : StageClass} {q : Claim} {b : Fin 128} (hc : s.grantClass = some cl) (hq : s.nextClaim cl = some q)
    (hb : s.mover.freeBuf q.failed = some b) : s.grant = (some q.work, s.upMover fun m => m.give b q) := by
  unfold State.grant
  rw [hc, Option.bind_some, hq]
  dsimp only
  rw [hb]

theorem State.placeFrames_sec (s : State) (i : Nat) : (s.placeFrames i).sec = s.sec := by
  unfold State.placeFrames
  split
  · refine Eq.trans (b := (List.foldl _ s _).sec) rfl (foldl_keeps State.sec _ (fun s f => ?_) _ s)
    obtain ⟨v, eq⟩ := s.placeFrame_eq i f
    rw [eq]
  · rfl

theorem State.grantOne_frames {s u : State} {i : Nat} (h : s.grant = (some (.frames i), u)) :
    s.grantOne = (u.placeFrames i).upMover fun m => m.land (.frames i) := by
  unfold State.grantOne
  rw [h]

theorem State.grantOne_other {s u : State} {w : Work} (h : s.grant = (some w, u)) (hw : ∀ i, w ≠ .frames i) : s.grantOne = u := by
  unfold State.grantOne
  rw [h]
  split
  next i v eq => exact absurd (Option.some.inj (congrArg Prod.fst eq)) (hw i)
  next x v _ eq => exact (congrArg Prod.snd eq).symm

theorem State.grantOne_none {s : State} (h : s.grantClass = none) : s.grantOne = s := by
  unfold State.grantOne State.grant
  rw [h]
  rfl

theorem execStagingGrant_noUnits {s u : State} (hg : s.grantOne = u) (hu : u.sec.units = []) : execStagingGrant s = .next u := by
  unfold execStagingGrant
  dsimp only
  rw [hg, hu]

theorem execStagingGrant_unit {s u : State} {x : SecUnit} {l : List SecUnit} (hg : s.grantOne = u) (hu : u.sec.units = x :: l) :
    execStagingGrant s = .next (if u.drainHeld x then u.drainOn else u) := by
  unfold execStagingGrant
  dsimp only
  rw [hg, hu]

/-! ### What an unreadable source means -/

/-- The error records and buffers stay where the source of a record could not be read, but for what a job that ends does. -/
theorem State.sourceUe_ueTotal (s : State) (w : Work) : (s.sourceUe w).tiers.ueTotal = s.tiers.ueTotal := by
  unfold State.sourceUe
  split
  · exact congrArg Tiers.ueTotal (blindToJob_tiers.leaveJobs s false)
  · rfl
  · rfl
  · unfold State.loseRecord
    dsimp only
    split <;> rfl
  · rfl

theorem State.sourceUe_mover (s : State) {w : Work} (hw : ∀ o, w ≠ .rows o) : (s.sourceUe w).mover = s.mover := by
  unfold State.sourceUe
  split
  next o => exact absurd rfl (hw o)
  · rfl
  · rfl
  · unfold State.loseRecord
    dsimp only
    split <;> rfl
  · rfl

/-- A record of a copy that was lost sets the step's non-finite flag (R245). -/
theorem State.loseRecord_nonfinite {s : State} {w : Word} {o : ObjS} (ho : s.obj w.toNat = some o)
    (hany : ((s.moveGroup o).any fun y => (y.move.map fun m => !m.flipped).getD false) = true) : (s.loseRecord w).rt.nonfinite = true := by
  unfold State.loseRecord
  rw [ho]
  dsimp only
  generalize hl : (s.moveGroup o).filter (fun x => (x.move.map fun m => !m.flipped).getD false) = l
  have some_moves : 0 < l.length := by
    obtain ⟨y, hy, hm⟩ := List.any_eq_true.mp hany
    exact List.length_pos_of_mem (hl ▸ List.mem_filter.mpr ⟨hy, hm⟩)
  have inside : (s.fresh 64).1.toNat % max 1 l.length < l.length := by
    have := Nat.mod_lt (s.fresh 64).1.toNat (show 0 < max 1 l.length by omega)
    omega
  rw [List.getElem?_eq_getElem inside]
  rfl

/-- An uncorrectable error of a staging buffer is counted and recorded (R282). -/
def State.countStagingUe (s : State) (b : Fin 128) : State := s.upTiers fun t =>
  { t with
    ueTotal := satAdd t.ueTotal 1
    errors := t.errors ++ [({ loc := { tier := .staging, unit := b.val, channel := 0, offset := 0 }, uncorrectable := true,
                              at_ := s.now } : ErrRec)] }


/-- Settles O30: buffers are granted to the claim served next, returned once landed, and withdrawn once on an error. -/
theorem stagingBuffersGrantedAndReturned : Obligations.StagingBuffersGrantedAndReturned := by
  refine ⟨fun cl q b s hc hq hb => ⟨fun hw hu => ?_, fun i hw hu => ?_, fun u rest hu hw => ?_⟩, fun s hc hu => ?_, fun b x s hx hl => ?_,
    fun b x s hx hl => ?_, fun b x s hx hl ha => ?_, fun b x s hx hl ha => ?_⟩
  · have given := State.grantOne_other (State.grant_given hc hq hb) hw
    have run : exec .stagingGrant s = .next (s.upMover fun m => m.give b q) := by
      change execStagingGrant s = _
      cases hs : s.sec.units with
      | nil => exact execStagingGrant_noUnits given hs
      | cons u l =>
        obtain ⟨other, notHeld⟩ := hu u (hs ▸ List.mem_cons_self)
        rw [execStagingGrant_unit given hs, if_neg]
        show ¬ ((s.mover.give b q).bufOf (.drain u.step)).isSome = true
        rw [Mover.bufOf_give_ne other notHeld]
        exact Bool.false_ne_true
    exact ⟨_, run, setV_at .., rfl, fun y hy => setV_ne _ _ hy, rfl⟩
  · refine execStagingGrant_noUnits (State.grantOne_frames (hw ▸ State.grant_given hc hq hb)) ?_
    exact (congrArg Resilience.units (State.placeFrames_sec _ i)).trans hu
  · have given := State.grantOne_other (State.grant_given hc hq hb) fun i h => Work.noConfusion (hw.symm.trans h)
    refine (execStagingGrant_unit given hu).trans (congrArg Host.Outcome.next (if_pos ?_))
    exact Mover.bufOf_isSome (setV_at ..) hw rfl
  · exact execStagingGrant_noUnits (State.grantOne_none hc) hu
  · have run : exec (.stagingBufferReturn b) s = .next (s.upMover fun m => m.free b) := by
      refine congrArg Host.Outcome.next (if_pos ?_)
      rw [hx]
      exact hl
    exact ⟨_, run, setV_at .., fun y hy => setV_ne _ _ hy, rfl, rfl⟩
  · refine congrArg Host.Outcome.next (if_neg ?_)
    rw [hx]
    exact hl ▸ Bool.false_ne_true
  · have run : exec (.stagingBufferUe b) s = .next ((s.countStagingUe b).upMover fun m =>
        { (m.readAgain x.work).free b with claims := m.claims ++ [{ work := x.work, failed := some b }] }) := by
      change execStagingBufferUe b s = _
      unfold execStagingBufferUe
      rw [hx]
      dsimp only
      rw [hl, ha]
      rfl
    exact ⟨_, run, setV_at .., rfl, rfl, ⟨_, rfl, rfl, rfl⟩, rfl⟩
  · have run : exec (.stagingBufferUe b) s = .next (((s.countStagingUe b).upMover fun m =>
        { m with bufs := setV m.bufs b (some { x with bad := true }) }).sourceUe x.work) := by
      change execStagingBufferUe b s = _
      unfold execStagingBufferUe
      rw [hx]
      dsimp only
      rw [hl, ha]
      rfl
    refine ⟨_, run, State.sourceUe_ueTotal _ _, fun hw => ?_, fun w o hw ho hany => ?_⟩
    · rw [State.sourceUe_mover _ hw]
      exact setV_at ..
    · rw [hw]
      exact State.loseRecord_nonfinite ho hany

end Sys2Proof.Machine
end

section
/-! PROOFS. The update pass begins, and the Medlar units advance it (R287, R299 to R306). -/
namespace Sys2Proof.Machine

/-! ### What a unit's results write and count -/

/-- The counts of a unit's results leave the pass, the update count and the outboxes alone. -/
theorem State.countOuts_eq (s : State) (k : Fin 12) (o : ObjS) (outs : List ElemOut) (n : Nat) : ∃ m h, s.countOuts k o outs n = { s with medlar := m, host := h } ∧
    m.pass = s.medlar.pass ∧ m.u = s.medlar.u ∧ m.outboxSince = s.medlar.outboxSince := by
  unfold State.countOuts
  dsimp only
  generalize (decide (0 < (outs.filter (·.kept)).length) && !s.medlar.keptRaised.contains (BitVec.ofNat 32 o.e.id)) = raise
  cases raise <;> exact ⟨_, _, rfl, rfl, rfl, rfl⟩

/-- Of the state, the tiers and what Medlar and the host hold may differ; the pass, the update count and the outboxes stay. -/
def UpdatesOnly (s t : State) : Prop := ∃ T m h, t = { s with tiers := T, medlar := m, host := h } ∧ m.pass = s.medlar.pass ∧ m.u = s.medlar.u ∧
  m.outboxSince = s.medlar.outboxSince

theorem UpdatesOnly.refl (s : State) : UpdatesOnly s s := ⟨_, _, _, rfl, rfl, rfl, rfl⟩
theorem UpdatesOnly.trans (s t u : State) (h : UpdatesOnly s t) (h' : UpdatesOnly t u) : UpdatesOnly s u := by
  obtain ⟨T, m, x, rfl, pass, count, out⟩ := h
  obtain ⟨T', m', x', rfl, pass', count', out'⟩ := h'
  exact ⟨T', m', x', rfl, pass'.trans pass, count'.trans count, out'.trans out⟩

theorem State.writeHome_updatesOnly (s : State) (o : ObjS) (off : Nat) (bs : Bytes) : UpdatesOnly s (s.writeHome o off bs) := ⟨_, _, _, rfl, rfl, rfl, rfl⟩
theorem State.writeTileOuts_updatesOnly (s : State) (o : ObjS) (tile : Nat) (outs : List ElemOut) : UpdatesOnly s (s.writeTileOuts o tile outs) :=
  ⟨_, _, _, rfl, rfl, rfl, rfl⟩
theorem State.countOuts_updatesOnly (s : State) (k : Fin 12) (o : ObjS) (outs : List ElemOut) (n : Nat) : UpdatesOnly s (s.countOuts k o outs n) := by
  obtain ⟨m, h, eq, kept⟩ := s.countOuts_eq k o outs n
  exact ⟨s.tiers, m, h, eq, kept⟩
theorem State.updateRow_updatesOnly (s : State) (k : Fin 12) (o g : ObjS) (pos row : Nat) : UpdatesOnly s (s.updateRow k o g pos row) := by
  unfold State.updateRow
  dsimp only
  generalize hu : State.countOuts _ k o _ _ = u
  have counted : UpdatesOnly s u := by
    rw [← hu]
    exact .trans _ _ _ (.trans _ _ _ (s.writeHome_updatesOnly ..) (State.writeHome_updatesOnly ..)) (State.countOuts_updatesOnly ..)
  exact .trans _ _ _ counted ⟨_, _, _, rfl, rfl, rfl, rfl⟩

/-! ### A unit -/

/-- A unit of an object that is not of packed rows is counted on the object (R287, R299). -/
theorem State.updateUnit_eq (s : State) (k : Fin 12) (o : ObjS) (n : Nat) (hk : o.e.kind ≠ 5) : ∃ T m h, s.updateUnit k o n = { s with tiers := T, medlar := m, host := h } ∧
    m.pass = (s.medlar.unitDone (BitVec.ofNat 32 o.e.id) (s.unitsOf o) (childOf 1 s.objTable o.e.id).isSome).pass ∧ m.u = s.medlar.u ∧
    m.outboxSince = s.medlar.outboxSince := by
  unfold State.updateUnit
  dsimp only
  generalize hu : State.countOuts _ k o _ _ = u
  have writes : UpdatesOnly s u := by
    rw [← hu]
    refine .trans _ _ _ (.trans _ _ _ (foldl_rel UpdatesOnly.refl UpdatesOnly.trans (fun s x => s.writeTileOuts_updatesOnly ..) ..)
      (foldl_rel UpdatesOnly.refl UpdatesOnly.trans (fun s x => s.writeHome_updatesOnly ..) ..)) (State.countOuts_updatesOnly ..)
  have units : u.unitsOf o = s.unitsOf o := (if_neg hk).trans (if_neg hk).symm
  rw [units]
  obtain ⟨T, m, h, rfl, pass, count, out⟩ := writes
  refine ⟨T, _, h, rfl, ?_, count, out⟩
  exact congrArg (List.filterMap _) pass

/-- The tiles and working records of a unit's results, written into the homes of two states with the same tiers and update count. -/
theorem unitWrites_tiers {a b : State} (ht : a.tiers = b.tiers) (hu : a.medlar.u = b.medlar.u) (o : ObjS) (plane size : Nat) (outs : List (Nat × List ElemOut))
    (recs : List (Nat × (Bytes × Nat))) :
    (recs.foldl (fun s x => s.writeHome o (6 * plane + x.1 * size) x.2.1) (outs.foldl (fun s x => s.writeTileOuts o x.1 x.2) a)).tiers =
      (recs.foldl (fun s x => s.writeHome o (6 * plane + x.1 * size) x.2.1) (outs.foldl (fun s x => s.writeTileOuts o x.1 x.2) b)).tiers := by
  have tiles : (outs.foldl (fun s x => s.writeTileOuts o x.1 x.2) a).tiers = (outs.foldl (fun s x => s.writeTileOuts o x.1 x.2) b).tiers := by
    refine And.left (List.foldl_rel (r := fun a b : State => a.tiers = b.tiers ∧ a.medlar.u = b.medlar.u) 
      (f := fun s (x : Nat × List ElemOut) => s.writeTileOuts o x.1 x.2) (g := fun s x => s.writeTileOuts o x.1 x.2) ⟨ht, hu⟩ fun x _ a b h => ⟨?_, h.2⟩)
    unfold State.writeTileOuts State.writeHome State.upTiers
    dsimp only
    rw [h.1, h.2]
  refine List.foldl_rel (r := fun a b : State => a.tiers = b.tiers) tiles fun x _ a b h => ?_
  exact congrArg (fun t : Tiers => t.writeHome o.home (6 * plane + x.1 * size) x.2.1) h

section
variable (s : State) (v : Vector (Option DWord) 12) (r : StepRecord)

/-- The state with other outboxes waited for, and another record of the step. -/
def State.otherWaits : State := { s with medlar := { s.medlar with outboxSince := v }, job := { s.job with record := r } }

theorem State.otherWaits_unitGrad (o : ObjS) (tiles : List Nat) (p : Nat) : (s.otherWaits v r).unitGrad o tiles p = s.unitGrad o tiles p := rfl
theorem State.otherWaits_tileOuts (o : ObjS) (tile : Nat) (g : List Word) : (s.otherWaits v r).tileOuts o tile g = s.tileOuts o tile g := rfl
theorem State.otherWaits_objTable : (s.otherWaits v r).objTable = s.objTable := rfl

/-- What a unit writes does not depend on the outboxes waited for, nor on the step's record. -/
theorem State.updateUnit_tiers (k : Fin 12) (o : ObjS) (n : Nat) : ((s.otherWaits v r).updateUnit k o n).tiers = (s.updateUnit k o n).tiers := by
  have counted : ∀ (s : State) outs scales, (s.countOuts k o outs scales).tiers = s.tiers := fun s outs scales => by
    obtain ⟨m, h, eq, -⟩ := s.countOuts_eq k o outs scales
    rw [eq]
  unfold State.updateUnit
  simp only [otherWaits_unitGrad, otherWaits_tileOuts, otherWaits_objTable]
  generalize List.map _ (List.zip _ (s.unitGrad o _ _)) = outs
  show (State.countOuts _ k o _ _).tiers = (State.countOuts _ k o _ _).tiers
  rw [counted, counted]
  exact unitWrites_tiers (a := s.otherWaits v r) (b := s) rfl rfl ..
end

/-- A Medlar that goes on no longer waits for an outbox; what it waited is in the step's record. -/
theorem State.outboxGo_eq (s : State) (k : Fin 12) : ∃ v r, s.outboxGo k = s.otherWaits v r ∧ v[k] = none := by
  unfold State.outboxGo
  split
  next h => exact ⟨s.medlar.outboxSince, s.job.record, rfl, h⟩
  next t h => exact ⟨_, _, rfl, setV_at ..⟩

/-! ### Blocks of listed rows -/

/-- A block of listed rows is counted on the object (R287, R290). -/
theorem State.updateRows_eq (s : State) (k : Fin 12) {o g : ObjS} (n : Nat) (hg : s.gradFor o = some g) : ∃ T m h,
    s.updateRows k o n = { s with tiers := T, medlar := m, host := h } ∧ m.pass = (s.medlar.unitDone (BitVec.ofNat 32 o.e.id) (s.unitsOf o) false).pass := by
  unfold State.updateRows
  rw [hg]
  dsimp only
  generalize hu : List.foldl _ s _ = u
  have rows : UpdatesOnly s u := hu ▸ foldl_rel UpdatesOnly.refl UpdatesOnly.trans (fun s x => s.updateRow_updatesOnly ..) ..
  obtain ⟨T, m, h, rfl, pass, -⟩ := rows
  exact ⟨T, _, h, rfl, congrArg (List.filterMap _) pass⟩

/-- The buffers of the tile mover play no part in what a block of listed rows does. -/
theorem State.updateRow_mover (s : State) (x : Mover) (k : Fin 12) (o g : ObjS) (pos row : Nat) :
    ({ s with mover := x } : State).updateRow k o g pos row = { s.updateRow k o g pos row with mover := x } := by
  have counted : ∀ (s : State) outs n, ({ s with mover := x } : State).countOuts k o outs n = { s.countOuts k o outs n with mover := x } := fun s outs n => by
    unfold State.countOuts
    dsimp only
    generalize (decide (0 < (outs.filter (·.kept)).length) && !s.medlar.keptRaised.contains (BitVec.ofNat 32 o.e.id)) = raise
    cases raise <;> rfl
  have written := counted ((s.writeHome o (row * (6 * o.e.rowW)) (rowBytes (s.rowOuts o g pos row).1)).writeHome o
    (o.e.mTiles * 64 * (6 * o.e.rowW) + 4 * row) (toLE (s.rowOuts o g pos row).2.toNat 4)) (s.rowOuts o g pos row).1 0
  exact congrArg (fun u : State => u.upMedlar fun m => { m with logNow := m.logNow ++ [(BitVec.ofNat 32 o.e.id, row,
    logEntry row (s.rowOuts o g pos row).2 (rowBytes (s.rowOuts o g pos row).1))] }) written

theorem State.updateRows_mover (s : State) (x : Mover) (k : Fin 12) (o : ObjS) (n : Nat) :
    ({ s with mover := x } : State).updateRows k o n = { s.updateRows k o n with mover := x } := by
  have rows : ∀ (g : ObjS) (l : List (Nat × Nat)) (s : State), l.foldl (fun s y => s.updateRow k o g (64 * n + y.2) y.1) { s with mover := x } =
      { l.foldl (fun s y => s.updateRow k o g (64 * n + y.2) y.1) s with mover := x } := fun g l => by
    induction l with
    | nil => exact fun s => rfl
    | cons y l ih => exact fun s => (congrArg (l.foldl _) (s.updateRow_mover x k o g _ _)).trans (ih _)
  unfold State.updateRows
  rw [show State.gradFor { s with mover := x } o = s.gradFor o from rfl]
  split
  · rfl
  · exact congrArg (State.upMedlar · fun m => m.unitDone (BitVec.ofNat 32 o.e.id) (s.unitsOf o) false) (rows ..)

/-! ### The obligation -/

/-- Settles O34: the pass begins once its step sizes and buffer are there, and each Medlar unit advances it by its next object. -/
theorem updatePassBeginsAndAdvances : Obligations.UpdatePassBeginsAndAdvances := by
  refine ⟨⟨fun r s hr hst hp hb => ?_, fun s hr => ?_, fun s hb => ?_⟩, fun k p o s hn hp hst hw hk ho => ?_, fun k p o s hn hp hst hw hk ho => ?_,
    fun k p o g s hn hp hst hw hk hg => ?_, fun obj k p o o' g s ho hm hn hobj hp hk hw hst hg => ?_⟩
  · have run : exec .updatePassStart s = .next (s.upMedlar fun m =>
        { m with
          passOn := true
          midUpdate := true
          prevStep := none
          scalars := (List.range 64).map fun g => scalarsOf (s.groupOf g) (r.eta.getD g 0) m.clip m.u
          pass := s.passList
          ratios := s.freshRatios }) := by
      change execUpdatePassStart s = _
      unfold execUpdatePassStart
      rw [hr]
      dsimp only
      rw [hp, hb, hst]
      rfl
    refine ⟨_, run, rfl, rfl, rfl, fun g => ?_, rfl⟩
    simp [State.upMedlar]
  · change execUpdatePassStart s = _
    unfold execUpdatePassStart
    rw [hr]
  · change execUpdatePassStart s = _
    unfold execUpdatePassStart
    rw [hb]
    split
    · rfl
    · rw [Bool.and_false]
      rfl
  · have run : exec (.medlarUnit k) s = .next ((s.outboxGo k).updateUnit k o p.done) := by
      change execMedlarUnit k s = _
      unfold execMedlarUnit
      rw [hn]
      dsimp only
      rw [hp, hst, hw, ho, if_neg hk]
      rfl
    obtain ⟨v, r, went, cleared⟩ := s.outboxGo_eq k
    obtain ⟨T, m, h, eq, pass, count, out⟩ := State.updateUnit_eq (s.otherWaits v r) k o p.done hk
    refine ⟨_, run, ?_⟩
    have tiers : T = (s.updateUnit k o p.done).tiers := (congrArg State.tiers eq).symm.trans (s.updateUnit_tiers v r k o p.done)
    rw [went, eq, ← tiers]
    exact ⟨pass, rfl, count, (congrArg (fun x : Vector (Option DWord) 12 => x[k]) out).trans cleared, rfl⟩
  · have run : exec (.medlarUnit k) s = .next (s.outboxWait k) := by
      change execMedlarUnit k s = _
      unfold execMedlarUnit
      rw [hn]
      dsimp only
      rw [hp, hst, hw, ho, if_neg hk]
      rfl
    refine ⟨_, run, ?_⟩
    unfold State.outboxWait
    cases hsince : s.medlar.outboxSince[k] with
    | none => exact ⟨setV_at .., rfl, rfl⟩
    | some x => exact ⟨hsince, rfl, rfl⟩
  · have run : exec (.medlarUnit k) s = .next (s.updateRows k o p.done) := by
      change execMedlarUnit k s = _
      unfold execMedlarUnit
      rw [hn]
      dsimp only
      rw [hp, hst, hw, if_pos hk]
      rfl
    obtain ⟨T, m, h, eq, pass⟩ := s.updateRows_eq k p.done hg
    refine ⟨_, run, ?_, rfl, ?_⟩
    all_goals rw [eq]
    exact pass
  · have run : exec (.rowWindowBlock obj) s = .next (s.withBuf (.rows obj) fun bad s => if bad then s else s.updateRows k o p.done) := by
      change execRowWindowBlock obj s = _
      unfold execRowWindowBlock
      rw [ho]
      dsimp only
      rw [hm]
      dsimp only
      rw [hn]
      dsimp only
      rw [hp, hst, hw, decide_eq_false (not_not_intro hobj)]
      rfl
    refine ⟨fun b hb hbad => ?_, fun hb => run.trans (congrArg Host.Outcome.next (State.withBuf_none hb _))⟩
    obtain ⟨T, m, h, eq, pass⟩ := s.updateRows_eq k p.done hg
    rw [State.withBuf_some hb, hbad] at run
    refine ⟨_, run.trans (congrArg Host.Outcome.next (s.updateRows_mover (s.mover.land (.rows obj)) k o p.done)), ?_, rfl, rfl, ?_⟩
    all_goals rw [eq]
    exact pass

end Sys2Proof.Machine
end

section
/-! PROOFS. A tile product of the matrix personality advances its nest (R87, R98 to R105, R108, R122). -/
namespace Sys2Proof.Machine

/-! ### A nest that runs, waits or stops -/

/-- A nest that runs is the cell's own, goes on, and is of the personality asked for. -/
theorem CellS.running_some {k : CellS} {p : Nat} {n : Nest} (h : k.running p = some n) :
    k.nest = some n ∧ n.stopped = false ∧ n.waiting = false ∧ fPers k.active.bytes = p := by
  unfold CellS.running at h
  split at h
  · exact absurd h (by simp)
  next m hm =>
    split at h
    · exact absurd h (by simp)
    next hgo =>
      obtain rfl := Option.some.inj h
      simp only [Bool.or_eq_true, decide_eq_true_eq, not_or, Bool.not_eq_true, not_not] at hgo
      exact ⟨hm, hgo.1.1, hgo.1.2, hgo.2⟩

/-- A nest that finds a mark clear waits (R108). -/
theorem State.nestWaits_waits {s : State} {c : Fin 1024} {n : Nest} (h : s.cells[c].nest = some n) : WaitsNow s (s.nestWaits c) c n := by
  unfold State.nestWaits
  obtain ⟨f, eq⟩ := State.noteWait_eq (s.upCell c fun k => k.upNest fun n => { n with waiting := true })
  rw [eq]
  refine ⟨(s.upCell_at c _).trans ?_, fun o ho => s.upCell_ne c _ o ho, rfl⟩
  unfold CellS.upNest
  rw [h]
  rfl

/-- A nest that reads outside the data area stops (R122). -/
theorem State.nestFault_stops {s : State} {c : Fin 1024} {n : Nest} (h : s.cells[c].nest = some n) : StopsNow s (s.nestFault c) c n := by
  have stopped : s.upCell c (fun k => { k with nest := k.nest.map fun n => { n with stopped := true } }) =
      { s with cells := setV s.cells c { s.cells[c] with nest := some { n with stopped := true } } } := by
    show ({ s with cells := setV s.cells c { s.cells[c] with nest := s.cells[c].nest.map fun n => { n with stopped := true } } } : State) = _
    rw [h]
    rfl
  exact congrArg (State.cellFault · c 0) stopped

/-- Records read to their ends change marks and rings alone. -/
theorem CellS.afterReads_eq (k : CellS) (f : Bytes) (a : StartArgs) (pos : Nat) : ∃ m r p, k.afterReads f a pos = { k with marks := m, ringHeld := r, ringPos := p } :=
  ⟨_, _, _, rfl⟩

/-- A spoiled step sets the non-finite flag and puts an event before the host; the cells stay (R92, R283). -/
theorem State.reportSpoil_eq (s : State) (c : Fin 1024) (b : Bool) :
    ∃ x h, s.reportSpoil c b = { s with rt := { s.rt with nonfinite := x }, host := h } := by
  cases b with
  | false => exact ⟨s.rt.nonfinite, s.host, rfl⟩
  | true => exact ⟨_, _, rfl⟩

theorem State.reportSpoil_cells (s : State) (c : Fin 1024) (b : Bool) : (s.reportSpoil c b).cells = s.cells := by
  obtain ⟨x, h, eq⟩ := s.reportSpoil_eq c b
  rw [eq]

/-- What a step does to its own cell and its spoiled reads leaves the other cells and the rest alone. -/
theorem OnlyCell.upCell {s u : State} {c : Fin 1024} (h : OnlyCell s u c) (f : CellS → CellS) : OnlyCell s (u.upCell c f) c := by
  obtain ⟨eq, others⟩ := h
  refine ⟨?_, fun d hd => (u.upCell_ne c f d hd).trans (others d hd)⟩
  rw [eq]
  rfl

theorem OnlyCell.reportSpoil {s u : State} {c : Fin 1024} (h : OnlyCell s u c) (b : Bool) : OnlyCell s (u.reportSpoil c b) c := by
  obtain ⟨x, y, spoiled⟩ := u.reportSpoil_eq c b
  obtain ⟨eq, others⟩ := h
  rw [spoiled]
  refine ⟨?_, others⟩
  rw [eq]

/-- Cycles waited that are counted are the cell's own. -/
theorem State.whenWaited_onlyCell (s : State) (b : Bool) (c : Fin 1024) : OnlyCell s (s.when b fun s => s.addWait c) c := by
  obtain ⟨w, n, eq, -⟩ := s.whenWaited_eq b c
  rw [eq]
  exact ⟨rfl, s.upCell_ne c _⟩

theorem State.whenWaited_cell (s : State) (b : Bool) (c : Fin 1024) : ∃ w, (s.when b fun s => s.addWait c).cells[c] = { s.cells[c] with waitCycles := w } ∧
    (b = false → w = s.cells[c].waitCycles) ∧ (b = true → ∃ v : Word, w = satAdd s.cells[c].waitCycles v.toNat) := by
  obtain ⟨w, n, eq, counted⟩ := s.whenWaited_eq b c
  rw [eq]
  exact ⟨w, s.upCell_at c _, counted⟩

/-! ### The product -/

/-- The running accumulators after product pos of a nest: the chunk that ends there is added to them (R100, R101). -/
def CellS.runAfter (k : CellS) (key : DrawKey) (n : Nest) : Vector Word 4096 :=
  let f := k.active.bytes
  let v := visitOf f n.pos
  let o := ordinalOf f n.pos
  let run := if kOf f n.pos = 0 && v = 0 then zeroAcc else k.acc
  if chunkEnds f (kOf f n.pos) then
    addChunk f key (n.args.m0 + tileM f o) (n.args.n0 + tileN f o) (chunkOrdinal f v (kOf f n.pos)) run
      (tileProduct f k.store (aWord f n.args n.pos) (bWord f n.args n.pos) k.chunk)
  else run

/-- The nest after its next product. -/
def CellS.nestAfter (k : CellS) (n : Nest) : Nest :=
  { n with
    pos := n.pos + 1
    stalled := false
    spoiled := if k.spoils k.active.bytes n.args n.pos then ordinalOf k.active.bytes n.pos :: n.spoiled else n.spoiled }

/-- The chunk after the next product: it begins anew where one ends. -/
def CellS.chunkAfter (k : CellS) (n : Nest) : Vector Word 4096 :=
  let f := k.active.bytes
  if chunkEnds f (kOf f n.pos) then zeroAcc else tileProduct f k.store (aWord f n.args n.pos) (bWord f n.args n.pos) k.chunk

/-- The output of the next product where it is the last of its visit (R101, R103). -/
def CellS.visitTile (k : CellS) (key : DrawKey) (n : Nest) : OutTile :=
  drainTile k.active.bytes key (k.nestAfter n) (visitOf k.active.bytes n.pos) (ordinalOf k.active.bytes n.pos) k.setNow (k.runAfter key n)

theorem CellS.withAcc_eq (k : CellS) (a : Vector Word 4096) (st : SetState) : k.withAcc a st = { k with
    acc0 := if k.setNow then k.acc0 else a, acc1 := if k.setNow then a else k.acc1
    set0 := if k.setNow then k.set0 else st, set1 := if k.setNow then st else k.set1 } := by
  unfold CellS.withAcc
  cases k.setNow <;> rfl

/-- A set that is written again is handed to the drain with what was written. -/
theorem CellS.withAcc_drained (k : CellS) (a ch : Vector Word 4096) (n : Option Nest) :
    ({ k.withAcc a .ready with chunk := ch, nest := n } : CellS).withAcc a .draining = { k with
      acc0 := if k.setNow then k.acc0 else a, acc1 := if k.setNow then a else k.acc1
      set0 := if k.setNow then k.set0 else .draining, set1 := if k.setNow then .draining else k.set1, chunk := ch, nest := n } := by
  unfold CellS.withAcc
  cases k.setNow <;> rfl

/-- A product inside a visit accumulates into the set in use, which is ready for the next one. -/
theorem CellS.product_inside (k : CellS) (key : DrawKey) (n : Nest) (h : kOf k.active.bytes n.pos + 1 ≠ kTiles k.active.bytes) :
    ∃ m r p, k.product key n n.pos = { k with
      marks := m, ringHeld := r, ringPos := p, chunk := k.chunkAfter n, nest := some (k.nestAfter n)
      acc0 := if k.setNow then k.acc0 else k.runAfter key n, acc1 := if k.setNow then k.runAfter key n else k.acc1
      set0 := if k.setNow then k.set0 else .ready, set1 := if k.setNow then .ready else k.set1 } := by
  refine ⟨(k.afterReads k.active.bytes n.args n.pos).marks, (k.afterReads k.active.bytes n.args n.pos).ringHeld, (k.afterReads k.active.bytes n.args n.pos).ringPos,
    (if_neg h).trans ?_⟩
  rw [CellS.withAcc_eq]
  rfl

/-- The last product of a visit hands the set in use to the drain with the tile of the visit. -/
theorem CellS.product_last (k : CellS) (key : DrawKey) (n : Nest) (h : kOf k.active.bytes n.pos + 1 = kTiles k.active.bytes) :
    ∃ m r p, k.product key n n.pos = { k with
      marks := m, ringHeld := r, ringPos := p, chunk := k.chunkAfter n, nest := some (k.nestAfter n)
      acc0 := if k.setNow then k.acc0 else k.runAfter key n, acc1 := if k.setNow then k.runAfter key n else k.acc1
      set0 := if k.setNow then k.set0 else .draining, set1 := if k.setNow then .draining else k.set1
      outs := k.outs ++ [k.visitTile key n], setNow := !k.setNow } := by
  refine ⟨(k.afterReads k.active.bytes n.args n.pos).marks, (k.afterReads k.active.bytes n.args n.pos).ringHeld, (k.afterReads k.active.bytes n.args n.pos).ringPos,
    (if_pos h).trans ?_⟩
  rw [CellS.withAcc_drained, CellS.withAcc_eq]
  rfl

/-- Of two sets of which one is in use, that one holds the new value and the other what it held. -/
theorem inUse_split {α β : Type} {b : Bool} {x0 x1 y0 y1 r : α} {u0 u1 v0 v1 st : β} (h0 : x0 = if b then y0 else r) (h1 : x1 = if b then r else y1)
    (g0 : u0 = if b then v0 else st) (g1 : u1 = if b then st else v1) :
    if b then x1 = r ∧ x0 = y0 ∧ u0 = v0 else x0 = r ∧ x1 = y1 ∧ u1 = v1 := by
  cases b
  · exact ⟨h0, h1, g1⟩
  · exact ⟨h1, h0, g0⟩

theorem inUse_of {β : Type} (b : Bool) (v0 v1 st : β) : (if b then (if b then st else v1) else (if b then v0 else st)) = st := by
  cases b <;> rfl

/-- The cell after the next product, inside a visit or at its end. -/
theorem CellS.product_eq (k : CellS) (w : Word) (key : DrawKey) (n : Nest) : ∃ m r p st, ({ k with waitCycles := w } : CellS).product key n n.pos = { k with
      waitCycles := w, marks := m, ringHeld := r, ringPos := p, chunk := k.chunkAfter n, nest := some (k.nestAfter n)
      acc0 := if k.setNow then k.acc0 else k.runAfter key n, acc1 := if k.setNow then k.runAfter key n else k.acc1
      set0 := if k.setNow then k.set0 else st, set1 := if k.setNow then st else k.set1
      outs := if kOf k.active.bytes n.pos + 1 = kTiles k.active.bytes then k.outs ++ [k.visitTile key n] else k.outs
      setNow := if kOf k.active.bytes n.pos + 1 = kTiles k.active.bytes then !k.setNow else k.setNow } ∧
    st = if kOf k.active.bytes n.pos + 1 = kTiles k.active.bytes then .draining else .ready := by
  by_cases h : kOf k.active.bytes n.pos + 1 = kTiles k.active.bytes
  · obtain ⟨m, r, p, eq⟩ := CellS.product_last { k with waitCycles := w } key n h
    refine ⟨m, r, p, .draining, ?_, (if_pos h).symm⟩
    rw [if_pos h, if_pos h]
    exact eq
  · obtain ⟨m, r, p, eq⟩ := CellS.product_inside { k with waitCycles := w } key n h
    refine ⟨m, r, p, .ready, ?_, (if_neg h).symm⟩
    rw [if_neg h, if_neg h]
    exact eq

/-! ### The obligation -/

/-- What MATRIX_TILE_PRODUCT does with a nest that runs and has products left. -/
theorem execMatrixTileProduct_eq {s : State} {c : Fin 1024} {n : Nest} (hrun : s.cells[c].running 0 = some n)
    (hdone : nestDone s.cells[c].active.bytes n = false) : exec (.matrixTileProduct c) s = .next
      (if operandsInside s.cells[c].active.bytes n.args n.pos = false then s.nestFault c
      else if (stepReads s.cells[c].active.bytes n.args n.pos).all s.cells[c].present = false then s.nestWaits c
      else if kOf s.cells[c].active.bytes n.pos = 0 ∧ s.cells[c].setFree (visitOf s.cells[c].active.bytes n.pos) = false then
        s.upCell c fun k => k.upNest fun n => { n with stalled := true }
      else ((s.when n.stalled fun s => s.addWait c).upCell c fun k => k.product (s.keyOf n s.cells[c].active.bytes) n n.pos).reportSpoil c
        (s.cells[c].spoils s.cells[c].active.bytes n.args n.pos)) := by
  change execMatrixTileProduct c s = _
  unfold execMatrixTileProduct
  rw [hrun]
  dsimp only
  rw [hdone]
  simp only [Bool.not_eq_true', Bool.and_eq_true, decide_eq_true_eq, apply_ite Host.Outcome.next, Bool.false_eq_true, if_false]

/-- Settles O18: a product that may go accumulates and, at the end of its visit, hands over its set; one that may not waits, stalls or stops. -/
theorem matrixProductAdvancesItsNest : Obligations.MatrixProductAdvancesItsNest := by
  refine ⟨fun c n s hrun hdone hin hpres hfree => ?_, fun c n s hrun hdone hin hpres => ?_, fun c n s hrun hdone hin hpres hk hfree => ?_,
    fun c n s hrun hdone hin => ?_⟩
  all_goals
    have run := execMatrixTileProduct_eq hrun hdone
    obtain ⟨hnest, -⟩ := CellS.running_some hrun
  · rw [if_neg (ne_false_of_eq_true hin), if_neg (ne_false_of_eq_true hpres), if_neg fun h => ne_false_of_eq_true (hfree h.1) h.2] at run
    obtain ⟨w, waitedCell, hnone, hsome⟩ := s.whenWaited_cell n.stalled c
    have alone := ((s.whenWaited_onlyCell n.stalled c).upCell fun k => k.product (s.keyOf n s.cells[c].active.bytes) n n.pos).reportSpoil
      (s.cells[c].spoils s.cells[c].active.bytes n.args n.pos)
    have cell := (congrArg (fun v : Vector CellS 1024 => v[c]) (State.reportSpoil_cells _ c (s.cells[c].spoils s.cells[c].active.bytes n.args n.pos))).trans
      ((State.upCell_at (s.when n.stalled fun s => s.addWait c) c fun k => k.product (s.keyOf n s.cells[c].active.bytes) n n.pos).trans
        (congrArg (fun k : CellS => k.product (s.keyOf n s.cells[c].active.bytes) n n.pos) waitedCell))
    dsimp only at cell
    generalize State.reportSpoil _ c _ = t at run cell alone
    intro k f v o sum ends before after
    refine ⟨t, run, ?_⟩
    obtain ⟨a, b, d, st, took, hst⟩ := k.product_eq w (s.keyOf n f) n
    rw [took] at cell
    have nest := congrArg CellS.nest cell
    have waited := congrArg CellS.waitCycles cell
    have chunk := congrArg CellS.chunk cell
    have outs := congrArg CellS.outs cell
    have setNow := congrArg CellS.setNow cell
    have store := congrArg CellS.store cell
    have set0 := congrArg CellS.set0 cell
    have set1 := congrArg CellS.set1 cell
    have acc0 := congrArg CellS.acc0 cell
    have acc1 := congrArg CellS.acc1 cell
    have inUse : (if k.setNow then t.cells[c].set1 else t.cells[c].set0) = st := by
      rw [set0, set1]
      exact inUse_of k.setNow _ _ _
    refine ⟨⟨k.nestAfter n, nest, rfl, rfl, rfl, fun hs => waited.trans (hnone hs),
      fun hs => (hsome hs).imp fun v hv => waited.trans hv, rfl, fun h => outs.trans (if_pos h)⟩,
      chunk, inUse_split acc0 acc1 set0 set1, fun h => ⟨setNow.trans (if_pos h), inUse.trans (hst.trans (if_pos h))⟩,
      fun h => ⟨setNow.trans (if_neg h), outs.trans (if_neg h), inUse.trans (hst.trans (if_neg h))⟩, store, alone⟩
  · rw [if_neg (ne_false_of_eq_true hin), if_pos hpres] at run
    exact ⟨_, run, State.nestWaits_waits hnest⟩
  · rw [if_neg (ne_false_of_eq_true hin), if_neg (ne_false_of_eq_true hpres), if_pos ⟨hk, hfree⟩] at run
    refine ⟨_, run, (s.upCell_at c _).trans ?_, s.upCell_onlyCell c _⟩
    unfold CellS.upNest
    rw [hnest]
    rfl
  · rw [if_pos hin] at run
    exact ⟨_, run, State.nestFault_stops hnest⟩

end Sys2Proof.Machine
end

section
/-! PROOFS. Lane and transform tiles advance their nests (R129 to R138, R195, R197, R206). -/
namespace Sys2Proof.Machine

/-! ### A lane step that may be taken -/

theorem State.laneStep_ready {s : State} {c : Fin 1024} {p : Nat} {n : Nest} (h : LaneReady s c p n) (k : State) : s.laneStep c n k = k := by
  obtain ⟨-, hdone, hent, hin, hpres⟩ := h
  unfold State.laneStep
  dsimp only
  rw [hdone, hent, hin, hpres]
  rfl

/-- The nest of a cell after a lane step. -/
def CellS.stepNest (k : CellS) (f : Bytes) (n : Nest) : Nest :=
  { n with pos := n.pos + 1, spoiled := if k.spoils f n.args n.pos then feeds f n.pos ++ n.spoiled else n.spoiled }

theorem CellS.stepped_nest (k : CellS) (f : Bytes) (n : Nest) (g : Nest → Nest) : (k.stepped f n g).nest = some (g (k.stepNest f n)) := rfl
theorem CellS.stepped_outs (k : CellS) (f : Bytes) (n : Nest) (g : Nest → Nest) : (k.stepped f n g).outs = k.outs := rfl
theorem CellS.stepped_store (k : CellS) (f : Bytes) (n : Nest) (g : Nest → Nest) : (k.stepped f n g).store = k.store := rfl

/-- A step that ends with one change of its cell, and is spoiled where its reads are. -/
theorem State.upCell_spoil_cell (s : State) (c : Fin 1024) (f : CellS → CellS) (b : Bool) :
    ((s.upCell c f).reportSpoil c b).cells[c] = f s.cells[c] ∧ OnlyCell s ((s.upCell c f).reportSpoil c b) c :=
  ⟨(congrArg (fun v : Vector CellS 1024 => v[c]) (State.reportSpoil_cells _ c b)).trans (s.upCell_at c f), (s.upCell_onlyCell c f).reportSpoil b⟩

/-- A lane step puts out one tile of the data area or of the queue (R129). -/
theorem State.laneOut_puts {s : State} {c : Fin 1024} {n : Nest} {o : Nat} {rows : List RowOut}
    (hin : destInside s.cells[c].active.bytes (tileM s.cells[c].active.bytes o) (tileN s.cells[c].active.bytes o) (recordOf rows) = true) (g : Nest → Nest) :
    (s.laneOut c n o rows g).cells[c].nest = some (g (s.cells[c].stepNest s.cells[c].active.bytes n)) ∧
      (∃ x, (s.laneOut c n o rows g).cells[c].outs = s.cells[c].outs ++ [x] ∧ x.data = recordOf rows) ∧
      (s.laneOut c n o rows g).cells[c].store = s.cells[c].store ∧ OnlyCell s (s.laneOut c n o rows g) c := by
  have run : s.laneOut c n o rows g = (s.upCell c fun k => (k.stepped s.cells[c].active.bytes n g).push
      (outTile s.cells[c].active.bytes (g (k.stepNest s.cells[c].active.bytes n)) o rows)).reportSpoil c
        (s.cells[c].spoils s.cells[c].active.bytes n.args n.pos) := by
    unfold State.laneOut
    dsimp only
    rw [hin]
    rfl
  obtain ⟨cell, alone⟩ := s.upCell_spoil_cell c (fun k => (k.stepped s.cells[c].active.bytes n g).push
    (outTile s.cells[c].active.bytes (g (k.stepNest s.cells[c].active.bytes n)) o rows)) (s.cells[c].spoils s.cells[c].active.bytes n.args n.pos)
  rw [run]
  generalize State.reportSpoil _ c _ = t at cell alone
  rw [cell]
  exact ⟨rfl, ⟨_, rfl, rfl⟩, rfl, alone⟩

/-! ### Index lists -/

theorem CellS.foldl_keeps {α β : Type} (g : CellS → β) (f : CellS → α → CellS) (h : ∀ k a, g (f k a) = g k) (l : List α) (k : CellS) :
    g (l.foldl f k) = g k := by
  induction l generalizing k with
  | nil => rfl
  | cons a l ih => rw [List.foldl_cons, ih, h]

theorem CellS.clearList_outs (k : CellS) (f : Bytes) (l : Nat) : (k.clearList f l).outs = k.outs := by
  simp only [CellS.clearList]

theorem CellS.appendRow_outs (k : CellS) (f : Bytes) (l row : Nat) : (k.appendRow f l row).outs = k.outs := by
  unfold CellS.appendRow
  dsimp only
  split <;> rfl

/-- The lists that an INDEX nest writes are words of the cell store: its outputs stay. -/
theorem CellS.indexTile_outs (k : CellS) (f : Bytes) (n : Nest) : (k.indexTile f n).outs = k.outs := by
  unfold CellS.indexTile
  generalize List.range 64 = positions
  refine (CellS.foldl_keeps CellS.outs _ (fun k l => CellS.foldl_keeps CellS.outs _ (fun k r => ?row) _ k) _ _).trans ?start
  case row =>
    split
    · exact k.appendRow_outs ..
    · rfl
  case start =>
    split
    · exact CellS.foldl_keeps CellS.outs _ (fun k l => k.clearList_outs f l) _ k
    · rfl

/-- A mask written into the data area is marked; the nest and the outputs of the cell stay (R138). -/
theorem State.putMarked_cell (u : State) (c : Fin 1024) (w : Nat) (bs : Bytes) :
    (u.upCell c fun k => (k.put w bs).setMark w 8 false).cells[c].nest = u.cells[c].nest ∧
      (u.upCell c fun k => (k.put w bs).setMark w 8 false).cells[c].outs = u.cells[c].outs ∧
      (u.upCell c fun k => (k.put w bs).setMark w 8 false).cells[c].store = u.cells[c].store.writeN (64 * w) bs := by
  rw [u.upCell_at]
  simp only [CellS.put, CellS.setMark, and_self]

/-! ### The obligation -/

/-- A lane nest whose step puts out one tile, and whose nest changes in nothing but what a step changes, goes on by one input tile. -/
theorem State.laneOut_goes {s : State} {c : Fin 1024} {n : Nest} {rows : List RowOut} {i : Sys2Proof.Instr} (run : exec i s = .next (s.laneOut c n n.pos rows id))
    (hin : destInside s.cells[c].active.bytes (tileM s.cells[c].active.bytes n.pos) (tileN s.cells[c].active.bytes n.pos) (recordOf rows) = true) :
    ∃ t, exec i s = .next t ∧ (∃ n', t.cells[c].nest = some n' ∧ n'.pos = n.pos + 1) ∧
      (∃ o, t.cells[c].outs = s.cells[c].outs ++ [o] ∧ o.data = recordOf rows) ∧ t.cells[c].store = s.cells[c].store ∧ OnlyCell s t c := by
  obtain ⟨nest, outs, store, alone⟩ := State.laneOut_puts hin id
  exact ⟨_, run, ⟨_, nest, rfl⟩, outs, store, alone⟩

/-- A vector tile puts out one tile (R129). -/
theorem vectorTile_goes {c : Fin 1024} {n : Nest} {s : State} (h : LaneReady s c 1 n) (hv : vMode s.cells[c].active.bytes = 0) :
    exec (.vectorTile c) s = .next (s.laneOut c n n.pos (withFlags (laneRows s.cells[c].active.bytes (s.keyOf n s.cells[c].active.bytes) n n.pos
      (s.cells[c].vecTile s.cells[c].active.bytes n)) (nonfiniteIf (s.cells[c].recsNonfinite s.cells[c].active.bytes n))) id) := by
  change execVectorTile c s = _
  unfold execVectorTile
  rw [h.1]
  dsimp only
  rw [if_neg (not_not_intro hv), State.laneStep_ready h]

/-- A reduce nest that is no ADDT folds its tile, and ends its row block with the last tile of the row (R138). -/
theorem execReduceInputTile_fold {c : Fin 1024} {n : Nest} {s : State} (h : LaneReady s c 2 n) (ha : isAddt s.cells[c].active.bytes = false) :
    exec (.reduceInputTile c) s = .next
      (if n.pos % rowTiles s.cells[c].active.bytes + 1 < rowTiles s.cells[c].active.bytes then
        (s.upCell c fun k => k.stepped s.cells[c].active.bytes n fun m => { m with rows := s.cells[c].foldTile s.cells[c].active.bytes n }).reportSpoil c
          (s.cells[c].spoils s.cells[c].active.bytes n.args n.pos)
      else if decide (redop s.cells[c].active.bytes = 9) &&
          !wordsInside (topMaskWord s.cells[c].active.bytes (tileM s.cells[c].active.bytes (ordinalOf s.cells[c].active.bytes n.pos))) 8 then s.nestFault c
      else (s.laneOut c n (ordinalOf s.cells[c].active.bytes n.pos) (s.cells[c].blockRows s.cells[c].active.bytes n
          (s.cells[c].foldTile s.cells[c].active.bytes n)) fun m => { m with rows := [] }).when (decide (redop s.cells[c].active.bytes = 9)) fun s' =>
        s'.upCell c fun k => (k.put (topMaskWord s.cells[c].active.bytes (tileM s.cells[c].active.bytes (ordinalOf s.cells[c].active.bytes n.pos)))
          (topMask (topkK s.cells[c].active.bytes) (s.cells[c].foldTile s.cells[c].active.bytes n))).setMark
            (topMaskWord s.cells[c].active.bytes (tileM s.cells[c].active.bytes (ordinalOf s.cells[c].active.bytes n.pos))) 8 false) := by
  change execReduceInputTile c s = _
  unfold execReduceInputTile
  rw [h.1]
  dsimp only
  rw [State.laneStep_ready h, ha]
  rfl

/-- The tiles of the group that a transform nest has read with its next one. -/
def State.groupTiles (s : State) (c : Fin 1024) (n : Nest) : List (List Word) := n.ins ++ [s.cells[c].rotateIn s.cells[c].active.bytes n]

/-- The outputs of that group, rotated, and the nest with what it has counted of them (R195, R197, R206). -/
def State.rotated (s : State) (c : Fin 1024) (n : Nest) : List OutTile × Nest :=
  let f := s.cells[c].active.bytes
  let o := n.pos + 1 - (s.groupTiles c n).length
  rotateOuts f (s.keyOf n f) (s.hEff n f) { n with spoiled := if s.cells[c].spoils f n.args n.pos then feeds f n.pos ++ n.spoiled else n.spoiled } o
    (rotateTiles f (n.args.n0 + tileN f o) (s.groupTiles c n))

/-- The cell after a transform step that puts out a group: its nest goes on with what was counted, and an empty group. -/
def CellS.steppedOut (k : CellS) (f : Bytes) (n : Nest) (out : List OutTile × Nest) : CellS :=
  { k.stepped f n fun m => { out.2 with pos := m.pos, spoiled := m.spoiled, ins := [] } with outs := k.outs ++ out.1 }

theorem CellS.steppedOut_parts (k : CellS) (f : Bytes) (n : Nest) (out : List OutTile × Nest) :
    (k.steppedOut f n out).nest = some { out.2 with pos := n.pos + 1, spoiled := (k.stepNest f n).spoiled, ins := [] } ∧
      (k.steppedOut f n out).outs = k.outs ++ out.1 ∧ (k.steppedOut f n out).store = k.store := ⟨rfl, rfl, rfl⟩

/-- A transform nest keeps the tiles of an open group of block 256, and puts out the rotated tiles of a group that is whole (R195). -/
theorem execTransformTile_group {c : Fin 1024} {n : Nest} {s : State} (h : LaneReady s c 3 n) (hm : tMac s.cells[c].active.bytes = false) :
    exec (.transformTile c) s = .next
      (if rotCode s.cells[c].active.bytes = 2 ∧ (s.groupTiles c n).length < 4 then
        (s.upCell c fun k => k.stepped s.cells[c].active.bytes n fun m => { m with ins := s.groupTiles c n }).reportSpoil c
          (s.cells[c].spoils s.cells[c].active.bytes n.args n.pos)
      else if !groupInside s.cells[c].active.bytes (s.rotated c n).1 (n.pos + 1 - (s.groupTiles c n).length) then s.nestFault c
      else (s.upCell c fun k => k.steppedOut s.cells[c].active.bytes n (s.rotated c n)).reportSpoil c (s.cells[c].spoils s.cells[c].active.bytes n.args n.pos)) := by
  change execTransformTile c s = _
  unfold execTransformTile
  rw [h.1]
  dsimp only
  rw [State.laneStep_ready h, hm]
  simp only [Bool.and_eq_true, decide_eq_true_eq]
  rfl

/-- Settles O20: a lane nest that may take its step goes on by one input tile, with the outputs of its personality. -/
theorem laneTilesAdvanceTheirNests : Obligations.LaneTilesAdvanceTheirNests := by
  refine ⟨⟨fun c n s h hv hin => ?vector, fun c n s h hin => ?table, fun c n s h hv hheads hlast => ?index⟩,
    ⟨fun c n s h ha hin => ?addt, fun c n s h ha hrow => ?fold, fun c n s h ha hrow hin htop => ?block⟩,
    fun c n s h hm hr hl => ?keep, fun c n s h hm hr hin => ?rotate, fun c n s h hm hmac hin => ?mac⟩
  case vector => exact State.laneOut_goes (vectorTile_goes h hv) hin
  case table =>
    refine State.laneOut_goes ?_ hin
    change execTableTile c s = _
    unfold execTableTile
    rw [h.1]
    dsimp only
    rw [State.laneStep_ready h]
  case index =>
    have run : exec (.indexMaskTile c) s = .next ((s.upCell c fun k => (k.indexTile s.cells[c].active.bytes n).stepped s.cells[c].active.bytes n id).reportSpoil c
        (s.cells[c].spoils s.cells[c].active.bytes n.args n.pos)) := by
      change execIndexMaskTile c s = _
      unfold execIndexMaskTile
      rw [h.1]
      dsimp only
      rw [if_neg (not_not_intro hv), hheads, State.laneStep_ready h, hlast]
      rfl
    obtain ⟨cell, alone⟩ := s.upCell_spoil_cell c (fun k => (k.indexTile s.cells[c].active.bytes n).stepped s.cells[c].active.bytes n id)
      (s.cells[c].spoils s.cells[c].active.bytes n.args n.pos)
    generalize State.reportSpoil _ c _ = t at run cell alone
    refine ⟨t, run, ⟨_, congrArg CellS.nest cell, rfl⟩, ?_, ?_, alone⟩
    · rw [cell, CellS.stepped_store]
    · rw [cell, CellS.stepped_outs, CellS.indexTile_outs]
  case addt =>
    refine State.laneOut_goes ?_ hin
    change execReduceInputTile c s = _
    unfold execReduceInputTile
    rw [h.1]
    dsimp only
    rw [State.laneStep_ready h, if_pos ha]
  case fold =>
    have run : exec (.reduceInputTile c) s = .next ((s.upCell c fun k => k.stepped s.cells[c].active.bytes n fun m =>
        { m with rows := s.cells[c].foldTile s.cells[c].active.bytes n }).reportSpoil c (s.cells[c].spoils s.cells[c].active.bytes n.args n.pos)) := by
      rw [execReduceInputTile_fold h ha, if_pos hrow]
    obtain ⟨cell, alone⟩ := s.upCell_spoil_cell c (fun k => k.stepped s.cells[c].active.bytes n fun m =>
      { m with rows := s.cells[c].foldTile s.cells[c].active.bytes n }) (s.cells[c].spoils s.cells[c].active.bytes n.args n.pos)
    generalize State.reportSpoil _ c _ = t at run cell alone
    refine ⟨t, run, ⟨_, congrArg CellS.nest cell, rfl, rfl⟩, ?_, ?_, alone⟩
    all_goals rw [cell]
    · exact CellS.stepped_outs ..
    · exact CellS.stepped_store ..
  case block =>
    have run := execReduceInputTile_fold h ha
    rw [if_neg (Nat.not_lt.mpr hrow)] at run
    obtain ⟨nest, outs, store, alone⟩ := State.laneOut_puts hin fun m => { m with rows := [] }
    generalize State.laneOut s c n _ _ _ = u at run nest outs store alone
    by_cases hop : redop s.cells[c].active.bytes = 9
    · rw [hop, htop hop] at run
      obtain ⟨nest', outs', store'⟩ := u.putMarked_cell c (topMaskWord s.cells[c].active.bytes (tileM s.cells[c].active.bytes
        (ordinalOf s.cells[c].active.bytes n.pos))) (topMask (topkK s.cells[c].active.bytes) (s.cells[c].foldTile s.cells[c].active.bytes n))
      obtain ⟨x, put, data⟩ := outs
      refine ⟨_, run, ⟨_, nest'.trans nest, rfl, rfl⟩, ⟨x, outs'.trans put, data⟩, ?_, alone.upCell _⟩
      refine store'.trans ?_
      rw [if_pos hop, store]
    · rw [decide_eq_false hop] at run
      exact ⟨u, run, ⟨_, nest, rfl, rfl⟩, outs, store.trans (if_neg hop).symm, alone⟩
  case keep =>
    have run := execTransformTile_group h hm
    have still : (s.groupTiles c n).length < 4 := by
      rw [State.groupTiles, List.length_append, List.length_singleton]
      omega
    rw [if_pos ⟨hr, still⟩] at run
    obtain ⟨cell, alone⟩ := s.upCell_spoil_cell c (fun k => k.stepped s.cells[c].active.bytes n fun m =>
      { m with ins := s.groupTiles c n }) (s.cells[c].spoils s.cells[c].active.bytes n.args n.pos)
    generalize State.reportSpoil _ c _ = t at run cell alone
    refine ⟨t, run, ⟨_, congrArg CellS.nest cell, rfl, rfl⟩, ?_, ?_, alone⟩
    all_goals rw [cell]
    · exact CellS.stepped_outs ..
    · exact CellS.stepped_store ..
  case rotate =>
    have run := execTransformTile_group h hm
    have whole : ¬ (rotCode s.cells[c].active.bytes = 2 ∧ (s.groupTiles c n).length < 4) := fun ⟨h2, hlen⟩ => by
      rw [State.groupTiles, List.length_append, List.length_singleton] at hlen
      have := hr h2
      omega
    change groupInside s.cells[c].active.bytes (s.rotated c n).1 (n.pos + 1 - (s.groupTiles c n).length) = true at hin
    rw [if_neg whole, hin] at run
    obtain ⟨cell, alone⟩ := s.upCell_spoil_cell c (fun k => k.steppedOut s.cells[c].active.bytes n (s.rotated c n))
      (s.cells[c].spoils s.cells[c].active.bytes n.args n.pos)
    replace run := run.trans (congrArg Host.Outcome.next (if_neg Bool.false_ne_true))
    generalize State.reportSpoil _ c _ = t at run cell alone
    obtain ⟨nest, outs, store⟩ := s.cells[c].steppedOut_parts s.cells[c].active.bytes n (s.rotated c n)
    exact ⟨t, run, ⟨_, cell ▸ nest, rfl, rfl⟩, cell ▸ outs, cell ▸ store, alone⟩
  case mac =>
    refine State.laneOut_goes ?_ hin
    change execOutlierMacTile c s = _
    unfold execOutlierMacTile
    rw [h.1]
    dsimp only
    rw [hm, hmac, State.laneStep_ready h]
    simp

end Sys2Proof.Machine
end

section
/-! PROOFS. Index list groups run in list order (R131 to R133). -/
namespace Sys2Proof.Machine

/-! ### What is read to its end -/

/-- Between two states of a cell only the marks and the places of its rings differ. -/
def CellS.MarksOnly (k k' : CellS) : Prop := ∃ m r p, k' = { k with marks := m, ringHeld := r, ringPos := p }

theorem CellS.MarksOnly.refl (k : CellS) : k.MarksOnly k := ⟨_, _, _, rfl⟩
theorem CellS.MarksOnly.trans {k l m : CellS} (h : k.MarksOnly l) (h' : l.MarksOnly m) : k.MarksOnly m := by
  obtain ⟨a, b, c, rfl⟩ := h
  obtain ⟨a', b', c', rfl⟩ := h'
  exact ⟨a', b', c', rfl⟩

theorem CellS.readRecords_marksOnly (k : CellS) (ws : List Nat) : k.MarksOnly (k.readRecords ws) := ⟨_, _, _, rfl⟩
theorem CellS.leaveRings_marksOnly (k : CellS) (l : List (Nat × Nat)) : k.MarksOnly (k.leaveRings l) := ⟨_, _, _, rfl⟩
theorem CellS.rowsRead_marksOnly (k : CellS) (f : Bytes) (i : Nat) (n : Nest) (rows : List Nat) (ends : Bool) : k.MarksOnly (k.rowsRead f i n rows ends).1 := by
  unfold CellS.rowsRead
  split
  · exact .refl k
  · exact k.leaveRings_marksOnly _

theorem CellS.readThenLeave_marksOnly (k : CellS) (ws : List Nat) (b : Bool) (l : List (Nat × Nat)) :
    k.MarksOnly (if b then (k.readRecords ws).leaveRings l else k.readRecords ws) := by
  cases b
  · exact k.readRecords_marksOnly ws
  · exact (k.readRecords_marksOnly ws).trans ((k.readRecords ws).leaveRings_marksOnly l)

theorem CellS.MarksOnly.store {k k' : CellS} (h : k.MarksOnly k') : k'.store = k.store := by
  obtain ⟨_, _, _, rfl⟩ := h
  rfl
theorem CellS.MarksOnly.outs {k k' : CellS} (h : k.MarksOnly k') : k'.outs = k.outs := by
  obtain ⟨_, _, _, rfl⟩ := h
  rfl

/-! ### COMPRESS -/

/-- The cell after a group of COMPRESS, with what packGroup gave. -/
def CellS.compressed (k : CellS) (n : Nest) (r : Nest × Option (List RowOut)) : CellS :=
  let f := k.active.bytes
  let after := (k.readRecords (k.compressLast f n)).rowsRead f 0 n (k.groupRows f n) (nestDone f r.1)
  { after.1 with nest := some { r.1 with ringTile := after.2.ringTile }, outs := after.1.outs ++ (r.2.map (packTile f n n.tileNo)).toList }

theorem CellS.compressed_parts (k : CellS) (n : Nest) (r : Nest × Option (List RowOut)) :
    (k.compressed n r).store = k.store ∧ (k.compressed n r).outs = k.outs ++ (r.2.map (packTile k.active.bytes n n.tileNo)).toList ∧
      ∃ x, (k.compressed n r).nest = some { r.1 with ringTile := x } := by
  have kept : k.MarksOnly ((k.readRecords (k.compressLast k.active.bytes n)).rowsRead k.active.bytes 0 n (k.groupRows k.active.bytes n)
      (nestDone k.active.bytes r.1)).1 := (k.readRecords_marksOnly _).trans (CellS.rowsRead_marksOnly ..)
  exact ⟨kept.store, congrArg (· ++ _) kept.outs, _, rfl⟩

theorem packGroup_pos (f : Bytes) (n : Nest) (rows : List RowOut) (ends : Bool) : (packGroup f n rows ends).1.pos = n.pos + 1 := by
  unfold packGroup
  dsimp only
  cases ends <;> split <;> rfl

/-! ### EXPAND -/

theorem CellS.expandRow_outs (k : CellS) (f : Bytes) (key : DrawKey) (n : Nest) (x : Entry) : (k.expandRow f key n x).outs = k.outs := by
  unfold CellS.expandRow
  repeat' split
  all_goals simp only [CellS.putRow]

theorem CellS.expandMarks_marksOnly (k : CellS) (f : Bytes) (n : Nest) : k.MarksOnly (k.expandMarks f n) := by
  unfold CellS.expandMarks
  generalize List.filter _ _ = l
  induction l generalizing k with
  | nil => exact .refl k
  | cons w l ih => exact CellS.MarksOnly.trans ⟨_, _, _, rfl⟩ (ih (k.setMark w _ false))

/-- The cell after its live entries of EXPAND are written, with the words that no later entry reads. -/
def CellS.expandedRows (k : CellS) (key : DrawKey) (n : Nest) (ends : Bool) : CellS :=
  let f := k.active.bytes
  let tileEnds := !(k.expandGroup f n).isEmpty && (ends || decide ((n.entryNo + (k.expandGroup f n).length) % 64 = 0))
  let src := k.packedWord f n n.listNo n.entryNo
  let k2 := ((k.liveEntries f n).foldl (fun k x => k.expandRow f key n x) k).readRecords
    (k.weightLast f n ++ if tileEnds && !sRing f 0 && !k.packedRepeats f then [src] else [])
  if tileEnds && sRing f 0 then k2.leaveRings [(0, src)] else k2

/-- The cell after a group of EXPAND. -/
def CellS.expanded (k : CellS) (key : DrawKey) (n : Nest) (ends : Bool) : CellS :=
  let f := k.active.bytes
  let n' := expandNext n (k.expandGroup f n).length ends
  let after := (k.expandedRows key n ends).rowsRead f 1 n (if sRead f 1 then liveRows f (k.expandGroup f n) else []) (nestDone f n')
  { (if nestDone f n' then after.1.expandMarks f n else after.1) with nest := some { n' with ringTile := after.2.ringTile } }

theorem CellS.expandedRows_marksOnly (k : CellS) (key : DrawKey) (n : Nest) (ends : Bool) :
    ((k.liveEntries k.active.bytes n).foldl (fun k' x => k'.expandRow k.active.bytes key n x) k).MarksOnly (k.expandedRows key n ends) := by
  unfold CellS.expandedRows
  exact CellS.readThenLeave_marksOnly ((k.liveEntries k.active.bytes n).foldl (fun k' x => k'.expandRow k.active.bytes key n x) k) ..

theorem CellS.expanded_parts (k : CellS) (key : DrawKey) (n : Nest) (ends : Bool) :
    (k.expanded key n ends).store = ((k.liveEntries k.active.bytes n).foldl (fun k' x => k'.expandRow k.active.bytes key n x) k).store ∧
      (k.expanded key n ends).outs = k.outs ∧
      ∃ x, (k.expanded key n ends).nest = some { expandNext n (k.expandGroup k.active.bytes n).length ends with ringTile := x } := by
  have marked : ∀ (j : CellS) (b : Bool), j.MarksOnly (if b then j.expandMarks k.active.bytes n else j) := fun j b => by
    cases b
    · exact .refl j
    · exact j.expandMarks_marksOnly ..
  have kept := ((k.expandedRows_marksOnly key n ends).trans ((k.expandedRows key n ends).rowsRead_marksOnly k.active.bytes 1 n
    (if sRead k.active.bytes 1 then liveRows k.active.bytes (k.expandGroup k.active.bytes n) else [])
    (nestDone k.active.bytes (expandNext n (k.expandGroup k.active.bytes n).length ends)))).trans
      (marked _ (nestDone k.active.bytes (expandNext n (k.expandGroup k.active.bytes n).length ends)))
  exact ⟨kept.store, kept.outs.trans (CellS.foldl_keeps CellS.outs _ (fun j x => j.expandRow_outs ..) _ k), _, rfl⟩

theorem expandNext_parts (n : Nest) (len : Nat) (ends : Bool) : (expandNext n len ends).pos = n.pos + 1 ∧
    (expandNext n len ends).listNo = (if ends then n.listNo + 1 else n.listNo) ∧ (expandNext n len ends).entryNo = (if ends then 0 else n.entryNo + len) := by
  cases ends <;> exact ⟨rfl, rfl, rfl⟩

/-! ### The obligation -/

section
variable {c : Fin 1024} {n : Nest} {s : State} {src : List (Nat × Nat)} {words : List Nat} {r : Nest × Option (List RowOut)}

/-- COMPRESS of a group that may run (R132). -/
theorem execCompressRows_group (hrun : s.cells[c].running 1 = some n) (hv : vMode s.cells[c].active.bytes = 2)
    (hdone : nestDone s.cells[c].active.bytes n = false) (hent : s.cells[c].entered = true) (hgroup : s.cells[c].groupInside s.cells[c].active.bytes n = true)
    (hwords : (s.cells[c].rowWords s.cells[c].active.bytes n 0 (s.cells[c].groupRows s.cells[c].active.bytes n)).1 = words)
    (hsrc : words.zip (s.cells[c].groupRows s.cells[c].active.bytes n) = src)
    (hrows : src.all (fun x => rowInside s.cells[c].active.bytes x.1 (x.2 % 64)) = true)
    (hpres : words.all s.cells[c].present = true) (hclean : words.any s.cells[c].poisoned = false)
    (hr : packGroup s.cells[c].active.bytes n (packRows s.cells[c].active.bytes (s.keyOf n s.cells[c].active.bytes) s.cells[c].store n src)
      (decide (n.entryNo + (s.cells[c].groupRows s.cells[c].active.bytes n).length ≥ s.cells[c].listLen s.cells[c].active.bytes n)) = r)
    (hin : ∀ rs : List RowOut, r.2 = some rs → destInside s.cells[c].active.bytes n.tileNo 0 (recordOf rs) = true) :
    exec (.compressRows c) s = .next ((s.upCell c fun _ => s.cells[c].compressed n r).reportSpoil c false) := by
  have may : ¬ (decide (vMode s.cells[c].active.bytes ≠ 2) || nestDone s.cells[c].active.bytes n || !s.cells[c].entered) = true := by
    rw [hdone, hent, decide_eq_false (not_not_intro hv)]
    decide
  change execCompressRows c s = _
  unfold execCompressRows
  rw [hrun]
  dsimp only
  rw [if_neg may, hgroup, hwords, hsrc, hrows, hpres, hclean]
  obtain ⟨m, out⟩ := r
  simp only [Bool.not_true, Bool.false_eq_true, if_false, hr]
  cases out with
  | none =>
    refine congrArg (fun k => Host.Outcome.next ((s.upCell c fun _ => k).reportSpoil c false)) ?_
    simp [CellS.compressed]
  | some rs =>
    refine (if_neg ?_).trans rfl
    show ¬ (!destInside s.cells[c].active.bytes n.tileNo 0 (recordOf rs)) = true
    rw [hin rs rfl]
    exact Bool.false_ne_true
end

/-- EXPAND of a group that may run (R133). -/
theorem execExpandRows_group {c : Fin 1024} {n : Nest} {s : State} (hrun : s.cells[c].running 1 = some n) (hv : 3 ≤ vMode s.cells[c].active.bytes)
    (hdone : nestDone s.cells[c].active.bytes n = false) (hgroup : s.cells[c].groupInside s.cells[c].active.bytes n = true)
    (hok : (s.cells[c].liveEntries s.cells[c].active.bytes n).all (entryOk s.cells[c].active.bytes n.args) = true)
    (hpres : (s.cells[c].expandNeeds s.cells[c].active.bytes n).all s.cells[c].present = true)
    (hclean : (s.cells[c].expandNeeds s.cells[c].active.bytes n).any s.cells[c].poisoned = false) :
    exec (.expandRows c) s = .next ((s.upCell c fun _ => s.cells[c].expanded (s.keyOf n s.cells[c].active.bytes) n
      (decide (n.entryNo + (s.cells[c].expandGroup s.cells[c].active.bytes n).length ≥ s.cells[c].listLen s.cells[c].active.bytes n))).reportSpoil c false) := by
  have may : ¬ (decide (vMode s.cells[c].active.bytes < 3) || nestDone s.cells[c].active.bytes n) = true := by
    rw [hdone, decide_eq_false (Nat.not_lt.mpr hv)]
    decide
  change execExpandRows c s = _
  unfold execExpandRows
  rw [hrun]
  dsimp only
  rw [if_neg may, hgroup, hok, hpres, hclean]
  rfl

/-- Settles O21: COMPRESS packs its rows and EXPAND writes them, group after group in list order. -/
theorem indexListGroupsInListOrder : Obligations.IndexListGroupsInListOrder := by
  refine ⟨fun c n s hrun hv hdone hent hgroup hrows hpres hclean hin => ?_, fun c n s hrun hv hdone hgroup hok hpres hclean => ?_⟩
  · have run := execCompressRows_group hrun hv hdone hent hgroup rfl rfl hrows hpres hclean rfl hin
    have packed := packGroup_pos s.cells[c].active.bytes n (packRows s.cells[c].active.bytes (s.keyOf n s.cells[c].active.bytes) s.cells[c].store n
      ((s.cells[c].rowWords s.cells[c].active.bytes n 0 (s.cells[c].groupRows s.cells[c].active.bytes n)).1.zip
        (s.cells[c].groupRows s.cells[c].active.bytes n)))
      (decide (n.entryNo + (s.cells[c].groupRows s.cells[c].active.bytes n).length ≥ s.cells[c].listLen s.cells[c].active.bytes n))
    generalize packGroup _ n _ _ = r at run packed ⊢
    obtain ⟨cell, alone⟩ := s.upCell_spoil_cell c (fun _ => s.cells[c].compressed n r) false
    generalize State.reportSpoil _ c _ = t at run cell alone
    obtain ⟨store, outs, x, nest⟩ := s.cells[c].compressed_parts n r
    exact ⟨t, run, ⟨{ r.1 with ringTile := x }, cell ▸ nest, packed, rfl, rfl, rfl, rfl⟩, cell ▸ outs, cell ▸ store, alone⟩
  · have run := execExpandRows_group hrun hv hdone hgroup hok hpres hclean
    obtain ⟨store, outs, x, nest⟩ := s.cells[c].expanded_parts (s.keyOf n s.cells[c].active.bytes) n
      (decide (n.entryNo + (s.cells[c].expandGroup s.cells[c].active.bytes n).length ≥ s.cells[c].listLen s.cells[c].active.bytes n))
    generalize CellS.expanded _ _ n _ = k at run store outs nest
    obtain ⟨cell, alone⟩ := s.upCell_spoil_cell c (fun _ => k) false
    generalize State.reportSpoil _ c _ = t at run cell alone
    obtain ⟨pos, list, entry⟩ := expandNext_parts n (s.cells[c].expandGroup s.cells[c].active.bytes n).length
      (decide (n.entryNo + (s.cells[c].expandGroup s.cells[c].active.bytes n).length ≥ s.cells[c].listLen s.cells[c].active.bytes n))
    generalize expandNext n _ _ = m at nest pos list entry
    exact ⟨t, run, ⟨{ m with ringTile := x }, cell ▸ nest, pos, list, entry⟩, cell ▸ store, cell ▸ outs, alone⟩

end Sys2Proof.Machine
end

section
/-! PROOFS. Tiles set out, arrive and are released, and their credits come back (R63, R112 to R117, R120). -/
namespace Sys2Proof.Machine

/-! ### Credits that are sent back -/

/-- Credits on their way to a cell are added behind those on their way already. -/
def State.FlightsGrow (s t : State) : Prop := ∀ d : Fin 1024, ∃ l, t.cells[d].creditFlight = s.cells[d].creditFlight ++ l

theorem State.FlightsGrow.refl (s : State) : s.FlightsGrow s := fun _ => ⟨[], (List.append_nil _).symm⟩
theorem State.FlightsGrow.trans (s t u : State) (h : s.FlightsGrow t) (h' : t.FlightsGrow u) : s.FlightsGrow u := fun d => by
  obtain ⟨l, eq⟩ := h d
  obtain ⟨l', eq'⟩ := h' d
  exact ⟨l ++ l', by rw [eq', eq, List.append_assoc]⟩

theorem State.upCell_flightsGrow (s : State) (c : Fin 1024) (f : CellS → CellS) (h : ∀ k : CellS, ∃ l, (f k).creditFlight = k.creditFlight ++ l) :
    s.FlightsGrow (s.upCell c f) := fun d => by
  by_cases hd : d = c
  · subst hd
    rw [s.upCell_at]
    exact h _
  · rw [s.upCell_ne c f d hd]
    exact ⟨[], (List.append_nil _).symm⟩

theorem State.returnCredit_flightsGrow (s : State) (c : Fin 1024) (x : Nat × Word) : s.FlightsGrow (s.returnCredit c x) := by
  unfold State.returnCredit
  repeat' split
  · exact s.upCell_flightsGrow _ _ fun k => ⟨[x.2], rfl⟩
  · exact s.upCell_flightsGrow _ _ fun k => ⟨[], (List.append_nil _).symm⟩
  · exact .refl s

theorem State.freeCredits_flightsGrow (s : State) (c : Fin 1024) : s.FlightsGrow (s.freeCredits c) :=
  .trans _ _ _ (s.upCell_flightsGrow c (fun k => { k with withheld := [] }) fun k => ⟨[], (List.append_nil _).symm⟩)
    (foldl_rel (R := State.FlightsGrow) State.FlightsGrow.refl State.FlightsGrow.trans (fun s x => s.returnCredit_flightsGrow c x) s.cells[c].withheld _)

/-- A credit that its route takes is on its way to the producer (R114). -/
theorem State.returnCredit_room {s : State} {c p : Fin 1024} {i : Nat} {e : Word} (hp : p.val = i) (h : s.cells[p].creditRoom e = true) :
    s.returnCredit c (i, e) = s.upCell p fun k => { k with creditFlight := k.creditFlight ++ [e] } := by
  subst hp
  unfold State.returnCredit
  exact (dif_pos p.isLt).trans (if_pos h)

/-- A credit that its route does not take is withheld at the consumer. -/
theorem State.returnCredit_full {s : State} {c p : Fin 1024} {i : Nat} {e : Word} (hp : p.val = i) (h : s.cells[p].creditRoom e = false) :
    s.returnCredit c (i, e) = s.upCell c fun k => { k with withheld := k.withheld ++ [(i, e)] } := by
  subst hp
  unfold State.returnCredit
  exact (dif_pos p.isLt).trans (if_neg (ne_true_of_eq_false h))

/-! ### A tile at its consumer -/

/-- The consumer's cell once a tile stands in its ring slot (R114, R265). -/
def CellS.tileTaken (q : CellS) (e : Word) (w words : Nat) (bs : Bytes) (prod : Nat) : CellS :=
  let q := (if conQueued e then q else q.put w bs).setMark w words false
  { q with ringHeld := q.ringHeld ++ [({ base := conBase e, slot := w, read := false, prod := prod, entry := e } : RingSlot)] }

theorem CellS.tileTaken_parts (q : CellS) (e : Word) (w words : Nat) (bs : Bytes) (prod : Nat) :
    (q.tileTaken e w words bs prod).present w = true ∧
      (q.tileTaken e w words bs prod).store = (if conQueued e then q.store else q.store.writeN (64 * w) bs) ∧
      (q.tileTaken e w words bs prod).ringHeld = q.ringHeld ++ [{ base := conBase e, slot := w, read := false, prod := prod, entry := e }] ∧
      (q.tileTaken e w words bs prod).held = q.held := by
  unfold CellS.tileTaken
  refine ⟨?_, ?_, ?_, ?_⟩
  · simp [CellS.present, CellS.setMark]
  all_goals cases conQueued e <;> rfl

/-- What of a cell shows a tile in its ring slot, and the command it holds. -/
def CellS.tileView (k : CellS) : Memory × List Mark × List RingSlot × Option Held := (k.store, k.marks, k.ringHeld, k.held)

theorem State.upCell_view (s : State) (c : Fin 1024) (f : CellS → CellS) (h : ∀ k : CellS, (f k).tileView = k.tileView) (d : Fin 1024) :
    (s.upCell c f).cells[d].tileView = s.cells[d].tileView := by
  by_cases hd : d = c
  · subst hd
    rw [s.upCell_at]
    exact h _
  · rw [s.upCell_ne c f d hd]

/-- Tiles that leave the queue touch their queue, credits and back-pressure alone (R115, R116). -/
theorem State.releaseTiles_view (s : State) (c : Fin 1024) : (∃ v n, s.releaseTiles c = { s with cells := v, free := n }) ∧
    ∀ d : Fin 1024, (s.releaseTiles c).cells[d].tileView = s.cells[d].tileView := by
  unfold State.releaseTiles
  have view := s.upCell_view c (fun k => { k with ftq := k.ftq.filter fun t => t.arrived.any (!·) }) fun _ => rfl
  obtain ⟨n, ⟨v, eq⟩, credits⟩ := State.pressure_creditsOnly (s.upCell c fun k => { k with ftq := k.ftq.filter fun t => t.arrived.any (!·) }) c
  exact ⟨⟨v, n, eq⟩, fun d => ((credits d).keeps CellS.tileView fun _ _ _ _ _ => rfl).trans (view d)⟩

/-- The oldest tile on its way to consumer k arrives and stands in its slot; what has reached all its consumers leaves the queue (R114 to R117). -/
theorem State.tileArrives {s : State} {c d : Fin 1024} {e : Word} {t0 : QTile} (g : QTile → QTile) (hheld : s.cells[c].held = none)
    (hin : wordsInside (arrivalWord e t0) t0.words = true) :
    ((((s.takeTile c d e t0).upTile c t0.seq t0.word g).releaseTiles c).retry c).cells[d].tileView =
        (s.cells[d].tileTaken e (arrivalWord e t0) t0.words (s.cells[c].store.readN (64 * t0.word) (64 * t0.words)) c.val).tileView ∧
      ∃ v n, (((s.takeTile c d e t0).upTile c t0.seq t0.word g).releaseTiles c).retry c = { s with cells := v, free := n } := by
  have took : s.takeTile c d e t0 = s.upCell d fun q => q.tileTaken e (arrivalWord e t0) t0.words
      (s.cells[c].store.readN (64 * t0.word) (64 * t0.words)) c.val := if_pos hin
  rw [took]
  generalize s.cells[c].store.readN (64 * t0.word) (64 * t0.words) = bs
  generalize hu : s.upCell d (fun q => q.tileTaken e (arrivalWord e t0) t0.words bs c.val) = u
  have here : u.cells[d] = s.cells[d].tileTaken e (arrivalWord e t0) t0.words bs c.val := hu ▸ s.upCell_at d _
  have held : u.cells[c].held = none := by
    by_cases hd : c = d
    · subst hd
      rw [here]
      exact (CellS.tileTaken_parts ..).2.2.2.trans hheld
    · rw [← hu, s.upCell_ne d _ c hd]
      exact hheld
  have view : ∀ x : Fin 1024, (u.upTile c t0.seq t0.word g).cells[x].tileView = u.cells[x].tileView := u.upCell_view c _ fun _ => rfl
  obtain ⟨⟨v, n, frame⟩, released⟩ := (u.upTile c t0.seq t0.word g).releaseTiles_view c
  have quiet : ((u.upTile c t0.seq t0.word g).releaseTiles c).cells[c].held = none :=
    (congrArg (fun x : Memory × List Mark × List RingSlot × Option Held => x.2.2.2) ((released c).trans (view c))).trans held
  rw [State.retry_of_none quiet]
  refine ⟨(released d).trans ((view d).trans (congrArg CellS.tileView here)), v, n, ?_⟩
  rw [frame, ← hu]
  rfl

/-! ### A slot that is released -/

theorem State.released {s : State} {c : Fin 1024} (r : RingSlot) (hheld : s.cells[c].held = none) : ∃ t, (s.releaseSlot c r).retry c = t ∧
      (∀ m ∈ t.cells[c].marks, m.word ≠ r.slot) ∧ r ∉ t.cells[c].ringHeld ∧
      (s.cells[c].backPressure = true → t.cells[c].withheld = s.cells[c].withheld ++ [(r.prod, r.entry)]) ∧
      (s.cells[c].backPressure = false → ∀ p : Fin 1024, p.val = r.prod → s.cells[p].creditRoom r.entry = true →
        t.cells[p].creditFlight = s.cells[p].creditFlight ++ [r.entry]) ∧
      (s.cells[c].backPressure = false → ∀ p : Fin 1024, p.val = r.prod → s.cells[p].creditRoom r.entry = false →
        t.cells[c].withheld = s.cells[c].withheld ++ [(r.prod, r.entry)]) ∧
      t = { s with cells := t.cells } := by
  generalize hu : (s.upCell c fun k => { k.clearMarks [r.slot] with ringHeld := k.ringHeld.filter (· ≠ r) }) = u
  have here : u.cells[c] = { s.cells[c].clearMarks [r.slot] with ringHeld := s.cells[c].ringHeld.filter (· ≠ r) } := hu ▸ s.upCell_at c _
  have flight : ∀ p : Fin 1024, u.cells[p].creditFlight = s.cells[p].creditFlight := fun p => by
    by_cases hp : p = c
    · subst hp
      rw [here]
      rfl
    · rw [← hu, s.upCell_ne c _ p hp]
  have room : ∀ p : Fin 1024, u.cells[p].creditRoom r.entry = s.cells[p].creditRoom r.entry := fun p => by
    unfold CellS.creditRoom
    rw [flight p]
  have run : s.releaseSlot c r = if s.cells[c].backPressure then u.upCell c fun k => { k with withheld := k.withheld ++ [(r.prod, r.entry)] }
      else u.returnCredit c (r.prod, r.entry) := by
    rw [← hu]
    rfl
  have credits : u.CreditsOnly (s.releaseSlot c r) := by
    rw [run]
    split
    · exact u.upCell_creditsOnly c _ fun _ => rfl
    · exact u.returnCredit_creditsOnly ..
  have kept : ∀ {α : Type} (g : CellS → α), (∀ (k : CellS) a b c d, g { k with backPressure := a, bpCycles := b, withheld := c, creditFlight := d } = g k) →
      g (s.releaseSlot c r).cells[c] = g { s.cells[c].clearMarks [r.slot] with ringHeld := s.cells[c].ringHeld.filter (· ≠ r) } :=
    fun g hg => ((credits.2 c).keeps g hg).trans (congrArg g here)
  refine ⟨_, State.retry_of_none ((kept CellS.held fun _ _ _ _ _ => rfl).trans hheld), fun m hm => ?_, fun hr => ?_, fun hb => ?_, fun hb p hp hroom => ?_,
    fun hb p hp hroom => ?_, ?_⟩
  · rw [kept CellS.marks fun _ _ _ _ _ => rfl] at hm
    simpa using (List.mem_filter.mp hm).2
  · rw [kept CellS.ringHeld fun _ _ _ _ _ => rfl] at hr
    simpa using (List.mem_filter.mp hr).2
  · rw [run, if_pos hb, u.upCell_at, here]
    rfl
  · rw [run, hb, if_neg Bool.false_ne_true, State.returnCredit_room hp ((room p).trans hroom), u.upCell_at, ← flight p]
  · rw [run, hb, if_neg Bool.false_ne_true, State.returnCredit_full hp ((room p).trans hroom), u.upCell_at, here]
    rfl
  · obtain ⟨v, eq⟩ := credits.1
    rw [eq, ← hu]
    rfl

/-! ### A credit that comes back -/

/-- The state in which a credit word of an entry has been counted at its producer. -/
def State.credited (s : State) (c : Fin 1024) (e : Word) : State := s.upCell c fun p =>
  { p with creditFlight := p.creditFlight.erase e, credits := putKV e ((getKV e p.credits).getD 0 + 1) p.credits }

theorem execCreditReturnArrival_due {s : State} {c : Fin 1024} {k : Fin 4} {e : Word} (h : s.cells[c].creditDue k.val = some e) :
    (∃ t, exec (.creditReturnArrival c k) s = .next t ∧ (s.credited c e).CreditsOnly t ∧ (s.credited c e).FlightsGrow t) ∧
    ((∀ d, s.consumerOf c e = some d → s.cells[d].backPressure = true ∨ s.cells[d].withheld = []) →
      exec (.creditReturnArrival c k) s = .next (s.credited c e)) := by
  have consumer : (s.credited c e).consumerOf c e = s.consumerOf c e := rfl
  have same : ∀ d : Fin 1024, (s.credited c e).cells[d].backPressure = s.cells[d].backPressure ∧ (s.credited c e).cells[d].withheld = s.cells[d].withheld :=
    fun d => by
      by_cases hd : d = c
      · subst hd
        unfold State.credited
        rw [s.upCell_at]
        exact ⟨rfl, rfl⟩
      · unfold State.credited
        rw [s.upCell_ne c _ d hd]
        exact ⟨rfl, rfl⟩
  cases hd : s.consumerOf c e with
  | none =>
    have run : exec (.creditReturnArrival c k) s = .next (s.credited c e) := by
      change execCreditReturnArrival c k s = _
      unfold execCreditReturnArrival
      rw [h]
      dsimp only
      generalize hu : s.upCell c _ = u
      have counted : s.credited c e = u := hu
      rw [← counted, consumer, hd]
    exact ⟨⟨_, run, .rfl', .refl _⟩, fun _ => run⟩
  | some d =>
    have run : exec (.creditReturnArrival c k) s = .next ((s.credited c e).when (!(s.credited c e).cells[d].backPressure &&
        !(s.credited c e).cells[d].withheld.isEmpty) fun s => s.freeCredits d) := by
      change execCreditReturnArrival c k s = _
      unfold execCreditReturnArrival
      rw [h]
      dsimp only
      generalize hu : s.upCell c _ = u
      have counted : s.credited c e = u := hu
      rw [← counted, consumer, hd]
    rw [(same d).1, (same d).2] at run
    refine ⟨⟨_, run, ?_⟩, fun quiet => ?_⟩
    · generalize (!s.cells[d].backPressure && !s.cells[d].withheld.isEmpty) = b
      cases b
      · exact ⟨.rfl', .refl _⟩
      · exact ⟨State.freeCredits_creditsOnly _ d, State.freeCredits_flightsGrow _ d⟩
    · have none_freed : (!s.cells[d].backPressure && !s.cells[d].withheld.isEmpty) = false := by
        rcases quiet d rfl with hb | hw
        · rw [hb]
          rfl
        · rw [hw, List.isEmpty_nil, Bool.not_true, Bool.and_false]
      rw [run, none_freed]
      rfl

/-! ### The obligation -/

/-- A slot of an outlier or full-copy ring that the stack tier takes changes no cell (R199, R200). -/
theorem State.saveSlot_cells (s : State) (full : Bool) (bs : Bytes) : (s.saveSlot full bs).cells = s.cells := by
  have written : ∀ (o : ObjS) (off : Nat) (data : Bytes), (s.writeObj .mover o off data).cells = s.cells := fun o off data =>
    State.arriveNow_keeps State.cells (fun _ _ _ _ => rfl) (fun _ _ => rfl) (fun _ _ => rfl) ..
  unfold State.saveSlot
  dsimp only
  split
  · rfl
  · split
    · split
      · exact written ..
      · rfl
    · split
      · split
        · exact written ..
        · rfl
      · rfl

/-- Settles O24: tiles set out for a credit, stand at their consumer, and are released with their credit sent back or withheld. -/
theorem tilesAndCreditsOfTheQueues : Obligations.TilesAndCreditsOfTheQueues := by
  refine ⟨⟨fun c k t0 n s hnext hcred hdue => ?_, fun c k s hnone => ?_⟩, fun c d k t0 s hnext hheld hcons hin hgot => ?_, fun c base r s hfind hheld => ?_,
    fun c k e s hdue => ?_, fun c k e s hdue hquiet => (execCreditReturnArrival_due hdue).2 hquiet, fun c k s hnone => ?_,
    fun c full i rest s hheld hslots => ?_⟩
  · have run : exec (.ftqDeliver c k) s = .next ((s.upCell c fun p => { p with credits := putKV (t0.cons.getD k.val 0) n p.credits }).upTile c t0.seq t0.word
        fun x => { x with sent := setB x.sent k.val }) := by
      change execFtqDeliver c k s = _
      unfold execFtqDeliver
      rw [hnext]
      dsimp only
      rw [hcred, hdue]
      rfl
    have here := (State.upCell_at (s.upCell c fun p => { p with credits := putKV (t0.cons.getD k.val 0) n p.credits }) c fun k' =>
      { k' with ftq := upFirst (fun x => x.seq = t0.seq && x.word = t0.word) (fun x => { x with sent := setB x.sent k.val }) k'.ftq }).trans
        (congrArg (fun k' : CellS => { k' with ftq := upFirst (fun x => x.seq = t0.seq && x.word = t0.word) (fun x => { x with sent := setB x.sent k.val }) k'.ftq })
          (s.upCell_at c _))
    refine ⟨_, run, (congrArg (fun k' : CellS => getKV (t0.cons.getD k.val 0) k'.credits) here).trans (getKV_putKV_same ..), congrArg CellS.ftq here,
      (s.upCell_onlyCell c _).upCell _⟩
  · change execFtqDeliver c k s = _
    unfold execFtqDeliver
    cases hn : s.cells[c].nextSend k.val with
    | none => rfl
    | some t0 =>
      dsimp only
      rw [hnone t0 hn]
      rfl
  · have run : exec (.ringTileArrived c k) s = .next ((((s.takeTile c d (t0.cons.getD k.val 0) t0).upTile c t0.seq t0.word fun x =>
        { x with arrived := setB x.arrived k.val }).releaseTiles c).retry c) := by
      change execRingTileArrived c k s = _
      unfold execRingTileArrived
      rw [hnext]
      dsimp only
      rw [hcons]
      refine if_neg fun hlate => ?_
      simp only [Bool.and_eq_true, decide_eq_true_eq] at hlate
      exact Nat.not_lt.mpr (hgot hlate.1) hlate.2
    obtain ⟨view, v, n, frame⟩ := State.tileArrives (fun x => { x with arrived := setB x.arrived k.val }) hheld (d := d) hin
    generalize State.retry _ c = t at run view frame
    obtain ⟨present, store, ring, -⟩ := s.cells[d].tileTaken_parts (t0.cons.getD k.val 0) (arrivalWord (t0.cons.getD k.val 0) t0) t0.words
      (s.cells[c].store.readN (64 * t0.word) (64 * t0.words)) c.val
    have marks := congrArg (fun x : Memory × List Mark × List RingSlot × Option Held => x.2.1) view
    have rings := congrArg (fun x : Memory × List Mark × List RingSlot × Option Held => x.2.2.1) view
    refine ⟨t, run, ?_, (congrArg Prod.fst view).trans store, ⟨_, rings.trans ring, rfl, rfl, rfl, rfl⟩, frame ▸ rfl⟩
    refine Eq.trans ?_ present
    unfold CellS.present
    rw [show t.cells[d].marks = _ from marks, show t.cells[d].ringHeld = _ from rings]
    rfl
  · obtain ⟨t, run, facts⟩ := State.released r hheld
    refine ⟨t, Eq.trans ?_ (congrArg Host.Outcome.next run), facts⟩
    change execRingSlotRelease c base s = _
    unfold execRingSlotRelease
    rw [hfind]
  · obtain ⟨t, run, ⟨⟨v, frame⟩, credits⟩, flights⟩ := (execCreditReturnArrival_due hdue).1
    have here : (s.credited c e).cells[c] = _ := s.upCell_at c _
    refine ⟨t, run, ?_, ?_, fun d => ⟨?_, fun hd => ?_⟩, ?_⟩
    · obtain ⟨l, grown⟩ := flights c
      exact ⟨l, grown.trans (congrArg (fun k : CellS => k.creditFlight ++ l) here)⟩
    · rw [(credits c).keeps CellS.credits fun _ _ _ _ _ => rfl, here]
      exact getKV_putKV_same ..
    · rw [(credits d).keeps CellS.store fun _ _ _ _ _ => rfl]
      by_cases hd : d = c
      · subst hd
        rw [here]
      · exact congrArg CellS.store (s.upCell_ne c _ d hd)
    · rw [(credits d).keeps CellS.credits fun _ _ _ _ _ => rfl]
      exact congrArg CellS.credits (s.upCell_ne c _ d hd)
    · rw [frame]
      rfl
  · change execCreditReturnArrival c k s = _
    unfold execCreditReturnArrival
    rw [hnone]
  · have quiet : ∀ (bs : Bytes) (g : CellS → CellS), (∀ k, (g k).held = k.held) → ((s.saveSlot full bs).upCell c g).cells[c].held = none := fun bs g hg => by
      rw [State.upCell_at, hg, State.saveSlot_cells]
      exact hheld
    refine Eq.trans ?_ (congrArg Host.Outcome.next (State.retry_of_none (quiet _ _ fun k => ?_)))
    · change execRingSlotDrained c full s = _
      unfold execRingSlotDrained
      dsimp only
      rw [hslots]
      cases full <;> rfl
    · cases full <;> rfl

end Sys2Proof.Machine
end

section
/-! PROOFS. A stub serves until every sender has drained (R240 to R242, R245). -/
namespace Sys2Proof.Machine

/-! ### One object of the runtime tables -/

theorem State.id_of_obj {s : State} {id : Nat} {o : ObjS} (h : s.obj id = some o) : o.e.id = id := by
  simpa using List.find?_some h

/-- A change of an object that keeps its descriptor is found under its number. -/
theorem State.obj_upObj {s : State} {id : Nat} {o : ObjS} (h : s.obj id = some o) {f : ObjS → ObjS} (hf : ∀ o, (f o).e = o.e) :
    (s.upObj id f).obj id = some (f o) := by
  have same : ∀ x : ObjS, (if x.e.id = id then f x else x).e = x.e := fun x => by
    split
    · exact hf x
    · rfl
  have here := State.id_of_obj h
  unfold State.obj at h ⊢
  show List.find? _ (s.rt.objects.map _) = _
  rw [List.find?_map]
  simp only [Function.comp_def, same]
  rw [h]
  simp [here]

/-- A change of the move of an object. -/
theorem State.obj_upMove {s : State} {id : Nat} {o : ObjS} {m : MoveS} (h : s.obj id = some o) (hm : o.move = some m) (g : MoveS → MoveS) :
    (s.upObj id fun o => { o with move := o.move.map g }).obj id = some { o with move := some (g m) } := by
  rw [State.obj_upObj h, hm]
  · rfl
  · exact fun _ => rfl

theorem State.obj_setMove {s : State} {id : Nat} {o : ObjS} (h : s.obj id = some o) (x : Option MoveS) :
    (s.upObj id fun o => { o with move := x }).obj id = some { o with move := x } := by
  rw [State.obj_upObj h]
  exact fun _ => rfl

/-! ### Told and drained -/

theorem MoveS.tell_new {m : MoveS} {unit : SenderUnit} (hf : m.flipped = true) (hn : unit ∉ m.told) : m.tell unit = { m with told := m.told ++ [unit] } := by
  simp [MoveS.tell, hf, hn]

theorem MoveS.drain_new {m : MoveS} {unit : SenderUnit} (hf : m.flipped = true) (ht : unit ∈ m.told) (hn : unit ∉ m.drained)
    (ha : ∀ a ∈ m.log ++ m.unacked, senderOf a ≠ unit) : m.drain unit = { m with drained := m.drained ++ [unit] } := by
  have owes : ((m.log ++ m.unacked).any fun a => senderOf a = unit) = false := List.any_eq_false.mpr fun a h => by simpa using ha a h
  have may : m.mayDrain unit = true := by
    unfold MoveS.mayDrain
    rw [hf, owes, List.contains_iff_mem.mpr ht]
    rfl
  refine if_pos ?_
  rw [may]
  simpa using hn

/-- A unit that has something unacknowledged at the stub is not drained (R241). -/
theorem MoveS.drain_owing {m : MoveS} {a : Arrival} (ha : a ∈ m.log ++ m.unacked) : m.drain (senderOf a) = m := by
  have owes : ((m.log ++ m.unacked).any fun x => senderOf x = senderOf a) = true := List.any_eq_true.mpr ⟨a, ha, decide_eq_true rfl⟩
  refine if_neg ?_
  unfold MoveS.mayDrain
  rw [owes, Bool.not_true, Bool.and_false]
  exact Bool.false_ne_true

/-! ### Arrivals at the home -/

/-- What an arrival writes covers tiles of the object and leaves its home, its generation and its move. -/
theorem ObjS.covered_keeps (o : ObjS) (off len : Nat) :
    (o.covered off len).e = o.e ∧ (o.covered off len).home = o.home ∧ (o.covered off len).gen = o.gen ∧ (o.covered off len).move = o.move := by
  unfold ObjS.covered
  split <;> exact ⟨rfl, rfl, rfl, rfl⟩

/-- Between two states the runtime tables, the tiers and the mover may differ; the object of a number stays where it is. -/
def AppliesOnly (id : Nat) (s t : State) : Prop := (∃ r T m, t = { s with rt := r, tiers := T, mover := m }) ∧
  ∀ o : ObjS, s.obj id = some o → ∃ o', t.obj id = some o' ∧ o'.home = o.home ∧ o'.gen = o.gen

theorem AppliesOnly.refl (id : Nat) (s : State) : AppliesOnly id s s := ⟨⟨_, _, _, rfl⟩, fun o h => ⟨o, h, rfl, rfl⟩⟩
theorem AppliesOnly.trans (id : Nat) (s t u : State) (h : AppliesOnly id s t) (h' : AppliesOnly id t u) : AppliesOnly id s u := by
  obtain ⟨⟨r, T, m, rfl⟩, obj⟩ := h
  obtain ⟨⟨r', T', m', rfl⟩, obj'⟩ := h'
  refine ⟨⟨r', T', m', rfl⟩, fun o ho => ?_⟩
  obtain ⟨o1, h1, home, gen⟩ := obj o ho
  obtain ⟨o2, h2, home', gen'⟩ := obj' o1 h1
  exact ⟨o2, h2, home'.trans home, gen'.trans gen⟩

theorem State.applyArr_appliesOnly (id : Nat) (s : State) (h : Home) (a : Arrival) : AppliesOnly id s (s.applyArr id h a) := by
  unfold State.applyArr
  split
  next off data =>
    refine ⟨⟨_, _, s.mover, rfl⟩, fun o ho => ⟨_, State.obj_upObj (f := fun o => o.covered off data.length) ho fun o => (o.covered_keeps off data.length).1, ?_⟩⟩
    exact ⟨(o.covered_keeps off data.length).2.1, (o.covered_keeps off data.length).2.2.1⟩
  · exact ⟨⟨s.rt, s.tiers, _, rfl⟩, fun o ho => ⟨o, ho, rfl, rfl⟩⟩
  · exact .refl id s

theorem State.applyAll_appliesOnly (id : Nat) (s : State) (h : Home) (as : List Arrival) : AppliesOnly id s (s.applyAll id h as) :=
  foldl_rel (AppliesOnly.refl id) (AppliesOnly.trans id) (fun s a => s.applyArr_appliesOnly id h a) as s

/-! ### A stub that retires -/

theorem ObjS.retire_done {o : ObjS} {m : MoveS} (hm : o.move = some m) (hc : m.confirmed = true) (h0 : m.count = 0) : o.retire = { o with move := none } := by
  unfold ObjS.retire
  rw [hm]
  simp [hc, h0]

theorem ObjS.retire_still {o : ObjS} {m : MoveS} (hm : o.move = some m) (h : m.confirmed = false ∨ m.count ≠ 0) : o.retire = o := by
  unfold ObjS.retire
  rw [hm]
  rcases h with h | h <;> simp [h]

theorem ObjS.retire_e (o : ObjS) : o.retire.e = o.e := by
  unfold ObjS.retire
  repeat' split
  all_goals rfl

/-! ### The obligation -/

/-- The next forward of a stub is acknowledged: it is applied at the new home, and after the last what was held there (R242). -/
theorem State.forwardAcked {s : State} {obj : Word} {a : Arrival} {rest : List Arrival} {o : ObjS} {m : MoveS} (ho : s.obj obj.toNat = some o)
    (hm : o.move = some m) (hu : m.unacked = a :: rest) : ∃ u o', AppliesOnly obj.toNat s u ∧ u.obj obj.toNat = some o' ∧ o'.home = o.home ∧ o'.gen = o.gen ∧
      u = (if rest = [] then (s.applyArr obj.toNat m.newHome a).applyAll obj.toNat m.newHome m.heldNew else s.applyArr obj.toNat m.newHome a) ∧
      exec (.forwardAck obj) s = .next (u.upObj obj.toNat fun o =>
        ({ o with move := some { m with unacked := rest, count := m.count - 1, heldNew := if rest = [] then [] else m.heldNew } } : ObjS).retire) := by
  generalize hu' : (if rest = [] then (s.applyArr obj.toNat m.newHome a).applyAll obj.toNat m.newHome m.heldNew else s.applyArr obj.toNat m.newHome a) = u
  have applied : AppliesOnly obj.toNat s u := by
    rw [← hu']
    split
    · exact .trans _ _ _ _ (s.applyArr_appliesOnly ..) (State.applyAll_appliesOnly ..)
    · exact s.applyArr_appliesOnly ..
  obtain ⟨o', ho', home, gen⟩ := applied.2 o ho
  refine ⟨u, o', applied, ho', home, gen, rfl, ?_⟩
  change execForwardAck obj s = _
  unfold execForwardAck
  rw [ho]
  dsimp only
  rw [hm]
  dsimp only
  rw [hu]
  subst hu'
  cases rest <;> rfl

/-- The confirmation reaches the stub once every unit of the sender set is drained (R241). -/
theorem State.retireConfirmed {s : State} {obj : Word} {o : ObjS} (ho : s.obj obj.toNat = some o) :
    exec (.retireConfirm obj) s = .next (s.upObj obj.toNat fun x =>
      ({ x with move := x.move.map fun m => if s.allDrained o m then { m with confirmed := true } else m } : ObjS).retire) ∧
    (s.upObj obj.toNat fun x => ({ x with move := x.move.map fun m => if s.allDrained o m then { m with confirmed := true } else m } : ObjS).retire).obj
      obj.toNat = some ({ o with move := o.move.map fun m => if s.allDrained o m then { m with confirmed := true } else m } : ObjS).retire := by
  refine ⟨?_, State.obj_upObj ho fun x => ObjS.retire_e _⟩
  change execRetireConfirm obj s = _
  unfold execRetireConfirm
  rw [ho]

theorem execStubArrival_of {s : State} {obj : Word} {o : ObjS} (ho : s.obj obj.toNat = some o) (g : Half) (a : Arrival) :
    exec (.stubArrival obj g a) s = .next (s.arrive o g a) := by
  change execStubArrival obj g a s = _
  unfold execStubArrival
  rw [ho]

/-- Settles O28: units are told and drained once, arrivals are logged, forwarded, held or refused by their generation, and the stub retires. -/
theorem stubsServeUntilTheyRetire : Obligations.StubsServeUntilTheyRetire := by
  refine ⟨⟨fun unit obj o m s ho hm hf hin hn => ?_, fun unit obj o m s ho hm hf hin ht hn ha => ?_, fun unit obj a o m s ho hm ha hs => ?_,
    fun obj o m s ho hm hd => ?_, fun obj o m s ho hm hd hc => ?_⟩, fun obj a o m s ho hm hd => ?_, fun obj a o m s ho hm hf => ?_, fun obj a o s ho hm => ?_,
    fun obj g a o s ho hg hg' => ?_, fun obj a rest o m s ho hm hu hc => ?_, fun obj a o m s ho hm hu hc h1 => ?_⟩
  · have run : exec (.flipNotice unit obj) s = .next (s.upObj obj.toNat fun o => { o with move := o.move.map fun m => m.tell unit }) := by
      change execFlipNotice unit obj s = _
      unfold execFlipNotice
      rw [ho]
      exact if_pos (List.contains_iff_mem.mpr hin)
    refine ⟨_, run, rfl, (State.obj_upMove ho hm _).trans ?_⟩
    rw [MoveS.tell_new hf hn]
  · have run : exec (.drainedMsg unit obj) s = .next (s.upObj obj.toNat fun x => { x with move := x.move.map fun m => m.drain unit }) := by
      change execDrainedMsg unit obj s = _
      unfold execDrainedMsg
      rw [ho]
      exact if_pos (List.contains_iff_mem.mpr hin)
    refine ⟨_, run, rfl, (State.obj_upMove ho hm _).trans ?_⟩
    rw [MoveS.drain_new hf ht hn ha]
  · subst hs
    have run : exec (.drainedMsg (senderOf a) obj) s = .next (if (s.senderSet o).contains (senderOf a) then
        s.upObj obj.toNat fun x => { x with move := x.move.map fun m => m.drain (senderOf a) } else s) := by
      change execDrainedMsg (senderOf a) obj s = _
      unfold execDrainedMsg
      rw [ho, apply_ite Host.Outcome.next]
    refine ⟨_, run, ?_⟩
    split
    · refine (State.obj_upMove ho hm _).trans ?_
      rw [MoveS.drain_owing ha, ← hm]
    · exact ho
  · obtain ⟨run, found⟩ := State.retireConfirmed ho
    refine ⟨_, run, rfl, found.trans (congrArg some ?_)⟩
    rw [hm, Option.map_some, if_pos hd]
    by_cases h0 : m.count = 0
    · rw [if_pos h0]
      exact ObjS.retire_done rfl rfl h0
    · rw [if_neg h0]
      exact ObjS.retire_still rfl (.inr h0)
  · obtain ⟨run, found⟩ := State.retireConfirmed ho
    refine ⟨_, run, found.trans (congrArg some ?_)⟩
    rw [hm, Option.map_some, if_neg (ne_true_of_eq_false hd), ← hm]
    exact ObjS.retire_still hm (.inl hc)
  · have run : exec (.stubArrival obj (if m.flipped then o.gen - 1 else o.gen) a) s = .next (s.arriveOld o.e.id m a) := by
      refine (execStubArrival_of ho _ a).trans (congrArg Host.Outcome.next ?_)
      unfold State.arrive
      rw [hm]
      exact (if_pos rfl).trans (if_neg (by simpa using hd))
    refine ⟨_, run, rfl, ?_⟩
    unfold State.arriveOld
    rw [State.id_of_obj ho, State.obj_setMove ho]
    by_cases hf : m.flipped = true
    · rw [if_pos hf, if_pos hf]
      simp [MoveS.logged, MoveS.forward]
    · rw [if_neg hf, if_neg hf]
      rfl
  · have run : exec (.stubArrival obj o.gen a) s = .next (s.arriveNew o a) := by
      refine (execStubArrival_of ho _ a).trans (congrArg Host.Outcome.next ?_)
      unfold State.arrive
      rw [hm]
      dsimp only
      rw [hf, if_pos rfl, if_neg (by bv_omega), if_pos rfl]
    rw [run]
    unfold State.arriveNew
    rw [hm]
    refine ⟨fun he => congrArg Host.Outcome.next (if_pos (List.isEmpty_iff.mpr he)), fun hne => ⟨_, congrArg Host.Outcome.next (if_neg ?_), rfl, ?_⟩⟩
    · exact fun h => hne (List.isEmpty_iff.mp h)
    · rw [State.id_of_obj ho, State.obj_setMove ho]
  · refine (execStubArrival_of ho _ a).trans (congrArg Host.Outcome.next ?_)
    unfold State.arrive State.arriveNew
    rw [hm]
    exact if_pos rfl
  · have run : exec (.stubArrival obj g a) s = .next (s.upRt fun t => { t with placementFaults := t.placementFaults + 1, nonfinite := true }) := by
      refine (execStubArrival_of ho _ a).trans (congrArg Host.Outcome.next ?_)
      unfold State.arrive
      cases hm : o.move with
      | none => exact if_neg hg
      | some m =>
        have other : g ≠ if m.flipped then o.gen - 1 else o.gen := by
          split
          · exact hg' (hm ▸ rfl)
          · exact hg
        exact (if_neg other).trans (if_neg hg)
    exact ⟨_, run, rfl, rfl⟩
  · obtain ⟨u, o', applied, ho', home, gen, hu', run⟩ := State.forwardAcked ho hm hu
    refine ⟨_, run, ?_, ?_, _, State.obj_upObj ho' fun o => ObjS.retire_e _, ?_⟩
    · rw [← hu']
      rfl
    · obtain ⟨⟨r, T, x, rfl⟩, -⟩ := applied
      rfl
    · have still := ObjS.retire_still (o := { o' with move := some { m with unacked := rest, count := m.count - 1, heldNew := if rest = [] then [] else m.heldNew } })
        rfl (.inl hc)
      rw [still]
      exact ⟨home, gen, rfl⟩
  · obtain ⟨u, o', applied, ho', home, gen, hu', run⟩ := State.forwardAcked ho hm hu
    refine ⟨_, run, _, State.obj_upObj ho' fun o => ObjS.retire_e _, ?_⟩
    have done := ObjS.retire_done (o := { o' with move := some { m with unacked := [], count := m.count - 1, heldNew := if [] = ([] : List Arrival) then [] else m.heldNew } })
      rfl hc (by simp [h1])
    rw [done]
    exact ⟨home, rfl⟩

end Sys2Proof.Machine
end

section
/-! PROOFS. Prefetch entries, their records and write-backs (R242, R261 to R270, R273, R283). -/
namespace Sys2Proof.Machine

/-! ### Tiles written into an object -/

/-- What is written into an object lands at its home, or is noted at its stub or with what its new home holds (R240 to R242). -/
theorem State.writeObj_cases (u : SenderUnit) (o : ObjS) (off : Nat) (bs : Bytes) :
    (∀ s : State, s.writeObj u o off bs = s.applyArr o.e.id o.home (.write u off bs)) ∨
      ∃ f : ObjS → ObjS, ∀ s : State, s.writeObj u o off bs = s.upObj o.e.id f := by
  unfold State.writeObj State.arriveNow State.arriveNew State.arriveOld
  cases o.move with
  | none => exact .inl fun _ => rfl
  | some m =>
    dsimp only
    by_cases hold : m.oldFor (senderOf (.write u off bs)) = true
    · exact .inr ⟨_, fun _ => if_pos hold⟩
    · by_cases hun : m.unacked.isEmpty = true
      · exact .inl fun _ => (if_neg hold).trans (if_pos hun)
      · exact .inr ⟨_, fun _ => (if_neg hold).trans (if_neg hun)⟩

/-- A write into an object changes the tiers and what is noted of the objects. -/
theorem State.writeObj_eq (s : State) (u : SenderUnit) (o : ObjS) (off : Nat) (bs : Bytes) : ∃ r T, s.writeObj u o off bs = { s with rt := r, tiers := T } := by
  rcases State.writeObj_cases u o off bs with h | ⟨f, h⟩
  · rw [h]
    exact ⟨_, _, rfl⟩
  · rw [h]
    exact ⟨_, s.tiers, rfl⟩

/-- Cells and mover play no part in a write into an object. -/
theorem State.writeObj_aside (s : State) (v : Vector CellS 1024) (m : Mover) (u : SenderUnit) (o : ObjS) (off : Nat) (bs : Bytes) :
    ({ s with cells := v, mover := m } : State).writeObj u o off bs = { s.writeObj u o off bs with cells := v, mover := m } := by
  rcases State.writeObj_cases u o off bs with h | ⟨f, h⟩ <;> rw [h, h] <;> rfl

theorem State.writeTile_eq (s : State) (u : SenderUnit) (id : Nat) (ps : List (Nat × Nat)) (bs : Bytes) :
    ∃ r T, s.writeTile u id ps bs = { s with rt := r, tiers := T } := by
  have steps := List.foldl_rel (l := ps) (a := (s, bs)) (b := (s, bs)) (r := fun a b : State × Bytes => a = b ∧ ∃ r T, a.1 = { s with rt := r, tiers := T })
    (f := fun acc p => match acc.1.obj id with
      | none => acc
      | some o => (acc.1.writeObj u o p.1 (acc.2.take p.2), acc.2.drop p.2))
    (g := fun acc p => match acc.1.obj id with
      | none => acc
      | some o => (acc.1.writeObj u o p.1 (acc.2.take p.2), acc.2.drop p.2)) ⟨rfl, _, _, rfl⟩ fun p _ a b h => by
    obtain ⟨rfl, r, T, eq⟩ := h
    refine ⟨rfl, ?_⟩
    split
    · exact ⟨r, T, eq⟩
    next o _ =>
      obtain ⟨r', T', eq'⟩ := a.1.writeObj_eq u o p.1 (a.2.take p.2)
      exact ⟨r', T', by rw [eq', eq]⟩
  exact steps.2

theorem State.writeTile_aside (s : State) (v : Vector CellS 1024) (m : Mover) (u : SenderUnit) (id : Nat) (ps : List (Nat × Nat)) (bs : Bytes) :
    ({ s with cells := v, mover := m } : State).writeTile u id ps bs = { s.writeTile u id ps bs with cells := v, mover := m } := by
  have steps := List.foldl_rel (l := ps) (a := (({ s with cells := v, mover := m } : State), bs)) (b := (s, bs))
    (r := fun a b : State × Bytes => a = ({ b.1 with cells := v, mover := m }, b.2))
    (f := fun acc p => match acc.1.obj id with
      | none => acc
      | some o => (acc.1.writeObj u o p.1 (acc.2.take p.2), acc.2.drop p.2))
    (g := fun acc p => match acc.1.obj id with
      | none => acc
      | some o => (acc.1.writeObj u o p.1 (acc.2.take p.2), acc.2.drop p.2)) rfl fun p _ a b h => by
    subst h
    rw [show State.obj { b.1 with cells := v, mover := m } id = b.1.obj id from rfl]
    split
    · rfl
    · rw [State.writeObj_aside]
  exact congrArg Prod.fst steps

/-! ### A record of an object that moves -/

/-- The spans that are asked for of an object whose directory has not flipped go to its stub: what is noted of the objects differs alone (R240, R270). -/
theorem State.askSpans_eq (id : Nat) (ps : List (Nat × Nat)) (s : State) {o : ObjS} {m : MoveS} (ho : s.obj id = some o) (hm : o.move = some m)
    (hf : m.flipped = false) : ∃ r, (ps.foldl (fun s p => match s.obj id with
      | none => s
      | some o => s.arriveNow o (.read .mover p.1 p.2)) s) = { s with rt := r } := by
  induction ps generalizing s o m with
  | nil => exact ⟨s.rt, rfl⟩
  | cons p ps ih =>
    have logged : s.arriveNow o (.read .mover p.1 p.2) = s.upObj id fun o => { o with move := some (m.logged (.read .mover p.1 p.2)) } := by
      unfold State.arriveNow State.arriveOld
      rw [hm]
      dsimp only
      rw [if_pos (show m.oldFor _ = true by simp [MoveS.oldFor, hf]), hf, State.id_of_obj ho]
      rfl
    obtain ⟨r, eq⟩ := ih (s.upObj id fun o => { o with move := some (m.logged (.read .mover p.1 p.2)) }) (State.obj_setMove ho _) rfl hf
    rw [List.foldl_cons, ho]
    dsimp only
    rw [logged, eq]
    exact ⟨r, rfl⟩

/-- A record in progress whose spans are asked for. -/
def PfRun.asks (r : PfRun) (ps : List (Nat × Nat)) : PfRun := { r with reading := true, asked := ps, data := [] }

/-- The record of an entry is found by its number after a change that keeps the numbers. -/
theorem findIndex_map {l : List PfRun} {i : Nat} {r : PfRun} (h : l.find? (fun x => decide (x.index = i)) = some r) (f : PfRun → PfRun)
    (hf : ∀ x, (f x).index = x.index) : (l.map fun x => if x.index = i then f x else x).find? (fun x => decide (x.index = i)) = some (f r) := by
  have same : ∀ x : PfRun, (if x.index = i then f x else x).index = x.index := fun x => by
    split
    · exact hf x
    · rfl
  have here : r.index = i := by simpa using List.find?_some h
  rw [List.find?_map]
  simp only [Function.comp_def, same]
  rw [h]
  simp [here]

/-! ### A record that is delivered -/

/-- The state of a record that is delivered into a cell (R265, R283). -/
theorem State.deliver_delivers {s : State} {e : PfE} {r : PfRun} {o : ObjS} {c : Fin 1024} (ue : Bool) (hread : r.reading = false) (hjob : s.job.replay = false)
    (hin : wordsInside (pfWord e o.e r.done) (ceilDiv (tileBytes o.e) 64) = true) :
    ∃ t, s.deliver e r o c ue = t ∧ t.cells[c].store = s.cells[c].store.writeN (64 * pfWord e o.e r.done) (s.readTile o (pfTile e r.done)) ∧
      t.cells[c].present (pfWord e o.e r.done) = true ∧ (ue = true → t.cells[c].poisoned (pfWord e o.e r.done) = true) ∧
      (∀ x : Fin 1024, x ≠ c → t.cells[x] = s.cells[x]) ∧
      t.mover = (s.mover.land (.prefetch r.index r.done)).advance r.index e.tileCount ∧ t = { s with cells := t.cells, mover := t.mover } := by
  obtain ⟨bad, hbad, run⟩ : ∃ bad, (ue = true → bad = true) ∧ s.deliver e r o c ue =
      (s.upMover fun m => (m.land (.prefetch r.index r.done)).advance r.index e.tileCount).upCell c fun k =>
        (k.put (pfWord e o.e r.done) (s.readTile o (pfTile e r.done))).setMark (pfWord e o.e r.done) (ceilDiv (tileBytes o.e) 64) bad := by
    refine ⟨ue || ((s.mover.bufOf (.prefetch r.index r.done)).map (·.2.bad)).getD false || o.bad.contains (pfTile e r.done) ||
      (decide (o.e.kind = 6) && s.inputBad), fun h => by rw [h]; rfl, ?_⟩
    unfold State.deliver
    dsimp only
    rw [if_neg, if_pos hin, hread]
    · rfl
    · show ¬ (_ && s.job.replay) = true
      rw [hjob, Bool.and_false]
      exact Bool.false_ne_true
  refine ⟨_, run, ?_⟩
  rw [State.upCell_at]
  refine ⟨?_, CellS.setMark_present .., fun h => ?_, fun x hx => State.upCell_ne _ c _ x hx, rfl, rfl⟩
  · simp only [CellS.put, CellS.setMark]
    rfl
  · simp [CellS.poisoned, CellS.setMark, hbad h]

/-! ### The obligation -/

section
variable {entry : Word} {r : PfRun} {e : PfE} {o : ObjS} {c : Fin 1024} {s : State}
  (hr : s.mover.active.find? (fun x => decide (x.index = entry.toNat)) = some r) (he : s.pfE entry.toNat = some e) (ho : s.obj e.obj = some o)
  (hc : s.pfCell e = some c)
include hr he ho hc

/-- PREFETCH_RECORD_WRITE of a record whose position takes it, through the hub die without a buffer: it claims one (R263). -/
theorem execPrefetchRecordWrite_claims (ue : Bool) (huse : e.use ≠ 2) (hrows : s.rowsBusy o = false) (hfirst : s.earlierFirst entry.toNat c = false)
    (htakes : s.cells[c].takes (pfWord e o.e r.done) (ceilDiv (tileBytes o.e) 64) = true)
    (hhub : o.e.kind = 6 ∨ viaHub o.home (tilePieces o.e s.medlar.u.toNat (pfTile e r.done)) c = true)
    (hbuf : s.mover.bufOf (.prefetch entry.toNat r.done) = none) :
    exec (.prefetchRecordWrite entry ue) s = .next (s.upMover fun m => m.claim (.prefetch entry.toNat r.done)) := by
  change execPrefetchRecordWrite entry ue s = _
  unfold execPrefetchRecordWrite
  rw [hr, he]
  dsimp only
  rw [ho, hc]
  dsimp only
  rw [if_neg, if_pos]
  · rw [hbuf]
    rcases hhub with h | h <;> simp [h]
  · rw [hrows, hfirst, htakes, decide_eq_false huse]
    decide

/-- The same where it may go on: from an object that moves its spans are asked for, and it is delivered once they are answered (R242, R270). -/
theorem execPrefetchRecordWrite_goes (ue : Bool) (huse : e.use ≠ 2) (hrows : s.rowsBusy o = false) (hfirst : s.earlierFirst entry.toNat c = false)
    (htakes : s.cells[c].takes (pfWord e o.e r.done) (ceilDiv (tileBytes o.e) 64) = true)
    (hbuf : o.e.kind = 6 ∨ viaHub o.home (tilePieces o.e s.medlar.u.toNat (pfTile e r.done)) c = true →
      (s.mover.bufOf (.prefetch entry.toNat r.done)).isSome = true) {u : State} {r' : PfRun}
    (hu : (if o.move.isSome && !r.reading && decide (o.e.kind ≠ 6) then s.askRecord r (tilePieces o.e s.medlar.u.toNat (pfTile e r.done)) else s) = u)
    (hr' : u.mover.active.find? (fun x => decide (x.index = entry.toNat)) = some r') :
    exec (.prefetchRecordWrite entry ue) s = .next (if r'.reading && !r'.asked.isEmpty then u else u.deliver e r' o c ue) := by
  change execPrefetchRecordWrite entry ue s = _
  unfold execPrefetchRecordWrite
  rw [hr, he]
  dsimp only
  rw [ho, hc]
  dsimp only
  rw [if_neg, if_neg, hu, hr']
  · simp only [Bool.and_eq_true, Bool.or_eq_true, decide_eq_true_eq]
    rintro ⟨hhub, hnone⟩
    have some_buf := hbuf hhub
    rw [Option.isNone_iff_eq_none] at hnone
    rw [hnone] at some_buf
    exact Bool.false_ne_true some_buf
  · rw [hrows, hfirst, htakes, decide_eq_false huse]
    decide

/-- WRITE_BACK_READ of a record whose mark is set. -/
theorem execWriteBackRead_next (huse : e.use = 2) (hpres : s.cells[c].present (pfWord e o.e r.done) = true) : exec (.writeBackRead entry) s =
    .next (if viaHub o.home (tilePieces o.e s.medlar.u.toNat (pfTile e r.done)) c then
      s.withBuf (.writeBack entry.toNat r.done) fun bad s => s.writeBack e r o c bad else s.writeBack e r o c false) := by
  change execWriteBackRead entry s = _
  unfold execWriteBackRead
  rw [hr, he]
  dsimp only
  rw [ho, hc]
  dsimp only
  rw [if_neg, apply_ite Host.Outcome.next]
  rw [hpres, decide_eq_false (not_not_intro huse)]
  decide
end

/-- A write-back clears the mark of its record, counts it, and writes it to the home of the object (R261, R266). -/
theorem State.writeBack_writes (s : State) (e : PfE) (r : PfRun) (o : ObjS) (c : Fin 1024) (m : Mover) :
    ∃ v, (({ s with mover := m } : State).writeBack e r o c false) = { s.writeTile .mover e.obj (tilePieces o.e s.medlar.u.toNat (pfTile e r.done))
        (s.cells[c].store.readN (64 * pfWord e o.e r.done) (tileBytes o.e)) with cells := v, mover := m.advance r.index e.tileCount } ∧
      ∀ x ∈ v[c].marks, x.word ≠ pfWord e o.e r.done := by
  refine ⟨updV s.cells c fun k => k.clearMarks [pfWord e o.e r.done], s.writeTile_aside _ _ .mover e.obj _ _, fun x hx => ?_⟩
  rw [updV_at] at hx
  simpa using (List.mem_filter.mp hx).2

/-- Settles O29: entries begin, records are written into their cells or asked for, and write-backs go to the homes of their objects. -/
theorem prefetchEntriesAndRecords : Obligations.PrefetchEntriesAndRecords := by
  refine ⟨fun im i e s him hi he hmay hcount => ?_, fun entry ue r e o c s hr he ho hc huse hrows hfirst htakes => ⟨fun hm hread hjob hin hbuf => ?_,
    fun hhub hread hbuf => execPrefetchRecordWrite_claims hr he ho hc ue huse hrows hfirst htakes hhub hbuf, fun m hm hf hread hobj hk hps hbuf => ?_⟩,
    fun entry r e o c s hr he ho hc huse hpres => ⟨fun hhub => ?_, fun b hhub hb hgood => ?_, fun b hhub hb hbad => ?_, fun hhub hb => ?_⟩⟩
  · have run : exec .prefetchEntryBegin s = .next (s.upMover fun m => { m with begun := m.begun + 1, active :=
        if e.tileCount = 0 then m.active else m.active ++ [({ index := i, done := 0, obj := e.obj, reading := false, asked := [], data := [] } : PfRun)] }) := by
      change execPrefetchEntryBegin s = _
      unfold execPrefetchEntryBegin
      rw [him]
      dsimp only
      rw [hi]
      dsimp only
      rw [he]
      exact if_pos hmay
    refine ⟨_, run, rfl, ?_⟩
    simp only [State.upMover, if_neg hcount]
  · have run := execPrefetchRecordWrite_goes hr he ho hc ue huse hrows hfirst htakes hbuf (u := s) (if_neg (by rw [hm]; exact Bool.false_ne_true)) hr
    rw [hread] at run
    obtain ⟨t, delivered, facts⟩ := State.deliver_delivers (s := s) (e := e) (o := o) (c := c) ue hread hjob hin
    have index : r.index = entry.toNat := by simpa using List.find?_some hr
    rw [index] at facts
    exact ⟨t, run.trans (congrArg Host.Outcome.next delivered), facts⟩
  · have asked : (if o.move.isSome && !r.reading && decide (o.e.kind ≠ 6) then s.askRecord r (tilePieces o.e s.medlar.u.toNat (pfTile e r.done)) else s) =
        s.askRecord r (tilePieces o.e s.medlar.u.toNat (pfTile e r.done)) := if_pos (by simp [hm, hread, hk])
    have index : r.index = entry.toNat := by simpa using List.find?_some hr
    obtain ⟨x, spans⟩ := State.askSpans_eq r.obj (tilePieces o.e s.medlar.u.toNat (pfTile e r.done)) (s.upMover fun m =>
      { m with active := m.active.map fun x => if x.index = r.index then { x with reading := true, asked := tilePieces o.e s.medlar.u.toNat (pfTile e r.done), data := [] } else x })
      (hobj ▸ ho) hm hf
    have asks : s.askRecord r (tilePieces o.e s.medlar.u.toNat (pfTile e r.done)) = _ := spans
    have found := findIndex_map hr (fun x => x.asks (tilePieces o.e s.medlar.u.toNat (pfTile e r.done))) fun _ => rfl
    have run := execPrefetchRecordWrite_goes hr he ho hc ue huse hrows hfirst htakes (fun h => hbuf (h.resolve_left hk)) asked
      (r' := r.asks (tilePieces o.e s.medlar.u.toNat (pfTile e r.done))) (by rw [asks, index]; exact found)
    rw [if_pos (by simpa [PfRun.asks] using hps), asks] at run
    refine ⟨_, run, ⟨r.asks _, ?_, index, rfl, rfl⟩, rfl⟩
    rw [index]
    exact List.mem_of_find?_eq_some found
  · have run := execWriteBackRead_next hr he ho hc huse hpres
    rw [if_neg (ne_true_of_eq_false hhub)] at run
    obtain ⟨v, wrote, cleared⟩ := s.writeBack_writes e r o c s.mover
    obtain ⟨x, T, eq⟩ := s.writeTile_eq .mover e.obj (tilePieces o.e s.medlar.u.toNat (pfTile e r.done)) (s.cells[c].store.readN (64 * pfWord e o.e r.done) (tileBytes o.e))
    refine ⟨_, run.trans (congrArg Host.Outcome.next wrote), cleared, rfl, rfl, ?_⟩
    rw [eq]
  · have run := execWriteBackRead_next hr he ho hc huse hpres
    rw [if_pos hhub, State.withBuf_some hb, hgood] at run
    obtain ⟨v, wrote, cleared⟩ := s.writeBack_writes e r o c (s.mover.land (.writeBack entry.toNat r.done))
    obtain ⟨x, T, eq⟩ := s.writeTile_eq .mover e.obj (tilePieces o.e s.medlar.u.toNat (pfTile e r.done)) (s.cells[c].store.readN (64 * pfWord e o.e r.done) (tileBytes o.e))
    refine ⟨_, run.trans (congrArg Host.Outcome.next wrote), cleared, rfl, rfl, rfl, ?_⟩
    rw [eq]
  · have run := execWriteBackRead_next hr he ho hc huse hpres
    rw [if_pos hhub, State.withBuf_some hb, hbad] at run
    have marked := State.obj_upObj (s := (({ s with mover := s.mover.land (.writeBack entry.toNat r.done) } : State).upCell c fun k =>
      k.clearMarks [pfWord e o.e r.done]).upMover fun m => m.advance r.index e.tileCount) ho (f := fun o => { o with bad := pfTile e r.done :: o.bad }) fun _ => rfl
    refine ⟨_, run, fun x hx => ?_, rfl, ⟨_, marked, List.mem_cons_self⟩, rfl⟩
    have here : x ∈ (updV s.cells c fun k => k.clearMarks [pfWord e o.e r.done])[c].marks := hx
    rw [updV_at] at here
    simpa using (List.mem_filter.mp here).2
  · have run := execWriteBackRead_next hr he ho hc huse hpres
    rw [if_pos hhub, State.withBuf_none hb] at run
    exact run

end Sys2Proof.Machine
end

section
/-! PROOFS. Contributions join their tree tiles, and tiles close (R326 to R334, R370). -/
namespace Sys2Proof.Machine

/-! ### Requests that wait in receive buffers -/

/-- How many requests wait in receive buffers. -/
def State.rxWait (s : State) : Nat := s.fab.rxCount

theorem Fabric.rxCount_rest (b : Fabric) : b.rxCount = b.rest.rxCount := by
  unfold Fabric.rxCount Fabric.rest
  dsimp only
  rw [Vector.toList_map, List.map_map]
  rfl

/-- What the module sends waits in no receive buffer. -/
theorem SendsOnly.rxWait {s t : State} (h : SendsOnly s t) : t.rxWait = s.rxWait := h.fabric Fabric.rxCount Fabric.rxCount_rest

theorem SendsOnly.when {s : State} {f : State → State} (b : Bool) (h : SendsOnly s (f s)) : SendsOnly s (s.when b f) := by
  cases b
  · exact .refl s
  · exact h

theorem State.loop_sendsOnly (s : State) (k : Pkt) : SendsOnly s (s.upFab fun b => { b with loop := b.loop ++ [k] }) := s.upFab_sendsOnly _ rfl

theorem State.sendMcast_sendsOnly (s : State) (k : Pkt) (ts : List (BitVec 17 × Word)) (data : Bytes) : SendsOnly s (s.sendMcast k ts data) := by
  unfold State.sendMcast
  dsimp only
  refine .trans (.trans ?own (.foldl (fun s g => s.upFab_sendsOnly _ (Fabric.enqueue_rest ..)) _ _)) (.foldl (fun _ _ => State.sendPkt_sendsOnly ..) _ _)
  case own =>
    exact .when _ (State.loop_sendsOnly ..)

theorem State.track_rxWait (s : State) (o : OutReq) (k : Pkt) (now : DWord) : (s.upFab fun b => b.track o k now).rxWait = s.rxWait := rfl

theorem State.issue_rxWait (s : State) (o : OutReq) : (s.issue o).rxWait = s.rxWait := by
  unfold State.issue
  dsimp only
  split
  · exact (State.sendMcast_sendsOnly ..).rxWait.trans (foldl_keeps State.rxWait _ (fun s _ => s.track_rxWait ..) _ s)
  · exact (State.sendPkt_sendsOnly ..).rxWait

theorem HostOnly.rxWait {s t : State} (h : HostOnly s t) : t.rxWait = s.rxWait := by
  obtain ⟨i, rfl⟩ := h
  rfl

theorem State.pumpGo_rxWait (before waiting : List OutReq) (s : State) : (s.pumpGo before waiting).rxWait = s.rxWait := by
  induction waiting generalizing before s with
  | nil => rfl
  | cons o rest ih =>
    unfold State.pumpGo
    split
    · refine (ih ..).trans (Eq.trans ?_ (s.endRing_hostOnly o.ring stTargetDead 0).rxWait)
      exact State.when_keeps State.rxWait _ _ _ rfl
    · split
      · exact (ih ..).trans (s.issue_rxWait o)
      · exact ih ..

theorem State.pump_rxWait (s : State) : s.pump.rxWait = s.rxWait := by
  unfold State.pump
  split
  · exact State.pumpGo_rxWait ..
  · rfl

theorem State.request_rxWait (s : State) (k : Pkt) (ring : Option (Fin 64 × DWord)) : (s.request k ring).rxWait = s.rxWait := State.pump_rxWait _

/-- With no request in a receive buffer, none is taken from one. -/
theorem State.pumpRx_none {s : State} (h : s.rxWait = 0) : s.pumpRx = s := by
  unfold State.pumpRx
  rw [show s.fab.rxCount = 0 from h]
  rfl

/-! ### A contribution of a child -/

theorem State.checked_passes {s : State} {k : Pkt} (h : Passes s k) (f : State → State) : s.checked k f = f s := by
  obtain ⟨hin, hjob, hlevel, hform, hpark, hcache, hpend, hkey, hserve, htier⟩ := h
  unfold State.checked
  dsimp only
  have member : ((s.inJob && decide (k.job = s.job.p.jobId)) || s.servesRead k) = true := by
    rw [hin, decide_eq_true hjob]
    rfl
  have uncached : (if pktModifies k then s.fab.cache.find? (fun e => e.src = k.src && e.seq = k.seq && e.live s.now) else none) = none := by
    split
    next hmod => exact hcache hmod
    next => rfl
  rw [member, decide_eq_false (Nat.not_lt.mpr hlevel), hform, if_neg hpark, hpend, hkey, hserve, htier]
  simp only [Bool.and_false, Bool.not_true, Bool.false_eq_true, if_false]
  rw [uncached]

/-- A reducing request that passes every check and that nothing holds back is taken at once (R370, R391). -/
theorem State.arriveHere_reduces {s : State} {p : Fin 32} {k : Pkt} (ha : Arrives s p k) (hrx : s.fab.inRx k = false)
    (hhold : s.mustHold k = false) (hred : pktReduces k = true) : s.arriveHere p k = (s.takeContrib k).pumpRx := by
  have loop := ha.1
  unfold State.arriveHere
  rw [loop, Bool.false_and, if_neg Bool.false_ne_true, State.arrivePkt_arrives ha]
  unfold State.receive
  rw [hrx, if_neg Bool.false_ne_true, hhold, if_neg Bool.false_ne_true]
  unfold State.take
  rw [if_pos hred]

/-- The answer to a request changes the fabric alone, and no receive buffer. -/
theorem State.applied_sends (s : State) (k : Pkt) (value : DWord) (data : Bytes) :
    FabOnly s (s.applied k value data) ∧ (s.applied k value data).rxWait = s.rxWait := by
  have cached : FabOnly s (s.when (pktModifies k) fun s => s.cacheReply k value) ∧
      (s.when (pktModifies k) fun s => s.cacheReply k value).rxWait = s.rxWait := by
    cases pktModifies k
    · exact ⟨.refl s, rfl⟩
    · exact ⟨⟨_, rfl⟩, rfl⟩
  unfold State.applied
  exact ⟨cached.1.trans (State.respond_sendsOnly ..).fabOnly, (State.respond_sendsOnly ..).rxWait.trans cached.2⟩

section
variable {s : State} {k : Pkt} {slot : Nat} (hp : Passes s k) (hslot : s.slotOf (contribOf k.payload) = some slot)
include hp hslot

/-- A contribution of the present run joins its slot. -/
theorem State.takeContrib_joins (h : s.runPlace (contribOf k.payload) = 1) :
    s.takeContrib k = (s.place slot (contribOf k.payload) (k.payload.drop 64) s.now).applied k 0 [] := by
  unfold State.takeContrib
  rw [State.checked_passes hp]
  unfold State.contribIn
  dsimp only
  rw [hslot]
  dsimp only
  rw [h]
  rfl

/-- One of the run to come is held. -/
theorem State.takeContrib_early (h : s.runPlace (contribOf k.payload) = 2) :
    s.takeContrib k = (s.upColl fun c => { c with early := c.early ++ [(contribOf k.payload, k.payload.drop 64, s.now)] }).applied k 0 [] := by
  unfold State.takeContrib
  rw [State.checked_passes hp]
  unfold State.contribIn
  dsimp only
  rw [hslot]
  dsimp only
  rw [h]
  rfl

/-- One of a decided run is dropped. -/
theorem State.takeContrib_late (h : s.runPlace (contribOf k.payload) = 0) :
    s.takeContrib k = (s.when (!isEmptyC (contribOf k.payload) && countsOnce (contribOf k.payload)) fun s => s.upColl Collectives.drop).applied k 0 [] := by
  unfold State.takeContrib
  rw [State.checked_passes hp]
  unfold State.contribIn
  dsimp only
  rw [hslot]
  dsimp only
  rw [h]
  rfl

/-- One of a step beyond is refused, and is a fault of the collectives. -/
theorem State.takeContrib_beyond (h : s.runPlace (contribOf k.payload) = 3) :
    s.takeContrib k = (s.upColl fun c => { (if countsOnce (contribOf k.payload) then c.drop else c) with collFault := true }).refuseFree k := by
  unfold State.takeContrib
  rw [State.checked_passes hp]
  unfold State.contribIn
  dsimp only
  rw [hslot]
  dsimp only
  rw [h]
  rfl
end

/-- REDUCE and a reducing STORE of a child. -/
theorem execReduce_takes {s : State} {p : Fin 32} {k : Pkt} (ha : Arrives s p k) (hrx : s.fab.inRx k = false) (hhold : s.mustHold k = false)
    (hmine : s.fab.mine p k = true) (hop : k.op = 0x04) : exec (.reduce p k) s = .next (s.takeContrib k).pumpRx := by
  change execReduce p k s = _
  unfold execReduce
  rw [hmine, hop]
  refine (if_pos rfl).trans (congrArg Host.Outcome.next (State.arriveHere_reduces ha hrx hhold ?_))
  unfold pktReduces
  rw [hop]
  rfl

theorem execStore_reduces {s : State} {p : Fin 32} {k : Pkt} (ha : Arrives s p k) (hrx : s.fab.inRx k = false) (hhold : s.mustHold k = false)
    (hmine : s.fab.mine p k = true) (hop : k.op = 0x02) (hrw : k.rw = true) : exec (.store p k) s = .next (s.takeContrib k).pumpRx := by
  change execStore p k s = _
  unfold execStore
  rw [hmine, hop]
  refine (if_pos rfl).trans (congrArg Host.Outcome.next (State.arriveHere_reduces ha hrx hhold ?_))
  unfold pktReduces
  rw [hop, hrw]
  rfl

/-! ### An own contribution -/

theorem State.handed_eq (s : State) (h : ContribHdr) : ∃ l, s.handed h = s.upColl fun c => { c with toSend := l } := by
  unfold State.handed
  split
  · exact ⟨s.coll.toSend, rfl⟩
  · exact ⟨_, rfl⟩

theorem State.noteLate_eq (s : State) (owner layer : Nat) : ∃ b, s.noteLate owner layer = s.upColl fun c => { c with lateOwn := b } := by
  have noted : ∀ b : Bool, ∃ x, (s.when b fun s => s.upColl fun c => { c with lateOwn := true }) = s.upColl fun c => { c with lateOwn := x } := fun b => by
    cases b
    · exact ⟨s.coll.lateOwn, rfl⟩
    · exact ⟨true, rfl⟩
  exact noted _

/-- Handing an own contribution on and noting how late it is moves the collective state only. -/
theorem State.handedLate_eq (s : State) (h : ContribHdr) (f : Collectives → Collectives) (owner layer : Nat) :
    ∃ c, ((s.handed h).upColl f).noteLate owner layer = { s with coll := c } := by
  obtain ⟨l, handed⟩ := s.handed_eq h
  rw [handed]
  obtain ⟨late, noted⟩ := State.noteLate_eq ((s.upColl fun c => { c with toSend := l }).upColl f) owner layer
  exact ⟨_, noted⟩

theorem State.sendContrib_talks (s : State) (h : ContribHdr) (index record : Bytes) : Talks s (s.sendContrib h index record) := by
  unfold State.sendContrib
  dsimp only
  split
  · exact State.request_talks ..
  · split
    · exact (State.request_talks ..).trans (State.request_talks ..)
    · exact State.request_talks ..

theorem State.sendContrib_rxWait (s : State) (h : ContribHdr) (index record : Bytes) : (s.sendContrib h index record).rxWait = s.rxWait := by
  unfold State.sendContrib
  dsimp only
  split
  · exact State.request_rxWait ..
  · split
    · exact (State.request_rxWait ..).trans (State.request_rxWait ..)
    · exact State.request_rxWait ..

/-- The packet of a request as it leaves the module (R387, R388). -/
def State.outbound (s : State) (k : Pkt) : Pkt := { k with src := s.fab.modId, ts := s.ts, hops := 8, retry := 0, seq := s.fab.nextSeq k.dst }

/-- A request that nothing holds back is put on the port of its bucket and waits for its response. -/
theorem State.request_queued {s : State} {k : Pkt} {q : Fin 32} {tag : Nat} (hopen : s.jobOpen = true) (hwait : s.fab.waiting = [])
    (hdead : s.fab.deadFor k = false) (hmay : s.fab.mayIssue [] k = true) (hop : k.op ≠ 0x05) (hplain : k.op ≠ 0x10)
    (hself : s.fab.toSelf (s.outbound k) = false) (hport : s.fab.portFor k.dst (pathBucket k.dst k.addr) = some (q, tag)) :
    (s.request k none).fab.ports[q].queues[k.cls] = s.fab.ports[q].queues[k.cls] ++ [(s.fab.named q (s.outbound k), tag)] ∧
      ∃ o ∈ (s.request k none).fab.outstanding, o.pkt = s.outbound k ∧ o.issued = s.now := by
  replace hport : s.fab.portFor k.dst (pktBucket (s.outbound k)) = some (q, tag) := by
    rw [show pktBucket (s.outbound k) = pathBucket k.dst k.addr from if_neg hplain]
    exact hport
  generalize ho : ({ pkt := k, op := k.op, issued := 0, retries := 0, ring := none } : OutReq) = o
  have opkt : o.pkt = k := ho ▸ rfl
  generalize hu : (s.upFab fun b => { b with waiting := b.waiting ++ [o] }) = u
  have run : s.request k none = (u.issue o).upFab fun b => { b with waiting := [] } := by
    have pumped : s.request k none = u.pump := by
      rw [← hu, ← ho]
      rfl
    rw [pumped]
    unfold State.pump
    rw [show u.jobOpen = true from hu ▸ hopen, if_pos rfl, show u.fab.waiting = [o] by rw [← hu]; exact congrArg (· ++ [o]) hwait]
    unfold State.pumpGo
    rw [opkt, show u.fab.deadFor k = false from hu ▸ hdead, show u.fab.mayIssue [] k = true from hu ▸ hmay]
    rfl
  have issued : u.issue o = (u.upFab fun b => b.track o (u.outbound k) u.now).sendPkt (u.outbound k) := by
    unfold State.issue
    dsimp only
    rw [opkt]
    exact if_neg hop
  have same : u.outbound k = s.outbound k := hu ▸ rfl
  rw [run, issued, same, State.sendPkt_queued (q := q) (tag := tag) (hu ▸ hself) (hu ▸ hport)]
  subst hu
  refine ⟨Fabric.enqueue_at _ q (s.outbound k) tag, _, List.mem_append_right _ (List.mem_singleton.mpr rfl), rfl, rfl⟩

/-! ### A tile that closes -/

/-- A tile that is put is found under its numbers. -/
theorem Collectives.tile_putTile (c : Collectives) (t : TreeTile) : (c.putTile t).tile t.owner t.tensor t.tile = some t := by
  unfold Collectives.putTile Collectives.tile
  split
  next h =>
    obtain ⟨x, hx⟩ := Option.isSome_iff_exists.mp h
    have here := List.find?_some hx
    rw [List.find?_map]
    have same : ((fun u : TreeTile => decide (u.owner = t.owner) && decide (u.tensor = t.tensor) && decide (u.tile = t.tile)) ∘
        fun u => if (decide (u.owner = t.owner) && decide (u.tensor = t.tensor) && decide (u.tile = t.tile)) = true then t else u) =
          fun u => decide (u.owner = t.owner) && decide (u.tensor = t.tensor) && decide (u.tile = t.tile) := by
      funext u
      simp only [Function.comp_apply]
      split
      next hu => simp [hu]
      next hu => rfl
    rw [same, hx]
    exact congrArg some (if_pos here)
  next h =>
    rw [List.find?_append, Option.not_isSome_iff_eq_none.mp h]
    simp

/-- What the collectives hold of tiles, the power state and the requests in receive buffers. -/
def State.tileView (s : State) : List TreeTile × Power × Nat := (s.coll.tiles, s.pwr, s.rxWait)

theorem State.writeObj_tileView (s : State) (u : SenderUnit) (o : ObjS) (off : Nat) (bs : Bytes) : (s.writeObj u o off bs).tileView = s.tileView := by
  obtain ⟨r, T, eq⟩ := s.writeObj_eq u o off bs
  rw [eq]
  rfl

theorem State.writeRows_tileView (s : State) (o : ObjS) (rows : List (Nat × List Nat)) : (s.writeRows o rows).tileView = s.tileView := by
  unfold State.writeRows
  refine (State.when_keeps State.tileView _ _ _ rfl).trans ?_
  show (List.foldl _ s _).tileView = s.tileView
  exact foldl_keeps State.tileView _ (fun s x => foldl_keeps State.tileView _ (fun s n => s.writeObj_tileView ..) _ s) _ s

theorem State.sendContrib_tileView (s : State) (h : ContribHdr) (index record : Bytes) : (s.sendContrib h index record).tileView = s.tileView := by
  have kept := (s.sendContrib_talks h index record).keeps (fun s => (s.coll.tiles, s.pwr)) fun _ _ _ => rfl
  have tiles : (s.sendContrib h index record).coll.tiles = s.coll.tiles := congrArg Prod.fst kept
  have pwr : (s.sendContrib h index record).pwr = s.pwr := congrArg Prod.snd kept
  unfold State.tileView
  rw [s.sendContrib_rxWait h index record, tiles, pwr]

theorem State.sendRows_tileView (s : State) (h : ContribHdr) (rows : List (Nat × List Nat)) : (s.sendRows h rows).tileView = s.tileView := by
  unfold State.sendRows
  dsimp only
  split
  · exact State.sendContrib_tileView ..
  · exact foldl_keeps State.tileView _ (fun s x => s.sendContrib_tileView ..) _ s

theorem State.noteLate_tileView (s : State) (owner layer : Nat) : (s.noteLate owner layer).tileView = s.tileView := by
  obtain ⟨b, eq⟩ := s.noteLate_eq owner layer
  rw [eq]
  rfl

/-- A tile that closes is closed in the tree; its sum goes to its home or up (R329, R332). -/
theorem State.closeTile_closed (s : State) (t : TreeTile) : ((s.closeTile t).coll.tile t.owner t.tensor t.tile).map (·.closed) = some true ∧
    (s.closeTile t).pwr = s.pwr ∧ (s.closeTile t).rxWait = s.rxWait := by
  have view : ∃ x : TreeTile, x.closed = true ∧ x.owner = t.owner ∧ x.tensor = t.tensor ∧ x.tile = t.tile ∧
      (s.closeTile t).tileView = ((s.coll.putTile x).tiles, s.pwr, s.rxWait) := by
    refine ⟨{ t with closed := true, slots := t.slots.filter fun x => !x.present }, rfl, rfl, rfl, rfl, ?_⟩
    unfold State.closeTile
    dsimp only
    split
    · split
      · rfl
      · split
        · exact State.writeRows_tileView ..
        · exact State.writeObj_tileView ..
    · split
      · exact (State.sendRows_tileView ..).trans (State.noteLate_tileView ..)
      · split
        · exact (State.sendContrib_tileView ..).trans (State.noteLate_tileView ..)
        · exact (State.sendContrib_tileView ..).trans (State.noteLate_tileView ..)
  obtain ⟨x, closed, owner, tensor, tile, eq⟩ := view
  have tiles : (s.closeTile t).coll.tiles = (s.coll.putTile x).tiles := congrArg Prod.fst eq
  have found : (s.closeTile t).coll.tile t.owner t.tensor t.tile = some x := by
    rw [← owner, ← tensor, ← tile]
    have put := Collectives.tile_putTile s.coll x
    unfold Collectives.tile at put ⊢
    rw [tiles]
    exact put
  exact ⟨found ▸ congrArg some closed, congrArg (fun y : List TreeTile × Power × Nat => y.2.1) eq, congrArg (fun y : List TreeTile × Power × Nat => y.2.2) eq⟩

/-! ### The obligation -/

section
variable {s : State} {h : ContribHdr} {payload : Bytes}

/-- CONTRIBUTION_SEND of a leaf (R326). -/
theorem execContributionSend_leaf (hown : s.ownContrib (s.leafHdr h payload) payload = true) (hpos : s.treePos (s.leafHdr h payload).owner.toNat ≠ 0)
    (hkids : s.job.p.childPos (s.treePos (s.leafHdr h payload).owner.toNat) = []) :
    exec (.contributionSend h payload) s = .next ((((s.handed (s.leafHdr h payload)).upColl fun c =>
        { c with lastContrib := s.now, sentNonfinite := c.sentNonfinite || (s.leafHdr h payload).nonfinite }).noteLate (s.leafHdr h payload).owner.toNat
          (s.leafHdr h payload).layer.toNat).sendContrib (s.leafHdr h payload)
            (if (s.leafHdr h payload).rows then payload.take 256 else []) (if (s.leafHdr h payload).rows then payload.drop 256 else payload)) := by
  change execContributionSend h payload s = _
  unfold execContributionSend
  dsimp only
  rw [hown, hkids, decide_eq_true hpos]
  rfl

/-- A contribution of one packet goes to the parent's port (R326, R328). -/
theorem State.sendContrib_one {s : State} {h : ContribHdr} (index record : Bytes) (hone : isEmptyC h = true ∨ h.bf16 = false) (hhalf : h.half = false) :
    s.sendContrib h index record =
      (let pos := s.treePos h.owner.toNat
       let pl := contribBytes { h with srcPos := BitVec.ofNat 17 pos } ++ (if isEmptyC h then [] else index ++ record)
       s.request { pktBlank with
         op := if s.job.p.level.toNat ≥ 2 then 0x04 else 0x02, cls := 1, rw := decide (s.job.p.level.toNat < 2)
         dst := s.job.p.moduleOf (s.job.p.memberAt h.owner.toNat (s.job.p.parentPos pos)), addr := s.contribAddr h
         key := s.collKey s.job.p.jobId, job := s.job.p.jobId, len := BitVec.ofNat 13 pl.length, payload := pl } none) := by
  obtain ⟨job, tensor, step, tile, owner, srcPos, count, bf16, nonfinite, stale, rows, last, run, half, layer⟩ := h
  obtain rfl : half = false := hhalf
  unfold State.sendContrib
  dsimp only
  by_cases he : count = 0
  · simp only [isEmptyC, he, decide_true, if_true, List.append_nil]
    rfl
  · have single : bf16 = false := hone.resolve_left fun hc => he (of_decide_eq_true hc)
    simp only [isEmptyC, decide_eq_false he, single, Bool.false_eq_true, if_false]
    rfl

/-- CONTRIBUTION_SEND of a node that has children, or of the root. -/
theorem execContributionSend_node (hown : s.ownContrib (s.leafHdr h payload) payload = true)
    (hpos : s.treePos (s.leafHdr h payload).owner.toNat = 0 ∨ s.job.p.childPos (s.treePos (s.leafHdr h payload).owner.toNat) ≠ [])
    (hroom : s.scratchFull (s.leafHdr h payload) payload = false) :
    exec (.contributionSend h payload) s = .next (((s.handed (s.leafHdr h payload)).upColl fun c => { c with
      lastContrib := s.now
      sentNonfinite := c.sentNonfinite || (s.leafHdr h payload).nonfinite
      lateOwn := c.lateOwn || ((s.coll.tile (s.leafHdr h payload).owner (s.leafHdr h payload).tensor (tileKey (s.leafHdr h payload))).map (·.closed)).getD false
        }).placeOwn (s.leafHdr h payload) payload).pumpRx := by
  have node : (decide (s.treePos (s.leafHdr h payload).owner.toNat ≠ 0) && (s.job.p.childPos (s.treePos (s.leafHdr h payload).owner.toNat)).isEmpty) = false := by
    rcases hpos with h0 | h0
    · rw [decide_eq_false (not_not_intro h0), Bool.false_and]
    · rw [List.isEmpty_eq_false_iff.mpr h0, Bool.and_false]
  change execContributionSend h payload s = _
  unfold execContributionSend
  dsimp only
  rw [hown, node, hroom]
  obtain ⟨l, eq⟩ := s.handed_eq (s.leafHdr h payload)
  rw [eq]
  rfl
end

/-- TILE_CLOSE_TIMER of a tile that is open, or of which no contribution has come (R329). -/
theorem execTileCloseTimer_open {owner : BitVec 17} {tensor tile : Word} {s : State} (hcl : s.closes owner tensor tile = true)
    (hopen : ∀ x : TreeTile, s.coll.tile owner tensor tile = some x → x.closed = false) : ∃ x : TreeTile, (x.owner = owner ∧ x.tensor = tensor ∧ x.tile = tile) ∧
      (∀ y, s.coll.tile owner tensor tile = some y → y = x) ∧ exec (.tileCloseTimer owner tensor tile) s =
        .next ((s.advanceTo (BitVec.ofNat 64 (s.closeAt x.layer.toNat (s.treePos owner.toNat)).toNat)).closeTile x).pumpRx := by
  change ∃ x : TreeTile, _ ∧ _ ∧ execTileCloseTimer owner tensor tile s = _
  unfold execTileCloseTimer
  rw [if_pos hcl]
  dsimp only
  cases hx : s.coll.tile owner tensor tile with
  | none => exact ⟨_, ⟨rfl, rfl, rfl⟩, fun y hy => absurd hy (by simp), if_neg Bool.false_ne_true⟩
  | some x =>
    have here := List.find?_some hx
    simp only [Bool.and_eq_true, decide_eq_true_eq] at here
    exact ⟨x, ⟨here.1.1, here.1.2, here.2⟩, fun y hy => (Option.some.inj hy).symm, if_neg (ne_true_of_eq_false (hopen x hx))⟩

/-- Settles O41: contributions join, wait, drop or are refused by their step; own ones go to the parent or into slot 0; tiles close once. -/
theorem contributionsJoinTheirTiles : Obligations.ContributionsJoinTheirTiles := by
  refine ⟨fun p k slot s ha hp hrx hhold hmine hop hslot hrun => ?_, fun p k slot s ha hp ht hmine hop hslot hrun => ?_,
    fun p k slot s ha hp ht hmine hop hslot hrun => ?_, fun p k slot s ha hp ht hmine hop hslot hrun => ?_,
    fun p k slot s ha hp hrx hhold hmine hop hrw hslot hrun => ?_, fun h payload s hown hpos hkids => ?_,
    fun h payload q tag s hown hpos hkids hone hopen hwait hdead hmay hself hport => ?_,
    fun h payload s hown hpos hroom => execContributionSend_node hown hpos hroom, fun h payload s hown => ?_, fun owner tensor tile x s hcl hx hopen => ?_,
    fun owner tensor tile s hcl hopen hrx => ?_, fun owner tensor tile x s hx hclosed => ?_⟩
  · rw [execReduce_takes ha hrx hhold hmine hop, State.takeContrib_joins hp hslot hrun]
  · obtain ⟨hrx, hhold, hnone⟩ := ht
    have run := execReduce_takes ha hrx hhold hmine hop
    obtain ⟨sends, rx⟩ := State.applied_sends (s.upColl fun c => { c with early := c.early ++ [(contribOf k.payload, k.payload.drop 64, s.now)] }) k 0 []
    rw [State.takeContrib_early hp hslot hrun, State.pumpRx_none (rx.trans hnone)] at run
    obtain ⟨b, eq⟩ := sends
    rw [eq] at run
    exact ⟨_, run, rfl, rfl⟩
  · obtain ⟨hrx, hhold, hnone⟩ := ht
    have run := execReduce_takes ha hrx hhold hmine hop
    rw [State.takeContrib_late hp hslot hrun] at run
    generalize hd : (!isEmptyC (contribOf k.payload) && countsOnce (contribOf k.payload)) = d at run
    obtain ⟨⟨b, eq⟩, rx⟩ := State.applied_sends (s.when d fun s => s.upColl Collectives.drop) k 0 []
    have none_left : (s.when d fun s => s.upColl Collectives.drop).rxWait = 0 := by
      cases d <;> exact hnone
    rw [State.pumpRx_none (rx.trans none_left), eq] at run
    refine ⟨_, run, ?_, ?_⟩
    · by_cases hboth : isEmptyC (contribOf k.payload) = false ∧ countsOnce (contribOf k.payload) = true
      · rw [if_pos hboth]
        rw [hboth.1, hboth.2] at hd
        subst hd
        rfl
      · rw [if_neg hboth]
        have kept : d = false := by
          rw [← hd]
          simpa using hboth
        subst kept
        rfl
    · cases d <;> rfl
  · obtain ⟨hrx, hhold, hnone⟩ := ht
    have run := execReduce_takes ha hrx hhold hmine hop
    rw [State.takeContrib_beyond hp hslot hrun] at run
    generalize hu : (s.upColl fun c => { (if countsOnce (contribOf k.payload) then c.drop else c) with collFault := true }) = u at run
    have sends : SendsOnly { u with free := u.free + 1 } (u.refuseFree k) := State.respond_sendsOnly ..
    rw [State.pumpRx_none (sends.rxWait.trans (hu ▸ hnone))] at run
    rw [sends.frame] at run
    subst hu
    refine ⟨_, run, rfl, ?_, ?_, ?_, rfl⟩
    · show (if countsOnce (contribOf k.payload) then s.coll.drop else s.coll).droppedN = _
      cases countsOnce (contribOf k.payload) <;> rfl
    · show (if countsOnce (contribOf k.payload) then s.coll.drop else s.coll).tiles = _
      cases countsOnce (contribOf k.payload) <;> rfl
    · show (if countsOnce (contribOf k.payload) then s.coll.drop else s.coll).early = _
      cases countsOnce (contribOf k.payload) <;> rfl
  · rw [execStore_reduces ha hrx hhold hmine hop hrw, State.takeContrib_joins hp hslot hrun]
  · have run := execContributionSend_leaf hown hpos hkids
    obtain ⟨l, handed⟩ := s.handed_eq (s.leafHdr h payload)
    rw [handed] at run ⊢
    generalize hu : State.noteLate _ (s.leafHdr h payload).owner.toNat _ = u at run
    obtain ⟨late, noted⟩ := State.noteLate_eq (((s.upColl fun c => { c with toSend := l }).upColl fun c =>
      { c with lastContrib := s.now, sentNonfinite := c.sentNonfinite || (s.leafHdr h payload).nonfinite })) (s.leafHdr h payload).owner.toNat
        (s.leafHdr h payload).layer.toNat
    obtain ⟨b, i, c, talked⟩ := u.sendContrib_talks (s.leafHdr h payload)
      (if (s.leafHdr h payload).rows then payload.take 256 else []) (if (s.leafHdr h payload).rows then payload.drop 256 else payload)
    rw [talked, ← hu, noted] at run
    exact ⟨_, run, rfl, rfl, rfl, rfl, rfl⟩
  · have run := execContributionSend_leaf hown hpos hkids
    obtain ⟨c, held⟩ := s.handedLate_eq (s.leafHdr h payload) (fun c =>
      { c with lastContrib := s.now, sentNonfinite := c.sentNonfinite || (s.leafHdr h payload).nonfinite }) (s.leafHdr h payload).owner.toNat
        (s.leafHdr h payload).layer.toNat
    rw [held, State.sendContrib_one _ _ hone rfl] at run
    have whole : (if (s.leafHdr h payload).rows then payload.take 256 else []) ++ (if (s.leafHdr h payload).rows then payload.drop 256 else payload) = payload := by
      split
      · exact List.take_append_drop 256 payload
      · rfl
    dsimp only at run
    rw [whole] at run
    have code : ∀ b : Byte, b ≠ 0x04 → b ≠ 0x02 → (if s.job.p.level.toNat ≥ 2 then (0x04 : Byte) else 0x02) ≠ b := fun b h4 h2 => by
      split
      · exact h4.symm
      · exact h2.symm
    obtain ⟨queues, out⟩ := State.request_queued (s := { s with coll := c }) hopen hwait hdead hmay
      (code 0x05 (by decide) (by decide)) (code 0x10 (by decide) (by decide)) hself hport
    exact ⟨_, run, queues, out, rfl, rfl⟩
  · change execContributionSend h payload s = _
    unfold execContributionSend
    dsimp only
    rw [hown]
    rfl
  · obtain ⟨y, -, same, run⟩ := execTileCloseTimer_open hcl fun z hz => by rw [hx] at hz; exact Option.some.inj hz ▸ hopen
    obtain rfl := same x hx
    exact run
  · obtain ⟨x, ⟨rfl, rfl, rfl⟩, -, run⟩ := execTileCloseTimer_open hcl hopen
    obtain ⟨closed, pwr, rx⟩ := State.closeTile_closed (s.advanceTo (BitVec.ofNat 64 (s.closeAt x.layer.toNat (s.treePos x.owner.toNat)).toNat)) x
    rw [State.pumpRx_none (rx.trans hrx)] at run
    refine ⟨_, run, closed, ?_, pwr⟩
    exact State.closeTile_queues ..
  · change execTileCloseTimer owner tensor tile s = _
    unfold execTileCloseTimer
    rw [hx]
    dsimp only
    split
    · exact if_pos hclosed
    · rfl

end Sys2Proof.Machine
end

section
/-! # PROOFS. Set-up of a job -/
namespace Sys2Proof.Machine

/-! ## What a set-up touches -/

/-- A binding leaves the image that is bound. -/
theorem State.applyBinding_image (s : State) (b : Binding) : (s.applyBinding b).rt.image = s.rt.image := by
  have clock : ∀ s : State, s.clockBound.rt = s.rt := fun s => by
    unfold State.clockBound
    split
    · rfl
    · refine foldl_keeps State.rt _ (fun s c => ?_) (List.finRange 64) s
      exact State.upCluster_rt ..
  have attach : ∀ s : State, s.attachAll.rt.image = s.rt.image := fun s =>
    foldl_keeps (fun s : State => s.rt.image) State.attachOne (fun _ _ => rfl) _ _
  unfold State.applyBinding
  dsimp only
  obtain ⟨v, r, eq⟩ := State.refreq_refreqs (State.clockBound _)
  rw [eq]
  refine (congrArg Runtime.image (clock _)).trans ?_
  refine (foldl_keeps (fun s : State => s.rt.image) (fun s c => s.upCell c CellS.unbind) (fun _ _ => rfl) _ _).trans ?_
  exact attach _

/-- An image that is installed is the one bound. -/
theorem State.install_image {s v : State} {im : Image} {size : DWord} (h : s.install im size = .ok v) : v.rt.image = some im := by
  unfold State.install at h
  dsimp only at h
  split at h
  · cases h
  · split at h
    · cases h
    · obtain rfl := Except.ok.inj h
      exact State.applyBinding_image ..

/-- A job that is formed has its parameters, begins at its first step, and no contribution has come for it. -/
theorem State.form_formed (s old : State) (p : JobParams) : (s.form p old).job.phase = .formed ∧ (s.form p old).job.p = p ∧
    (s.form p old).coll.early = [] ∧ (s.form p old).rt.image = s.rt.image := by
  unfold State.form
  have kept := State.ceilingStep_keeps (fun s => s.rt.image) (fun _ _ => rfl) s
  exact ⟨State.reEnv_keeps (fun s => s.job.phase) (fun _ _ => rfl) (fun _ _ => rfl) ..,
    State.reEnv_keeps (fun s => s.job.p) (fun _ _ => rfl) (fun _ _ => rfl) ..,
    State.reEnv_keeps (fun s => s.coll.early) (fun _ _ => rfl) (fun _ _ => rfl) ..,
    (State.reEnv_keeps (fun s => s.rt.image) (fun _ _ => rfl) (fun _ _ => rfl) ..).trans kept⟩

/-- A step that does not wait for its begin reaches no hold. -/
theorem State.holdCheck_begun {s : State} (h : s.job.stage ≠ .idle) : s.holdCheck = s := by
  have none : s.holdReached = false := by
    unfold State.holdReached
    rw [decide_eq_false h, Bool.and_false, Bool.false_and, Bool.false_and]
  unfold State.holdCheck
  rw [none]
  rfl

/-- What a wait notes is its begin and the waits that have ended. -/
theorem State.noteWait_waits (s : State) : ∃ w l, s.noteWait = s.upJob fun j => { j with waitSince := w, waits := l } := by
  unfold State.noteWait
  split
  · exact ⟨_, s.job.waits, rfl⟩
  · exact ⟨_, _, rfl⟩
  · exact ⟨s.job.waitSince, s.job.waits, rfl⟩

/-- A run that begins with no early contribution: the job runs, from the time given. -/
theorem State.beginRun_runs {s : State} (replay : Bool) (stamp : DWord) (h : s.coll.early = []) :
    ∃ w l, s.beginRun replay stamp = { s.clearRun with
      job := { s.job with stage := .running, replay := replay, tStart := stamp, record := .zero, waitSince := w, waits := l }
      coll := { s.clearRun.coll with children := s.coll.early4, early4 := [], early := [] } } := by
  unfold State.beginRun State.noteStep State.openEarly
  dsimp only
  generalize hu : List.foldl _ _ _ = u
  have eq : u = { s.clearRun with
      job := { s.job with stage := .running, replay := replay, tStart := stamp, record := .zero }
      coll := { s.clearRun.coll with children := s.coll.early4, early4 := [], early := [] } } := by
    rw [← hu]
    change List.foldl _ _ s.coll.early = _
    rw [h]
    rfl
  obtain ⟨w, l, noted⟩ := u.noteWait_waits
  rw [noted, State.holdCheck_begun (by rw [eq]; exact Stage.noConfusion), eq]
  exact ⟨w, l, rfl⟩

/-- The end of a set-up is told to the host only. -/
theorem State.endSetup_hostOnly (s : State) (status detail : Nat) (result : DWord) : HostOnly s (s.endSetup status detail result) := by
  unfold State.endSetup
  split
  · exact .refl s
  · exact ⟨_, rfl⟩

/-- The first run of a job begins at the job's first step and at its start time. -/
theorem State.firstRun_runs {s : State} (step : DWord) (h : s.coll.early = []) : (s.firstRun step).job.phase = .formed ∧ (s.firstRun step).job.step = step ∧
    (s.firstRun step).job.stage = .running ∧ (s.firstRun step).job.p.jobId = s.job.p.jobId ∧
    (s.firstRun step).job.p.level = s.job.p.level ∧ (s.firstRun step).job.tStart = s.job.p.startTime ∧ (s.firstRun step).rt.image = s.rt.image := by
  unfold State.firstRun
  dsimp only
  generalize hu : s.upJob _ = u
  obtain ⟨b, ended⟩ := u.endSetup_hostOnly stOk 0 step
  rw [ended]
  obtain ⟨w, l, run⟩ := State.beginRun_runs (s := { u with host := b }) false u.job.p.startTime (hu ▸ h)
  have at' := congrArg State.job run
  have image := congrArg (fun s : State => s.rt.image) run
  generalize State.beginRun _ _ _ = t at at' image ⊢
  rw [at', image, ← hu]
  exact ⟨rfl, rfl, rfl, rfl, rfl, rfl, rfl⟩

/-! ## The set-up descriptor -/

/-- A ring's descriptors say nothing of the jobs that rings are bound to. -/
theorem State.begun_ringJob (s : State) (r : Fin 64) (d : Desc) : (s.begun r d).ringJob r = s.ringJob r := by
  have bound : (s.begun r d).host.rings[r].jobId = s.host.rings[r].jobId := updV_keeps Ring.jobId _ r r _ fun _ => rfl
  unfold State.ringJob
  rw [bound]
  rfl

theorem State.begun_boundRings (s : State) (r : Fin 64) (d : Desc) (id : Word) : (s.begun r d).boundRings r id = s.boundRings r id := by
  unfold State.boundRings
  congr 1
  refine List.filter_congr fun i _ => ?_
  have bound : (s.begun r d).host.rings[i].jobId = s.host.rings[i].jobId := updV_keeps Ring.jobId _ r i _ fun _ => rfl
  rw [bound]

theorem State.upRing_upRing (s : State) (r : Fin 64) (f g : Ring → Ring) : (s.upRing r f).upRing r g = s.upRing r fun x => g (f x) :=
  congrArg (fun v => { s with host := { s.host with rings := v } }) (updV_updV ..)

/-- The set-up of a member whose ring is free to be bound and whose parameters stand. -/
theorem execJobSetup_member {r : Fin 64} {d : Desc} {blk b : Bytes} {s : State} (hb : Begins s r 0x10 d) (hphase : s.job.phase ≠ .formed)
    (hblk : b = blk.take (leNat d.bytes 0x10 8)) (hbound : s.boundRings r (paramsOf b).jobId < 4) (hsetup : ∀ x : Fin 64, s.host.rings[x].setupOn = false)
    (hbar : s.setupBarred = none) (hmember : bit (byteAt d.bytes 0x18) 0 = false) (hpar : s.paramsBad b (paramsOf b) = none) :
    exec (.jobSetup r (some blk)) s = .next (((s.begun r d).upRing r fun g => { g with jobId := some (paramsOf b).jobId, setupOn := true }).setupMember
      b (paramsOf b)) := by
  have idle : (s.begun r d).host.rings.toList.any (·.setupOn) = false := by
    rw [List.any_eq_false]
    intro g hg
    obtain ⟨i, hi, rfl⟩ := List.getElem_of_mem hg
    have here : (s.begun r d).host.rings[(⟨i, by simpa using hi⟩ : Fin 64)].setupOn = s.host.rings[(⟨i, by simpa using hi⟩ : Fin 64)].setupOn :=
      updV_keeps Ring.setupOn _ r _ _ fun _ => rfl
    exact ne_true_of_eq_false (here.trans (hsetup _))
  change execJobSetup r (some blk) s = _
  unfold execJobSetup
  rw [State.beginDesc_begins hb]
  dsimp only
  rw [← hblk, hmember, idle, State.begun_boundRings, if_neg (by rw [show (s.begun r d).job.phase = s.job.phase from rfl, decide_eq_false hphase]; simp),
    if_neg (by omega), show (s.begun r d).job.phase = s.job.phase from rfl, decide_eq_false hphase]
  generalize paramsOf b = p at hbound hpar ⊢
  generalize hv : (s.begun r d).upRing r _ = v
  have bar : v.setupBarred = none := hv ▸ hbar
  have par : v.paramsBad b p = none := hv ▸ hpar
  rw [bar, par, Bool.or_self]
  refine congrArg Host.Outcome.next ((if_neg Bool.false_ne_true).trans ?_)
  rw [← hv, State.upRing_upRing]

/-- A member's set-up whose image can be bound and fits, with nothing to restore: the job is formed and its first run begins. -/
theorem State.setupMember_forms {s v : State} {b : Bytes} {p : JobParams} {im : Image}
    (himg : checkImage (slice b (leNat b 0x78 8) (leNat b 0x80 8)) (s.levelFor p).toNat s.quince.minorMax = .ok im)
    (hbind : s.install im p.retSize = .ok v) (hfits : s.imageBad { p with level := s.levelFor p } im = none) (hfresh : p.restoreValid = false) :
    ∃ h, s.setupMember b p = ((v.form { p with level := s.levelFor p } s).offerHandover h false).firstRun p.firstStep := by
  unfold State.setupMember
  dsimp only
  rw [himg]
  dsimp only
  rw [hbind, hfits]
  exact ⟨_, if_neg (ne_true_of_eq_false hfresh)⟩

/-- A member's set-up whose image cannot be bound is refused with the index of what cannot be. -/
theorem State.setupMember_unbound {s : State} {b : Bytes} {p : JobParams} {im : Image} {i : Nat}
    (himg : checkImage (slice b (leNat b 0x78 8) (leNat b 0x80 8)) (s.levelFor p).toNat s.quince.minorMax = .ok im)
    (hbind : s.install im p.retSize = .error i) : s.setupMember b p = s.endSetup stVersion (0x0B + 256 * i) 0 := by
  unfold State.setupMember
  dsimp only
  rw [himg]
  dsimp only
  rw [hbind]

/-- Settles O52. -/
theorem setupFormsTheJob : Obligations.SetupFormsTheJob := by
  refine ⟨fun r d blk b p im s u v hb hphase hblk hp hbound hsetup hbar hmember hpar hu himg hbind hfits hfresh => ?_,
    fun r d blk b p im i s u hb hphase hblk hp hbound hsetup hbar hmember hpar hu himg hbind => ?_,
    fun r d s hb => congrArg Host.Outcome.next (State.beginDesc_begins hb _), fun r d blk s hb hring hphase => ?_⟩
  · have run := execJobSetup_member hb hphase hblk hbound hsetup hbar hmember hpar
    subst hp
    generalize paramsOf b = p at run hu himg hbind hfits hfresh ⊢
    have member : ((s.begun r d).upRing r fun g => { g with jobId := some p.jobId, setupOn := true }) = u := hu.symm
    have level : u.levelFor p = s.levelFor p := by
      rw [hu]
      rfl
    have minor : u.quince.minorMax = s.quince.minorMax := by
      rw [hu]
      rfl
    rw [← level, ← minor] at himg
    obtain ⟨h, forms⟩ := State.setupMember_forms himg hbind (level ▸ hfits) hfresh
    rw [member, forms, level] at run
    obtain ⟨-, params, early, image⟩ := v.form_formed u { p with level := s.levelFor p }
    generalize v.form _ u = f at params early image run
    obtain ⟨phase, step, stage, job, level, start, bound⟩ := State.firstRun_runs (s := f.offerHandover h false) p.firstStep early
    exact ⟨_, run, phase, step, stage, job.trans (congrArg JobParams.jobId params), level.trans (congrArg JobParams.level params),
      start.trans (congrArg JobParams.startTime params), bound.trans (image.trans (State.install_image hbind))⟩
  · have run := execJobSetup_member hb hphase hblk hbound hsetup hbar hmember hpar
    subst hp
    generalize paramsOf b = p at run hu himg hbind
    have member : ((s.begun r d).upRing r fun g => { g with jobId := some p.jobId, setupOn := true }) = u := hu.symm
    have level : u.levelFor p = s.levelFor p := by
      rw [hu]
      rfl
    have minor : u.quince.minorMax = s.quince.minorMax := by
      rw [hu]
      rfl
    rw [← level, ← minor] at himg
    rw [member, State.setupMember_unbound himg hbind] at run
    exact run
  · refine congrArg Host.Outcome.next ((State.beginDesc_begins hb _).trans ?_)
    dsimp only
    have formed : (s.begun r d).job.phase = .formed := hphase
    rw [State.begun_ringJob, hring, decide_eq_true formed]
    exact if_pos rfl

end Sys2Proof.Machine
end

section
/-! PROOFS. A step from stage 4 through the decision to its end, and the teardown of a job (R35, R307 to R309, R337 to R340, R396). -/
namespace Sys2Proof.Machine

/-! ### What a step notes -/

/-- At a boundary the job may be held, and waits are noted; its step stays. -/
theorem State.noteStep_notes (s : State) : ∃ phase hold w l h, s.noteStep =
    { s with job := { s.job with phase := phase, holdStep := hold, waitSince := w, waits := l }, host := h } := by
  obtain ⟨w, l, noted⟩ := s.noteWait_waits
  unfold State.noteStep State.holdCheck
  rw [noted]
  dsimp only
  split
  · split
    · exact ⟨_, _, w, l, s.host, rfl⟩
    · exact ⟨_, _, w, l, _, rfl⟩
  · exact ⟨s.job.phase, s.job.holdStep, w, l, s.host, rfl⟩

/-- Within a step only waits are noted. -/
theorem State.noteStep_begun {s : State} (h : s.job.stage ≠ .idle) : ∃ w l, s.noteStep = s.upJob fun j => { j with waitSince := w, waits := l } := by
  obtain ⟨w, l, noted⟩ := s.noteWait_waits
  refine ⟨w, l, ?_⟩
  unfold State.noteStep
  rw [noted]
  exact State.holdCheck_begun h

/-! ### Acting on the result of update (R309, R340) -/

/-- What a member's acting on a result leaves as it is, but for the result itself. -/
def State.actView (s : State) : Nat × DWord × Option IntRec × DWord × Vector CellS 1024 := (s.rxWait, s.job.step, s.coll.result, s.medlar.u, s.cells)

theorem State.noteStep_actView (s : State) : s.noteStep.actView = s.actView := by
  obtain ⟨phase, hold, w, l, h, noted⟩ := s.noteStep_notes
  rw [noted]
  rfl

theorem SendsOnly.actView {s t : State} (h : SendsOnly s t) : t.actView = s.actView := by
  have rx := h.rxWait
  obtain ⟨b, -, rfl⟩ := h
  exact congrArg (fun n => (n, s.job.step, s.coll.result, s.medlar.u, s.cells)) rx

theorem State.lateRebind_actView (s : State) : s.lateRebind.actView = s.actView := by
  unfold State.lateRebind
  split
  · rfl
  · split
    · rfl
    · rfl

theorem State.fmMsgOut_rxWait (s : State) (mtype : Nat) (job : Word) (body : Bytes) : (s.fmMsgOut mtype job body).rxWait = s.rxWait := by
  unfold State.fmMsgOut
  split
  · exact (State.sendPkt_sendsOnly ..).rxWait
  · rfl

theorem State.fmMsgOut_actView (s : State) (mtype : Nat) (job : Word) (body : Bytes) : (s.fmMsgOut mtype job body).actView = s.actView := by
  have rx := s.fmMsgOut_rxWait mtype job body
  obtain ⟨f, eq⟩ := s.fmMsgOut_eq mtype job body
  rw [eq] at rx ⊢
  exact congrArg (fun n => (n, s.job.step, s.coll.result, s.medlar.u, s.cells)) rx

theorem State.shareRequest_actView (s : State) (fraction : Word) (share : Nat) : (s.shareRequest fraction share).actView = s.actView :=
  s.fmMsgOut_actView 0x07 s.job.p.jobId _

theorem State.lateness_actView (s : State) (r : IntRec) (own : Nat) (fraction : Word) (idle : Bool) :
    (s.lateness r own fraction idle).actView = s.actView := by
  have counted : ∀ b : Bool, ((s.countLate s.coll.lateOwn idle).when b State.lateRebind).actView = s.actView := fun b =>
    State.when_keeps State.actView _ _ _ (State.lateRebind_actView ..)
  unfold State.lateness
  dsimp only
  split
  · exact (State.shareRequest_actView ..).trans (counted _)
  · split
    · exact (State.shareRequest_actView ..).trans (counted _)
    · exact counted _

theorem State.fractionOf_actView (s : State) : s.fractionOf.2.2.2.actView = s.actView := by
  unfold State.fractionOf
  dsimp only
  split
  · rfl
  · rfl

theorem State.writeHistory_actView (s : State) : s.writeHistory.actView = s.actView := rfl

theorem State.samples_actView (s : State) (l : List (DWord × Nat)) : (s.upJob fun j => { j with samples := l }).actView = s.actView := rfl

theorem State.upPwr_actView (s : State) (f : Power → Power) : (s.upPwr f).actView = s.actView := rfl

theorem State.fillRecord_actView (s : State) (r : IntRec) (clip fraction : Word) (critical : Bool) :
    (s.fillRecord r clip fraction critical).actView = s.actView := rfl

/-- A member that acts on a decision of update first notes the result and what the step was like. -/
theorem State.act_updates (s : State) (r : IntRec) (h : r.decision = 0) :
    ∃ (u : State) (clip : Word), u.actView = (s.rxWait, s.job.step, some r, s.medlar.u, s.cells) ∧ s.act r = u.actUpdate clip := by
  unfold State.act
  dsimp only
  generalize hv : State.when (State.fillRecord ..) _ _ = v
  rw [h]
  refine ⟨v, _, ?_, rfl⟩
  rw [← hv]
  refine (State.when_keeps State.actView _ _ _ (State.upPwr_actView ..)).trans ((State.fillRecord_actView ..).trans
    ((State.when_keeps State.actView _ _ _ (State.lateness_actView ..)).trans ((State.samples_actView ..).trans ?_)))
  exact (State.fractionOf_actView _).trans ((State.writeHistory_actView _).trans ((State.noteStep_actView _).trans rfl))

/-- Stage 5 begins with the decision of update. -/
theorem State.actUpdate_begins (s : State) (clip : Word) : (s.actUpdate clip).job.stage = .stage5 ∧ (s.actUpdate clip).coll.lastUpdate = some s.job.step ∧
    (s.actUpdate clip).actView = s.actView := by
  unfold State.actUpdate
  dsimp only
  generalize hu : State.upJob _ _ = u
  obtain ⟨w, l, noted⟩ := State.noteStep_begun (s := u) (by rw [← hu]; exact Stage.noConfusion)
  rw [noted]
  have blocks : ∃ c m x T R j, u = { s with coll := c, medlar := m, sec := x, tiers := T, rt := R, job := j } ∧ j.stage = .stage5 ∧ j.step = s.job.step ∧
      c.lastUpdate = some s.job.step ∧ c.result = s.coll.result ∧ m.u = s.medlar.u := by
    rw [← hu]
    dsimp only [State.upJob, State.upRt, State.upTiers, State.upSec, State.upMedlar, State.upColl]
    exact ⟨_, _, _, _, _, _, rfl, rfl, rfl, rfl, rfl, rfl⟩
  obtain ⟨c, m, x, T, R, j, eq, stage, step, last, result, us⟩ := blocks
  rw [eq]
  refine ⟨stage, last, ?_⟩
  unfold State.actView
  rw [← step, ← result, ← us]
  rfl

/-! ### From the end of stage 5 to the next run (R309, R316, R319) -/

/-- What the transfers and the run to come leave as they are. -/
def State.endView (s : State) : Nat × Job × DWord × DWord × TimeBase := (s.rxWait, s.job, s.medlar.u, s.medlar.stateStep, s.time)

theorem State.request_endView (s : State) (k : Pkt) (ring : Option (Fin 64 × DWord)) : (s.request k ring).endView = s.endView := by
  have rx := s.request_rxWait k ring
  obtain ⟨b, h, c, eq⟩ := s.request_talks k ring
  rw [eq] at rx ⊢
  exact congrArg (fun n => (n, s.job, s.medlar.u, s.medlar.stateStep, s.time)) rx

theorem State.beginPartner_endView (s : State) : s.beginPartner.endView = s.endView := by
  unfold State.beginPartner
  split
  · rfl
  · split
    · rfl
    · dsimp only
      split
      · rfl
      · refine (foldl_keeps State.endView _ (fun s k => s.request_endView k none) _ _).trans ?_
        exact State.when_keeps State.endView _ _ _ rfl

theorem State.headerIfDue_endView (s : State) : s.headerIfDue.endView = s.endView := by
  unfold State.headerIfDue
  split
  · rfl
  · split
    · rfl
    · split
      · rfl
      · exact State.request_endView ..

theorem State.drainOn_endView (s : State) : s.drainOn.endView = s.endView := by
  unfold State.drainOn
  split
  · rfl
  · split
    · rfl
    · split
      · exact (State.headerIfDue_endView _).trans s.beginPartner_endView
      · rfl

theorem State.writeObj_endView (s : State) (u : SenderUnit) (o : ObjS) (off : Nat) (bs : Bytes) : (s.writeObj u o off bs).endView = s.endView := by
  obtain ⟨r, T, eq⟩ := s.writeObj_eq u o off bs
  rw [eq]
  rfl

theorem State.writeRows_endView (s : State) (o : ObjS) (rows : List (Nat × List Nat)) : (s.writeRows o rows).endView = s.endView := by
  unfold State.writeRows
  refine (State.when_keeps State.endView _ _ _ rfl).trans ?_
  show (List.foldl _ s _).endView = s.endView
  exact foldl_keeps State.endView _ (fun s x => foldl_keeps State.endView _ (fun s n => s.writeObj_endView ..) _ s) _ s

theorem State.sendContrib_endView (s : State) (h : ContribHdr) (index record : Bytes) : (s.sendContrib h index record).endView = s.endView := by
  have rx := s.sendContrib_rxWait h index record
  obtain ⟨b, i, c, eq⟩ := s.sendContrib_talks h index record
  rw [eq] at rx ⊢
  exact congrArg (fun n => (n, s.job, s.medlar.u, s.medlar.stateStep, s.time)) rx

theorem State.sendRows_endView (s : State) (h : ContribHdr) (rows : List (Nat × List Nat)) : (s.sendRows h rows).endView = s.endView := by
  unfold State.sendRows
  dsimp only
  split
  · exact State.sendContrib_endView ..
  · exact foldl_keeps State.endView _ (fun s x => s.sendContrib_endView ..) _ s

theorem State.noteLate_endView (s : State) (owner layer : Nat) : (s.noteLate owner layer).endView = s.endView := by
  obtain ⟨b, eq⟩ := s.noteLate_eq owner layer
  rw [eq]
  rfl

theorem State.closeTile_endView (s : State) (t : TreeTile) : (s.closeTile t).endView = s.endView := by
  unfold State.closeTile
  dsimp only
  split
  · split
    · rfl
    · split
      · exact State.writeRows_endView ..
      · exact State.writeObj_endView ..
  · split
    · exact (State.sendRows_endView ..).trans (State.noteLate_endView ..)
    · split
      · exact (State.sendContrib_endView ..).trans (State.noteLate_endView ..)
      · exact (State.sendContrib_endView ..).trans (State.noteLate_endView ..)

theorem State.place_endView (s : State) (slot : Nat) (h : ContribHdr) (d : Bytes) (stamp : DWord) : (s.place slot h d stamp).endView = s.endView := by
  have noted : ∀ (b : Bool) (t : TreeTile), (s.when b fun s => s.noteMargin t stamp).endView = s.endView := fun b t =>
    State.when_keeps State.endView _ _ _ rfl
  unfold State.place
  dsimp only
  split
  · split
    · exact noted ..
    · exact noted ..
  · split
    · exact (State.closeTile_endView ..).trans (noted ..)
    · exact noted ..

theorem State.contribIn_endView (s : State) (h : ContribHdr) (d : Bytes) (stamp : DWord) : ((s.contribIn h d stamp).getD s).endView = s.endView := by
  unfold State.contribIn
  split
  · rfl
  · split
    · exact State.when_keeps State.endView _ _ (fun s : State => s.upColl Collectives.drop) rfl
    · exact State.place_endView ..
    · rfl
    · rfl

/-- A run that begins changes of the job its stage, its start and what belongs to a run. -/
theorem State.beginRun_endView (s : State) (replay : Bool) (stamp : DWord) : ∃ w l, (s.beginRun replay stamp).endView =
    (s.rxWait, { s.job with stage := .running, replay := replay, tStart := stamp, record := .zero, waitSince := w, waits := l }, s.medlar.u,
      s.medlar.stateStep, s.time) := by
  unfold State.beginRun State.openEarly
  dsimp only
  generalize hu : List.foldl _ _ _ = u
  have view : u.endView = (s.rxWait, { s.job with stage := .running, replay := replay, tStart := stamp, record := .zero }, s.medlar.u,
      s.medlar.stateStep, s.time) := by
    rw [← hu]
    exact foldl_keeps State.endView _ (fun s x => s.contribIn_endView ..) _ _
  have job : u.job = { s.job with stage := .running, replay := replay, tStart := stamp, record := .zero } := congrArg (fun y => y.2.1) view
  obtain ⟨w, l, noted⟩ := State.noteStep_begun (s := u) (by rw [job]; exact Stage.noConfusion)
  refine ⟨w, l, ?_⟩
  rw [noted]
  exact congrArg (fun y : Nat × Job × DWord × DWord × TimeBase => (y.1, { y.2.1 with waitSince := w, waits := l }, y.2.2)) view

/-- The step that follows stage 5 is the next one, or the same where the job is to be held. -/
theorem State.nextStep_moves (s : State) (stamp : DWord) : (s.nextStep stamp).rxWait = s.rxWait ∧
    (s.nextStep stamp).job.step = (if s.job.holdStep = some s.job.step then s.job.step else s.job.step + 1) ∧
    (s.nextStep stamp).job.records = s.job.records ∧ (s.nextStep stamp).medlar.u = s.medlar.u ∧ (s.nextStep stamp).medlar.stateStep = s.medlar.stateStep ∧
    (s.nextStep stamp).time = s.time := by
  unfold State.nextStep
  dsimp only
  generalize hu : State.when s _ _ = u
  have view : u.endView = s.endView := by
    rw [← hu]
    exact State.when_keeps State.endView _ _ _ rfl
  obtain ⟨rx, job, us, step, time⟩ : u.rxWait = s.rxWait ∧ u.job = s.job ∧ u.medlar.u = s.medlar.u ∧ u.medlar.stateStep = s.medlar.stateStep ∧
      u.time = s.time := ⟨congrArg (·.1) view, congrArg (·.2.1) view, congrArg (·.2.2.1) view, congrArg (·.2.2.2.1) view, congrArg (·.2.2.2.2) view⟩
  rw [job, ← rx, ← us, ← step, ← time]
  split
  · obtain ⟨phase, hold, w, l, h, noted⟩ := (u.upJob fun j => { j with stage := .idle, tStart := stamp }).noteStep_notes
    rw [noted, ← job]
    exact ⟨rfl, rfl, rfl, rfl, rfl, rfl⟩
  · generalize hv : State.applyShare _ _ = v
    have shared : v.endView = (u.rxWait, { s.job with step := s.job.step + 1 }, u.medlar.u, u.medlar.stateStep, u.time) := by
      rw [← hv, ← job]
      unfold State.applyShare
      split
      · rfl
      · split
        · rfl
        · rfl
    obtain ⟨w, l, run⟩ := v.beginRun_endView false stamp
    generalize v.beginRun false stamp = t at run ⊢
    have runJob : t.job.step = v.job.step ∧ t.job.records = v.job.records := ⟨congrArg (·.2.1.step) run, congrArg (·.2.1.records) run⟩
    exact ⟨(congrArg (·.1) run).trans (congrArg (·.1) shared), runJob.1.trans (congrArg (·.2.1.step) shared),
      runJob.2.trans (congrArg (·.2.1.records) shared), (congrArg (·.2.2.1) run).trans (congrArg (·.2.2.1) shared),
      (congrArg (·.2.2.2.1) run).trans (congrArg (·.2.2.2.1) shared), (congrArg (·.2.2.2.2) run).trans (congrArg (·.2.2.2.2) shared)⟩

/-- A record that is returned is kept; its descriptor, if one waits, ends. -/
theorem State.returnRecord_keeps (s : State) (rc : StepRecord) : ∃ h, s.returnRecord rc =
    { s with job := { s.job with records := s.job.records ++ [rc] }, host := h } := by
  unfold State.returnRecord
  dsimp only
  split
  · exact ⟨s.host, rfl⟩
  · unfold State.hostWrite State.when
    split
    · exact ⟨_, rfl⟩
    · exact ⟨_, rfl⟩

/-- The check of the ratios sets them and raises events. -/
theorem State.checkRatios_eq (s : State) : ∃ l h, s.checkRatios = { s with medlar := { s.medlar with ratios := l }, host := h } := by
  unfold State.checkRatios
  dsimp only
  refine ⟨_, HostOnly.foldl (fun s x => ?_) _ (s.upMedlar _)⟩
  split
  · exact .refl s
  · exact ⟨_, rfl⟩

/-- STAGE5_END as the state that hands the unit to securing and then moves to the next step. -/
theorem execStage5End_moves {s : State} (hstage : s.job.stage = .stage5) (hover : s.passOver = true) : ∃ (u : State) (rc : StepRecord) (stamp : DWord),
    (u.rxWait = s.rxWait ∧ u.job.step = s.job.step ∧ u.job.holdStep = s.job.holdStep ∧ u.job.records = s.job.records ∧ u.medlar.u = s.medlar.u + 1 ∧
      u.medlar.stateStep = s.job.step ∧ u.time = s.time) ∧ u.queues = s.queues ∧ exec .stage5End s = .next ((u.returnRecord rc).nextStep stamp).pumpRx := by
  change ∃ u rc stamp, _ ∧ _ ∧ execStage5End s = _
  unfold execStage5End
  rw [decide_eq_true hstage, hover]
  dsimp only
  obtain ⟨l, h, checked⟩ := s.checkRatios_eq
  generalize hw : State.upMedlar (State.upSec _ _) _ = w
  have drained := w.drainOn_endView
  have queues : w.drainOn.queues = s.queues := w.drainOn_queues.trans (by rw [← hw, checked]; rfl)
  have ended : w.endView = (s.rxWait, s.job, s.medlar.u + 1, s.job.step, s.time) := by
    rw [← hw, checked]
    rfl
  generalize w.drainOn = v at drained queues ⊢
  refine ⟨_, _, _, ?_, ?_, if_pos rfl⟩
  case refine_2 => exact queues
  have view := drained.trans ended
  exact ⟨congrArg (·.1) view, congrArg (·.2.1.step) view, congrArg (·.2.1.holdStep) view, congrArg (·.2.1.records) view, congrArg (·.2.2.1) view,
    congrArg (·.2.2.2.1) view, congrArg (·.2.2.2.2) view⟩

/-! ### Teardown (R396) -/

/-- The tiles of the trees, and the requests in receive buffers. -/
def State.treeView (s : State) : List TreeTile × Nat := (s.coll.tiles, s.rxWait)

theorem State.returnRecord_treeView (s : State) (rc : StepRecord) : (s.returnRecord rc).treeView = s.treeView := by
  obtain ⟨h, eq⟩ := s.returnRecord_keeps rc
  rw [eq]
  rfl

theorem State.endJobDescs_treeView (s : State) : s.endJobDescs.treeView = s.treeView := by
  refine foldl_keeps State.treeView _ (fun s x => ?_) _ s
  dsimp only
  split
  · exact State.returnRecord_treeView ..
  · rfl

/-- The tree tiles of a job that is torn down are dropped, and no request is taken on its account. -/
theorem State.tearDown_treeView (s : State) (h : s.inJob = true) : s.tearDown.treeView = ([], s.rxWait) := by
  have hp : ¬ (s.job.phase = .none ∨ s.job.phase = .tornDown) := by
    simp only [State.inJob, decide_eq_true_eq] at h
    obtain e | e := h <;> simp [e]
  have host : ∀ (s : State) f, (s.upHost f).treeView = s.treeView := fun _ _ => rfl
  have pwr : ∀ (s : State) f, (s.upPwr f).treeView = s.treeView := fun _ _ => rfl
  have medlar : ∀ (s : State) f, (s.upMedlar f).treeView = s.treeView := fun _ _ => rfl
  have sec : ∀ (s : State) f, (s.upSec f).treeView = s.treeView := fun _ _ => rfl
  have job : ∀ (s : State) f, (s.upJob f).treeView = s.treeView := fun _ _ => rfl
  have mover : ∀ (s : State) f, (s.upMover f).treeView = s.treeView := fun _ _ => rfl
  have event : ∀ (s : State) job code x y, (s.eventFor job code x y).treeView = s.treeView := fun _ _ _ _ _ => rfl
  have shares : ∀ s : State, s.dropShares.treeView = s.treeView := fun _ => rfl
  unfold State.tearDown
  rw [if_neg hp]
  refine (State.reEnv_keeps State.treeView pwr host ..).trans ?_
  simp only [event, host, pwr, shares, medlar, sec, job, mover, State.endJobDescs_treeView]
  exact congrArg (fun n => (([] : List TreeTile), n)) (State.ceilingStep_keeps State.rxWait (fun _ _ => rfl) s)

/-- TEARDOWN of the module's job ends it and is acknowledged. -/
theorem State.teardownFor_job (s : State) (h : s.inJob = true) :
    FabOnly s.tearDown (s.teardownFor s.job.p.jobId) ∧ (s.teardownFor s.job.p.jobId).rxWait = s.tearDown.rxWait := by
  unfold State.teardownFor
  rw [h, decide_eq_true rfl]
  obtain ⟨f, eq⟩ := s.tearDown.fmMsgOut_eq 0x0C s.job.p.jobId (toLE s.job.p.jobId.toNat 4)
  exact ⟨⟨_, eq⟩, State.fmMsgOut_rxWait ..⟩

/-! ### Sending the member's record (R336 to R340) -/

/-- The member's own record is there, and its wait since then. -/
def State.reported (s : State) (w : Option DWord) (l : List (DWord × DWord)) : State :=
  { s with
    job := { s.job with waitSince := w, waits := l }
    coll := { s.coll with ownRec := some s.ownRecord, sentAt := s.now } }

/-- INTEGRITY_SEND of a member whose own part is done. -/
theorem execIntegritySend_due {s : State} (hin : s.inJob = true) (hstage : s.job.stage = .stage4) (hruns : s.allRunsDone = true)
    (hsq : s.medlar.sumsq.isSome = true) (hnests : s.rt.nestsStarted = s.rt.nestsReported) (hown : s.coll.ownRec = none) (hunsent : s.unsent = false) :
    ∃ w l, exec .integritySend s = .next (s.reported w l).tryCombine.pumpRx := by
  obtain ⟨w, l, noted⟩ := State.noteStep_begun (s := s.upColl fun c => { c with ownRec := some s.ownRecord, sentAt := s.now })
    (show s.job.stage ≠ .idle by rw [hstage]; exact Stage.noConfusion)
  refine ⟨w, l, ?_⟩
  change execIntegritySend s = _
  unfold execIntegritySend
  rw [hin, decide_eq_true hstage, hruns, hsq, decide_eq_true hnests, hown, hunsent]
  refine (if_pos rfl).trans ?_
  dsimp only
  rw [noted]
  rfl

/-- A record that waits for one of a child is not combined. -/
theorem State.tryCombine_waits {s : State} {c : Nat} (hkid : c ∈ s.kids) (hnone : getKV c s.coll.children = none) : s.tryCombine = s := by
  have missing : (s.kids.map fun k => getKV k s.coll.children).any Option.isNone = true :=
    List.any_eq_true.mpr ⟨none, List.mem_map.mpr ⟨c, hkid, hnone⟩, rfl⟩
  unfold State.tryCombine
  split
  · rfl
  · dsimp only
    rw [missing, Bool.or_true]
    rfl

/-- Without the member's own record nothing is combined. -/
theorem State.tryCombine_alone {s : State} (hown : s.coll.ownRec = none) : s.tryCombine = s := by
  unfold State.tryCombine
  rw [hown]

/-- The record of a leaf goes to its parent (R340). -/
theorem State.tryCombine_leaf {s : State} {own : IntRec} (hown : s.coll.ownRec = some own) (hkids : s.kids = []) (hup : s.coll.sentUp = false)
    (hpos : s.treePos 0 ≠ 0) :
    s.tryCombine = (s.upColl fun c => { c with sentUp := true }).sendRec (s.job.p.parentPos (s.treePos 0)) own := by
  unfold State.tryCombine
  rw [hown]
  dsimp only
  rw [hkids, hup]
  exact (if_neg Bool.false_ne_true).trans (if_neg hpos)

/-! ### Records of other members (R337, R340, R377) -/

section
variable {p : Fin 32} {k : Pkt} {s : State} {c : Nat} (ha : Arrives s p k) (hop : k.op = 0x10) (hmine : s.fab.mine p k = true)
  (htype : msgType k = 0x06) (hknown : msgKnown k = true) (hin : s.inJob = true) (hjob : k.job = s.job.p.jobId)
  (hid : (intOf (k.payload.drop 4)).jobId = s.job.p.jobId) (hcoll : s.fab.collOk k = true) (hpos : s.posOf k.src = some c)
include ha hop hmine htype hknown hin hjob hid hcoll hpos

/-- A record of a member of the job: a result, or one of a child. -/
theorem execIntegrity_member : exec (.integrity p k) s = .next
    (if (intOf (k.payload.drop 4)).result then
      if decide (s.treePos 0 ≠ 0) && decide (c = s.job.p.parentPos (s.treePos 0)) && s.coll.sentUp && s.coll.result.isNone &&
          decide ((intOf (k.payload.drop 4)).step = s.job.step) && decide ((intOf (k.payload.drop 4)).run = s.job.replay) then
        (s.passDown (intOf (k.payload.drop 4))).pumpRx
      else s.countDiscard p
    else if s.kids.contains c then (s.childRec c k.src (intOf (k.payload.drop 4))).pumpRx else s.countDiscard p) := by
  change execIntegrity p k s = _
  unfold execIntegrity
  rw [hop, hmine, htype, hknown, State.arrivePkt_arrives ha]
  dsimp only
  rw [hin, decide_eq_true hjob, decide_eq_true hid, hcoll, hpos]
  rfl

/-- The result of the parent, for the present run, is passed down. -/
theorem execIntegrity_result (hres : (intOf (k.payload.drop 4)).result = true) (hroot : s.treePos 0 ≠ 0) (hparent : c = s.job.p.parentPos (s.treePos 0))
    (hup : s.coll.sentUp = true) (hresult : s.coll.result = none) (hstep : (intOf (k.payload.drop 4)).step = s.job.step)
    (hrun : (intOf (k.payload.drop 4)).run = s.job.replay) : exec (.integrity p k) s = .next (s.passDown (intOf (k.payload.drop 4))).pumpRx := by
  refine (execIntegrity_member ha hop hmine htype hknown hin hjob hid hcoll hpos).trans (congrArg Host.Outcome.next ((if_pos hres).trans (if_pos ?_)))
  rw [decide_eq_true hroot, decide_eq_true hparent, hup, hresult, decide_eq_true hstep, decide_eq_true hrun]
  rfl
end

/-- A result that is passed down is acted on: with the decision of update, stage 5 begins (R309, R340). -/
theorem State.passDown_updates (s : State) (r : IntRec) (h : r.decision = 0) : (s.passDown r).job.stage = .stage5 ∧
    (s.passDown r).coll.lastUpdate = some s.job.step ∧ (s.passDown r).actView = (s.rxWait, s.job.step, some r, s.medlar.u, s.cells) := by
  have sends : SendsOnly s (s.kids.foldl (fun s k => s.sendRec k r) s) := .foldl (fun s k => s.sendPkt_sendsOnly _) _ s
  have view := sends.actView
  unfold State.passDown
  generalize List.foldl _ s _ = v at view ⊢
  obtain ⟨u, clip, before, eq⟩ := v.act_updates r h
  obtain ⟨stage, last, after⟩ := u.actUpdate_begins clip
  have step : u.job.step = s.job.step := (congrArg (·.2.1) before).trans (congrArg (·.2.1) view)
  rw [eq]
  refine ⟨stage, last.trans (congrArg some step), after.trans (before.trans ?_)⟩
  exact congrArg (fun y : Nat × DWord × Option IntRec × DWord × Vector CellS 1024 => (y.1, y.2.1, some r, y.2.2.2)) view

/-! ### The obligation -/

/-- Settles O42. -/
theorem stepEndsAtTheDecision : Obligations.StepEndsAtTheDecision := by
  refine ⟨fun s hin hstage hred htr => ?_, fun s hsum hnone hwaits => ?_, fun c s hin hstage hruns hsq hnests hown hunsent hkid hchild hrx => ?_,
    fun s hin hstage hruns hsq hnests hown hunsent hkids hup hpos hrx => ?_,
    fun p k c s ha hop hmine htype hknown hin hjob hid hcoll hpos hkid hres hstep hrun hresult hown hrx => ?_,
    fun p k s ha hop hmine htype hknown hin hjob hid hcoll hroot hpos hres hup hresult hstep hrun hdec hrx => ?_,
    fun s hstage hover hrx => ?_, fun p k s ha hop hmine htype hknown hrelay hin hid hrx => ?_⟩
  · obtain ⟨w, l, noted⟩ := State.noteStep_begun
      (s := (s.upJob fun j => { j with stage := .stage4 }).upMedlar fun m => { m with sumStarted := true, sumsq := none }) Stage.noConfusion
    have run : exec .stage4Begin s = .next (((s.upJob fun j => { j with stage := .stage4 }).upMedlar fun m =>
        { m with sumStarted := true, sumsq := none }).noteStep) := by
      change execStage4Begin s = _
      unfold execStage4Begin
      rw [hin, decide_eq_true hstage, hred, htr]
      exact if_pos rfl
    rw [noted] at run
    exact ⟨_, run, rfl, rfl, rfl⟩
  · change execSumsqDone s = _
    unfold execSumsqDone
    rw [hsum, hnone, hwaits]
    exact if_pos rfl
  · obtain ⟨w, l, run⟩ := execIntegritySend_due hin hstage hruns hsq hnests hown hunsent
    rw [State.tryCombine_waits (s := s.reported w l) (c := c) hkid hchild, State.pumpRx_none (s := s.reported w l) hrx] at run
    exact ⟨_, run, rfl, rfl⟩
  · obtain ⟨w, l, run⟩ := execIntegritySend_due hin hstage hruns hsq hnests hown hunsent
    rw [State.tryCombine_leaf (s := s.reported w l) rfl hkids hup hpos] at run
    have sends := ((s.reported w l).upColl fun c => { c with sentUp := true }).sendPkt_sendsOnly
      (s.msgPkt (s.job.p.moduleOf (s.job.p.memberAt 0 (s.job.p.parentPos (s.treePos 0)))) 0x06 s.job.p.jobId (s.collKey s.job.p.jobId) 8
        (intBytes s.ownRecord))
    have sent : ((s.reported w l).upColl fun c => { c with sentUp := true }).sendRec (s.job.p.parentPos (s.treePos 0)) s.ownRecord =
      ((s.reported w l).upColl fun c => { c with sentUp := true }).sendPkt (s.msgPkt
        (s.job.p.moduleOf (s.job.p.memberAt 0 (s.job.p.parentPos (s.treePos 0)))) 0x06 s.job.p.jobId (s.collKey s.job.p.jobId) 8
          (intBytes s.ownRecord)) := rfl
    have run' := run.trans (congrArg (fun t : State => Host.Outcome.next t.pumpRx) sent)
    rw [State.pumpRx_none (sends.rxWait.trans hrx)] at run'
    refine ⟨_, run', ?_, ?_, fun q tag hself hport => ?_⟩
    · rw [sends.frame]
      rfl
    · rw [sends.frame]
      rfl
    · rw [State.sendPkt_queued (s := (s.reported w l).upColl fun c => { c with sentUp := true }) hself hport]
      exact Fabric.enqueue_at ..
  · have run := execIntegrity_member ha hop hmine htype hknown hin hjob hid hcoll hpos
    rw [hres, if_neg Bool.false_ne_true, if_pos (List.contains_iff_mem.mpr hkid)] at run
    have child : s.childRec c k.src (intOf (k.payload.drop 4)) =
        s.upColl fun x => { x with children := putKV c (intOf (k.payload.drop 4)) x.children } := by
      unfold State.childRec
      rw [decide_eq_true hrun, hresult, decide_eq_true hstep]
      refine (if_pos rfl).trans ?_
      exact State.tryCombine_alone (s := s.upColl fun x => { x with children := putKV c (intOf (k.payload.drop 4)) x.children }) hown
    rw [child, State.pumpRx_none (s := s.upColl _) hrx] at run
    exact ⟨_, run, rfl, rfl⟩
  · have run := execIntegrity_result ha hop hmine htype hknown hin hjob hid hcoll hpos hres hroot rfl hup hresult hstep hrun
    obtain ⟨stage, last, view⟩ := s.passDown_updates _ hdec
    rw [State.pumpRx_none ((congrArg (·.1) view).trans hrx)] at run
    have quiet := s.passDown_queues (intOf (k.payload.drop 4))
    generalize intOf (k.payload.drop 4) = r at run stage last view quiet ⊢
    generalize s.passDown r = t at run stage last view quiet
    have result : t.coll.result = some r := congrArg (·.2.2.1) view
    have step : t.job.step = s.job.step := congrArg (·.2.1) view
    have us : t.medlar.u = s.medlar.u := congrArg (·.2.2.2.1) view
    have cells : t.cells = s.cells := congrArg (·.2.2.2.2) view
    exact ⟨t, run, stage, result, last, step, us, cells, quiet⟩
  · obtain ⟨u, rc, stamp, ⟨rx, step, hold, records, us, stateStep, time⟩, queues, run⟩ := execStage5End_moves hstage hover
    obtain ⟨h, returned⟩ := u.returnRecord_keeps rc
    have eq := State.nextStep_moves (u.returnRecord rc) stamp
    have quiet : (u.returnRecord rc).queues = u.queues := u.returnRecord_queues rc
    generalize hv : u.returnRecord rc = v at *
    obtain ⟨rx', step', records', us', stateStep', time'⟩ := eq
    have vrx : v.rxWait = u.rxWait := by rw [returned]; rfl
    rw [State.pumpRx_none (rx'.trans (vrx.trans (rx.trans hrx)))] at run
    refine ⟨_, run, us'.trans ?_, stateStep'.trans ?_, step'.trans ?_, ?_, ?_, time'.trans ?_⟩
    · rw [returned]
      exact us
    · rw [returned]
      exact stateStep
    · rw [returned]
      dsimp only
      rw [hold, step]
    · rw [records', returned]
      dsimp only
      rw [List.length_append, records]
      rfl
    · rw [State.nextStep_queues, quiet, queues]
    · rw [returned]
      exact time
  · have run : exec (.teardown p k) s = .next (s.teardownFor s.job.p.jobId).pumpRx := by
      change execTeardown p k s = _
      unfold execTeardown
      rw [hop, hmine, htype, hknown, State.arrivePkt_arrives ha, hrelay, hid]
      rfl
    obtain ⟨⟨b, told⟩, rx⟩ := s.teardownFor_job hin
    have view := s.tearDown_treeView hin
    obtain ⟨phase, torn⟩ := s.tearDown_ended hin
    have quiet : (s.teardownFor s.job.p.jobId).queues = s.queues := State.teardownFor_queues ..
    have tiers := blindToJob_tiers.tearDown s
    rw [State.pumpRx_none (rx.trans ((congrArg Prod.snd view).trans hrx))] at run
    refine ⟨_, run, ?_, ?_, ?_, quiet, ?_⟩
    · rw [told]
      exact phase
    · rw [told]
      exact torn
    · rw [told]
      exact congrArg Prod.fst view
    · rw [told]
      exact tiers

end Sys2Proof.Machine
end

section
/-! PROOFS. The descriptors of a job (R215, R306, R364, R461, R474, R486). -/
namespace Sys2Proof.Machine

/-- A descriptor of a ring of the job's begins its work at once. -/
theorem State.beginJob_begins {s : State} {r : Fin 64} {op : Nat} {d : Desc} (h : Begins s r op d) (hring : s.ringJob r = true) (k : Desc → State → State) :
    s.beginJob r op k = k d (s.begun r d) := by
  unfold State.beginJob
  rw [State.beginDesc_begins h, State.begun_ringJob, hring]
  rfl

/-- The completion of a descriptor is told to the host only. -/
theorem State.complete_hostOnly (s : State) (r : Fin 64) (index : DWord) (status detail : Nat) (result : DWord) :
    HostOnly s (s.complete r index status detail result) := ⟨_, rfl⟩

/-- A step-size record that is not awaited is kept for its step, in place of an earlier one. -/
theorem State.takeSize_kept {s : State} {x : StepSizeRec} (h : s.awaitsSize x.step = false) :
    s.takeSize x = s.upMedlar fun m => { m with sizes := m.sizes.filter (fun y => y.step ≠ x.step) ++ [x] } := by
  unfold State.takeSize
  rw [h]
  rfl

/-- One that is awaited ends the wait, which the step record counts. -/
theorem State.takeSize_awaited {s : State} {x : StepSizeRec} (h : s.awaitsSize x.step = true) :
    s.takeSize x = (s.upMedlar fun m => { m with inUse := some x }).upJob fun j =>
      { j with record := { j.record with waitStepSize := (s.now.toNat - j.record.tDecision.toNat) / usU } } := by
  unfold State.takeSize
  rw [h]
  rfl

/-- A step-size record as its bytes give it (R306). -/
def sizeRecOf (b : Bytes) : StepSizeRec :=
  { step := BitVec.ofNat 64 (leNat b 0 8), eta := (List.range 64).map fun g => BitVec.ofNat 32 (leNat b (0x40 + 4 * g) 4) }

section
variable {r : Fin 64} {d : Desc} {s : State}

/-- STEP_SIZE with a record that may be taken. -/
theorem execStepSize_takes {b : Bytes} (h : Begins s r 0x12 d) (hring : s.ringJob r = true)
    (hrange : s.awaitsSize (sizeRecOf b).step = true ∨
      s.openStep.toNat ≤ (sizeRecOf b).step.toNat ∧ (sizeRecOf b).step.toNat ≤ s.openStep.toNat + 3)
    (heta : etaOk ((s.rt.image.map (·.groups)).getD []) b = true) :
    exec (.stepSize r (some b)) s = .next (((s.begun r d).takeSize (sizeRecOf b)).complete r d.index stOk 0 (sizeRecOf b).step) := by
  have inRange : (!(s.begun r d).awaitsSize (sizeRecOf b).step && (decide ((sizeRecOf b).step.toNat < (s.begun r d).openStep.toNat) ||
      decide ((s.begun r d).openStep.toNat + 3 < (sizeRecOf b).step.toNat))) = false := by
    have awaits : (s.begun r d).awaitsSize (sizeRecOf b).step = s.awaitsSize (sizeRecOf b).step := rfl
    have opens : (s.begun r d).openStep = s.openStep := rfl
    rw [awaits, opens]
    rcases hrange with hw | ⟨hlo, hhi⟩
    · rw [hw]
      rfl
    · rw [decide_eq_false (Nat.not_lt.mpr hlo), decide_eq_false (Nat.not_lt.mpr hhi), Bool.or_self, Bool.and_false]
  have eta : etaOk (((s.begun r d).rt.image.map (·.groups)).getD []) b = true := heta
  change execStepSize r (some b) s = _
  unfold execStepSize
  rw [State.beginJob_begins h hring]
  refine congrArg Host.Outcome.next ((if_neg (ne_true_of_eq_false inRange)).trans ?_)
  rw [eta]
  rfl

/-- EXPORT of an image that is there (R461). -/
theorem execExportData_found {i : FlashImg} (hup : s.host.linkUp = true) (h : Begins s r 0x14 d) (hjob : s.host.rings[r].jobId.isSome = true)
    (hi : s.sec.flash.find? (fun i => decide (i.step = d.stepOf) && i.complete) = some i) : exec (.exportData r) s = .next
    ((if bit (byteAt d.bytes 0x28) 0 then
        ((s.begun r d).upSec fun c => { c with flash := c.flash.map fun x => if x.step = d.stepOf then { x with held := false } else x }).upSec fun c =>
          { c with exporting := c.flash.any (·.held) }
      else (s.begun r d).exportBytes d.stepOf i (leNat d.bytes 0x10 8) (leNat d.bytes 0x18 8) (BitVec.ofNat 64 (leNat d.bytes 0x20 8))).complete
      r d.index stOk 0 (arg i.image.length)) := by
  have bound : (s.begun r d).host.rings[r].jobId = s.host.rings[r].jobId := updV_keeps Ring.jobId _ r r _ fun _ => rfl
  have found : (s.begun r d).sec.flash.find? (fun i => decide (i.step = d.stepOf) && i.complete) = some i := hi
  change execExportData r s = _
  unfold execExportData
  rw [hup, State.beginDesc_begins h]
  dsimp only
  rw [bound, Option.isNone_eq_false_iff.mpr hjob, found]
  rfl
end

/-- The bytes of an image that is read out go to the host; the image stays held until its end is reached. -/
theorem State.exportBytes_eq (s : State) (step : DWord) (i : FlashImg) (off len : Nat) (addr : DWord) : ∃ h x, s.exportBytes step i off len addr =
    { s with host := h, sec := { s.sec with
      flash := s.sec.flash.map fun y => if y.step = step then { y with held := !decide (i.image.length ≤ off + len) } else y
      exportStep := if decide (i.image.length ≤ off + len) then step else s.sec.exportStep
      exporting := x } } := by
  unfold State.exportBytes State.hostWrite State.when
  dsimp only
  split
  · exact ⟨_, _, rfl⟩
  · exact ⟨_, _, rfl⟩

/-- Settles O51. -/
theorem jobDescriptorsAct : Obligations.JobDescriptorsAct := by
  refine ⟨fun r d b s h hring hstep hlen => ?_, fun r d b s h hring hstep => ?_, fun r d b s h hring hw hlo hhi heta => ?_,
    fun r d b s h hring hw heta => ?_, fun r d b s h hring hw hhi => ?_, fun r d s h hring hphase hstage => ?_,
    fun r d i s hup h hjob hi hdrop => ?_, fun r d i s hup h hjob hi hdrop => ?_, fun r d b s h hring hop hlevel => ?_,
    fun r d b s h hring hop hlevel => ?_, fun r d s h hjob hring => ?_, fun r d s h hjob => ?_⟩
  · have right : (decide (d.stepOf ≠ (s.begun r d).nextInput) || decide ((s.begun r d).job.p.retSize.toNat < leNat d.bytes 0x18 8)) = false := by
      have next : (s.begun r d).nextInput = s.nextInput := rfl
      rw [next, decide_eq_false (not_not_intro hstep), Bool.false_or]
      exact decide_eq_false (Nat.not_lt.mpr hlen)
    have run : exec (.stepDesc r (some b)) s = .next ((s.begun r d).upTiers fun t =>
        { t with retWait := t.retWait ++ [{ step := d.stepOf, input := b.take (leNat d.bytes 0x18 8), bad := false }] }) := by
      change execStepDesc r (some b) s = _
      unfold execStepDesc
      rw [State.beginJob_begins h hring]
      exact congrArg Host.Outcome.next (if_neg (ne_true_of_eq_false right))
    exact ⟨_, run, rfl, rfl⟩
  · have wrong : (decide (d.stepOf ≠ (s.begun r d).nextInput) || decide ((s.begun r d).job.p.retSize.toNat < leNat d.bytes 0x18 8)) = true := by
      have next : (s.begun r d).nextInput = s.nextInput := rfl
      rw [next, decide_eq_true hstep, Bool.true_or]
    change execStepDesc r b s = _
    unfold execStepDesc
    rw [State.beginJob_begins h hring]
    exact congrArg Host.Outcome.next (if_pos wrong)
  · have run := execStepSize_takes h hring (.inr ⟨hlo, hhi⟩) heta
    rw [State.takeSize_kept (s := s.begun r d) (x := sizeRecOf b) hw] at run
    obtain ⟨i, told⟩ := State.complete_hostOnly ((s.begun r d).upMedlar fun m =>
      { m with sizes := m.sizes.filter (fun y => y.step ≠ (sizeRecOf b).step) ++ [sizeRecOf b] }) r d.index stOk 0 (sizeRecOf b).step
    rw [told] at run
    have kept : ∀ y ∈ s.medlar.sizes, y.step ≠ (sizeRecOf b).step → y ∈ s.medlar.sizes.filter (fun y => y.step ≠ (sizeRecOf b).step) ++ [sizeRecOf b] :=
      fun y hy hne => List.mem_append_left _ (List.mem_filter.mpr ⟨hy, decide_eq_true hne⟩)
    have newest : sizeRecOf b ∈ s.medlar.sizes.filter (fun y => y.step ≠ (sizeRecOf b).step) ++ [sizeRecOf b] :=
      List.mem_append_right _ (List.mem_singleton.mpr rfl)
    exact ⟨_, run, ⟨sizeRecOf b, newest, rfl, rfl⟩, kept, rfl⟩
  · have run := execStepSize_takes h hring (.inl hw) heta
    rw [State.takeSize_awaited (s := s.begun r d) (x := sizeRecOf b) hw] at run
    obtain ⟨i, told⟩ := State.complete_hostOnly (((s.begun r d).upMedlar fun m => { m with inUse := some (sizeRecOf b) }).upJob fun j =>
      { j with record := { j.record with waitStepSize := (s.now.toNat - j.record.tDecision.toNat) / usU } }) r d.index stOk 0 (sizeRecOf b).step
    rw [show (s.begun r d).now = s.now from rfl, told] at run
    exact ⟨_, run, rfl, rfl, rfl⟩
  · have late : (!(s.begun r d).awaitsSize (BitVec.ofNat 64 (leNat b 0 8)) &&
        (decide ((BitVec.ofNat 64 (leNat b 0 8)).toNat < (s.begun r d).openStep.toNat) ||
          decide ((s.begun r d).openStep.toNat + 3 < (BitVec.ofNat 64 (leNat b 0 8)).toNat))) = true := by
      have awaits : (s.begun r d).awaitsSize (BitVec.ofNat 64 (leNat b 0 8)) = false := hw
      have opens : (s.begun r d).openStep = s.openStep := rfl
      rw [awaits, opens, decide_eq_true hhi, Bool.or_true]
      rfl
    change execStepSize r (some b) s = _
    unfold execStepSize
    rw [State.beginJob_begins h hring]
    exact congrArg Host.Outcome.next (if_pos late)
  · have run : exec (.hold r) s = .next ((s.begun r d).upJob fun j => { j with holdStep := some d.stepOf }).holdCheck := by
      have formed : (s.begun r d).job.phase ≠ .held := by
        rw [show (s.begun r d).job.phase = s.job.phase from rfl, hphase]
        exact JobPhase.noConfusion
      change execHold r s = _
      unfold execHold
      rw [State.beginJob_begins h hring, decide_eq_false formed]
      rfl
    rw [State.holdCheck_begun (s := (s.begun r d).upJob fun j => { j with holdStep := some d.stepOf }) hstage] at run
    exact ⟨_, run, rfl, rfl⟩
  · have run := execExportData_found hup h hjob hi
    obtain ⟨b, x, eq⟩ := (s.begun r d).exportBytes_eq d.stepOf i (leNat d.bytes 0x10 8) (leNat d.bytes 0x18 8) (BitVec.ofNat 64 (leNat d.bytes 0x20 8))
    rw [hdrop, if_neg Bool.false_ne_true, eq] at run
    exact ⟨_, run, rfl, rfl, fun hend => if_pos (decide_eq_true hend)⟩
  · have run := execExportData_found hup h hjob hi
    rw [hdrop, if_pos rfl] at run
    exact ⟨_, run, rfl, rfl, rfl⟩
  · change execFabricOp r b s = _
    unfold execFabricOp
    rw [State.beginJob_begins h hring]
    dsimp only
    rw [hop]
    have level : ¬ needLevel { pktBlank with op := BitVec.ofNat 8 1, payload := ([] : Bytes) } > (s.begun r d).job.p.level.toNat := Nat.not_lt.mpr hlevel
    exact congrArg Host.Outcome.next ((if_neg (by decide)).trans (if_neg level))
  · have level : ∀ pl : Bytes, needLevel { pktBlank with op := BitVec.ofNat 8 5, payload := pl } > (s.begun r d).job.p.level.toNat := fun pl => hlevel
    change execFabricOp r b s = _
    unfold execFabricOp
    rw [State.beginJob_begins h hring]
    dsimp only
    rw [hop]
    exact congrArg Host.Outcome.next ((if_neg (by decide)).trans (if_pos (level _)))
  · have bound : (s.begun r d).host.rings[r].jobId = s.host.rings[r].jobId := updV_keeps Ring.jobId _ r r _ fun _ => rfl
    change execRelease r s = _
    unfold execRelease
    rw [State.beginDesc_begins h, bound, Option.isNone_eq_false_iff.mpr hjob, State.begun_ringJob, hring]
    rfl
  · have bound : (s.begun r d).host.rings[r].jobId = s.host.rings[r].jobId := updV_keeps Ring.jobId _ r r _ fun _ => rfl
    change execRelease r s = _
    unfold execRelease
    rw [State.beginDesc_begins h, bound, hjob]
    rfl

end Sys2Proof.Machine
end

section
/-! PROOFS. Starts run, fail, are counted and are tried again (R508 to R518, R529 to R532). -/
namespace Sys2Proof.Machine

/-! ### Supply and reset begin a start (R508, R529) -/

/-- A change of the life cycle that a start finishes leaves the pins, and the choice of a cold start. -/
theorem State.finishChange_keeps (s : State) : s.finishChange.pins = s.pins ∧ s.finishChange.quince.defaultCold = s.quince.defaultCold := by
  have turned : ∀ (u : State) (t : Life), (u.turnLife t).pins = u.pins ∧ (u.turnLife t).quince.defaultCold = u.quince.defaultCold := fun u t =>
    ⟨State.when_keeps State.pins _ _ _ rfl, State.when_keeps (fun s => s.quince.defaultCold) _ _ _ rfl⟩
  have erased : ∀ b : Bool, (s.when b fun s => s.replaceMedia.upQuince fun q => { q with erasing := false }).pins = s.pins ∧
      (s.when b fun s => s.replaceMedia.upQuince fun q => { q with erasing := false }).quince.defaultCold = s.quince.defaultCold := fun b =>
    ⟨State.when_keeps State.pins _ _ _ rfl, State.when_keeps (fun s => s.quince.defaultCold) _ _ _ rfl⟩
  unfold State.finishChange
  dsimp only
  split
  · exact erased _
  · exact ⟨(turned ..).1.trans (erased _).1, (turned ..).2.trans (erased _).2⟩

/-- What a start begins with: its kind, the register file after reset and no job; the pins that the board drives stay. -/
theorem State.beginStart_begins (s : State) (reset carry : Bool) (st : StartS) : (s.beginStart reset carry st).quince.start = some st ∧
    (s.beginStart reset carry st).quince.retryDue = none ∧ (s.beginStart reset carry st).regs = .reset ∧ (s.beginStart reset carry st).job.phase = .none ∧
    (s.beginStart reset carry st).pins.vaux = s.pins.vaux ∧ (s.beginStart reset carry st).pins.modRst = s.pins.modRst := by
  have pins : (((s.when s.inJob State.tearDown).when s.quince.approval.isSome State.raiseIbi).when reset State.shiftTimes).pins = s.pins :=
    (State.when_keeps State.pins _ _ _ rfl).trans ((State.when_keeps State.pins _ _ _ rfl).trans
      (State.when_keeps State.pins _ _ _ (blindToJob_pins.tearDown s)))
  unfold State.beginStart
  dsimp only
  generalize ((s.when s.inJob State.tearDown).when s.quince.approval.isSome State.raiseIbi).when reset State.shiftTimes = u at pins
  exact ⟨rfl, rfl, rfl, rfl, congrArg Pins.vaux pins, congrArg Pins.modRst pins⟩

/-- A start that follows no reset keeps module time. -/
theorem State.beginStart_now (s : State) (carry : Bool) (st : StartS) : (s.beginStart false carry st).now = s.now := by
  have time : (((s.when s.inJob State.tearDown).when s.quince.approval.isSome State.raiseIbi).when false State.shiftTimes).time = s.time :=
    (State.when_keeps State.time _ _ _ rfl).trans ((State.when_keeps State.time _ _ _ rfl).trans
      (State.when_keeps State.time _ _ _ (blindToJob_time.tearDown s)))
  unfold State.beginStart
  dsimp only
  generalize ((s.when s.inJob State.tearDown).when s.quince.approval.isSome State.raiseIbi).when false State.shiftTimes = u at time
  exact congrArg (fun b : TimeBase => (b.restart false carry).now) time

/-! ### A module that goes down (R529, R531) -/

/-- A module that goes down: it runs no more and leaves its job, its clusters stand still and the host has no link; the pins that the board
drives stay. -/
theorem State.goDown_down (s : State) : s.goDown.pins.vaux = s.pins.vaux ∧ s.goDown.pins.modRst = s.pins.modRst ∧ s.goDown.pins.pwrGood = false ∧
    s.goDown.quince.running = false ∧ s.goDown.quince.start = none ∧ s.goDown.inJob = false ∧ (∀ c : Fin 64, s.goDown.clusters[c].running = false) ∧
    s.goDown.host.linkUp = false := by
  have cut : ∀ u : State, u.cutLong.pins = u.pins ∧ u.cutLong.job = u.job := fun u => by
    unfold State.cutLong
    split
    · exact ⟨rfl, rfl⟩
    · dsimp only
      split
      · exact ⟨rfl, rfl⟩
      · exact ⟨rfl, rfl⟩
  have left := s.leaveJobs_inJob true
  have pins := (cut (s.leaveJobs true)).1.trans (blindToJob_pins.leaveJobs s true)
  have job := (cut (s.leaveJobs true)).2
  unfold State.goDown
  dsimp only
  generalize (s.leaveJobs true).cutLong = u at pins job
  refine ⟨?_, ?_, rfl, rfl, rfl, ?_, fun c => ?_, rfl⟩
  · rw [← pins]
    rfl
  · rw [← pins]
    rfl
  · unfold State.inJob at left ⊢
    rw [← job] at left
    exact left
  · exact congrArg Cluster.running (Vector.getElem_map ..)

/-! ### The rails of a start -/

/-- A rail is on at its first target. -/
def Power.RailOn (p : Power) (i : Fin 8) : Prop := p.rails[i].enabled = true ∧ p.rails[i].target = firstTarget i.val

/-- One rail of the order of switching on. -/
def State.railUp (s : State) (i : Fin 8) : State :=
  let s := (s.upPwr fun p => { p with lastFrame := vrbHead i.val (firstTarget i.val) onSlew true, busUp := true }).railOn i
  s.advanceTo s.pwr.onAt

/-- A rail as it is switched on. -/
def Rail.atFirst (i : Fin 8) (r : Rail) : Rail :=
  { r with target := firstTarget i.val, wantTarget := firstTarget i.val, enabled := true, wantEnable := true, pending := false }

theorem State.railOn_rails (s : State) (i : Fin 8) : (s.railOn i).pwr.rails = updV s.pwr.rails i (Rail.atFirst i) := rfl

theorem State.railUp_rails (s : State) (i : Fin 8) : (s.railUp i).pwr.rails = updV s.pwr.rails i (Rail.atFirst i) := by
  unfold State.railUp
  dsimp only
  rw [State.advanceTo_pwr, State.railOn_rails, State.upPwr_pwr]

theorem State.railUp_railOn (s : State) (i j : Fin 8) (h : i = j ∨ s.pwr.RailOn j) : (s.railUp i).pwr.RailOn j := by
  unfold Power.RailOn at h ⊢
  rw [s.railUp_rails i]
  by_cases e : i = j
  · subst e
    rw [updV_at]
    exact ⟨rfl, rfl⟩
  · rw [updV_ne _ _ (Ne.symm e)]
    exact h.resolve_left e

/-- The rails of a list that is switched on are on, and so are those that were. -/
theorem State.railUp_fold (l : List (Fin 8)) (s : State) (j : Fin 8) (h : j ∈ l ∨ s.pwr.RailOn j) : (l.foldl State.railUp s).pwr.RailOn j := by
  induction l generalizing s with
  | nil => exact h.resolve_left List.not_mem_nil
  | cons i l ih =>
    refine ih (s.railUp i) ?_
    rcases h with h | h
    · rcases List.mem_cons.mp h with h | h
      · exact .inr (s.railUp_railOn i j (.inl h.symm))
      · exact .inl h
    · exact .inr (s.railUp_railOn i j (.inr h))

/-- An operation that moves power and time alone, whatever Quince holds. -/
def Powers (f : State → State) : Prop := ∀ s : State, ∃ p t, ∀ q, f { s with quince := q } = { s with quince := q, pwr := p, time := t }

theorem Powers.comp {f g : State → State} (hf : Powers f) (hg : Powers g) : Powers fun s => g (f s) := fun s => by
  obtain ⟨p, t, first⟩ := hf s
  obtain ⟨p', t', second⟩ := hg { s with pwr := p, time := t }
  exact ⟨p', t', fun q => (congrArg g (first q)).trans (second q)⟩

theorem State.upPwr_powers (f : Power → Power) : Powers fun s => s.upPwr f := fun s => ⟨f s.pwr, s.time, fun _ => rfl⟩

theorem State.railOn_powers (i : Fin 8) : Powers fun s => s.railOn i := fun s => ⟨(s.railOn i).pwr, s.time, fun _ => rfl⟩

theorem State.reachOn_powers : Powers fun s => s.advanceTo s.pwr.onAt := fun s => ⟨s.pwr, (s.advanceTo s.pwr.onAt).time, fun _ => rfl⟩

theorem State.railUp_powers (i : Fin 8) : Powers fun s => s.railUp i :=
  ((State.upPwr_powers _).comp (State.railOn_powers i)).comp State.reachOn_powers

theorem State.railsUp_powers (l : List (Fin 8)) : Powers fun s => l.foldl State.railUp s := by
  induction l with
  | nil => exact fun s => ⟨s.pwr, s.time, fun _ => rfl⟩
  | cons i l ih => exact (State.railUp_powers i).comp ih

theorem mem_onOrder : ∀ i : Fin 8, i.val < 7 → i ∈ onOrder := by decide

/-- The rails come up in their order. -/
theorem State.powerUp_powers (s : State) : ∃ p t, (∀ i : Fin 8, i.val < 7 → p.RailOn i) ∧
    ∀ q, ({ s with quince := q } : State).powerUp = { s with quince := q, pwr := p, time := t, pins := { s.pins with pwrGood := true } } := by
  obtain ⟨p, t, eq⟩ := State.railsUp_powers onOrder s
  have own : onOrder.foldl State.railUp s = { s with pwr := p, time := t } := eq s.quince
  refine ⟨p, t, fun i hi => ?_, fun q => ?_⟩
  · have on := State.railUp_fold onOrder s i (.inl (mem_onOrder i hi))
    rw [own] at on
    exact on
  · unfold State.powerUp
    exact congrArg (fun u : State => u.upPins fun p => { p with pwrGood := true }) (eq q)

/-! ### The self-test, the training and the wipes of a start (R509 to R512) -/

/-- The self-test looks at neither Quince nor the host. -/
theorem State.selfTest_moves (s : State) (o : StartObs) : ∃ C K T b, ∀ q,
    ({ s with quince := q } : State).selfTest o = { s with quince := q, clusters := C, cells := K, tiers := T, time := b } :=
  ⟨(s.selfTest o).clusters, (s.selfTest o).cells, (s.selfTest o).tiers, (s.selfTest o).time, fun _ => rfl⟩

/-- How many clusters may run is a matter of their health and speed, and of the pairs formed. -/
theorem State.eligibleN_congr {s t : State} (hc : t.clusters = s.clusters) (ht : t.time = s.time) : t.eligibleN = s.eligibleN := by
  have view : ∀ u : State, u.eligibleN = ({ s with clusters := u.clusters, time := u.time } : State).eligibleN := fun _ => rfl
  rw [view t, hc, ht]

/-- Units that are trained have the values stored for them, which in the warm column stay where they still fit (R510, R511). -/
theorem State.trainUnits_trains (s : State) (o : StartObs) (ver : Word) (warm : Bool) : ∃ n q K T b,
    s.trainUnits o ver warm = { s with free := n, quince := q, cells := K, tiers := T, fab := b } ∧
    (q.storedValid = true ∧ q.spdmWait = s.quince.spdmWait) ∧ (∀ c : Fin 1024, K[c].tap = q.tapStored[c]) ∧
    (∀ c : Fin 1024, warm = true → s.unitFits o ver (.cluster (clusterOf c)) = true → q.tapStored[c] = s.quince.tapStored[c]) ∧
    (∀ k : Fin 12, warm = true → s.unitFits o ver (.stack k) = true → ∃ i : Fin 36, i.val = k.val ∧ q.trainStored[i] = s.quince.trainStored[i]) ∧
    (∀ p : Fin 8, warm = true → s.unitFits o ver (.optical p) = true → q.opticStored[p] = s.quince.opticStored[p]) := by
  unfold State.trainUnits
  dsimp only [State.upQuince, State.upTiers, State.upFab]
  refine ⟨_, _, _, _, _, rfl, ⟨rfl, rfl⟩, fun c => ?_, fun c hw hf => ?_, fun k hw hf => ⟨⟨k.val, by omega⟩, rfl, ?_⟩, fun p hw hf => ?_⟩
  · exact congrArg CellS.tap (Vector.getElem_mapFinIdx c.isLt)
  · refine (Vector.getElem_mapFinIdx ..).trans (if_pos ?_)
    rw [hw]
    exact hf
  · refine (Vector.getElem_mapFinIdx ..).trans (if_pos ?_)
    rw [hw]
    exact (dif_pos k.isLt).trans hf
  · refine (Vector.getElem_mapFinIdx ..).trans (if_pos ?_)
    rw [hw]
    exact hf

/-- Fresh keys use up free values alone. -/
theorem State.freshKeys_free (l : List Nat) (keys : List (BitVec 512)) (s : State) : ∃ n, (l.foldl (fun (acc : List (BitVec 512) × State) _ =>
    let (k, s) := acc.2.fresh 512
    (acc.1 ++ [k], s)) (keys, s)).2 = { s with free := n } := by
  induction l generalizing keys s with
  | nil => exact ⟨s.free, rfl⟩
  | cons a l ih =>
    obtain ⟨n, eq⟩ := ih (keys ++ [(s.fresh 512).1]) (s.fresh 512).2
    exact ⟨n, eq⟩

/-- The wipes of a start leave the tiers and cell stores without content, under new keys (R511). -/
theorem State.wipeAll_wipes (s : State) : ∃ n T K, s.wipeAll = { s with free := n, tiers := T, cells := K } ∧
    (T.keysSet = true ∧ T.wipeStk = true ∧ T.wipeCap = true ∧ T.wipeCell = true ∧ T.stackMem = []) ∧
    ∀ c : Fin 1024, K[c].store = [] ∧ K[c].tap = s.cells[c].tap := by
  unfold State.wipeAll
  obtain ⟨n, eq⟩ := State.freshKeys_free (List.range 13) [] s
  dsimp only
  rw [eq]
  dsimp only [State.upTiers]
  refine ⟨n, _, _, rfl, ⟨rfl, rfl, rfl, rfl, rfl⟩, fun c => ?_⟩
  exact ⟨congrArg CellS.store (Vector.getElem_map ..), (congrArg CellS.tap (Vector.getElem_map ..)).trans rfl⟩

/-- Setting DEVICE_READY after a start that is not a recovery from a trap (R512). -/
theorem HostIf.sendVector_ready (h : HostIf) (v : Nat) : (h.sendVector v).deviceReady = h.deviceReady ∧ (h.sendVector v).startPath = h.startPath := by
  unfold HostIf.sendVector
  split
  · exact ⟨rfl, rfl⟩
  · exact ⟨rfl, rfl⟩

/-- A start that is done: the ports train, the module is ACTIVE under the least ceiling, and DEVICE_READY is set. -/
theorem State.startDone_done (s : State) (slot warm : Bool) : ∃ n b p h q i, s.startDone slot false warm =
      { s with free := n, time := b, fab := p, host := h, quince := q, pins := i, pwr := { s.pwr with
        st := .active, pinCode := s.pins.envCode, ceilNow := 250, ceilAt := s.now } } ∧
    q = { s.quince.started slot false with ibi := q.ibi } ∧ h.deviceReady = true ∧ h.startPath = (if warm then 1 else 0) ∧
    i.faultLow = false ∧ i.pwrGood = true := by
  unfold State.startDone State.deviceReady State.armWatchdog State.bringUpPorts State.fresh
  dsimp only [State.upQuince, State.upFab, State.upPwr, State.upTime, State.upHost, State.upPins, State.raiseIbi]
  rw [if_neg Bool.false_ne_true]
  refine ⟨_, _, _, _, _, _, rfl, rfl, ?_, ?_, ?_, ?_⟩
  · exact (HostIf.sendVector_ready ..).1
  · refine (HostIf.sendVector_ready ..).2.trans ?_
    cases warm
    · rfl
    · rfl
  · cases warm
    · rfl
    · rfl
  · cases warm
    · rfl
    · rfl

/-- The training of the link looks at no block but the host interface. -/
theorem State.trainLink_eq (s : State) : ∃ n h, s.trainLink = { s with free := n, host := h } ∧ h.deviceReady = s.host.deviceReady := by
  unfold State.trainLink
  split
  · exact ⟨s.free, s.host, rfl, rfl⟩
  · exact ⟨_, _, rfl, rfl⟩

/-- What a start looks at of Quince is not touched by the training of the link. -/
theorem State.trainLink_looks (s : State) (o : StartObs) : (∀ r, s.trainLink.pickSlot o r = s.pickSlot o r) ∧ s.trainLink.quince = s.quince ∧
    (∀ slot r, s.trainLink.trainVer slot r = s.trainVer slot r) ∧ ∀ ver, s.trainLink.unitFits o ver = s.unitFits o ver := by
  obtain ⟨n, h, link, -⟩ := s.trainLink_eq
  rw [link]
  exact ⟨fun _ => rfl, rfl, fun _ _ => rfl, fun _ => rfl⟩

/-- A start of which slot A verifies and is the active one loads slot A. -/
theorem State.pickSlot_a {s : State} {o : StartObs} (ha : o.slotA = true) (hv : s.quince.slotVerifies s.quince.slotA = true)
    (hactive : s.quince.activeSlot = false) (hpend : s.quince.pending = false) : s.pickSlot o false = some false := by
  unfold State.pickSlot Quince.selectSlot
  rw [hpend, hactive]
  have ok : ((if false = true then o.slotB else o.slotA) && s.quince.slotVerifies (s.quince.slot false)) = true := by
    rw [if_neg Bool.false_ne_true, ha]
    exact hv
  exact if_pos ok

/-- Neither slot verifies: nothing is loaded. -/
theorem State.pickSlot_none {s : State} {o : StartObs} (ha : o.slotA = false ∨ s.quince.slotVerifies s.quince.slotA = false)
    (hb : o.slotB = false ∨ s.quince.slotVerifies s.quince.slotB = false) : s.pickSlot o false = none := by
  have bad : ∀ b : Bool, ((if b then o.slotB else o.slotA) && s.quince.slotVerifies (s.quince.slot b)) = false := fun b => by
    cases b
    · exact Bool.and_eq_false_iff.mpr ha
    · exact Bool.and_eq_false_iff.mpr hb
  unfold State.pickSlot Quince.selectSlot
  dsimp only
  rw [if_neg Bool.false_ne_true]
  exact (if_neg (ne_true_of_eq_false (bad _))).trans (if_neg (ne_true_of_eq_false (bad _)))

/-- A start that fails is counted and tried again a second later, but for a recovery start, which waits for the board (R512, R513). -/
theorem State.failStart_ends {s : State} {st : StartS} (h : s.quince.start = some st) : s.failStart.quince.start = none ∧
    s.failStart.quince.failCount = satAdd s.quince.failCount 1 ∧ s.failStart.quince.retryDue = (if st.recovery then none else some s.now) ∧
    s.failStart.quince.startWaits = st.recovery ∧ s.failStart.host.deviceReady = false ∧ s.failStart.time = s.time := by
  unfold State.failStart
  rw [h]
  dsimp only
  have keeps : ∀ {α : Type} (g : State → α) (u : State), (∀ f, g (u.upPins f) = g u) →
      g (u.when st.recovery fun s => s.assertFault .failedRecovery) = g u := fun g u hp => State.when_keeps g _ _ _ (hp _)
  rw [keeps State.quince _ fun _ => rfl, keeps State.host _ fun _ => rfl, keeps State.time _ fun _ => rfl]
  refine ⟨rfl, rfl, rfl, rfl, rfl, ?_⟩
  simp only [State.upHost_time, State.upQuince_time, State.raiseIbi, State.logFault]

section
variable {o : StartObs} {st : StartS} {s : State}

/-- A start for which nothing verifies fails (R517). -/
theorem execStartBegin_unverified (hst : s.quince.start = some st) (hpick : s.pickSlot o st.recovery = none) :
    exec (.startBegin o) s = .next s.trainLink.failStart := by
  obtain ⟨pick, -⟩ := s.trainLink_looks o
  change execStartBegin o s = _
  unfold execStartBegin
  rw [hst]
  dsimp only
  rw [pick, hpick]

/-- A module that is RETIRED answers, and starts nothing (R505). -/
theorem execStartBegin_retired {slot : Bool} (hst : s.quince.start = some st) (hpick : s.pickSlot o st.recovery = some slot) (hlife : s.quince.life = .retired) :
    exec (.startBegin o) s = .next ((s.trainLink.answerSpdm slot st.recovery).upQuince fun q => { q with start := none }) := by
  obtain ⟨pick, quince, -⟩ := s.trainLink_looks o
  change execStartBegin o s = _
  unfold execStartBegin
  rw [hst]
  dsimp only
  rw [pick, hpick, quince]
  exact if_pos hlife

/-- The state in which a start that has chosen its slot begins its checks. -/
def State.starting (s : State) (st : StartS) (slot : Bool) : State :=
  (s.trainLink.upQuince fun q => { q with start := some { st with trial := !st.recovery && q.pending && decide (slot ≠ q.activeSlot) } }).answerSpdm
    slot st.recovery

/-- A start whose rails do not come up fails (R510). -/
theorem execStartBegin_railless {slot : Bool} (hst : s.quince.start = some st) (hpick : s.pickSlot o st.recovery = some slot) (hlife : s.quince.life ≠ .retired)
    (hrails : o.railsOk = false) : exec (.startBegin o) s = .next (s.starting st slot).failStart := by
  obtain ⟨pick, quince, -⟩ := s.trainLink_looks o
  change execStartBegin o s = _
  unfold execStartBegin State.starting
  rw [hst]
  dsimp only
  rw [pick, hpick, quince]
  refine (if_neg hlife).trans ?_
  rw [hrails]
  rfl

/-- A start whose checks hold is done (R509 to R512). -/
theorem execStartBegin_done {slot : Bool} (hst : s.quince.start = some st) (hpick : s.pickSlot o st.recovery = some slot) (hlife : s.quince.life ≠ .retired)
    (hrails : o.railsOk = true) (hready : o.readyInTime = true) (warm : Bool)
    (hwarm : warm = (st.warm && (st.asked || allUnits.any (s.unitFits o (s.trainVer slot st.recovery)))))
    (hn : 32 ≤ (((s.starting st slot).powerUp.selfTest o).trainUnits o (s.trainVer slot st.recovery) warm).eligibleN) :
    exec (.startBegin o) s = .next
      ((((s.starting st slot).powerUp.selfTest o).trainUnits o (s.trainVer slot st.recovery) warm).wipeAll.startDone slot st.recovery warm) := by
  obtain ⟨pick, quince, trained, fits⟩ := s.trainLink_looks o
  subst hwarm
  unfold State.starting at hn ⊢
  change execStartBegin o s = _
  unfold execStartBegin
  rw [hst]
  dsimp only
  rw [pick, hpick, quince]
  dsimp only
  rw [trained, fits]
  refine (if_neg hlife).trans ?_
  rw [hrails, hready]
  exact if_neg (Nat.not_lt.mpr hn)
end

theorem State.unitFits_congr {s t : State} (hfor : t.quince.storedFor = s.quince.storedFor) (hvalid : t.quince.storedValid = s.quince.storedValid)
    (o : StartObs) (ver : Word) : t.unitFits o ver = s.unitFits o ver := by
  funext u
  unfold State.unitFits
  rw [hfor, hvalid]

/-- What Quince holds of the training of units. -/
def Quince.stored (q : Quince) : Vector Half 1024 × Vector DWord 36 × Vector DWord 8 × Vector StoredU 108 × Bool :=
  (q.tapStored, q.trainStored, q.opticStored, q.storedFor, q.storedValid)

/-- A start that has powered up and tested the module has its rails on, and nothing that is stored is touched yet. -/
theorem State.starting_tested (s : State) (o : StartObs) (st : StartS) (slot : Bool) :
    (∀ i : Fin 8, i.val < 7 → ((s.starting st slot).powerUp.selfTest o).pwr.RailOn i) ∧
    ((s.starting st slot).powerUp.selfTest o).eligibleN = (s.trainLink.powerUp.selfTest o).eligibleN ∧
    ((s.starting st slot).powerUp.selfTest o).quince.spdmWait = 0 ∧
    ((s.starting st slot).powerUp.selfTest o).quince.stored = s.quince.stored := by
  obtain ⟨-, same, -⟩ := s.trainLink_looks o
  obtain ⟨q, begun, wait, stored⟩ : ∃ q, s.starting st slot = { s.trainLink with quince := q } ∧ q.spdmWait = 0 ∧ q.stored = s.trainLink.quince.stored :=
    ⟨_, rfl, rfl, rfl⟩
  obtain ⟨p, t, on, up⟩ := s.trainLink.powerUp_powers
  have own : s.trainLink.powerUp = { s.trainLink with pwr := p, time := t, pins := { s.trainLink.pins with pwrGood := true } } := up s.trainLink.quince
  obtain ⟨C, K, T, b, tested⟩ := State.selfTest_moves { s.trainLink with pwr := p, time := t, pins := { s.trainLink.pins with pwrGood := true } } o
  have ownTest := tested s.trainLink.quince
  rw [begun, up q, own, tested q, ownTest]
  exact ⟨on, State.eligibleN_congr rfl rfl, wait, stored.trans (congrArg Quince.stored same)⟩

/-- Settles O57. -/
theorem startsRunAndFail : Obligations.StartsRunAndFail := by
  refine ⟨fun s hrst => ?_, fun s hrst => ?_, fun s hrst hvaux => ?_, fun s => ?_, fun s => ?_,
    fun o st s hst hlife hrec ha hv hactive hpend hrails hready hn => ?_, fun o st s hst hpick hlife hrails => ?_, fun o st s hst hrec ha hb => ?_,
    fun q x hx => ?_, fun o st s hst hpick hlife => ?_, fun st s hst => ?_, fun t0 s hdue => ?_⟩
  · have run : exec .vauxApplied s = .next ((s.upPins fun p => { p with vaux := true, vrbClk := true }).finishChange.powerStart s.changeOpen) := if_pos hrst
    obtain ⟨pins, cold⟩ := (s.upPins fun p => { p with vaux := true, vrbClk := true }).finishChange_keeps
    obtain ⟨start, -, regs, phase, vaux, -⟩ := (s.upPins fun p => { p with vaux := true, vrbClk := true }).finishChange.beginStart_begins true false
      { warm := !(s.upPins fun p => { p with vaux := true, vrbClk := true }).finishChange.quince.defaultCold && !s.changeOpen, asked := false,
        recovery := false, trial := (s.upPins fun p => { p with vaux := true, vrbClk := true }).finishChange.quince.pending, since := 0 }
    refine ⟨_, run, vaux.trans (congrArg Pins.vaux pins), ⟨_, start, rfl, rfl, ?_⟩, regs, phase⟩
    dsimp only
    rw [cold, Bool.and_comm]
    rfl
  · exact if_neg (ne_true_of_eq_false hrst)
  · have run : exec .modRstRelease s = .next ((s.upPins fun p => { p with modRst := true }).finishChange.powerStart s.changeOpen) :=
      (if_neg (ne_true_of_eq_false hrst)).trans (if_pos hvaux)
    obtain ⟨pins, -⟩ := (s.upPins fun p => { p with modRst := true }).finishChange_keeps
    obtain ⟨start, -, regs, phase, -, rst⟩ := (s.upPins fun p => { p with modRst := true }).finishChange.beginStart_begins true false
      { warm := !(s.upPins fun p => { p with modRst := true }).finishChange.quince.defaultCold && !s.changeOpen, asked := false,
        recovery := false, trial := (s.upPins fun p => { p with modRst := true }).finishChange.quince.pending, since := 0 }
    exact ⟨_, run, rst.trans (congrArg Pins.modRst pins), ⟨_, start, rfl, rfl⟩, regs, phase⟩
  · obtain ⟨-, -, good, running, start, job, clusters, link⟩ := s.goDown_down
    refine ⟨_, rfl, rfl, rfl, good, running, start, job, clusters, link, rfl, rfl, rfl, fun c => ?_⟩
    exact congrArg CellS.store (Vector.getElem_map ..)
  · obtain ⟨vaux, -, good, running, start, job, clusters, link⟩ := s.goDown_down
    exact ⟨_, rfl, rfl, vaux, good, running, start, job, clusters, link⟩
  · obtain ⟨on, eligible, wait, stored⟩ := s.starting_tested o st false
    dsimp only
    generalize hwarm : (st.warm && (st.asked || allUnits.any (s.unitFits o (s.trainVer false false)))) = warm
    have run := execStartBegin_done (slot := false) hst (hrec ▸ State.pickSlot_a ha hv hactive hpend) hlife hrails hready warm (by rw [hrec, hwarm])
    rw [hrec] at run
    generalize (s.starting st false).powerUp.selfTest o = w at on eligible wait stored run
    have fits : w.unitFits o (s.trainVer false false) = s.unitFits o (s.trainVer false false) :=
      State.unitFits_congr (congrArg (·.2.2.2.1) stored) (congrArg (·.2.2.2.2) stored) ..
    obtain ⟨n, q, K, T, b, eq, ⟨valid, wait'⟩, taps, tapsKept, trainsKept, opticsKept⟩ := w.trainUnits_trains o (s.trainVer false false) warm
    have enough : (w.trainUnits o (s.trainVer false false) warm).eligibleN = w.eligibleN := State.eligibleN_congr (by rw [eq]) (by rw [eq])
    replace run := run (by rw [enough, eligible]; exact hn)
    rw [fits] at tapsKept trainsKept opticsKept
    obtain ⟨n', T', K', wiped, ⟨keys, stk, cap, cell, mem⟩, stores⟩ := (w.trainUnits o (s.trainVer false false) warm).wipeAll_wipes
    rw [eq] at run wiped stores
    rw [wiped] at run
    obtain ⟨n'', b'', p'', h'', q'', i'', done, hq, ready, path, low, good⟩ := State.startDone_done
      { w with quince := q, fab := b, free := n', tiers := T', cells := K' } false warm
    rw [done] at run
    have stored' : q''.tapStored = q.tapStored ∧ q''.trainStored = q.trainStored ∧ q''.opticStored = q.opticStored ∧ q''.storedValid = q.storedValid ∧
        q''.spdmWait = q.spdmWait ∧ q''.start = none ∧ q''.failCount = 0 ∧ q''.runSlot = false := by
      rw [hq]
      exact ⟨rfl, rfl, rfl, rfl, rfl, rfl, rfl, rfl⟩
    obtain ⟨tap, train, optic, valid', wait'', ended, count, slot⟩ := stored'
    have tapOf : w.quince.tapStored = s.quince.tapStored := congrArg (·.1) stored
    have trainOf : w.quince.trainStored = s.quince.trainStored := congrArg (·.2.1) stored
    have opticOf : w.quince.opticStored = s.quince.opticStored := congrArg (·.2.2.1) stored
    refine ⟨_, run, ended, count, slot, wait''.trans (wait'.trans wait), valid'.trans valid, ready, path, stk, cap, cell, keys, mem,
      fun c => ⟨(stores c).1, ?_⟩, rfl, rfl, low, good, on, fun c hw hf => ?_, fun k hw hf => ?_, fun p hw hf => ?_⟩
    · exact ((stores c).2.trans (taps c)).trans (congrArg (·[c]) tap.symm)
    · exact (congrArg (·[c]) tap).trans ((tapsKept c hw hf).trans (congrArg (·[c]) tapOf))
    · obtain ⟨i, hi, same⟩ := trainsKept k hw hf
      exact ⟨i, hi, (congrArg (·[i]) train).trans (same.trans (congrArg (·[i]) trainOf))⟩
    · exact (congrArg (·[p]) optic).trans ((opticsKept p hw hf).trans (congrArg (·[p]) opticOf))
  · obtain ⟨slot, hslot⟩ := Option.isSome_iff_exists.mp hpick
    obtain ⟨-, same, -⟩ := s.trainLink_looks o
    obtain ⟨ended, counted, -, -, ready, -⟩ := State.failStart_ends (s := s.starting st slot) rfl
    have count : (s.starting st slot).quince.failCount = s.quince.failCount := by
      show s.trainLink.quince.failCount = s.quince.failCount
      rw [same]
    exact ⟨_, execStartBegin_railless hst hslot hlife hrails, ended, counted.trans (congrArg (satAdd · 1) count), ready⟩
  · obtain ⟨-, same, -⟩ := s.trainLink_looks o
    obtain ⟨ended, counted, -⟩ := State.failStart_ends (s := s.trainLink) (same ▸ hst)
    exact ⟨_, execStartBegin_unverified hst (hrec ▸ State.pickSlot_none ha hb), ended, counted.trans (congrArg (fun q : Quince => satAdd q.failCount 1) same)⟩
  · unfold Quince.slotVerifies
    rcases hx with hx | hx
    · rw [decide_eq_false (Nat.not_le.mpr hx), Bool.and_false, Bool.false_and]
    · rw [hx, Bool.false_and, Bool.false_and]
  · obtain ⟨slot, hslot⟩ := Option.isSome_iff_exists.mp hpick
    have run := execStartBegin_retired hst hslot hlife
    obtain ⟨n, h, link, ready⟩ := s.trainLink_eq
    rw [link] at run
    exact ⟨_, run, rfl, rfl, ready⟩
  · generalize hw : (s.mayWarm st && decide ((s.fresh 1).1 = 1)) = w
    have run : exec .startTimeout s = .next ((s.fresh 1).2.startLate st w) := by
      change execStartTimeout s = _
      unfold execStartTimeout
      rw [hst, ← hw]
      rfl
    obtain ⟨ended, counted, due, waits, -, time⟩ :=
      State.failStart_ends (s := (s.fresh 1).2.advanceTo (after st.since ((if w then 15000 else 120000) * msU))) (st := st) hst
    refine ⟨_, run, ended, counted, due.trans ?_, waits, w, fun h => ?_, congrArg TimeBase.now time⟩
    · exact congrArg (fun b : TimeBase => if st.recovery then none else some b.now) time.symm
    · rw [h] at hw
      exact (Bool.and_eq_true_iff.mp hw).1
  · have run : exec .startRetry s = .next ((s.advanceTo (after t0 (1000 * msU))).beginStart false false
        { warm := false, asked := true, recovery := decide (s.quince.failCount.toNat ≥ 3), trial := s.quince.pending && !decide (s.quince.failCount.toNat ≥ 3),
          since := (s.advanceTo (after t0 (1000 * msU))).now }) := by
      change execStartRetry s = _
      unfold execStartRetry
      rw [hdue]
      rfl
    obtain ⟨start, due, regs, -⟩ := (s.advanceTo (after t0 (1000 * msU))).beginStart_begins false false
      { warm := false, asked := true, recovery := decide (s.quince.failCount.toNat ≥ 3), trial := s.quince.pending && !decide (s.quince.failCount.toNat ≥ 3),
        since := (s.advanceTo (after t0 (1000 * msU))).now }
    exact ⟨_, run, ⟨_, start, rfl, rfl⟩, due, State.beginStart_now .., regs⟩

end Sys2Proof.Machine
end

section
/-! PROOFS. A refusal of a long operation answers the oldest descriptor of its opcode, which need not be the one that asked (R490, R497). -/
namespace Sys2Proof.Machine

/-- A LONG_OP of ring 0 that has begun and has not ended. -/
def longBegun : Desc := { index := 0, bytes := [5], begun := true, fin := none }

/-- A SANITISE that is next in the same ring. -/
def sanitiseNext : Desc := { index := 1, bytes := [5, 0, 0, 0, 0, 0, 0, 0, 2], begun := false, fin := none }

/-- The state after reset, with the two descriptors in ring 0. -/
def twoLongs : State := State.reset.upRing 0 fun g => { g with descs := [longBegun, sanitiseNext] }

/-- How many descriptors of ring 0 are still to be completed into their places. -/
def State.openDescs (s : State) : Nat := s.host.rings[0].descs.length

/-- The SANITISE without its block is refused through the descriptor before it, which ends and leaves the ring. -/
theorem twoLongs_refusal : (twoLongs.askFrom (.ring 0) 0x05 (longIs 2) fun s => s.approvedLong .sanitise (.ring 0) none).openDescs = 1 := by decide

/-- Its own completion would have waited behind that descriptor. -/
theorem twoLongs_completion : ((twoLongs.begun 0 sanitiseNext).complete 0 sanitiseNext.index stBusy 0x10 0).openDescs = 2 := by decide

/-- Refutes O53: its clause on a parameter block that cannot be read says that the descriptor that asked is completed with BUSY, while `State.answer`
completes the oldest begun descriptor of that opcode. In `twoLongs` an earlier LONG_OP of ring 0 is begun and has not ended, and the management
interface is not busy. -/
theorem not_longOperationsAndRestarts : ¬ Obligations.LongOperationsAndRestarts := by
  rintro ⟨-, -, -, -, -, -, -, refused, -⟩
  have begins : Begins twoLongs 0 0x05 sanitiseNext := ⟨by decide, rfl, .inr rfl⟩
  have claim : exec (.sanitise ⟨.ring 0, none⟩) twoLongs = .next ((twoLongs.begun 0 sanitiseNext).complete 0 sanitiseNext.index stBusy 0x10 0) :=
    (refused 0 sanitiseNext twoLongs rfl begins).1 (by decide)
  have same := congrArg State.openDescs (Host.Outcome.next.inj claim)
  rw [twoLongs_completion] at same
  exact absurd (twoLongs_refusal.symm.trans same) (by decide)

end Sys2Proof.Machine
end

section
/-! PROOFS. A departing member that is released gives up its shares of the credit round (R426, R462). -/
namespace Sys2Proof.Machine

/-- A departing member whose one reader has still to read its handover image, in a credit round. -/
def lastReader : State :=
  (State.reset.upSec fun c => { c with handoverWait := true, handoverTo := [0], handoverRead := [] }).upPwr fun p => { p with roundOn := true }

/-- Whether a credit round is open in a state that a command answers. -/
def roundOpen : Res → Bool
  | .next t => t.pwr.roundOn
  | _ => true

theorem lastReader_leaves : roundOpen (exec (.handoverImageDone 0) lastReader) = false := by decide

/-- Refutes O47: its last clause says that the release of a departing member changes the job, the secured images and the host interface alone, while
`State.releaseMember` also gives up the member's shares (`State.dropShares`), which ends the credit round that is open in `lastReader`. -/
theorem not_unitsAreSecuredInTurn : ¬ Obligations.UnitsAreSecuredInTurn := by
  rintro ⟨-, -, -, -, -, -, -, -, -, -, -, released⟩
  obtain ⟨t, run, -, -, -, -, frame⟩ := released 0 lastReader rfl (by decide) (by decide) (by decide)
  have closed : t.pwr.roundOn = false := by
    rw [← lastReader_leaves, run]
    rfl
  have kept : t.pwr.roundOn = true := by
    rw [frame]
    rfl
  exact Bool.false_ne_true (closed.symm.trans kept)

end Sys2Proof.Machine
end

section
/-! PROOFS. A ring enabled while a sanitise stops the JOB rings keeps the marks of its doorbells (R479, R489, R492). -/
namespace Sys2Proof.Machine

/-- Ring 1 as a disabled JOB ring of 16 entries, whose SQ_TAIL doorbell the host has written with 0. -/
def rungDisabled (g : Ring) : Ring := { g with sqLog2 := 4, cqLog2 := 4, kind := 1, st := .disabled, sqTail := 0, headWritten := 0, cqHead := 0, tailNew := true }

/-- The state after reset, its device ready and a sanitise of the board in progress. -/
def sanitising : State :=
  ((State.reset.upHost fun h => { h with linkUp := true, deviceReady := true }).upQuince fun q => { q with long := some (.sanitise, .mctp) }).upRing 1 rungDisabled

/-- Whether the SQ_TAIL doorbell of ring 1 is marked as written since the ring last ran. -/
def State.tailMarked (s : State) : Bool := s.host.rings[(1 : Fin 64)].tailNew

/-- The enabled ring is STOPPED, so that it acts on no doorbell and the mark stays. -/
theorem sanitising_enabled : (sanitising.hostWriteAt false (ringCtlOff 1) fun s => s.ringOn 1).tailMarked = true := by decide

/-- Refutes O49: its clause on RING_ENABLE says that the doorbell marks are cleared whether the ring runs or is STOPPED, while `State.actDoorbells`
clears them for a running ring alone. In `sanitising` the host has written SQ_TAIL of a disabled JOB ring, and a sanitise stops the JOB rings. -/
theorem not_ringsFollowTheirDoorbells : ¬ Obligations.RingsFollowTheirDoorbells := by
  rintro ⟨-, -, -, -, -, -, -, -, -, -, enabled, -⟩
  obtain ⟨t, run, ring, -⟩ := enabled 1 sanitising (by decide) (by decide) (by decide) (by decide) (by decide) (by decide) (by decide)
  have unmarked : t.tailMarked = false := congrArg Ring.tailNew ring
  rw [← Host.Outcome.next.inj run, sanitising_enabled] at unmarked
  exact absurd unmarked (by decide)

end Sys2Proof.Machine
end

section
/-! PROOFS. Frames of the voltage request bus (R400 to R403, R529, R530). -/
namespace Sys2Proof.Machine

/-- The state whose frame of a kind has gone out to a rail, its reply not yet read. -/
def State.sending (s : State) (i : Fin 8) (k : Frame) : State :=
  let (v, s) := s.fresh 2
  let s := s.upPwr fun p =>
    { p with lastFrame := vrbHead i.val (k.target i s.pwr.rails[i]) (if k = .on then onSlew else v.toNat) (k.enable s.pwr.rails[i])
             nextRail := if k = .poll then (p.nextRail + 1) % 7 else p.nextRail }
  s.when (decide (k = .off)) fun s => s.sentOff i

theorem execVrbFrame_sends {s : State} {i : Fin 8} {k : Frame} (reply : Option (BitVec 22)) (hv : s.pins.vaux = true) (hc : s.pins.vrbClk = true)
    (hn : s.nextFrame = (i, k)) : exec (.vrbFrame reply) s = .next ((s.sending i k).frameReply i k (k.enable s.pwr.rails[i]) reply) := by
  change execVrbFrame reply s = _
  unfold execVrbFrame
  rw [hv, hc, hn]
  rfl

/-- A frame that does not switch a rail off changes the frame sent last and the rail in turn alone. -/
theorem State.sending_sent (s : State) (i : Fin 8) {k : Frame} (hk : k ≠ .off) : ∃ head turn,
    s.sending i k = { s with free := s.free + 1, pwr := { s.pwr with lastFrame := head, nextRail := turn } } ∧
    (k = .on → head = vrbHead i.val (firstTarget i.val) 1 true) := by
  unfold State.sending
  rw [decide_eq_false hk]
  refine ⟨_, _, rfl, fun on => ?_⟩
  subst on
  rfl

/-- A frame that switches a rail off also shortens the sequence, and PWR_GOOD falls. -/
theorem State.sending_off (s : State) (i : Fin 8) : ∃ head turn, s.sending i .off =
    { s with
      free := s.free + 1
      pins := { s.pins with pwrGood := false }
      pwr := { s.pwr with
        lastFrame := head, nextRail := turn, offSeq := s.pwr.offSeq.drop 1, offAt := after s.now msU
        rails := updV s.pwr.rails i fun r => { r with wantEnable := false } } } := by
  obtain ⟨head, turn, sent⟩ : ∃ head turn, s.sending i .off =
      { s with free := s.free + 1, pwr := { s.pwr with lastFrame := head, nextRail := turn } }.sentOff i := ⟨_, _, rfl⟩
  exact ⟨head, turn, sent⟩

theorem State.frameReply_acked (s : State) {i : Fin 8} {k : Frame} {enable : Bool} {r : BitVec 22} (hcrc : crc8 (field r.toNat 21 8) 14 0 = field r.toNat 7 0)
    (hst : field r.toNat 21 20 = 0) : s.frameReply i k enable (some r) = s.frameAcked i k enable (field r.toNat 19 8) := by
  unfold State.frameReply
  dsimp only
  rw [if_neg (not_not_intro hcrc), hst]
  rfl

theorem State.frameReply_none (s : State) (i : Fin 8) (k : Frame) (enable : Bool) :
    ∃ st, s.frameReply i k enable none = { s with free := s.free + 1 }.frameFailed i false st := ⟨_, rfl⟩

/-! ### An acknowledged frame -/

/-- The state in which the bus has read an acknowledgement of a rail. -/
def State.ackedRail (s : State) (i : Fin 8) (k : Frame) (enable : Bool) (iRead : Nat) : State :=
  (s.upPwr fun p => { p with busUp := true }).upRail i fun r => r.acked k enable iRead

theorem State.ackedRail_rails (s : State) (i : Fin 8) (k : Frame) (enable : Bool) (iRead : Nat) :
    (s.ackedRail i k enable iRead).pwr.rails = updV s.pwr.rails i fun r => r.acked k enable iRead := rfl

section
variable {s : State} {i : Fin 8} (hf : s.pwr.rails[i].fault = false)
include hf

theorem State.ackedRail_rail (k : Frame) (enable : Bool) (iRead : Nat) : ((s.ackedRail i k enable iRead).pwr.rails[i]).fault = false ∧
    ((s.ackedRail i k enable iRead).pwr.rails[i]).enabled = enable := by
  have rail : (s.ackedRail i k enable iRead).pwr.rails[i] = s.pwr.rails[i].acked k enable iRead := updV_at ..
  rw [rail]
  exact ⟨congrArg (· && _) hf, rfl⟩

/-- A rail that was on and stays on, or was off, has nothing to switch. -/
theorem State.frameAcked_steady {k : Frame} {enable : Bool} (iRead : Nat) (hk : k ≠ .on) (he : (s.pwr.rails[i].enabled && !enable) = false) :
    s.frameAcked i k enable iRead = s.ackedRail i k enable iRead := by
  obtain ⟨-, on⟩ := State.ackedRail_rail hf k enable iRead
  unfold State.frameAcked
  dsimp only
  rw [← State.ackedRail]
  rw [decide_eq_false hk, State.when_false, on, he, State.when_false, hf]
  rfl

/-- A rail that is switched off takes along what it feeds. -/
theorem State.frameAcked_dark {k : Frame} (iRead : Nat) (hk : k ≠ .on) (he : s.pwr.rails[i].enabled = true) :
    s.frameAcked i k false iRead = (s.ackedRail i k false iRead).railDark i := by
  obtain ⟨-, on⟩ := State.ackedRail_rail hf k false iRead
  unfold State.frameAcked
  dsimp only
  rw [← State.ackedRail]
  rw [decide_eq_false hk, State.when_false, on, he, hf]
  rfl

/-- A rail whose first ENABLE frame is acknowledged is on. -/
theorem State.frameAcked_on (iRead : Nat) : s.frameAcked i .on true iRead = (s.ackedRail i .on true iRead).railOn i := by
  have on : ((s.ackedRail i .on true iRead).railOn i).pwr.rails[i].enabled = true := by
    rw [State.railOn_rails, updV_at]
    rfl
  unfold State.frameAcked
  dsimp only
  rw [← State.ackedRail, decide_eq_true rfl, State.when_true]
  rw [on, hf, Bool.not_true, Bool.and_false]
  rfl

end

/-- The clusters of a die stand still once its rail is dark. -/
theorem State.railDark_stops (s : State) {i : Fin 8} (hi : i.val ≠ 6) : ∃ v, s.railDark i = { s with clusters := v } ∧
    ∀ c : Fin 64, (dieOf c).val = i.val → v[c].running = false := by
  refine ⟨_, (if_neg hi), fun c hc => ?_⟩
  have dark : (if (dieOf c).val = i.val then { s.clusters[c] with running := false } else s.clusters[c]).running = false := by
    rw [if_pos hc]
  exact (congrArg Cluster.running (Vector.getElem_mapFinIdx ..)).trans dark

/-! ### A frame that failed -/

/-- What retuning sets of a rail is its wanted target, its pending change and the repeat of STATUS 2. -/
theorem State.refreq_rail {β : Type} (g : Rail → β) (hg : ∀ r v p, g { r with wantTarget := v, pending := p, status2 := false } = g r) (s : State) (j : Fin 8) :
    g s.refreq.pwr.rails[j] = g s.pwr.rails[j] := by
  have cluster : ∀ (t : State) c, g (t.refreqCluster c).pwr.rails[j] = g t.pwr.rails[j] := fun t c => by
    unfold State.refreqCluster
    dsimp only
    repeat' split
    all_goals rfl
  have die : ∀ (t : State) d, g (t.retarget d).pwr.rails[j] = g t.pwr.rails[j] := fun t d => by
    unfold State.retarget
    dsimp only
    repeat' split
    · rfl
    · rfl
    · exact updV_keeps g _ _ _ _ fun r => hg r _ _
    · rfl
    · exact updV_keeps g _ _ _ _ fun r => hg r _ _
  unfold State.refreq
  split
  · rfl
  · have tuned := foldl_keeps (fun t : State => g t.pwr.rails[j]) State.retarget die (List.finRange 4)
    have clocked := foldl_keeps (fun t : State => g t.pwr.rails[j]) State.refreqCluster cluster (List.finRange 64) s
    generalize List.finRange 64 = l, List.finRange 4 = l' at *
    exact (tuned _).trans clocked

/-- The state in which a failed frame of a rail is counted. -/
def State.missed (s : State) (i : Fin 8) (counted : Bool) : State :=
  (s.upPwr fun p => { p with busUp := false, nakCount := satAdd p.nakCount (b2n counted) }).upRail i fun r => { r with fails := r.fails + 1, acks := 0 }

theorem State.missed_rails (s : State) (i : Fin 8) (counted : Bool) :
    (s.missed i counted).pwr.rails = updV s.pwr.rails i fun r => { r with fails := r.fails + 1, acks := 0 } := rfl

theorem State.frameFailed_eq (s : State) (i : Fin 8) (counted : Bool) (status : DWord) : s.frameFailed i counted status =
    if (s.missed i counted).pwr.rails[i].fails ≥ 3 then (s.missed i counted).railFault i status else s.missed i counted := rfl

/-- A frame that failed once or twice in a row is counted. -/
theorem State.frameFailed_counts {s : State} {i : Fin 8} (h : s.pwr.rails[i].fails < 2) (counted : Bool) (status : DWord) :
    s.frameFailed i counted status = s.missed i counted := by
  rw [State.frameFailed_eq, State.missed_rails, updV_at]
  exact if_neg (Nat.not_le.mpr (Nat.succ_lt_succ h))

/-- The rail is in fault, and the bus names it. -/
def State.FaultsAt (s : State) (i : Fin 8) : Prop := s.pwr.rails[i].fault = true ∧ s.pwr.busFault = true ∧ s.pwr.faultRail = BitVec.ofNat 3 i.val

theorem State.FaultsAt.congr {s t : State} {i : Fin 8} (h : t.pwr = s.pwr) (hs : s.FaultsAt i) : t.FaultsAt i := by
  unfold State.FaultsAt
  rw [h]
  exact hs

/-- Retuning leaves a rail in fault. -/
theorem State.FaultsAt.refreq {s : State} {i : Fin 8} (h : s.FaultsAt i) : s.refreq.FaultsAt i := by
  obtain ⟨rail, bus, named⟩ := h
  obtain ⟨v, r, tuned⟩ := s.refreq_refreqs
  refine ⟨(State.refreq_rail Rail.fault (fun _ _ _ => rfl) s i).trans rail, ?_, ?_⟩
  · rw [tuned]
    exact bus
  · rw [tuned]
    exact named

/-- A rail that faults is named. -/
theorem State.railFault_faults {s : State} {i : Fin 8} (hf : s.pwr.rails[i].fault = false) (status : DWord) : (s.railFault i status).FaultsAt i := by
  unfold State.railFault
  rw [if_neg (ne_true_of_eq_false hf)]
  refine .refreq (.congr (t := State.event _ evRailFault _ _) rfl (.congr (State.when_keeps State.pwr _ _ _ rfl) ⟨?_, rfl, rfl⟩))
  exact congrArg Rail.fault (updV_at ..)

/-- The third failure in a row puts the rail in fault. -/
theorem State.frameFailed_faults {s : State} {i : Fin 8} (h : 2 ≤ s.pwr.rails[i].fails) (hf : s.pwr.rails[i].fault = false) (counted : Bool) (status : DWord) :
    (s.frameFailed i counted status).FaultsAt i := by
  have fine : (s.missed i counted).pwr.rails[i].fault = false := by
    rw [State.missed_rails, updV_at]
    exact hf
  have many : 3 ≤ (s.missed i counted).pwr.rails[i].fails := by
    rw [State.missed_rails, updV_at]
    exact Nat.succ_le_succ h
  rw [State.frameFailed_eq, if_pos many]
  exact State.railFault_faults fine status

/-! ### The frames of O45 -/

/-- The frame of a pending change is acknowledged: clause 1 of O45. -/
theorem vrbFrame_change {s : State} {i : Fin 8} {r : BitVec 22} (hv : s.pins.vaux = true) (hc : s.pins.vrbClk = true) (hn : s.nextFrame = (i, .change))
    (hw : s.pwr.rails[i].wantEnable = true) (hcrc : crc8 (field r.toNat 21 8) 14 0 = field r.toNat 7 0) (hst : field r.toNat 21 20 = 0)
    (hf : s.pwr.rails[i].fault = false) : ∃ n p, exec (.vrbFrame (some r)) s = .next { s with free := n, pwr := p } ∧ p.busUp = true ∧
      p.rails = updV s.pwr.rails i fun x => x.acked .change true (field r.toNat 19 8) := by
  obtain ⟨head, turn, sent, -⟩ := s.sending_sent i (k := .change) Frame.noConfusion
  have run := execVrbFrame_sends (some r) hv hc hn
  rw [show Frame.change.enable s.pwr.rails[i] = true from hw, State.frameReply_acked _ hcrc hst, sent] at run
  generalize field r.toNat 19 8 = iRead at run ⊢
  rw [State.frameAcked_steady (s := { s with free := s.free + 1, pwr := { s.pwr with lastFrame := head, nextRail := turn } }) hf iRead Frame.noConfusion
    (Bool.and_false _)] at run
  exact ⟨_, _, run, rfl, rfl⟩

/-- The frame that switches a rail on is acknowledged: clause 2 of O45. -/
theorem vrbFrame_on {s : State} {i : Fin 8} {r : BitVec 22} (hv : s.pins.vaux = true) (hc : s.pins.vrbClk = true) (hn : s.nextFrame = (i, .on))
    (hcrc : crc8 (field r.toNat 21 8) 14 0 = field r.toNat 7 0) (hst : field r.toNat 21 20 = 0)
    (hf : s.pwr.rails[i].fault = false) : ∃ n p, exec (.vrbFrame (some r)) s = .next { s with free := n, pwr := p } ∧
      p.lastFrame = vrbHead i.val (firstTarget i.val) 1 true ∧ p.onSeq = s.pwr.onSeq.erase i ∧ p.onAt = after s.now (rampU i.val) ∧
      p.rails = updV s.pwr.rails i fun x => (x.acked .on true (field r.toNat 19 8)).atFirst i := by
  obtain ⟨head, turn, sent, first⟩ := s.sending_sent i (k := .on) Frame.noConfusion
  have run := execVrbFrame_sends (some r) hv hc hn
  rw [show Frame.on.enable s.pwr.rails[i] = true from rfl, State.frameReply_acked _ hcrc hst, sent] at run
  generalize field r.toNat 19 8 = iRead at run ⊢
  rw [State.frameAcked_on (s := { s with free := s.free + 1, pwr := { s.pwr with lastFrame := head, nextRail := turn } }) hf iRead] at run
  exact ⟨_, _, run, first rfl, rfl, rfl, (State.railOn_rails ..).trans (updV_updV ..)⟩

/-- The frame that switches a rail off is acknowledged: clause 3 of O45. -/
theorem vrbFrame_off {s : State} {i : Fin 8} {r : BitVec 22} (hv : s.pins.vaux = true) (hc : s.pins.vrbClk = true) (hn : s.nextFrame = (i, .off))
    (hi : i.val ≠ 6) (hcrc : crc8 (field r.toNat 21 8) 14 0 = field r.toNat 7 0) (hst : field r.toNat 21 20 = 0)
    (hf : s.pwr.rails[i].fault = false) : ∃ n p v,
      exec (.vrbFrame (some r)) s = .next { s with free := n, pwr := p, clusters := v, pins := { s.pins with pwrGood := false } } ∧
      p.offSeq = s.pwr.offSeq.drop 1 ∧ p.offAt = after s.now msU ∧
      p.rails = updV s.pwr.rails i (fun x => { x with wantEnable := false }.acked .off false (field r.toNat 19 8)) ∧
      (s.pwr.rails[i].enabled = true → ∀ c : Fin 64, (dieOf c).val = i.val → v[c].running = false) := by
  obtain ⟨head, turn, sent⟩ := s.sending_off i
  have run := execVrbFrame_sends (some r) hv hc hn
  rw [show Frame.off.enable s.pwr.rails[i] = false from rfl, State.frameReply_acked _ hcrc hst] at run
  generalize field r.toNat 19 8 = iRead at run ⊢
  have rails : (s.sending i .off).pwr.rails = updV s.pwr.rails i fun x => { x with wantEnable := false } := by rw [sent]
  have landed : ((s.sending i .off).ackedRail i .off false iRead).pwr.rails =
      updV s.pwr.rails i fun x => { x with wantEnable := false }.acked .off false iRead := by
    rw [State.ackedRail_rails, rails, updV_updV]
  have fine : (s.sending i .off).pwr.rails[i].fault = false := by
    rw [rails, updV_at]
    exact hf
  have was : (s.sending i .off).pwr.rails[i].enabled = s.pwr.rails[i].enabled := by
    rw [rails, updV_at]
  cases he : s.pwr.rails[i].enabled with
  | false =>
    rw [State.frameAcked_steady fine iRead Frame.noConfusion (by rw [was, he]; rfl), sent] at run
    rw [sent] at landed
    exact ⟨_, _, _, run, rfl, rfl, landed, fun on => absurd on Bool.false_ne_true⟩
  | true =>
    obtain ⟨v, dark, still⟩ := ((s.sending i .off).ackedRail i .off false iRead).railDark_stops hi
    rw [State.frameAcked_dark fine iRead Frame.noConfusion (was.trans he), dark, sent] at run
    rw [sent] at landed
    exact ⟨_, _, v, run, rfl, rfl, landed, fun _ => still⟩

/-- A frame without a reply counts against its rail: clause 4 of O45. -/
theorem vrbFrame_lost {s : State} {i : Fin 8} {k : Frame} (hv : s.pins.vaux = true) (hc : s.pins.vrbClk = true) (hn : s.nextFrame = (i, k)) (hk : k ≠ .off)
    (h : s.pwr.rails[i].fails < 2) : ∃ n p, exec (.vrbFrame none) s = .next { s with free := n, pwr := p } ∧ p.busUp = false ∧
      p.rails = updV s.pwr.rails i fun x => { x with fails := x.fails + 1, acks := 0 } := by
  have run := execVrbFrame_sends none hv hc hn
  obtain ⟨head, turn, sent, -⟩ := s.sending_sent i hk
  obtain ⟨st, failed⟩ := State.frameReply_none (s.sending i k) i k (k.enable s.pwr.rails[i])
  rw [failed, sent] at run
  rw [State.frameFailed_counts (s := { s with free := s.free + 1 + 1, pwr := { s.pwr with lastFrame := head, nextRail := turn } }) (i := i) h] at run
  exact ⟨_, _, run, rfl, State.missed_rails ..⟩

/-- The third frame without a reply puts its rail in fault: clause 5 of O45. -/
theorem vrbFrame_faults {s : State} {i : Fin 8} {k : Frame} (hv : s.pins.vaux = true) (hc : s.pins.vrbClk = true) (hn : s.nextFrame = (i, k))
    (h : 2 ≤ s.pwr.rails[i].fails) (hf : s.pwr.rails[i].fault = false) : ∃ t, exec (.vrbFrame none) s = .next t ∧ t.FaultsAt i := by
  have run := execVrbFrame_sends none hv hc hn
  obtain ⟨st, failed⟩ := State.frameReply_none (s.sending i k) i k (k.enable s.pwr.rails[i])
  have keeps : (s.sending i k).pwr.rails[i].fails = s.pwr.rails[i].fails ∧ (s.sending i k).pwr.rails[i].fault = s.pwr.rails[i].fault := by
    by_cases off : k = .off
    · obtain ⟨head, turn, sent⟩ := s.sending_off i
      rw [off, sent]
      exact ⟨updV_keeps Rail.fails s.pwr.rails i i _ fun _ => rfl, updV_keeps Rail.fault s.pwr.rails i i _ fun _ => rfl⟩
    · obtain ⟨head, turn, sent, -⟩ := s.sending_sent i off
      rw [sent]
      exact ⟨rfl, rfl⟩
  obtain ⟨fails, fault⟩ := keeps
  rw [failed] at run
  exact ⟨_, run, State.frameFailed_faults (s := { s.sending i k with free := (s.sending i k).free + 1 }) (fails.symm ▸ h) (fault.trans hf) false st⟩

end Sys2Proof.Machine
end

section
/-! PROOFS. Currant's evaluation, the caps of the dies and of the clusters, and the frequency steps (R404 to R415). -/
namespace Sys2Proof.Machine

/-- What retuning sets of a cluster is its setting and the step towards it. -/
theorem State.refreq_cluster {β : Type} (g : Cluster → β) (hg : ∀ k w f, g { k with setMHz := w, stepTo := f, stepHeld := false, trackErr := 0 } = g k)
    (s : State) (c : Fin 64) : g s.refreq.clusters[c] = g s.clusters[c] := by
  have cluster : ∀ (t : State) h, g (t.refreqCluster h).clusters[c] = g t.clusters[c] := fun t h => by
    unfold State.refreqCluster
    dsimp only
    repeat' split
    · rfl
    · rfl
    · exact updV_keeps g _ _ _ _ fun k => hg k _ _
  have die : ∀ (t : State) d, g (t.retarget d).clusters[c] = g t.clusters[c] := fun t d => by
    unfold State.retarget
    dsimp only
    repeat' split
    all_goals rfl
  unfold State.refreq
  split
  · rfl
  · have tuned := foldl_keeps (fun t : State => g t.clusters[c]) State.retarget die (List.finRange 4)
    have clocked := foldl_keeps (fun t : State => g t.clusters[c]) State.refreqCluster cluster (List.finRange 64) s
    generalize List.finRange 64 = l, List.finRange 4 = l' at *
    exact (tuned _).trans clocked

/-! ### Caps -/

/-- A die's cap is stepped at a time, and the module retunes. -/
theorem dieCap_steps {s : State} (d : Fin 4) (t : DWord) (f : DieP → DieP) : ∃ v r,
    (((s.advanceTo t).upDie d f).refreq) = { s.advanceTo t with clusters := v, pwr := { s.pwr with dies := updV s.pwr.dies d f, rails := r } } := by
  obtain ⟨v, r, eq⟩ := ((s.advanceTo t).upDie d f).refreq_refreqs
  exact ⟨v, r, eq⟩

/-- The die's cap falls after 100 µs above level 0: clause 8 of O45. -/
theorem dieCap_falls {s : State} {d : Fin 4} {t0 : DWord} (h : s.pwr.dies[d].aboveSince = some t0) : ∃ t, exec (.dieCapStep d) s = .next t ∧
    t.pwr.dies[d].cap = max 500 (s.pwr.dies[d].cap - 25) ∧ t.now = (s.advanceTo (after t0 (100 * usU))).now ∧
    (∀ o : Fin 4, o ≠ d → t.pwr.dies[o] = s.pwr.dies[o]) ∧ t = { s with time := t.time, clusters := t.clusters, pwr := t.pwr } := by
  have run : exec (.dieCapStep d) s = .next ((State.upDie (s.advanceTo (after t0 (100 * usU))) d fun k =>
      { k with cap := max 500 (k.cap - 25), aboveSince := some (s.advanceTo (after t0 (100 * usU))).now }).refreq) := by
    change execDieCapStep d s = _
    unfold execDieCapStep
    dsimp only
    rw [h]
  obtain ⟨v, r, eq⟩ := dieCap_steps (s := s) d (after t0 (100 * usU)) fun k =>
      { k with cap := max 500 (k.cap - 25), aboveSince := some (s.advanceTo (after t0 (100 * usU))).now }
  rw [eq] at run
  exact ⟨_, run, congrArg DieP.cap (updV_at ..), rfl, fun o ho => updV_ne _ _ ho, rfl⟩

/-- The die's cap rises after 1 ms below 0.80 of the limit: clause 9 of O45. -/
theorem dieCap_rises {s : State} {d : Fin 4} {t0 : DWord} (ha : s.pwr.dies[d].aboveSince = none) (h : s.pwr.dies[d].coolSince = some t0)
    (hc : s.pwr.dies[d].cap < 1800) : ∃ t, exec (.dieCapStep d) s = .next t ∧
    t.pwr.dies[d].cap = min 1800 (s.pwr.dies[d].cap + 25) ∧ t.now = (s.advanceTo (after t0 msU)).now ∧
    (∀ o : Fin 4, o ≠ d → t.pwr.dies[o] = s.pwr.dies[o]) ∧ t = { s with time := t.time, clusters := t.clusters, pwr := t.pwr } := by
  have run : exec (.dieCapStep d) s = .next ((State.upDie (s.advanceTo (after t0 msU)) d fun k =>
      { k with cap := min 1800 (k.cap + 25), coolSince := some (s.advanceTo (after t0 msU)).now }).refreq) := by
    change execDieCapStep d s = _
    unfold execDieCapStep
    dsimp only
    rw [ha, h]
    exact if_pos hc
  obtain ⟨v, r, eq⟩ := dieCap_steps (s := s) d (after t0 msU) fun k =>
      { k with cap := min 1800 (k.cap + 25), coolSince := some (s.advanceTo (after t0 msU)).now }
  rw [eq] at run
  exact ⟨_, run, congrArg DieP.cap (updV_at ..), rfl, fun o ho => updV_ne _ _ ho, rfl⟩

/-- A cluster's own cap ends: clause 15 of O45. -/
theorem ownCap_ends {s : State} {c : Fin 64} (h : s.clusters[c].ownCap ≠ 0) : ∃ t, exec (.clusterCapRelease c) s = .next t ∧ t.clusters[c].ownCap = 0 ∧
    t.now = (s.advanceTo s.clusters[c].capUntil).now ∧ t = { s with time := t.time, clusters := t.clusters, pwr := t.pwr } := by
  have run : exec (.clusterCapRelease c) s = .next (((s.advanceTo s.clusters[c].capUntil).upCluster c fun k => { k with ownCap := 0 }).refreq) := if_neg h
  have ended : (((s.advanceTo s.clusters[c].capUntil).upCluster c fun k => { k with ownCap := 0 }).refreq).clusters[c].ownCap = 0 :=
    (State.refreq_cluster Cluster.ownCap (fun _ _ _ => rfl) _ c).trans (congrArg Cluster.ownCap (updV_at ..))
  obtain ⟨v, r, eq⟩ := ((s.advanceTo s.clusters[c].capUntil).upCluster c fun k => { k with ownCap := 0 }).refreq_refreqs
  rw [eq] at run ended
  exact ⟨_, run, ended, rfl, rfl⟩

/-! ### Monitor rings -/

/-- The largest slowdown of each cluster is kept: clause 11 of O45. -/
theorem monitorRing_keeps {s : State} (slow : List Nat) (ha : s.pwr.st = .active) (hq : s.quince.running = true) :
    ∃ t, exec (.monitorRingMeasure slow) s = .next t ∧
    (∀ c : Fin 64, t.clusters[c].slow = max s.clusters[c].slow (slow.getD c.val 0) ∧ t.clusters[c].cycles = s.clusters[c].cycles ∧
      t.clusters[c].periodFs = s.clusters[c].periodFs) ∧
    t = { s with clusters := t.clusters, sec := t.sec, pwr := t.pwr, host := t.host } := by
  obtain ⟨x, h, run⟩ : ∃ x h, exec (.monitorRingMeasure slow) s = .next (State.refreq { s with
      clusters := s.clusters.mapFinIdx fun i k _ => { k with slow := max k.slow (slow.getD i 0) }, sec := x, host := h }) := by
    change ∃ x h, execMonitorRingMeasure slow s = _
    unfold execMonitorRingMeasure
    rw [decide_eq_true ha, hq]
    dsimp only [Bool.and_true]
    generalize ((List.finRange 64).any _) = aged
    cases aged
    · exact ⟨s.sec, s.host, rfl⟩
    · obtain ⟨a, h, eq⟩ := State.adviseNew_eq { s with clusters := s.clusters.mapFinIdx fun i k _ => { k with slow := max k.slow (slow.getD i 0) } } 2
      refine ⟨_, h, (if_pos rfl).trans (congrArg (fun t : State => Host.Outcome.next t.refreq) eq)⟩
  have measured : ∀ c : Fin 64, (s.clusters.mapFinIdx fun i k _ => { k with slow := max k.slow (slow.getD i 0) })[c] =
      { s.clusters[c] with slow := max s.clusters[c].slow (slow.getD c.val 0) } := fun c => Vector.getElem_mapFinIdx ..
  obtain ⟨v, r, eq⟩ := State.refreq_refreqs { s with
      clusters := s.clusters.mapFinIdx fun i k _ => { k with slow := max k.slow (slow.getD i 0) }, sec := x, host := h }
  refine ⟨_, run, fun c => ⟨?_, ?_, ?_⟩, ?_⟩
  · exact (State.refreq_cluster Cluster.slow (fun _ _ _ => rfl) _ c).trans (congrArg Cluster.slow (measured c))
  · exact (State.refreq_cluster Cluster.cycles (fun _ _ _ => rfl) _ c).trans ((congrArg Cluster.cycles (measured c)).trans rfl)
  · exact (State.refreq_cluster Cluster.periodFs (fun _ _ _ => rfl) _ c).trans ((congrArg Cluster.periodFs (measured c)).trans rfl)
  · rw [eq]

/-! ### Stages of a frequency step -/

/-- A cluster after a stage of a step to a frequency. -/
def Cluster.staged (p fuse f : Nat) (k : Cluster) : Cluster :=
  { k.paced p k.trimFs fuse with stepTo := if p = periodOf f then none else some f, mixed := true }

theorem Cluster.staged_period (p fuse f : Nat) (k : Cluster) :
    (k.staged p fuse f).periodFs = p ∧ (periodOf fuse : Int) ≤ (k.staged p fuse f).periodFs + (k.staged p fuse f).trimFs := by
  refine ⟨rfl, ?_⟩
  change (periodOf fuse : Int) ≤ p + max k.trimFs ((periodOf fuse : Int) - p)
  omega

theorem foldl_upCluster_eq (F : Cluster → Cluster) {l : List (Fin 64)} (hl : l.Nodup) (s : State) :
    ∃ v, l.foldl (fun s h => s.upCluster h F) s = { s with clusters := v } ∧ (∀ h ∈ l, v[h] = F s.clusters[h]) ∧ ∀ h : Fin 64, h ∉ l → v[h] = s.clusters[h] := by
  induction l generalizing s with
  | nil => exact ⟨s.clusters, rfl, fun h hh => absurd hh List.not_mem_nil, fun _ _ => rfl⟩
  | cons a l ih =>
    obtain ⟨fresh, rest⟩ := List.nodup_cons.mp hl
    obtain ⟨v, eq, inside, outside⟩ := ih rest (s.upCluster a F)
    refine ⟨v, eq, fun h hh => ?_, fun h hh => ?_⟩
    · rcases List.mem_cons.mp hh with rfl | hh
      · exact (outside h fresh).trans (updV_at ..)
      · exact (inside h hh).trans (congrArg F (updV_ne _ _ fun e => fresh (e ▸ hh)))
    · exact (outside h fun m => hh (List.mem_cons_of_mem a m)).trans (updV_ne _ _ fun e => hh (e ▸ List.mem_cons_self))

theorem State.halves_nodup (s : State) (c : Fin 64) : (s.halves c).Nodup := by
  unfold State.halves
  split
  · exact List.nodup_cons.mpr ⟨by simp, List.nodup_singleton _⟩
  · exact List.nodup_singleton c

theorem State.retarget_rails (s : State) (d : Fin 4) : ∃ r, s.retarget d = { s with pwr := { s.pwr with rails := r } } := by
  unfold State.retarget
  dsimp only
  repeat' split
  · exact ⟨s.pwr.rails, rfl⟩
  · exact ⟨s.pwr.rails, rfl⟩
  · exact ⟨_, rfl⟩
  · exact ⟨s.pwr.rails, rfl⟩
  · exact ⟨_, rfl⟩

section
variable {s : State} {c : Fin 64} {f : Nat} (hs : s.clusters[s.oscOf c].stepTo = some f)
include hs

/-- A raise waits for its voltage: clause 14 of O45. -/
theorem freqStep_waits (hg : periodOf f < s.clusters[s.oscOf c].periodFs)
    (hv : s.pwr.rails[railOf (dieOf c)].target < s.pwr.rails[railOf (dieOf c)].wantTarget) : exec (.freqStepStage c) s = .next s := by
  change execFreqStepStage c s = _
  unfold execFreqStepStage
  dsimp only
  rw [hs]
  refine if_pos ?_
  rw [decide_eq_true hg, decide_eq_true hv]
  exact Bool.or_true _

/-- A stage that may run sets the period of both halves, within F_FUSE. -/
theorem freqStep_runs {p : Nat} (hr : s.clusters[s.oscOf c].running = true) (hh : s.clusters[s.oscOf c].stepHeld = false)
    (hg : periodOf f < s.clusters[s.oscOf c].periodFs → s.pwr.rails[railOf (dieOf c)].wantTarget ≤ s.pwr.rails[railOf (dieOf c)].target)
    (hp : (if periodOf f > s.clusters[s.oscOf c].periodFs then min (periodOf f) (s.clusters[s.oscOf c].periodFs + s.clusters[s.oscOf c].periodFs / 4)
      else max (periodOf f) (s.clusters[s.oscOf c].periodFs - s.clusters[s.oscOf c].periodFs / 16)) = p) :
    ∃ t, exec (.freqStepStage c) s = .next t ∧
      (∀ h ∈ s.halves c, t.clusters[h].periodFs = p ∧ (periodOf (s.fuseMHz c) : Int) ≤ t.clusters[h].periodFs + t.clusters[h].trimFs) ∧
      (∀ h : Fin 64, h ∉ s.halves c → t.clusters[h] = s.clusters[h]) ∧ t = { s with clusters := t.clusters, pwr := t.pwr } := by
  have free : (decide (periodOf f < s.clusters[s.oscOf c].periodFs) &&
      decide (s.pwr.rails[railOf (dieOf c)].wantTarget > s.pwr.rails[railOf (dieOf c)].target)) = false := by
    by_cases raise : periodOf f < s.clusters[s.oscOf c].periodFs
    · rw [decide_eq_false (Nat.not_lt.mpr (hg raise)), Bool.and_false]
    · rw [decide_eq_false raise, Bool.false_and]
  have run : exec (.freqStepStage c) s =
      .next (((s.halves c).foldl (fun u h => u.upCluster h (Cluster.staged p (s.fuseMHz c) f)) s).retarget (dieOf c)) := by
    change execFreqStepStage c s = _
    unfold execFreqStepStage
    dsimp only
    rw [hs]
    dsimp only
    rw [hr, hh, free, hp]
    exact if_neg Bool.false_ne_true
  obtain ⟨v, staged, inside, outside⟩ := foldl_upCluster_eq (Cluster.staged p (s.fuseMHz c) f) (s.halves_nodup c) s
  rw [staged] at run
  obtain ⟨r, tuned⟩ := State.retarget_rails { s with clusters := v } (dieOf c)
  rw [tuned] at run
  refine ⟨_, run, fun h hh => ?_, outside, rfl⟩
  change v[h].periodFs = p ∧ (periodOf (s.fuseMHz c) : Int) ≤ v[h].periodFs + v[h].trimFs
  rw [inside h hh]
  exact Cluster.staged_period p (s.fuseMHz c) f s.clusters[h]

end

end Sys2Proof.Machine
end

section
/-! PROOFS. Currant's evaluation of the rails and the overcurrent of a die (R404 to R407). -/
namespace Sys2Proof.Machine

/-! ### An evaluation -/

/-- When an evaluation takes place: at the next multiple of 64 ns. -/
def State.evalAt (s : State) : State := s.advanceTo (BitVec.ofNat 64 ((s.now.toNat / 1024 + 1) * 1024))

/-- The state whose rails have taken their estimates. -/
def State.noted (s : State) (raw : List Nat) : State :=
  s.settleGov.upPwr fun p => { p with rails := p.rails.mapFinIdx fun i r _ => r.noteEstimate (raw.getD i 0) }

/-- The state whose governors and throttles follow the means of the rails. -/
def State.governed (s : State) : State :=
  let hub := throttle s.pwr.hubThrottle s.pwr.hubSince s.now s.pwr.rails[(4 : Fin 8)].mean (s.railLim 4)
  let stk := throttle s.pwr.stkThrottle s.pwr.stkSince s.now s.pwr.rails[(5 : Fin 8)].mean (s.railLim 5)
  s.upPwr fun p =>
    { p with
      dies := p.dies.mapFinIdx fun i d h =>
        d.eval s.now s.pwr.rails[railOf ⟨i, h⟩].mean (s.railLim (railOf ⟨i, h⟩)) (s.dieSlow ⟨i, h⟩)
      hubThrottle := hub.1, hubSince := hub.2, stkThrottle := stk.1, stkSince := stk.2 }

theorem execCurrantEval_eq {s : State} (raw : List Nat) (h : s.lit = true) :
    ∃ b, exec (.currantEval raw) s = .next (((((s.evalAt.noted raw).governed).railWatch 6).railWatch 7).when b State.refreq) := ⟨_, if_pos h⟩

theorem State.noted_rail (s : State) (raw : List Nat) (i : Fin 8) :
    (s.noted raw).pwr.rails[i] = s.pwr.rails[i].noteEstimate (raw.getD i.val 0) := Vector.getElem_mapFinIdx ..

theorem State.noted_lim (s : State) (raw : List Nat) (i : Fin 8) : (s.noted raw).railLim i = s.railLim i := by
  unfold State.railLim
  rw [State.noted_rail]
  rfl

theorem State.noted_die (s : State) (raw : List Nat) (d : Fin 4) : (s.noted raw).pwr.dies[d] = s.pwr.dies[d].settle s.now := Vector.getElem_map ..

theorem State.governed_die (s : State) (d : Fin 4) : s.governed.pwr.dies[d] =
    s.pwr.dies[d].eval s.now s.pwr.rails[railOf d].mean (s.railLim (railOf d)) (s.dieSlow d) := Vector.getElem_mapFinIdx ..

/-- A throttle acts where the mean is above 0.95 of the limit. -/
theorem throttle_on (on : Bool) (below : Option DWord) (now : DWord) {m lim : Nat} (h : 95 * lim < 100 * m) : (throttle on below now m lim).1 = true := by
  unfold throttle
  rw [if_pos h]

/-- The governor of a die rises by one level where the mean is above 0.95 of the limit, at the earliest 256 ns after it last moved. -/
theorem DieP.eval_rises {d : DieP} {now : DWord} {m lim : Nat} (slow : Bool) (h : 95 * lim < 100 * m) (hl : d.level < 8) (ht : d.levelAt.toNat + 4096 ≤ now.toNat) :
    (d.eval now m lim slow).level = d.level + 1 ∧ (d.eval now m lim slow).levelAt = now ∧ (d.eval now m lim slow).cap = d.cap := by
  have rises : d.level' now m lim = (d.level + 1, now) := by
    unfold DieP.level'
    refine if_pos ?_
    rw [decide_eq_true ht, decide_eq_true hl, Bool.and_true, Bool.and_true]
    exact decide_eq_true h
  unfold DieP.eval
  rw [rises]
  exact ⟨rfl, rfl, rfl⟩

/-- What the watch of a rail without a throttle changes: its mark, and the events of the runtime. -/
theorem State.railWatch_eq (s : State) (i : Fin 8) : ∃ r e, s.railWatch i = { s with pwr := { s.pwr with rails := r }, rt := { s.rt with railEvents := e } } ∧
    (∀ j : Fin 8, r[j].estimates = s.pwr.rails[j].estimates) ∧ (∀ x ∈ s.rt.railEvents, x ∈ e) ∧
    (95 * s.railLim i < 100 * s.pwr.rails[i].mean → s.pwr.rails[i].high = false → (i.val, s.now) ∈ e) := by
  have kept : ∀ (b : Bool) (j : Fin 8), (updV s.pwr.rails i fun r => { r with high := b })[j].estimates = s.pwr.rails[j].estimates := fun b j =>
    updV_keeps Rail.estimates _ _ _ _ fun _ => rfl
  unfold State.railWatch
  dsimp only
  cases told : decide (100 * s.pwr.rails[i].mean > 95 * s.railLim i) && !s.pwr.rails[i].high with
  | false =>
    refine ⟨_, s.rt.railEvents, rfl, kept _, fun x hx => hx, fun above low => ?_⟩
    rw [low, decide_eq_true above] at told
    exact absurd told.symm Bool.false_ne_true
  | true => exact ⟨_, _, rfl, kept _, fun x hx => List.mem_append_left _ hx, fun _ _ => List.mem_append_right _ (List.mem_singleton.mpr rfl)⟩

/-- What an evaluation leaves: the governors and throttles as they follow the means, the estimates, and an event for VOPT. -/
theorem currantEval_evaluates {s : State} (raw : List Nat) (h : s.lit = true) : ∃ v r e, exec (.currantEval raw) s = .next { s with
      time := s.evalAt.time, clusters := v, pwr := { (s.evalAt.noted raw).governed.pwr with rails := r }, rt := { s.rt with railEvents := e } } ∧
    (∀ j : Fin 8, r[j].estimates = (s.pwr.rails[j].noteEstimate (raw.getD j.val 0)).estimates) ∧
    (95 * s.railLim 6 < 100 * (s.pwr.rails[(6 : Fin 8)].noteEstimate (raw.getD 6 0)).mean → s.pwr.rails[(6 : Fin 8)].high = false → (6, s.evalAt.now) ∈ e) := by
  obtain ⟨b, run⟩ := execCurrantEval_eq raw h
  obtain ⟨r, e, six, est, -, told⟩ := (s.evalAt.noted raw).governed.railWatch_eq 6
  obtain ⟨r', e', seven, est', more, -⟩ := ((s.evalAt.noted raw).governed.railWatch 6).railWatch_eq 7
  rw [seven, six] at run
  rw [six] at est' more
  have noted : ∀ j : Fin 8, (s.evalAt.noted raw).governed.pwr.rails[j] = s.pwr.rails[j].noteEstimate (raw.getD j.val 0) := State.noted_rail s.evalAt raw
  have limit : (s.evalAt.noted raw).governed.railLim 6 = s.railLim 6 := State.noted_lim s.evalAt raw 6
  rw [noted, limit] at told
  have estimates : ∀ j : Fin 8, r'[j].estimates = (s.pwr.rails[j].noteEstimate (raw.getD j.val 0)).estimates := fun j =>
    ((est' j).trans (est j)).trans (congrArg Rail.estimates (noted j))
  have event : 95 * s.railLim 6 < 100 * (s.pwr.rails[(6 : Fin 8)].noteEstimate (raw.getD 6 0)).mean → s.pwr.rails[(6 : Fin 8)].high = false →
      (6, s.evalAt.now) ∈ e' := fun above low => more _ (told above low)
  cases b with
  | false => exact ⟨s.clusters, r', e', run, estimates, event⟩
  | true =>
    generalize tuned : State.mk .. = u at run
    obtain ⟨v, r'', eq⟩ := u.refreq_refreqs
    have same := State.refreq_rail Rail.estimates (fun _ _ _ => rfl) u
    rw [State.when_true, eq] at run
    rw [eq] at same
    subst tuned
    exact ⟨v, r'', e', run, fun j => (same j).trans (estimates j), event⟩

/-- A die above 0.95 of its limit rises by one level: clause 6 of O45. -/
theorem currantEval_level {s : State} (raw : List Nat) (d : Fin 4)
    (above : 95 * s.railLim (railOf d) < 100 * (s.pwr.rails[railOf d].noteEstimate (raw.getD d.val 0)).mean) (hl : s.pwr.dies[d].level < 8)
    (ht : s.pwr.dies[d].levelAt.toNat + 4096 ≤ s.evalAt.now.toNat) :
    (s.evalAt.noted raw).governed.pwr.dies[d].level = s.pwr.dies[d].level + 1 ∧ (s.evalAt.noted raw).governed.pwr.dies[d].levelAt = s.evalAt.now ∧
      (s.evalAt.noted raw).governed.pwr.dies[d].cap = s.pwr.dies[d].cap := by
  have mean : (s.evalAt.noted raw).pwr.rails[railOf d] = s.pwr.rails[railOf d].noteEstimate (raw.getD d.val 0) := State.noted_rail s.evalAt raw (railOf d)
  have limit : (s.evalAt.noted raw).railLim (railOf d) = s.railLim (railOf d) := State.noted_lim s.evalAt raw (railOf d)
  rw [State.governed_die, State.noted_die, mean, limit]
  exact DieP.eval_rises (d := s.evalAt.pwr.dies[d].settle s.evalAt.now) _ above hl ht

/-! ### An overcurrent -/

/-- The power block but for the ceiling, the shares of a credit round and the transition asked for: what the end of a job leaves of it. -/
def Power.lasting (p : Power) : Power :=
  { p.plan with roundOn := false, offer := 0, ask := 0, childCredits := [], upSent := false, borrower := false, lend := 0, grant := 0, goal := none, parkWait := false }

/-- The same of the state. -/
def State.lasting (s : State) : Power := s.pwr.lasting

theorem Power.lasting_plan {p q : Power} (h : p.plan = q.plan) : p.lasting = q.lasting := by
  unfold Power.lasting
  rw [h]

theorem State.ceilingStep_lasting (s : State) : s.ceilingStep.lasting = s.lasting := by
  obtain ⟨p, hp, eq⟩ := s.ceilingStep_plan
  rw [eq]
  exact Power.lasting_plan hp

theorem State.noteBind_lasting (s : State) : s.noteBind.lasting = s.lasting := by
  obtain ⟨p, h, hp, eq⟩ := s.noteBind_plan
  rw [eq]
  exact Power.lasting_plan hp

theorem State.endJobDescs_pwr (s : State) : s.endJobDescs.pwr = s.pwr := by
  refine foldl_keeps State.pwr _ (fun t x => ?_) _ s
  dsimp only
  split
  · obtain ⟨h, eq⟩ := t.returnRecord_keeps _
    rw [eq]
  · rfl

theorem State.tearDown_lasting (s : State) : s.tearDown.lasting = s.lasting := by
  unfold State.tearDown
  split
  · rfl
  · unfold State.reEnv
    rw [State.noteBind_lasting, State.ceilingStep_lasting, ← s.ceilingStep_lasting]
    have event : ∀ u job code x y, (State.eventFor u job code x y).lasting = u.lasting := fun _ _ _ _ _ => rfl
    have host : ∀ u f, (State.upHost u f).lasting = u.lasting := fun _ _ => rfl
    have goal : ∀ u (g : Power → Option PowerSt), (State.upPwr u fun p => { p with goal := g p, parkWait := false }).lasting = u.lasting := fun _ _ => rfl
    have shares : ∀ u, (State.dropShares u).lasting = u.lasting := fun _ => rfl
    have medlar : ∀ u f, (State.upMedlar u f).lasting = u.lasting := fun _ _ => rfl
    have sec : ∀ u f, (State.upSec u f).lasting = u.lasting := fun _ _ => rfl
    have job : ∀ u f, (State.upJob u f).lasting = u.lasting := fun _ _ => rfl
    have descs : ∀ u, (State.endJobDescs u).lasting = u.lasting := fun u => congrArg Power.lasting (State.endJobDescs_pwr u)
    have mover : ∀ u f, (State.upMover u f).lasting = u.lasting := fun _ _ => rfl
    have coll : ∀ u f, (State.upColl u f).lasting = u.lasting := fun _ _ => rfl
    have fab : ∀ u f, (State.upFab u f).lasting = u.lasting := fun _ _ => rfl
    have regions : ∀ u, (State.stopRegions u).lasting = u.lasting := fun _ => rfl
    dsimp only
    rw [event, host, goal, shares, medlar, sec, job, descs, host, mover, coll, fab, regions]

theorem State.leaveJobs_lasting (s : State) (dark : Bool) : (s.leaveJobs dark).lasting = s.lasting := by
  unfold State.leaveJobs
  split
  · refine (State.tearDown_lasting _).trans (State.when_keeps State.lasting s _ _ ?_)
    obtain ⟨f, e⟩ := s.deadSuspect_eq s.job.p.jobId s.fab.modId 0 0
    rw [e]
    rfl
  · rfl

/-- What the rails and the dies stand at, and how they go on and off, is not the job's. -/
theorem State.leaveJobs_power (s : State) (dark : Bool) : (s.leaveJobs dark).pwr.rails = s.pwr.rails ∧ (s.leaveJobs dark).pwr.dies = s.pwr.dies ∧
    (s.leaveJobs dark).pwr.offSeq = s.pwr.offSeq ∧ (s.leaveJobs dark).pwr.offAt = s.pwr.offAt ∧ (s.leaveJobs dark).pwr.onSeq = s.pwr.onSeq := by
  have kept : (s.leaveJobs dark).pwr.lasting = s.pwr.lasting := State.leaveJobs_lasting s dark
  exact ⟨(congrArg Power.rails kept).trans rfl, (congrArg Power.dies kept).trans rfl, (congrArg Power.offSeq kept).trans rfl,
    (congrArg Power.offAt kept).trans rfl, (congrArg Power.onSeq kept).trans rfl⟩

theorem State.requestOff_off (s : State) (first : Option (Fin 8)) (fault : Bool) : (s.requestOff first fault).pins.faultLow = s.pins.faultLow ∧
    (s.requestOff first fault).pwr.offSeq = offOrder first ∧ (s.requestOff first fault).pwr.offAt = s.now ∧ (s.requestOff first fault).pwr.onSeq = [] ∧
    (s.requestOff first fault).pwr.dies = s.pwr.dies.map (fun k => { k with railOff := true }) ∧
    (s.requestOff first fault).time = s.time := ⟨rfl, rfl, rfl, rfl, rfl, rfl⟩

/-- A die's overcurrent switches its rail off first, and the job is left: clause 10 of O45. -/
theorem railOvercurrent_off {s : State} {d : Fin 4} {t0 : DWord} (h : s.pwr.dies[d].overSince = some t0) : ∃ t, exec (.railOvercurrent d) s = .next t ∧
    t.pins.faultLow = true ∧ t.pwr.offSeq.head? = some (railOf d) ∧ t.pwr.offAt = t.now ∧ t.pwr.dies[d].railOff = true ∧ t.inJob = false ∧
    t.now = (s.advanceTo (after t0 (100 * usU))).now := by
  obtain ⟨u, run, low, seq, at_, ⟨w, dies⟩, time⟩ : ∃ u, exec (.railOvercurrent d) s = .next (State.leaveJobs u true) ∧ u.pins.faultLow = true ∧
      u.pwr.offSeq = offOrder (some (railOf d)) ∧ u.pwr.offAt = u.now ∧ (∃ v : Vector DieP 4, u.pwr.dies = v.map fun k => { k with railOff := true }) ∧
      u.time = (s.advanceTo (after t0 (100 * usU))).time := by
    change ∃ u, execRailOvercurrent d s = _ ∧ _
    unfold execRailOvercurrent
    rw [h]
    dsimp only
    obtain ⟨x, hx⟩ : ∃ x, State.upDie (((s.advanceTo (after t0 (100 * usU))).assertFault .overcurrent).logFault fkOvercurrent) d (fun k =>
      { k with overSince := none }) = x := ⟨_, rfl⟩
    have low : x.pins.faultLow = true := hx ▸ rfl
    have time : x.time = (s.advanceTo (after t0 (100 * usU))).time := hx ▸ rfl
    rw [hx]
    obtain ⟨low', seq, at_, -, dies, time'⟩ := x.requestOff_off (some (railOf d)) true
    exact ⟨_, rfl, low'.trans low, seq, at_, ⟨x.pwr.dies, dies⟩, time'.trans time⟩
  have pins : (u.leaveJobs true).pins = u.pins := blindToJob_pins.leaveJobs u true
  have clock : (u.leaveJobs true).time = u.time := blindToJob_time.leaveJobs u true
  obtain ⟨-, dies', seq', at', -⟩ := u.leaveJobs_power true
  refine ⟨_, run, ?_, ?_, ?_, ?_, State.leaveJobs_inJob u true, ?_⟩
  · rw [pins, low]
  · rw [seq', seq]
    rfl
  · exact (at'.trans at_).trans (congrArg TimeBase.now clock).symm
  · rw [dies', dies]
    exact congrArg DieP.railOff (Vector.getElem_map ..)
  · exact congrArg TimeBase.now (clock.trans time)

end Sys2Proof.Machine
end

section
/-! PROOFS. Rails, governors, caps and frequency steps together (O45). -/
namespace Sys2Proof.Machine

/-- Settles O45: the frames of the bus by what they are sent for, an evaluation of Currant, the caps and the stages of a frequency step. -/
theorem railsGovernorsAndFrequencySteps : Obligations.RailsGovernorsAndFrequencySteps := by
  refine ⟨?_, ?_, ?_, ?_, ?_, ?_, ?_, fun d t0 s h => dieCap_falls h, fun d t0 s ha h hc => dieCap_rises ha h hc, fun d t0 s h => railOvercurrent_off h,
    fun slow s ha hq => monitorRing_keeps slow ha hq, ?_, ?_, fun c f s hs hg hv => freqStep_waits hs hg hv, fun c s h => ownCap_ends h⟩
  case refine_1 =>
    intro i r s hv hc hn hw hcrc hst hf
    obtain ⟨n, p, run, up, rails⟩ := vrbFrame_change hv hc hn hw hcrc hst hf
    have rail : p.rails[i] = s.pwr.rails[i].acked .change true (field r.toNat 19 8) := by rw [rails, updV_at]
    refine ⟨_, run, (congrArg Rail.target rail).trans rfl, (congrArg Rail.enabled rail).trans rfl, (congrArg Rail.pending rail).trans (Bool.and_false _),
      (congrArg Rail.fails rail).trans rfl, (congrArg Rail.iRead rail).trans rfl, up, fun j hj => ?_, rfl⟩
    exact (congrArg (fun v : Vector Rail 8 => v[j]) rails).trans (updV_ne _ _ hj)
  case refine_2 =>
    intro i r s hv hc hn _ hcrc hst hf
    obtain ⟨n, p, run, head, seq, ramp, rails⟩ := vrbFrame_on hv hc hn hcrc hst hf
    have rail : p.rails[i] = (s.pwr.rails[i].acked .on true (field r.toNat 19 8)).atFirst i := by rw [rails, updV_at]
    refine ⟨_, run, (congrArg Rail.enabled rail).trans rfl, (congrArg Rail.target rail).trans rfl, head, seq, ramp, fun j hj => ?_, rfl⟩
    exact (congrArg (fun v : Vector Rail 8 => v[j]) rails).trans (updV_ne _ _ hj)
  case refine_3 =>
    intro i r s hv hc hn hi hcrc hst hf
    obtain ⟨n, p, v, run, seq, at_, rails, still⟩ := vrbFrame_off hv hc hn hi hcrc hst hf
    have rail : p.rails[i] = { s.pwr.rails[i] with wantEnable := false }.acked .off false (field r.toNat 19 8) := by rw [rails, updV_at]
    refine ⟨_, run, (congrArg Rail.enabled rail).trans rfl, rfl, seq, at_, fun j hj => ?_, still, rfl⟩
    exact (congrArg (fun v : Vector Rail 8 => v[j]) rails).trans (updV_ne _ _ hj)
  case refine_4 =>
    intro s hv hc hk hfew
    obtain ⟨n, p, run, down, rails⟩ := vrbFrame_lost (i := s.nextFrame.1) (k := s.nextFrame.2) hv hc (Prod.eta s.nextFrame).symm hk hfew
    have rail : p.rails[s.nextFrame.1] = { s.pwr.rails[s.nextFrame.1] with fails := s.pwr.rails[s.nextFrame.1].fails + 1, acks := 0 } := by
      rw [rails, updV_at]
    refine ⟨_, run, (congrArg Rail.fails rail).trans rfl, (congrArg Rail.acks rail).trans rfl, down, fun j hj => ?_, rfl⟩
    exact (congrArg (fun v : Vector Rail 8 => v[j]) rails).trans (updV_ne _ _ hj)
  case refine_5 => exact fun s hv hc hmany hf => vrbFrame_faults (i := s.nextFrame.1) (k := s.nextFrame.2) hv hc (Prod.eta s.nextFrame).symm hmany hf
  case refine_6 =>
    intro raw d s hlit above hlevel htime
    obtain ⟨v, r, e, run, est, -⟩ := currantEval_evaluates raw hlit
    obtain ⟨level, at_, cap⟩ := currantEval_level raw d above hlevel htime
    exact ⟨_, run, rfl, level, at_, cap, est (railOf d), rfl⟩
  case refine_7 =>
    intro raw s hlit
    obtain ⟨v, r, e, run, -, told⟩ := currantEval_evaluates raw hlit
    have limit : ∀ i : Fin 8, (s.evalAt.noted raw).railLim i = s.railLim i := State.noted_lim s.evalAt raw
    have rail : ∀ i : Fin 8, (s.evalAt.noted raw).pwr.rails[i] = s.pwr.rails[i].noteEstimate (raw.getD i.val 0) := State.noted_rail s.evalAt raw
    refine ⟨_, run, fun above => ?_, fun above => ?_, told⟩
    · refine throttle_on _ _ _ ?_
      rw [limit, rail]
      exact above
    · refine throttle_on _ _ _ ?_
      rw [limit, rail]
      exact above
  case refine_8 =>
    intro c f s hs hr hh hlonger
    exact freqStep_runs hs hr hh (fun shorter => absurd hlonger (Nat.lt_asymm shorter)) (if_pos hlonger)
  case refine_9 =>
    intro c f s hs hr hh hshorter hv
    exact freqStep_runs hs hr hh (fun _ => hv) (if_neg (Nat.lt_asymm hshorter))

end Sys2Proof.Machine
end

section
/-! PROOFS. Thermal limits (R430 to R432). -/
namespace Sys2Proof.Machine

theorem softOf_temps (p : Power) (x : Sensor) (t : List (Sensor × Nat)) : softOf { p with temps := t } x = softOf p x := by
  cases x with
  | cluster c => rfl
  | stack k => rfl
  | hub => rfl
  | optical k => rfl

/-! ### The thermal ceiling -/

/-- A sensor that comes to exceed its T_SOFT sets the thermal ceiling: clause 1 of O46. -/
theorem thermalSoft_sets {x : Sensor} {temp : Nat} (draw : Nat) {s : State} (h : softOf s.pwr x < temp)
    (hw : s.pwr.thermCeil = none ∨ (getKV x s.pwr.temps).getD 0 ≤ softOf s.pwr x) :
    ∃ t, exec (.thermalSoft x temp draw) s = .next t ∧ t.pwr.thermCeil = some (max 250 (draw * 95 / 100)) ∧ t.pwr.thermBase = draw ∧ t.pwr.thermBy = x ∧
      t.pwr.temps = putKV x temp s.pwr.temps ∧ t = { s with pwr := t.pwr, host := t.host } := by
  have sets : (decide (temp > softOf (s.noteTemp x temp).pwr x) &&
      (!decide ((getKV x s.pwr.temps).getD 0 > softOf s.pwr x) || (s.noteTemp x temp).pwr.thermCeil.isNone)) = true := by
    rw [show softOf (s.noteTemp x temp).pwr x = softOf s.pwr x from softOf_temps s.pwr x _, decide_eq_true h, Bool.true_and]
    rcases hw with hw | hw
    · rw [show (s.noteTemp x temp).pwr.thermCeil = none from hw]
      exact Bool.or_true _
    · rw [decide_eq_false (Nat.not_lt.mpr hw)]
      rfl
  obtain ⟨q, p, h', hq, hp, eq⟩ := (s.noteTemp x temp).changeEnv_plan fun p =>
    { p with thermCeil := some (max 250 (draw * 95 / 100)), thermBase := draw, thermAt := (s.noteTemp x temp).now, thermBy := x }
  have run : exec (.thermalSoft x temp draw) s = .next ((s.noteTemp x temp).changeEnv fun p =>
    { p with thermCeil := some (max 250 (draw * 95 / 100)), thermBase := draw, thermAt := (s.noteTemp x temp).now, thermBy := x }) := if_pos sets
  have temps : q.temps = putKV x temp s.pwr.temps := (congrArg Power.temps hq).trans rfl
  rw [eq] at run
  exact ⟨_, run, (congrArg Power.thermCeil hp).trans rfl, (congrArg Power.thermBase hp).trans rfl, (congrArg Power.thermBy hp).trans rfl,
    ((congrArg Power.temps hp).trans rfl).trans temps, rfl⟩

section
variable {c : Nat} {s : State} (hc : s.pwr.thermCeil = some c)
include hc

/-- The thermal ceiling falls while a sensor is above its T_SOFT: clause 2 of O46. -/
theorem thermalCeiling_falls (h : s.pwr.temps.any (fun x => decide (softOf s.pwr x.1 < x.2)) = true) :
    ∃ t, exec .thermalCeilingStep s = .next t ∧ t.pwr.thermCeil = some (max 250 (c - s.pwr.thermBase * 2 / 100)) ∧
      t.now = (s.advanceTo (after s.pwr.thermAt msU)).now ∧ t = { s with time := t.time, pwr := t.pwr, host := t.host } := by
  have run : exec .thermalCeilingStep s = .next ((s.advanceTo (after s.pwr.thermAt msU)).changeEnv fun p =>
      { p with thermCeil := some (max 250 (c - p.thermBase * 2 / 100)), thermAt := (s.advanceTo (after s.pwr.thermAt msU)).now }) := by
    change execThermalCeilingStep s = _
    unfold execThermalCeilingStep
    rw [hc]
    exact if_pos h
  obtain ⟨q, p, h', hq, hp, eq⟩ := (s.advanceTo (after s.pwr.thermAt msU)).changeEnv_plan fun p =>
      { p with thermCeil := some (max 250 (c - p.thermBase * 2 / 100)), thermAt := (s.advanceTo (after s.pwr.thermAt msU)).now }
  have base : q.thermBase = s.pwr.thermBase := (congrArg Power.thermBase hq).trans rfl
  have ceil : p.thermCeil = some (max 250 (c - q.thermBase * 2 / 100)) := (congrArg Power.thermCeil hp).trans rfl
  rw [eq] at run
  rw [base] at ceil
  exact ⟨_, run, ceil, rfl, rfl⟩

/-- The thermal ceiling rises, to none at last, once every sensor is at least 3 °C below its T_SOFT: clause 3 of O46. -/
theorem thermalCeiling_rises (h : s.pwr.temps.any (fun x => decide (softOf s.pwr x.1 < x.2)) = false)
    (hl : s.pwr.temps.all (fun x => decide (x.2 + 3 ≤ softOf s.pwr x.1)) = true) :
    ∃ t, exec .thermalCeilingStep s = .next t ∧ t.pwr.thermCeil = (if c + 15 ≥ 1500 then none else some (c + 15)) ∧
      t.now = (s.advanceTo (after s.pwr.thermAt (10 * msU))).now ∧ t = { s with time := t.time, pwr := t.pwr, host := t.host } := by
  have run : exec .thermalCeilingStep s = .next ((s.advanceTo (after s.pwr.thermAt (10 * msU))).changeEnv fun p =>
      { p with thermCeil := if c + 15 ≥ 1500 then none else some (c + 15), thermAt := (s.advanceTo (after s.pwr.thermAt (10 * msU))).now }) := by
    change execThermalCeilingStep s = _
    unfold execThermalCeilingStep
    rw [hc]
    exact (if_neg (ne_true_of_eq_false h)).trans (if_pos hl)
  obtain ⟨q, p, h', hq, hp, eq⟩ := (s.advanceTo (after s.pwr.thermAt (10 * msU))).changeEnv_plan fun p =>
      { p with thermCeil := if c + 15 ≥ 1500 then none else some (c + 15), thermAt := (s.advanceTo (after s.pwr.thermAt (10 * msU))).now }
  rw [eq] at run
  exact ⟨_, run, (congrArg Power.thermCeil hp).trans rfl, rfl, rfl⟩

end

/-! ### Throttles -/

/-- The throttle of a sensor is set or released. -/
theorem State.hot_throttles (s : State) (x : Sensor) (on : Bool) : (s.hot x on).pwr.hard = (if on then s.pwr.hard ++ [x] else s.pwr.hard.erase x) ∧
    (x = .hub → (s.hot x on).pwr.hubHot = on) ∧ ∀ k : Fin 12, x = .stack k → (s.hot x on).pwr.stkHot[k] = on :=
  ⟨rfl, fun h => if_pos h, fun _ h => (Vector.getElem_mapFinIdx ..).trans (if_pos h)⟩

/-- A sensor that reaches its T_HARD is throttled: clause 4 of O46. -/
theorem thermalHard_throttles {x : Sensor} {temp : Nat} {s : State} (h : hardOf x ≤ temp) (hn : s.pwr.hard.contains x = false) :
    ∃ t, exec (.thermalHard x temp) s = .next t ∧
    t.pwr.hard = s.pwr.hard ++ [x] ∧ (x = .hub → t.pwr.hubHot = true) ∧ (∀ k : Fin 12, x = .stack k → t.pwr.stkHot[k] = true) ∧
    t = { s with clusters := t.clusters, pwr := t.pwr, host := t.host } := by
  obtain ⟨hard, hub, stack⟩ := (s.noteTemp x temp).hot_throttles x true
  obtain ⟨v, r, b, run⟩ : ∃ v r b, exec (.thermalHard x temp) s = .next { s with
      clusters := v, pwr := { ((s.noteTemp x temp).hot x true).pwr with rails := r }, host := b } := by
    have reached : (decide (temp ≥ hardOf x) && !(s.noteTemp x temp).pwr.hard.contains x) = true := by
      rw [decide_eq_true h, show (s.noteTemp x temp).pwr.hard.contains x = false from hn]
      rfl
    change ∃ v r b, execThermalHard x temp s = _
    unfold execThermalHard
    dsimp only
    rw [if_pos reached]
    cases x with
    | cluster c =>
      obtain ⟨v, r, eq⟩ := ((s.noteTemp (.cluster c) temp).hot (.cluster c) true).refreq_refreqs
      exact ⟨v, r, s.host, congrArg Host.Outcome.next eq⟩
    | stack k => exact ⟨s.clusters, s.pwr.rails, s.host, rfl⟩
    | hub => exact ⟨s.clusters, s.pwr.rails, s.host, rfl⟩
    | optical k => exact ⟨s.clusters, s.pwr.rails, _, rfl⟩
  exact ⟨_, run, hard, hub, stack, rfl⟩

/-- A sensor that falls back below its T_HARD is released: clause 5 of O46. -/
theorem thermalHardRelease_releases {x : Sensor} {temp : Nat} {s : State} (h : temp < hardOf x) (hn : s.pwr.hard.contains x = true) :
    ∃ t, exec (.thermalHardRelease x temp) s = .next t ∧
    t.pwr.hard = s.pwr.hard.erase x ∧ (x = .hub → t.pwr.hubHot = false) ∧ (∀ k : Fin 12, x = .stack k → t.pwr.stkHot[k] = false) ∧
    t = { s with clusters := t.clusters, pwr := t.pwr } := by
  obtain ⟨hard, hub, stack⟩ := (s.noteTemp x temp).hot_throttles x false
  have below : (decide (temp < hardOf x) && (s.noteTemp x temp).pwr.hard.contains x) = true := by
    rw [decide_eq_true h]
    exact hn
  have run : exec (.thermalHardRelease x temp) s = .next ((s.noteTemp x temp).hot x false).refreq := if_pos below
  obtain ⟨v, r, eq⟩ := ((s.noteTemp x temp).hot x false).refreq_refreqs
  rw [eq] at run
  exact ⟨_, run, hard, hub, stack, rfl⟩

end Sys2Proof.Machine
end

section
/-! PROOFS. STANDBY and the thermal trip (R432, R433, R524, R530). -/
namespace Sys2Proof.Machine

/-! ### STANDBY -/

theorem State.departPorts_ports (s : State) (st : PortSt) (p : Fin 32) : (s.departPorts st).fab.ports[p] =
    { s.fab.ports[p] with st := if s.fab.ports[p].st = .disabled then .disabled else st, level := 0, departSent := decide (s.fab.ports[p].st = .up), replay := [],
                          queues := Vector.replicate 4 [] } := Vector.getElem_map ..

/-- What STANDBY leaves of power: its state and transition change, the rails and their sequences stay. -/
theorem State.standby_power (s : State) : s.standby.pwr.st = .standby ∧ s.standby.pwr.goal = none ∧ s.standby.pwr.rails = s.pwr.rails ∧
    s.standby.pwr.offSeq = s.pwr.offSeq ∧ s.standby.pwr.onSeq = s.pwr.onSeq := ⟨rfl, rfl, rfl, rfl, rfl⟩

/-- STANDBY loses the stack tier and the link, disarms the watchdog, and stops every clock. -/
theorem State.standby_loses (s : State) : s.standby.tiers.stackMem = [] ∧ s.standby.host.linkUp = false ∧ s.standby.time.wdArmed = false ∧
    ∀ c : Fin 64, s.standby.clusters[c].running = false :=
  ⟨rfl, rfl, rfl, fun _ => congrArg Cluster.running (Vector.getElem_map ..)⟩

/-- STANDBY leaves module time, the fault output, the job and which ports are enabled. -/
theorem State.standby_leaves (s : State) : s.standby.now = s.now ∧ s.standby.pins.faultLow = s.pins.faultLow ∧ s.standby.pins.goodHeld = s.pins.goodHeld ∧
    s.standby.inJob = s.inJob ∧ s.standby.fab.portEn = s.fab.portEn := ⟨rfl, rfl, rfl, rfl, rfl⟩

/-! ### The thermal trip -/

/-- A rail is on, or about to be, by the rails and their sequence alone. -/
theorem State.railsLit_congr {s t : State} (hr : t.pwr.rails = s.pwr.rails) (ho : t.pwr.onSeq = s.pwr.onSeq) : t.railsLit = s.railsLit := by
  unfold State.railsLit
  rw [hr, ho]

/-- A start that fails leaves power and the job alone, and the fault output low. -/
theorem State.failStart_leaves (s : State) : s.failStart.pwr = s.pwr ∧ s.failStart.job = s.job ∧ (s.pins.faultLow = true → s.failStart.pins.faultLow = true) := by
  cases h : s.quince.start with
  | none =>
    have same : s.failStart = s := by
      unfold State.failStart
      rw [h]
    rw [same]
    exact ⟨rfl, rfl, id⟩
  | some st =>
    obtain ⟨-, -, low⟩ := s.failStart_failed st h
    refine ⟨?_, ?_, low⟩
    · unfold State.failStart
      rw [h]
      dsimp only
      rw [State.when_keeps State.pwr _ _ _ rfl, State.upHost_pwr, State.upQuince_pwr]
      rfl
    · unfold State.failStart
      rw [h]
      dsimp only
      rw [State.when_keeps State.job _ _ _ rfl, State.upHost_job, State.upQuince_job]
      rfl

/-- A long operation that is cut short leaves power, the job and the pins alone. -/
theorem State.cutLong_leaves (s : State) : s.cutLong.pwr = s.pwr ∧ s.cutLong.job = s.job ∧ s.cutLong.pins = s.pins := by
  unfold State.cutLong
  split
  · exact ⟨rfl, rfl, rfl⟩
  · next op _ _ =>
    cases op with
    | rkt => exact ⟨rfl, rfl, rfl⟩
    | lifecycle l => exact ⟨rfl, rfl, rfl⟩
    | sanitise => exact ⟨rfl, rfl, rfl⟩
    | firmware b => exact ⟨rfl, rfl, rfl⟩
    | format => exact ⟨rfl, rfl, rfl⟩

/-- The state of a trip whose job, start and long operation have ended. -/
def State.tripped (s : State) : State :=
  let u := (((s.assertFault .trip).logFault fkTrip).raiseIbi).leaveJobs true
  (u.when u.quince.start.isSome State.failStart).cutLong

theorem State.tripped_trips (s : State) : s.tripped.inJob = false ∧ s.tripped.pins.faultLow = true ∧ s.tripped.railsLit = s.railsLit := by
  obtain ⟨u, hu⟩ : ∃ u, ((s.assertFault .trip).logFault fkTrip).raiseIbi = u := ⟨_, rfl⟩
  have low : u.pins.faultLow = true := hu ▸ rfl
  have power : u.pwr = s.pwr := hu ▸ rfl
  have ended := u.leaveJobs_inJob true
  have pins : (u.leaveJobs true).pins = u.pins := blindToJob_pins.leaveJobs u true
  obtain ⟨rails, -, -, -, seq⟩ := u.leaveJobs_power true
  unfold State.tripped
  rw [hu]
  generalize u.leaveJobs true = v at *
  dsimp only
  obtain ⟨power', job', low'⟩ : (v.when v.quince.start.isSome State.failStart).pwr = v.pwr ∧ (v.when v.quince.start.isSome State.failStart).job = v.job ∧
      (v.pins.faultLow = true → (v.when v.quince.start.isSome State.failStart).pins.faultLow = true) := by
    cases v.quince.start.isSome
    · exact ⟨rfl, rfl, id⟩
    · exact v.failStart_leaves
  generalize v.when v.quince.start.isSome State.failStart = w at *
  obtain ⟨power'', job'', pins''⟩ := w.cutLong_leaves
  refine ⟨?_, ?_, ?_⟩
  · unfold State.inJob at ended ⊢
    rw [job'', job']
    exact ended
  · rw [pins'']
    exact low' (pins ▸ low)
  · exact State.railsLit_congr (by rw [power'', power', rails, power]) (by rw [power'', power', seq, power])

/-- A sensor at its T_TRIP ends in STANDBY with FAULT# low: clause 6 of O46. -/
theorem thermalTrip_trips {x : Sensor} {temp : Nat} {s : State} (h : tripOf x ≤ temp) (hq : s.quince.running = true) :
    ∃ t, exec (.thermalTrip x temp) s = .next t ∧
    t.pwr.st = .standby ∧ t.pins.faultLow = true ∧ (s.railsLit = true → t.pwr.offSeq = offOrder none ∧ t.pwr.onSeq = []) ∧ t.inJob = false ∧ t.tiers.stackMem = [] ∧
    (∀ p : Fin 32, t.fab.ports[p].departSent = false) ∧ (∀ c : Fin 64, t.clusters[c].running = false) := by
  have trips : (decide (temp ≥ tripOf x) && (s.noteTemp x temp).quince.running) = true := by
    rw [decide_eq_true h]
    exact hq
  have run : exec (.thermalTrip x temp) s = .next (State.upFab (State.standby ((s.noteTemp x temp).tripped.when (s.noteTemp x temp).tripped.railsLit fun s =>
      s.requestOff none true)) fun b => { b with ports := b.ports.map fun q => { q with departSent := false } }) := if_pos trips
  obtain ⟨ended, low, lit⟩ := (s.noteTemp x temp).tripped_trips
  have lit' : (s.noteTemp x temp).railsLit = s.railsLit := rfl
  rw [lit, lit'] at run
  generalize (s.noteTemp x temp).tripped = u at *
  obtain ⟨low', off⟩ : (u.when s.railsLit fun s => s.requestOff none true).pins.faultLow = true ∧ (s.railsLit = true →
      (u.when s.railsLit fun s => s.requestOff none true).pwr.offSeq = offOrder none ∧ (u.when s.railsLit fun s => s.requestOff none true).pwr.onSeq = []) := by
    cases s.railsLit
    · exact ⟨low, fun no => absurd no Bool.false_ne_true⟩
    · obtain ⟨low', seq, -, on, -⟩ := u.requestOff_off none true
      exact ⟨low'.trans low, fun _ => ⟨seq, on⟩⟩
  have ended' : (u.when s.railsLit fun s => s.requestOff none true).inJob = false := (State.when_keeps State.inJob u _ _ rfl).trans ended
  generalize (u.when s.railsLit fun s => s.requestOff none true) = w at *
  obtain ⟨st, -, -, offs, ons⟩ := w.standby_power
  obtain ⟨mem, -, -, still⟩ := w.standby_loses
  obtain ⟨-, fault, -, job, -⟩ := w.standby_leaves
  refine ⟨_, run, st, fault.trans low', fun on => ?_, job.trans ended', mem, fun p => ?_, still⟩
  · obtain ⟨seq, none⟩ := off on
    exact ⟨offs.trans seq, ons.trans none⟩
  · exact congrArg Port.departSent (Vector.getElem_map ..)

end Sys2Proof.Machine
end

section
/-! PROOFS. The ends of the transitions between power states (R433 to R437). -/
namespace Sys2Proof.Machine

/-! ### What a completion leaves of the link -/

theorem HostIf.flush_linkUp (r : Fin 64) (now : DWord) (n : Nat) (h : HostIf) : (HostIf.flush r now n h).linkUp = h.linkUp := by
  induction n generalizing h with
  | zero => rfl
  | succ n ih =>
    unfold HostIf.flush
    dsimp only
    split
    · rfl
    · split
      · rfl
      · exact (ih _).trans (HostIf.writeCompletion_linkUp ..)

theorem HostIf.settle_linkUp (r : Fin 64) (now : DWord) (n : Nat) (h : HostIf) : (HostIf.settle r now n h).linkUp = h.linkUp := by
  induction n generalizing h with
  | zero => rfl
  | succ n ih =>
    unfold HostIf.settle
    dsimp only
    split
    · rfl
    · split
      · rfl
      · exact (ih _).trans (HostIf.flush_linkUp ..)

theorem State.complete_linkUp (s : State) (r : Fin 64) (index : DWord) (status detail : Nat) (result : DWord) :
    (s.complete r index status detail result).host.linkUp = s.host.linkUp :=
  (HostIf.settle_linkUp ..).trans (HostIf.flush_linkUp ..)

/-! ### The end of a transition -/

/-- A transition that ends tells whoever asked; beside that it is no longer asked for. -/
theorem State.transitionDone_ends (s : State) : ∃ a h q, s.transitionDone =
    { s with pwr := { s.pwr with goal := none, asker := a }, host := h, quince := q } ∧ h.linkUp = s.host.linkUp := by
  unfold State.transitionDone
  split
  · exact ⟨s.pwr.asker, s.host, s.quince, rfl, rfl⟩
  · next asker index _ =>
    cases asker with
    | ring r => exact ⟨none, _, s.quince, rfl, State.complete_linkUp ..⟩
    | mctp => exact ⟨none, s.host, _, rfl, rfl⟩
    | mailbox => exact ⟨none, s.host, s.quince, rfl, rfl⟩

/-- Parking ends with every clock stopped and VCORE at 0.40 V: clause 9 of O46. -/
theorem parkDone_parks {s : State} (hg : s.pwr.goal = some .parked) (hl : s.stubsLive = false) :
    ∃ t, exec .parkDone s = .next t ∧ t.pwr.st = .parked ∧ t.pwr.goal = none ∧
    (∀ c : Fin 64, t.clusters[c].running = false ∧ t.clusters[c].cycles = s.clusters[c].cycles) ∧
    (∀ i : Fin 8, i.val < 4 → t.pwr.rails[i].target = 800) ∧ t = { s with clusters := t.clusters, pwr := t.pwr, host := t.host, quince := t.quince } := by
  have run : exec .parkDone s = .next (State.transitionDone { s with
      clusters := s.clusters.map Cluster.stopClock
      pwr := { s.pwr with
        st := .parked
        rails := s.pwr.rails.mapFinIdx fun i r _ => if i < 4 then { r with target := 800, wantTarget := 800, pending := false } else r } }) := by
    change execParkDone s = _
    unfold execParkDone
    rw [hg, hl]
    rfl
  obtain ⟨a, h, q, eq, -⟩ := State.transitionDone_ends { s with
      clusters := s.clusters.map Cluster.stopClock
      pwr := { s.pwr with
        st := .parked
        rails := s.pwr.rails.mapFinIdx fun i r _ => if i < 4 then { r with target := 800, wantTarget := 800, pending := false } else r } }
  have stopped : ∀ c : Fin 64, (s.clusters.map Cluster.stopClock)[c] = s.clusters[c].stopClock := fun c => Vector.getElem_map ..
  rw [eq] at run
  refine ⟨_, run, rfl, rfl, fun c => ⟨congrArg Cluster.running (stopped c), (congrArg Cluster.cycles (stopped c)).trans rfl⟩, fun i hi => ?_, rfl⟩
  exact (congrArg Rail.target (Vector.getElem_mapFinIdx ..)).trans (congrArg Rail.target (if_pos hi))

/-- STANDBY is entered once the last rail is off: clause 17 of O46. -/
theorem standbyEntry_done {s : State} (hg : s.pwr.goal = some .standby) (hl : s.stubsLive = false) (ho : s.pwr.offSeq = []) :
    ∃ t, exec .standbyEntryDone s = .next t ∧ t.pwr.st = .standby ∧ t.pwr.goal = none ∧
    t.tiers.stackMem = [] ∧ t.host.linkUp = false ∧ t.time.wdArmed = false ∧ t.pwr.rails = s.pwr.rails ∧ t.now = (s.advanceTo s.pwr.offAt).now ∧
    (∀ c : Fin 64, t.clusters[c].running = false) ∧ t.fab.portEn = s.fab.portEn ∧ t.pins.pwrGood = !s.pins.goodHeld := by
  have run : exec .standbyEntryDone s = .next ((s.advanceTo s.pwr.offAt).transitionDone.standby.upPins fun p => { p with pwrGood := !p.goodHeld }) := by
    change execStandbyEntryDone s = _
    unfold execStandbyEntryDone
    rw [hg, hl, ho]
    rfl
  obtain ⟨a, h, q, eq, -⟩ := (s.advanceTo s.pwr.offAt).transitionDone_ends
  obtain ⟨u, hu⟩ : ∃ u, (s.advanceTo s.pwr.offAt).transitionDone = u := ⟨_, rfl⟩
  have rails : u.pwr.rails = s.pwr.rails := by rw [← hu, eq]; rfl
  have now : u.now = (s.advanceTo s.pwr.offAt).now := by rw [← hu, eq]; rfl
  have held : u.pins.goodHeld = s.pins.goodHeld := by rw [← hu, eq]; rfl
  have enabled : u.fab.portEn = s.fab.portEn := by rw [← hu, eq]; rfl
  obtain ⟨st, goal, rails', -, -⟩ := u.standby_power
  obtain ⟨mem, link, armed, still⟩ := u.standby_loses
  obtain ⟨now', -, held', -, enabled'⟩ := u.standby_leaves
  rw [hu] at run
  exact ⟨_, run, st, goal, mem, link, armed, rails'.trans rails, now'.trans now, still, enabled'.trans enabled, congrArg not (held'.trans held)⟩

/-! ### Out of PARKED -/

/-- A region whose run keeps its length although the counts of the clusters begin anew. -/
def RegionS.keepRun (v : Vector Cluster 64) (g : RegionS) : RegionS :=
  match g.cluster with
  | some c => { g with startCycle := g.startCycle - v[c].cycles }
  | none => g

theorem RegionS.keepRun_cluster (v : Vector Cluster 64) (g : RegionS) : (g.keepRun v).cluster = g.cluster := by
  unfold RegionS.keepRun
  split
  · rfl
  · rfl

theorem State.keepRunTimes_eq (s : State) : s.keepRunTimes = s.upRt fun t => { t with regions := t.regions.map (RegionS.keepRun s.clusters) } := rfl

/-- A run that goes on keeps its place, so that the same regions stand on a cluster. -/
theorem State.keepRunTimes_regionsOn (s : State) (c : Fin 64) : s.keepRunTimes.regionsOn c = s.regionsOn c := by
  have place : ∀ i, ((s.rt.regions.map (RegionS.keepRun s.clusters))[i]?.bind RegionS.cluster) = s.rt.regions[i]?.bind RegionS.cluster := fun i => by
    rw [List.getElem?_map]
    cases s.rt.regions[i]? with
    | none => rfl
    | some g => exact RegionS.keepRun_cluster s.clusters g
  rw [State.keepRunTimes_eq]
  unfold State.regionsOn State.upRt
  dsimp only
  rw [List.length_map]
  refine List.filter_congr fun i _ => ?_
  rw [place]
  rfl

/-- Starts the clock of a cluster at 500 MHz, where a region stands on it. -/
def State.clockOn (s : State) (c : Fin 64) : State :=
  s.when (!(s.regionsOn c).isEmpty) fun s =>
    let fuse := s.fuseMHz c
    s.upCluster c fun k => { k.startClock.paced (periodOf 500) k.trimFs fuse with setMHz := 500, stepTo := none, stepHeld := false }

/-- What a started clock shows: it runs at 500 MHz, and its count begins anew. -/
def Cluster.fresh500 (k : Cluster) : Prop := k.running = true ∧ k.periodFs = periodOf 500 ∧ k.cycles = 0

theorem State.clockOn_keeps (s : State) (c : Fin 64) : ∃ v, s.clockOn c = { s with clusters := v } ∧ (∀ o : Fin 64, o ≠ c → v[o] = s.clusters[o]) ∧
    (s.regionsOn c ≠ [] → v[c].fresh500) := by
  unfold State.clockOn
  cases h : (s.regionsOn c).isEmpty with
  | true => exact ⟨s.clusters, rfl, fun _ _ => rfl, fun some => absurd (List.isEmpty_iff.mp h) some⟩
  | false =>
    refine ⟨_, rfl, fun o ho => updV_ne _ _ ho, fun _ => ?_⟩
    rw [updV_at]
    exact ⟨rfl, rfl, rfl⟩

theorem foldl_clockOn_eq {l : List (Fin 64)} (hl : l.Nodup) (s : State) : ∃ v, l.foldl State.clockOn s = { s with clusters := v } ∧
    (∀ o : Fin 64, o ∉ l → v[o] = s.clusters[o]) ∧ ∀ c ∈ l, s.regionsOn c ≠ [] → v[c].fresh500 := by
  induction l generalizing s with
  | nil => exact ⟨s.clusters, rfl, fun _ _ => rfl, fun _ hc => absurd hc List.not_mem_nil⟩
  | cons a l ih =>
    obtain ⟨new, rest⟩ := List.nodup_cons.mp hl
    obtain ⟨w, one, others, started⟩ := s.clockOn_keeps a
    obtain ⟨v, eq, outside, inside⟩ := ih rest { s with clusters := w }
    refine ⟨v, ?_, fun o ho => ?_, fun c hc some => ?_⟩
    · rw [List.foldl_cons, one, eq]
    · exact (outside o fun m => ho (List.mem_cons_of_mem a m)).trans (others o fun e => ho (e ▸ List.mem_cons_self))
    · rcases List.mem_cons.mp hc with rfl | hc
      · exact (outside c new) ▸ started some
      · exact inside c hc some

/-- Out of PARKED the bound clusters run again at 500 MHz: clause 12 of O46. -/
theorem unpark_done {s : State} (hs : s.pwr.st = .parked) (hg : s.pwr.goal = some .active) : ∃ t, exec .unparkDone s = .next t ∧ t.pwr.st = .active ∧
    t.pwr.goal = none ∧ ∀ c : Fin 64, s.regionsOn c ≠ [] → t.clusters[c].running = true ∧ t.clusters[c].periodFs = periodOf 500 ∧ t.clusters[c].cycles = 0 := by
  obtain ⟨u, hu⟩ : ∃ u, (s.upPwr fun p => { p with st := .active, ceilAt := s.now }).keepRunTimes = u := ⟨_, rfl⟩
  have active : u.pwr.st = .active := hu ▸ rfl
  have regions : ∀ c, u.regionsOn c = s.regionsOn c := fun c => hu ▸ State.keepRunTimes_regionsOn _ c
  have run : exec .unparkDone s = .next (((List.finRange 64).foldl State.clockOn u).transitionDone.ceilingStep.refreq) := by
    change execUnparkDone s = _
    unfold execUnparkDone
    rw [hs, hg]
    exact hu ▸ if_pos rfl
  obtain ⟨v, clocked, -, started⟩ := foldl_clockOn_eq (List.nodup_finRange 64) u
  obtain ⟨a, h, q, done, -⟩ := State.transitionDone_ends { u with clusters := v }
  obtain ⟨p, hp, stepped⟩ := State.ceilingStep_plan { u with clusters := v, pwr := { u.pwr with goal := none, asker := a }, host := h, quince := q }
  rw [clocked, done, stepped] at run
  have st : p.st = .active := ((congrArg Power.st hp).trans rfl).trans active
  have goal : p.goal = none := (congrArg Power.goal hp).trans rfl
  obtain ⟨w, hw⟩ : ∃ w, { u with clusters := v, pwr := p, host := h, quince := q } = w := ⟨_, rfl⟩
  have clusters : w.clusters = v := hw ▸ rfl
  obtain ⟨v', r', tuned⟩ := w.refreq_refreqs
  rw [hw] at run
  refine ⟨_, run, ?_, ?_, fun c hc => ?_⟩
  · rw [tuned, ← hw]
    exact st
  · rw [tuned, ← hw]
    exact goal
  · obtain ⟨on, period, count⟩ := started c (List.mem_finRange c) (regions c ▸ hc)
    rw [← clusters] at on period count
    exact ⟨(State.refreq_cluster Cluster.running (fun _ _ _ => rfl) w c).trans on,
      (State.refreq_cluster Cluster.periodFs (fun _ _ _ => rfl) w c).trans period, (State.refreq_cluster Cluster.cycles (fun _ _ _ => rfl) w c).trans count⟩

/-! ### Out of STANDBY -/

/-- The state that leaves STANDBY, before whoever asked is told. -/
def State.awake (s : State) : State :=
  let s := (s.advanceTo s.pwr.onAt).upPwr fun p => { p with dies := Vector.replicate 4 .reset }
  let s := s.upTiers fun t => { t with stackMem := [], wipeStk := true, wipeCell := true, ceTotal := 0, ueTotal := 0 }
  let s : State := { s.clearTelemetry with cells := s.cells.map fun c => { c with store := [], marks := [] } }
  let s := s.upSec fun c => { c with imageFault := false, flashSkipped := false, departAdvice := 0 }
  let s := s.trainStacks
  let s := s.upFab fun b => { b with ports := b.ports.map fun q => { q with lost := false } }
  let s := s.upHost fun h => { h with linkUp := true, rings := Vector.replicate 64 .reset }
  let s := s.upPwr fun p => { p with st := .active, pinCode := s.pins.envCode, ceilNow := 250, ceilAt := s.now, fMod := 0x1F4, msgSeq := p.msgSeq }
  s.bringUpPorts

theorem State.bringUpPorts_lost (s : State) (p : Fin 32) : s.bringUpPorts.fab.ports[p].lost = s.fab.ports[p].lost := by
  refine (congrArg Port.lost (Vector.getElem_mapFinIdx ..)).trans ?_
  split
  · rfl
  · rfl

theorem State.awake_wakes (s : State) : s.awake.pwr.st = .active ∧ s.awake.pwr.pinCode = s.pins.envCode ∧ s.awake.host.linkUp = true ∧
    s.awake.tiers.wipeStk = true ∧ s.awake.sec.departAdvice = 0 := ⟨rfl, rfl, rfl, rfl, rfl⟩

theorem State.awake_clears (s : State) : (∀ p : Fin 32, s.awake.fab.ports[p].lost = false) ∧ ∀ c : Fin 1024, s.awake.cells[c].store = [] :=
  ⟨fun _ => (State.bringUpPorts_lost ..).trans (congrArg Port.lost (Vector.getElem_map ..)), fun _ => congrArg CellS.store (Vector.getElem_map ..)⟩

/-- STANDBY ends with the link up and the device ready: clause 18 of O46. -/
theorem standbyExit_done {s : State} (hs : s.pwr.st = .standby) (hg : s.pwr.goal = some .active) (ho : s.pwr.onSeq = []) :
    ∃ t, exec .standbyExitDone s = .next t ∧ t.pwr.st = .active ∧ t.pwr.goal = none ∧
    t.host.deviceReady = true ∧ t.host.linkUp = true ∧ t.tiers.wipeStk = true ∧ t.pwr.pinCode = s.pins.envCode ∧
    t.sec.departAdvice = 0 ∧ (∀ p : Fin 32, t.fab.ports[p].lost = false) ∧ (∀ c : Fin 1024, t.cells[c].store = []) := by
  have run : exec .standbyExitDone s = .next (s.awake.transitionDone.deviceReady 3) := by
    change execStandbyExitDone s = _
    unfold execStandbyExitDone
    rw [hs, hg, ho]
    exact if_pos rfl
  obtain ⟨st, code, link, wiped, advice⟩ := s.awake_wakes
  obtain ⟨found, cleared⟩ := s.awake_clears
  generalize s.awake = u at *
  obtain ⟨a, h, q, done, up⟩ := u.transitionDone_ends
  rw [done] at run
  refine ⟨_, run, st, rfl, (HostIf.sendVector_ready ..).1, (HostIf.sendVector_linkUp ..).trans (up.trans link), wiped, code, advice, found, cleared⟩

end Sys2Proof.Machine
end

section
/-! PROOFS. Requests for a power state (R434 to R437), and the thermal limits and power states together (O46). -/
namespace Sys2Proof.Machine

/-! ### A request that is taken up -/

/-- A request that is asked runs on a state in which its descriptor, if it has one, has begun. -/
theorem State.askPower_asks {s : State} {a : Asker} {code : Nat} (h : Asks s a code) : ∃ b,
    (∀ f, s.askPower a code f = f (s.askIndex a) { s with host := b }) ∧ (∀ q : Fin 64, b.rings[q].jobId = s.host.rings[q].jobId) ∧ (a = .mctp → b = s.host) := by
  cases a with
  | ring r =>
    obtain ⟨hr, hfree, d, hd, hop, hcode⟩ := h
    have begins : Begins s r 0x02 d := ⟨hd, hop, .inr hfree⟩
    have index : s.askIndex (.ring r) = d.index := by
      unfold State.askIndex
      dsimp only
      rw [hd]
      rfl
    refine ⟨(s.begun r d).host, fun f => ?_, fun q => updV_keeps Ring.jobId _ _ _ _ fun _ => rfl, nofun⟩
    unfold State.askPower
    dsimp only
    rw [hd, index]
    dsimp only
    rw [decide_eq_true hr, decide_eq_true hcode]
    exact (if_pos rfl).trans (State.beginDesc_begins begins _)
  | mctp =>
    obtain ⟨hserves, hfree⟩ := h
    refine ⟨s.host, fun f => ?_, fun _ => rfl, fun _ => rfl⟩
    unfold State.askPower
    dsimp only
    rw [hserves, hfree]
    rfl
  | mailbox => exact h.elim

theorem State.askPower_unserved {s : State} (h : s.quinceServes = false) (code : Nat) (f : DWord → State → State) : s.askPower .mctp code f = s := by
  unfold State.askPower
  dsimp only
  rw [h]
  rfl

/-- Moves that are given up leave power alone. -/
theorem State.abortMoves_pwr (s : State) : s.abortMoves.pwr = s.pwr := by
  have copyOver : ∀ (t : State) o, (t.copyOver o).pwr = t.pwr := fun t o => by
    unfold State.copyOver
    dsimp only
    split
    · rfl
    · exact foldl_keeps State.pwr _ (fun t _ => State.upMover_pwr t _) _ t
  have askMove : ∀ (t : State) obj cause, (t.askMove obj cause).pwr = t.pwr := fun t obj cause => by
    unfold State.askMove
    split
    · rfl
    · rfl
  have abortOne : ∀ (t : State) o, (t.abortOne o).pwr = t.pwr := fun t o => by
    unfold State.abortOne
    split
    · rfl
    · split
      · rfl
      · exact foldl_keeps State.pwr _ (fun t a => State.applyArr_keeps State.pwr (fun _ _ _ _ => rfl) (fun _ _ => rfl) (fun _ _ => rfl) t _ _ a) _ t
  refine foldl_keeps State.pwr _ (fun t o => ?_) _ s
  unfold State.abortMove
  split
  · rfl
  · split
    · rfl
    · dsimp only
      split
      · rfl
      · refine (copyOver ..).trans ((State.when_keeps State.pwr _ _ _ ?_).trans ?_)
        · exact askMove ..
        · exact foldl_keeps State.pwr _ abortOne _ t

/-! ### PARKED -/

/-- A step runs, at whose boundary a request to park is met. -/
def State.stepRuns (s : State) : Bool := decide (s.job.phase = .formed) && decide (s.job.stage ≠ .idle)

section
variable {s : State} {a : Asker}

/-- A request to park waits for the boundary of a step that runs: clause 7 of O46. -/
theorem enterParked_asked (h : Asks s a 1) (hb : s.powerBusy = false) (hs : s.pwr.st = .active) : ∃ t, exec (.enterParked a) s = .next t ∧
    (s.job.phase = .formed ∧ s.job.stage ≠ .idle → t.pwr.parkWait = true ∧ t.pwr.goal = none) ∧
    (s.job.phase ≠ .formed ∨ s.job.stage = .idle → t.pwr.parkWait = false ∧ t.pwr.goal = some .parked) ∧ t.pwr.st = .active ∧
    t.pwr.asker = some (a, s.askIndex a) := by
  obtain ⟨b, asked, -, -⟩ := State.askPower_asks h
  have run : exec (.enterParked a) s = .next ({ s with host := b }.abortMoves.upPwr fun p =>
      { p with
        asker := some (a, s.askIndex a), parkWait := s.stepRuns, goal := if s.stepRuns then none else some .parked }) := by
    refine congrArg Host.Outcome.next ((asked _).trans ?_)
    have free : (State.powerBusy { s with host := b } || decide (s.pwr.st = .standby)) = false := by
      rw [show State.powerBusy { s with host := b } = false from hb, decide_eq_false (show ¬ s.pwr.st = .standby by rw [hs]; exact PowerSt.noConfusion)]
      rfl
    exact (if_neg (ne_true_of_eq_false free)).trans (if_neg (show ¬ s.pwr.st = .parked by rw [hs]; exact PowerSt.noConfusion))
  refine ⟨_, run, fun hw => ?_, fun hw => ?_, ?_, rfl⟩
  · have wait : s.stepRuns = true := by
      unfold State.stepRuns
      rw [decide_eq_true hw.1, decide_eq_true hw.2]
      rfl
    exact ⟨wait, if_pos wait⟩
  · have none : s.stepRuns = false := by
      unfold State.stepRuns
      rcases hw with hw | hw
      · rw [decide_eq_false hw, Bool.false_and]
      · rw [decide_eq_false (not_not_intro hw), Bool.and_false]
    exact ⟨none, if_neg (ne_true_of_eq_false none)⟩
  · exact (congrArg Power.st (State.abortMoves_pwr _)).trans hs

/-- A request of the board in a transition is refused: clause 8 of O46. -/
theorem enterParked_refused (h : Asks s .mctp 1) (hb : s.powerBusy = true) : exec (.enterParked .mctp) s = .next (s.mctp (.done stBusy 0x1B)) := by
  obtain ⟨b, asked, -, same⟩ := State.askPower_asks h
  have host : b = s.host := same rfl
  subst host
  refine congrArg Host.Outcome.next ((asked _).trans (if_pos ?_))
  rw [show State.powerBusy { s with host := s.host } = true from hb]
  rfl

/-- Nothing is entered while a stub is in place: clause 10 of O46. -/
theorem parkDone_waits (h : s.stubsLive = true) : exec .parkDone s = .next s := by
  refine if_neg ?_
  rw [h]
  exact fun no => Bool.false_ne_true ((Bool.and_false _).symm.trans no)

theorem standbyEntry_waits (h : s.stubsLive = true ∨ s.pwr.offSeq ≠ []) : exec .standbyEntryDone s = .next s := by
  refine if_neg fun all => ?_
  obtain ⟨front, off⟩ := Bool.and_eq_true_iff.mp all
  obtain ⟨-, stubs⟩ := Bool.and_eq_true_iff.mp front
  rcases h with h | h
  · rw [h] at stubs
    exact Bool.false_ne_true stubs
  · exact h (List.isEmpty_iff.mp off)

theorem standbyExit_waits (h : s.pwr.onSeq ≠ []) : exec .standbyExitDone s = .next s := by
  refine if_neg fun all => ?_
  obtain ⟨-, on⟩ := Bool.and_eq_true_iff.mp all
  exact h (List.isEmpty_iff.mp on)

/-- A request to return is taken up: clause 11 of O46. -/
theorem returnActive_asked (h : Asks s a 0) (hb : s.powerBusy = false) (hs : s.pwr.st ≠ .active) : ∃ t, exec (.returnActive a) s = .next t ∧
    t.pwr.goal = some .active ∧ t.pwr.asker = some (a, s.askIndex a) ∧ t = { s with pwr := t.pwr, host := t.host } := by
  obtain ⟨b, asked, -, -⟩ := State.askPower_asks h
  obtain ⟨p, run⟩ : ∃ p : Power, exec (.returnActive a) s = .next { s with
      host := b, pwr := { p with asker := some (a, s.askIndex a), goal := some .active } } := by
    have taken : exec (.returnActive a) s = .next ((State.when { s with host := b } (decide (s.pwr.st = .standby)) fun s => s.upPwr fun p =>
        { p with onSeq := onOrder, onAt := s.now, busFault := false, nakCount := 0 }).upPwr fun p =>
        { p with asker := some (a, s.askIndex a), goal := some .active }) := by
      refine congrArg Host.Outcome.next ((asked _).trans ?_)
      exact (if_neg (ne_true_of_eq_false hb)).trans (if_neg hs)
    generalize decide (s.pwr.st = .standby) = off at taken
    cases off
    · exact ⟨s.pwr, taken⟩
    · exact ⟨_, taken⟩
  exact ⟨_, run, rfl, rfl, rfl⟩

/-! ### STANDBY -/

/-- A request for STANDBY outside jobs disarms the watchdog, takes the ports down and the rails off: clause 13 of O46. -/
theorem enterStandby_asked (h : Asks s a 2) (hb : s.powerBusy = false) (hs : s.pwr.st ≠ .standby) (hj : s.inJob = false)
    (hr : ∀ r : Fin 64, s.host.rings[r].jobId = none) :
    ∃ t, exec (.enterStandby a) s = .next t ∧ t.pwr.goal = some .standby ∧ t.time.wdArmed = false ∧ t.pwr.st = s.pwr.st ∧
      (∀ p : Fin 32, t.fab.ports[p].st = .dark ∨ t.fab.ports[p].st = .disabled) ∧ t.pwr.offSeq = offOrder none ∧
      t.pwr.asker = some (a, s.askIndex a) := by
  obtain ⟨b, asked, ids, -⟩ := State.askPower_asks h
  have bound : (b.rings.toList.any fun g => g.jobId.isSome) = false := by
    refine List.any_eq_false.mpr fun g hg => ?_
    obtain ⟨i, hi, rfl⟩ := List.mem_iff_getElem.mp hg
    rw [Vector.length_toList] at hi
    have none : b.rings[i].jobId = .none := (ids ⟨i, hi⟩).trans (hr ⟨i, hi⟩)
    rw [Vector.getElem_toList, none]
    exact Bool.false_ne_true
  have run : exec (.enterStandby a) s = .next ((((({ s with host := b }.abortMoves.upTime fun t => { t with wdArmed := false, quinceTimer := false }).departPorts
      .dark).requestOff none false).upPwr fun p => { p with asker := some (a, s.askIndex a), goal := some .standby })) := by
    refine congrArg Host.Outcome.next ((asked _).trans ?_)
    have free : (State.powerBusy { s with host := b } || State.inJob { s with host := b } || (b.rings.toList.any fun g => g.jobId.isSome)) = false := by
      rw [show State.powerBusy { s with host := b } = false from hb, show State.inJob { s with host := b } = false from hj, bound]
      rfl
    exact (if_neg (ne_true_of_eq_false free)).trans (if_neg hs)
  have power : { s with host := b }.abortMoves.pwr = s.pwr := State.abortMoves_pwr _
  generalize { s with host := b }.abortMoves = u at *
  refine ⟨_, run, rfl, rfl, ?_, fun p => ?_, rfl, rfl⟩
  · change u.pwr.st = s.pwr.st
    rw [power]
  · have port := State.departPorts_ports (u.upTime fun t => { t with wdArmed := false, quinceTimer := false }) .dark p
    have st := congrArg Port.st port
    by_cases off : u.fab.ports[p].st = .disabled
    · exact .inr (st.trans (if_pos off))
    · exact .inl (st.trans (if_neg off))

/-- A request of the board for STANDBY in a job is refused: clause 14 of O46. -/
theorem enterStandby_refused (h : Asks s .mctp 2) (hj : s.inJob = true) : exec (.enterStandby .mctp) s = .next (s.mctp (.done stBusy 0x1B)) := by
  obtain ⟨b, asked, -, same⟩ := State.askPower_asks h
  have host : b = s.host := same rfl
  subst host
  refine congrArg Host.Outcome.next ((asked _).trans (if_pos ?_))
  rw [show State.inJob { s with host := s.host } = true from hj, Bool.or_true, Bool.true_or]

end

/-- Settles O46: the thermal limits, the requests for a power state, and the ends of the transitions. -/
theorem thermalLimitsAndPowerStates : Obligations.ThermalLimitsAndPowerStates := by
  refine ⟨fun x temp draw s h hw => thermalSoft_sets draw h hw, fun c s hc h => thermalCeiling_falls hc h, fun c s hc h hl => thermalCeiling_rises hc h hl,
    fun x temp s h hn => thermalHard_throttles h hn, fun x temp s h hn => thermalHardRelease_releases h hn, fun x temp s h hq => thermalTrip_trips h hq,
    fun a s h hb hs => enterParked_asked h hb hs, fun s h hb => enterParked_refused h hb, fun s hg hl => parkDone_parks hg hl,
    fun s h => ⟨parkDone_waits h, standbyEntry_waits (.inl h)⟩, fun a s h hb hs => returnActive_asked h hb hs, fun s hs hg => unpark_done hs hg,
    fun a s h hb hs hj hr => enterStandby_asked h hb hs hj hr, fun s h hj => enterStandby_refused h hj, ?_,
    fun s => ⟨fun h => standbyEntry_waits (.inr h), standbyExit_waits⟩, fun s hg hl ho => standbyEntry_done hg hl ho,
    fun s hs hg ho => standbyExit_done hs hg ho⟩
  rintro a s rfl h
  exact ⟨congrArg Host.Outcome.next (State.askPower_unserved h 1 _), congrArg Host.Outcome.next (State.askPower_unserved h 2 _),
    congrArg Host.Outcome.next (State.askPower_unserved h 0 _)⟩

end Sys2Proof.Machine
end
